-- ==== Sys2Proof/Word.lean ====
section
/-! DEFINITION. Word types of the DW-80 and their plainest arithmetic. -/

namespace Sys2Proof

abbrev Byte := BitVec 8
abbrev W16 := BitVec 16
abbrev W32 := BitVec 32
abbrev W64 := BitVec 64

/-- The contents of a vector register (R13, R148). -/
abbrev W512 := BitVec 512

/-- The contents of a hypervector register or a recall entry (R201, R213). -/
abbrev W8192 := BitVec 8192

end Sys2Proof
end

