-- ==== Sys2Proof/Config.lean ====
section
/-! DEFINITION. What one module fixes and the manual leaves open: opaque constants without a body, so that nothing
can be proved of their values. Each is named in the assumption log. -/

namespace Sys2Proof.Config

opaque endStubLow : BitVec 46
opaque runtimePtrLow : BitVec 48
opaque runtimeVectorLow : BitVec 45
/-- Address of the runtime's end stub, which x1 names at start: a word of the runtime region (R38, R449), otherwise a free
value (log 5). -/
def endStub : W64 := 0x00FF#16 ++ endStubLow ++ 0#2
/-- The runtime pointer x4 at start, an address of the runtime region (R38, R449); otherwise a free value (log 5). -/
def runtimePtr : W64 := 0x00FF#16 ++ runtimePtrLow
/-- The runtime vector that `tvec` holds at start, 8-aligned (R28, R38), in the runtime region (R449); otherwise a free
value (log 5). -/
def runtimeVector : W64 := 0x00FF#16 ++ runtimeVectorLow ++ 0#3
/-- Pages of the runtime region that the runtime maps with U = 0 beyond those the manual names, by number: R, W and X (R449);
free values (log 5). -/
opaque runtimePage : Nat → Option (Bool × Bool × Bool)
/-- Where the firmware area holds a page of the runtime region (R426, R449); free value (log 5). -/
opaque runtimeFrame : Nat → Nat
/-- Index of the entry that a full translation cache gives up (R333 names no replacement); free value (log 8). -/
opaque tlbVictim : Nat → Nat
/-- Partition id of the n-th partition of function v (R421); free values (log 13). -/
opaque partitionId : Nat → Nat → W64
/-- Signatures of the security controller and the metering block (R420, R421); free values (log 14). -/
opaque signature : Nat → BitVec 4096
/-- The encryption of a rim byte under a key slot is invisible to an access through the same slot (R424);
what another slot reads is a free value (log 14). -/
opaque underOtherKey : Nat → Nat → Byte
/-- A cycle count of a step whose duration the manual calls not architectural (R448); free value (log 3). -/
opaque runtimeCycles : Nat → Nat
/-- What the tile runtime puts into the machine CSRs of a helper core at launch (R337), and the core's identity CSRs, by CSR
number; free values (log 12). -/
opaque helperCsr : Nat → W64
/-- Whether the regions of a launch fit into the partition's rim share (R426), whose size the manual leaves to the firmware;
free value (log 13). -/
opaque regionsFit : Nat → Bool
/-- Clusters of the largest partition of a joined set on another module (R225), by function; free value (log 1). -/
opaque joinedMax : Nat → Nat
/-- The key slots that the security controller assigns to a protected partition (R420), by function; free value (log 14). -/
opaque keySlots : Nat → List (BitVec 13)
/-- Byte of an attestation report (R420), whose layout the manual leaves open, by the contents that the report holds and the
offset; free value (log 14). -/
opaque attByte : List Nat → Nat → Byte
/-- Module of a member of a domain launch group that does not run here (R434), by group id and index; free value (log 1). -/
opaque memberModule : Nat → Nat → Nat
/-- Where the log part of a tile, or of the control spine, starts in a log buffer (R395), by the launch and the part; free
value (log 15). -/
opaque logPart : Nat → Nat → Nat
/-- What the manual does not state about a word it gives an effect (log 13): a fresh value for each use. -/
opaque freeWord : Nat → W64

end Sys2Proof.Config
end

