-- ==== Sys2Proof/Syntax.lean ====
section
/-! DEFINITION. The instructions and events of the DW-80: one constructor for each row of spec/opcode_table.json.
A row without an encoding is an event of the device; its operands say which agent, queue, index or host value it concerns. -/

namespace Sys2Proof

/-- SZ of the R-format integer families (R57). -/
inductive Sz32 | w64 | w32
  deriving DecidableEq, Repr

/-- The floating-point formats in the order of the SZ code (R57); their ET code is this code plus 8 (R58). -/
inductive FEt | f16 | bf16 | f32 | f64
  deriving DecidableEq, Repr

/-- The integer element types, ET codes 0x0 to 0x7 (R58). -/
inductive IEt | n8 | s8 | n16 | s16 | n32 | s32 | n64 | s64
  deriving DecidableEq, Repr

/-- The element types 0x0 to 0xB that the lane-moving instructions accept (R58, R167). -/
inductive LEt | int (t : IEt) | flt (t : FEt)
  deriving DecidableEq, Repr

/-- The M-format access size (R57). -/
inductive MSz | b | h | w | d
  deriving DecidableEq, Repr

/-- The scope codes 0 to 7 (R59). -/
inductive Scope | ctx | tile | clu | gang | grid | mod | dom | sys
  deriving DecidableEq, Repr

/-- The ORD field of the RA format (R60). -/
inductive Ord | rlx | acq | rel | acqRel
  deriving DecidableEq, Repr

/-- The synchronisation levels (R237). -/
inductive Level | ctx | tile | gang | grid | dom
  deriving DecidableEq, Repr

/-- The levels of the wire barriers (R245, R271). -/
inductive WLevel | gang | grid
  deriving DecidableEq, Repr

/-- LEN of `wbld` (R188): 512 bytes, 1 KiB or 2 KiB. -/
inductive WLen | b512 | k1 | k2
  deriving DecidableEq, Repr

/-- The format pairs of MMA (R68), the A format first. -/
inductive Pair
  | bf16bf16 | f16f16 | bf16t8 | bf16t4 | t8t8 | t8t4 | t4t4 | s8s8 | s8s4 | s4s4 | t8bf16 | t4bf16
  deriving DecidableEq, Repr

/-- The selectors of `dk.rdst` (R343). -/
inductive RdSel | tags | wq | slots | ctx0 | ctx1 | ctx2 | ctx3
  deriving DecidableEq, Repr

/-- A write of the debug page to a halted role (R418). -/
inductive RoleWrite
  | pc (x : W64)                       -- pc in bits 63:1 of the word, resume flag in bit 0
  | csr (n : BitVec 12) (x : W64)
  deriving DecidableEq, Repr

/-- The granule that a scrubber pass reads (R382). -/
inductive Granule
  | rim (block : Nat)                  -- a 64-byte block of rim memory, by address / 64
  | tile (vt : Nat) (store : Nat) (k : Nat)  -- granule k of a tile memory; store: SRC code of R362
  deriving DecidableEq, Repr

/-- The register page a host write goes to (R407). -/
inductive HostPage | pf | vf (v : Nat)
  deriving DecidableEq, Repr

/-- What the BMC and the firmware meet at bring-up (R442 to R446): coolant flow in L/min and inlet temperature in °C, the first
step that fails, if one does, with its cause, the two images, each with the hash of the key under which its signature verifies, if
there is one, the CXL ports and strand links that train, and the defect count of each cluster. -/
structure BringUp where
  flow     : Nat
  inlet    : Int
  failAt   : Option (Nat × Nat)
  firmware : List (BitVec 8)
  runtime  : List (BitVec 8)
  fwKey    : Option (BitVec 512)
  rtKey    : Option (BitVec 512)
  ports    : BitVec 4
  linksUp  : W32
  defects  : List Nat
  deriving DecidableEq, Repr

/-- One constructor for each row of spec/opcode_table.json. -/
inductive Instr where
  /-- ADD (R119): Adds two registers modulo 2^w. -/
  | add (sz : Sz32) (d : Fin 32) (a : Fin 32) (b : Fin 32) (wa : Bool) (wb : Bool)
  /-- SUB (R119): Subtracts two registers modulo 2^w. -/
  | sub (sz : Sz32) (d : Fin 32) (a : Fin 32) (b : Fin 32) (wa : Bool) (wb : Bool)
  /-- AND (R119): Bitwise AND. -/
  | and (sz : Sz32) (d : Fin 32) (a : Fin 32) (b : Fin 32) (wa : Bool) (wb : Bool)
  /-- OR (R119): Bitwise OR. -/
  | or (sz : Sz32) (d : Fin 32) (a : Fin 32) (b : Fin 32) (wa : Bool) (wb : Bool)
  /-- XOR (R119): Bitwise XOR. -/
  | xor (sz : Sz32) (d : Fin 32) (a : Fin 32) (b : Fin 32) (wa : Bool) (wb : Bool)
  /-- ANDN (R119): a AND NOT b. -/
  | andn (sz : Sz32) (d : Fin 32) (a : Fin 32) (b : Fin 32) (wa : Bool) (wb : Bool)
  /-- ORN (R119): a OR NOT b. -/
  | orn (sz : Sz32) (d : Fin 32) (a : Fin 32) (b : Fin 32) (wa : Bool) (wb : Bool)
  /-- SLL (R119): Logical left shift. -/
  | sll (sz : Sz32) (d : Fin 32) (a : Fin 32) (b : Fin 32) (wa : Bool) (wb : Bool)
  /-- SRL (R119): Logical right shift. -/
  | srl (sz : Sz32) (d : Fin 32) (a : Fin 32) (b : Fin 32) (wa : Bool) (wb : Bool)
  /-- SRA (R119): Arithmetic right shift. -/
  | sra (sz : Sz32) (d : Fin 32) (a : Fin 32) (b : Fin 32) (wa : Bool) (wb : Bool)
  /-- ROL (R119): Rotate left. -/
  | rol (sz : Sz32) (d : Fin 32) (a : Fin 32) (b : Fin 32) (wa : Bool) (wb : Bool)
  /-- ROR (R119): Rotate right. -/
  | ror (sz : Sz32) (d : Fin 32) (a : Fin 32) (b : Fin 32) (wa : Bool) (wb : Bool)
  /-- MIN (R119): Signed minimum. -/
  | min (sz : Sz32) (d : Fin 32) (a : Fin 32) (b : Fin 32) (wa : Bool) (wb : Bool)
  /-- MAX (R119): Signed maximum. -/
  | max (sz : Sz32) (d : Fin 32) (a : Fin 32) (b : Fin 32) (wa : Bool) (wb : Bool)
  /-- MINN (R119): Unsigned minimum. -/
  | minn (sz : Sz32) (d : Fin 32) (a : Fin 32) (b : Fin 32) (wa : Bool) (wb : Bool)
  /-- MAXN (R119): Unsigned maximum. -/
  | maxn (sz : Sz32) (d : Fin 32) (a : Fin 32) (b : Fin 32) (wa : Bool) (wb : Bool)
  /-- MUL (R119): Low half of the product. -/
  | mul (sz : Sz32) (d : Fin 32) (a : Fin 32) (b : Fin 32) (wa : Bool) (wb : Bool)
  /-- MULH (R119): High half of signed product. -/
  | mulh (sz : Sz32) (d : Fin 32) (a : Fin 32) (b : Fin 32) (wa : Bool) (wb : Bool)
  /-- MULHN (R119): High half of unsigned product. -/
  | mulhn (sz : Sz32) (d : Fin 32) (a : Fin 32) (b : Fin 32) (wa : Bool) (wb : Bool)
  /-- MULHSN (R119): High half of signed by unsigned product. -/
  | mulhsn (sz : Sz32) (d : Fin 32) (a : Fin 32) (b : Fin 32) (wa : Bool) (wb : Bool)
  /-- DIV (R93): Signed division with defined edge results. -/
  | div (sz : Sz32) (d : Fin 32) (a : Fin 32) (b : Fin 32) (wa : Bool) (wb : Bool)
  /-- DIVN (R93): Unsigned division. -/
  | divn (sz : Sz32) (d : Fin 32) (a : Fin 32) (b : Fin 32) (wa : Bool) (wb : Bool)
  /-- REM (R93): Signed remainder. -/
  | rem (sz : Sz32) (d : Fin 32) (a : Fin 32) (b : Fin 32) (wa : Bool) (wb : Bool)
  /-- REMN (R93): Unsigned remainder. -/
  | remn (sz : Sz32) (d : Fin 32) (a : Fin 32) (b : Fin 32) (wa : Bool) (wb : Bool)
  /-- ADDSAT (R119): Signed saturating add. -/
  | addsat (sz : Sz32) (d : Fin 32) (a : Fin 32) (b : Fin 32) (wa : Bool) (wb : Bool)
  /-- SUBSAT (R119): Signed saturating subtract. -/
  | subsat (sz : Sz32) (d : Fin 32) (a : Fin 32) (b : Fin 32) (wa : Bool) (wb : Bool)
  /-- ADDI (R120): Adds a sign-extended immediate. -/
  | addi (d : Fin 32) (a : Fin 32) (wa : Bool) (imm : BitVec 14)
  /-- ANDI (R120): ANDs a sign-extended immediate. -/
  | andi (d : Fin 32) (a : Fin 32) (wa : Bool) (imm : BitVec 14)
  /-- ORI (R120): ORs a sign-extended immediate. -/
  | ori (d : Fin 32) (a : Fin 32) (wa : Bool) (imm : BitVec 14)
  /-- XORI (R120): XORs a sign-extended immediate. -/
  | xori (d : Fin 32) (a : Fin 32) (wa : Bool) (imm : BitVec 14)
  /-- SLLI (R121): Left shift by immediate. -/
  | slli (d : Fin 32) (a : Fin 32) (wa : Bool) (k : BitVec 6)
  /-- SRLI (R121): Logical right shift by immediate. -/
  | srli (d : Fin 32) (a : Fin 32) (wa : Bool) (k : BitVec 6)
  /-- SRAI (R121): Arithmetic right shift by immediate. -/
  | srai (d : Fin 32) (a : Fin 32) (wa : Bool) (k : BitVec 6)
  /-- RORI (R121): Rotate right by immediate. -/
  | rori (d : Fin 32) (a : Fin 32) (wa : Bool) (k : BitVec 6)
  /-- CMP_EQ (R123): Equality compare; result V carries truth. -/
  | cmpEq (sz : Sz32) (d : Fin 32) (a : Fin 32) (b : Fin 32) (wa : Bool) (wb : Bool)
  /-- CMP_NE (R123): Inequality compare. -/
  | cmpNe (sz : Sz32) (d : Fin 32) (a : Fin 32) (b : Fin 32) (wa : Bool) (wb : Bool)
  /-- CMP_LT (R123): Signed less-than compare. -/
  | cmpLt (sz : Sz32) (d : Fin 32) (a : Fin 32) (b : Fin 32) (wa : Bool) (wb : Bool)
  /-- CMP_LTN (R123): Unsigned less-than compare. -/
  | cmpLtn (sz : Sz32) (d : Fin 32) (a : Fin 32) (b : Fin 32) (wa : Bool) (wb : Bool)
  /-- CMP_LE (R123): Signed less-or-equal compare. -/
  | cmpLe (sz : Sz32) (d : Fin 32) (a : Fin 32) (b : Fin 32) (wa : Bool) (wb : Bool)
  /-- CMP_LEN (R123): Unsigned less-or-equal compare. -/
  | cmpLen (sz : Sz32) (d : Fin 32) (a : Fin 32) (b : Fin 32) (wa : Bool) (wb : Bool)
  /-- CMP_GT (R123): Signed greater-than compare. -/
  | cmpGt (sz : Sz32) (d : Fin 32) (a : Fin 32) (b : Fin 32) (wa : Bool) (wb : Bool)
  /-- CMP_GTN (R123): Unsigned greater-than compare. -/
  | cmpGtn (sz : Sz32) (d : Fin 32) (a : Fin 32) (b : Fin 32) (wa : Bool) (wb : Bool)
  /-- CMP_GE (R123): Signed greater-or-equal compare. -/
  | cmpGe (sz : Sz32) (d : Fin 32) (a : Fin 32) (b : Fin 32) (wa : Bool) (wb : Bool)
  /-- CMP_GEN (R123): Unsigned greater-or-equal compare. -/
  | cmpGen (sz : Sz32) (d : Fin 32) (a : Fin 32) (b : Fin 32) (wa : Bool) (wb : Bool)
  /-- FCMP_EQ (R123): Floating-point equality compare. -/
  | fcmpEq (f : FEt) (d : Fin 32) (a : Fin 32) (b : Fin 32) (wa : Bool) (wb : Bool)
  /-- FCMP_LT (R123): Floating-point less-than compare. -/
  | fcmpLt (f : FEt) (d : Fin 32) (a : Fin 32) (b : Fin 32) (wa : Bool) (wb : Bool)
  /-- FCMP_LE (R123): Floating-point less-or-equal compare. -/
  | fcmpLe (f : FEt) (d : Fin 32) (a : Fin 32) (b : Fin 32) (wa : Bool) (wb : Bool)
  /-- FCMP_UN (R123): True when either operand is NaN. -/
  | fcmpUn (f : FEt) (d : Fin 32) (a : Fin 32) (b : Fin 32) (wa : Bool) (wb : Bool)
  /-- TST (R123): True when A AND B is non-zero. -/
  | tst (d : Fin 32) (a : Fin 32) (b : Fin 32) (wa : Bool) (wb : Bool)
  /-- CMPI_EQ (R124): Compare with immediate for equality. -/
  | cmpiEq (d : Fin 32) (a : Fin 32) (wa : Bool) (imm : BitVec 11)
  /-- CMPI_NE (R124): Compare with immediate for inequality. -/
  | cmpiNe (d : Fin 32) (a : Fin 32) (wa : Bool) (imm : BitVec 11)
  /-- CMPI_LT (R124): Signed less-than immediate compare. -/
  | cmpiLt (d : Fin 32) (a : Fin 32) (wa : Bool) (imm : BitVec 11)
  /-- CMPI_LTN (R124): Unsigned less-than immediate compare. -/
  | cmpiLtn (d : Fin 32) (a : Fin 32) (wa : Bool) (imm : BitVec 11)
  /-- CMPI_GT (R124): Signed greater-than immediate compare. -/
  | cmpiGt (d : Fin 32) (a : Fin 32) (wa : Bool) (imm : BitVec 11)
  /-- CMPI_GTN (R124): Unsigned greater-than immediate compare. -/
  | cmpiGtn (d : Fin 32) (a : Fin 32) (wa : Bool) (imm : BitVec 11)
  /-- LI (R122): Loads a sign-extended 20-bit immediate. -/
  | li (d : Fin 32) (imm : BitVec 20)
  /-- LIH (R122): Shifts D left 20 and ORs in an immediate. -/
  | lih (d : Fin 32) (imm : BitVec 20)
  /-- CLZ (R125): Counts leading zeros. -/
  | clz (sz : Sz32) (d : Fin 32) (a : Fin 32) (wa : Bool)
  /-- CTZ (R125): Counts trailing zeros. -/
  | ctz (sz : Sz32) (d : Fin 32) (a : Fin 32) (wa : Bool)
  /-- POPC (R125): Counts one bits. -/
  | popc (sz : Sz32) (d : Fin 32) (a : Fin 32) (wa : Bool)
  /-- BSWAP (R125): Reverses byte order. -/
  | bswap (sz : Sz32) (d : Fin 32) (a : Fin 32) (wa : Bool)
  /-- SEXT_B (R125): Sign-extends byte. -/
  | sextB (d : Fin 32) (a : Fin 32) (wa : Bool)
  /-- SEXT_H (R125): Sign-extends half. -/
  | sextH (d : Fin 32) (a : Fin 32) (wa : Bool)
  /-- SEXT_W (R125): Sign-extends word. -/
  | sextW (d : Fin 32) (a : Fin 32) (wa : Bool)
  /-- ZEXT_B (R125): Zero-extends byte. -/
  | zextB (d : Fin 32) (a : Fin 32) (wa : Bool)
  /-- ZEXT_H (R125): Zero-extends half. -/
  | zextH (d : Fin 32) (a : Fin 32) (wa : Bool)
  /-- ZEXT_W (R125): Zero-extends word. -/
  | zextW (d : Fin 32) (a : Fin 32) (wa : Bool)
  /-- BFX (R126): Extracts a bit field described by B. -/
  | bfx (sz : Sz32) (d : Fin 32) (a : Fin 32) (b : Fin 32) (wa : Bool) (wb : Bool)
  /-- BFI (R126): Inserts low bits of A into a field of D. -/
  | bfi (sz : Sz32) (d : Fin 32) (a : Fin 32) (b : Fin 32) (wa : Bool) (wb : Bool)
  /-- BREV (R125): Reverses bit order. -/
  | brev (sz : Sz32) (d : Fin 32) (a : Fin 32) (wa : Bool)
  /-- PACK (R126): Packs low halves of A and B. -/
  | pack (sz : Sz32) (d : Fin 32) (a : Fin 32) (b : Fin 32) (wa : Bool) (wb : Bool)
  /-- GATE (R127): Copies A with V = V(A) and V(B). -/
  | gate (d : Fin 32) (a : Fin 32) (b : Fin 32) (wa : Bool) (wb : Bool)
  /-- GATEN (R127): Copies A with V = V(A) and not V(B). -/
  | gaten (d : Fin 32) (a : Fin 32) (b : Fin 32) (wa : Bool) (wb : Bool)
  /-- SETV (R127): Copies A and marks it valid. -/
  | setv (d : Fin 32) (a : Fin 32) (wa : Bool)
  /-- CLRV (R127): Copies A and marks it invalid. -/
  | clrv (d : Fin 32) (a : Fin 32) (wa : Bool)
  /-- ISV (R127): Writes the V tag of A as a value. -/
  | isv (d : Fin 32) (a : Fin 32) (wa : Bool)
  /-- SELV (R127): Selects A if valid, else B with its tag. -/
  | selv (d : Fin 32) (a : Fin 32) (b : Fin 32) (wa : Bool) (wb : Bool)
  /-- MOVV (R127): Copies A with its V tag. -/
  | movv (d : Fin 32) (a : Fin 32) (wa : Bool)
  /-- FADD (R129): Floating add rounded under RM. -/
  | fadd (f : FEt) (d : Fin 32) (a : Fin 32) (b : Fin 32) (wa : Bool) (wb : Bool)
  /-- FSUB (R129): Floating subtract. -/
  | fsub (f : FEt) (d : Fin 32) (a : Fin 32) (b : Fin 32) (wa : Bool) (wb : Bool)
  /-- FMUL (R129): Floating multiply. -/
  | fmul (f : FEt) (d : Fin 32) (a : Fin 32) (b : Fin 32) (wa : Bool) (wb : Bool)
  /-- FDIV (R129): Floating divide. -/
  | fdiv (f : FEt) (d : Fin 32) (a : Fin 32) (b : Fin 32) (wa : Bool) (wb : Bool)
  /-- FSQRT (R129): Floating square root. -/
  | fsqrt (f : FEt) (d : Fin 32) (a : Fin 32) (wa : Bool)
  /-- FMIN (R85): minimumNumber. -/
  | fmin (f : FEt) (d : Fin 32) (a : Fin 32) (b : Fin 32) (wa : Bool) (wb : Bool)
  /-- FMAX (R85): maximumNumber. -/
  | fmax (f : FEt) (d : Fin 32) (a : Fin 32) (b : Fin 32) (wa : Bool) (wb : Bool)
  /-- FMA (R129): Fused a*b+d with one rounding. -/
  | fma (f : FEt) (d : Fin 32) (a : Fin 32) (b : Fin 32) (wa : Bool) (wb : Bool)
  /-- FNMA (R129): Fused d-a*b with one rounding. -/
  | fnma (f : FEt) (d : Fin 32) (a : Fin 32) (b : Fin 32) (wa : Bool) (wb : Bool)
  /-- FABS (R129): Clears the sign bit. -/
  | fabs (f : FEt) (d : Fin 32) (a : Fin 32) (wa : Bool)
  /-- FNEG (R129): Inverts the sign bit. -/
  | fneg (f : FEt) (d : Fin 32) (a : Fin 32) (wa : Bool)
  /-- FSGNJ (R129): Magnitude of A with sign of B. -/
  | fsgnj (f : FEt) (d : Fin 32) (a : Fin 32) (b : Fin 32) (wa : Bool) (wb : Bool)
  /-- FCLASS (R130): Writes a one-hot class mask. -/
  | fclass (f : FEt) (d : Fin 32) (a : Fin 32) (wa : Bool)
  /-- FCVT_S (R90): Float to signed 64-bit integer. -/
  | fcvtS (f : FEt) (d : Fin 32) (a : Fin 32) (wa : Bool)
  /-- FCVT_N (R90): Float to unsigned 64-bit integer. -/
  | fcvtN (f : FEt) (d : Fin 32) (a : Fin 32) (wa : Bool)
  /-- SCVT_F (R91): Signed integer to float. -/
  | scvtF (f : FEt) (d : Fin 32) (a : Fin 32) (wa : Bool)
  /-- NCVT_F (R91): Unsigned integer to float. -/
  | ncvtF (f : FEt) (d : Fin 32) (a : Fin 32) (wa : Bool)
  /-- FCVT_F (R92): Float to float conversion. -/
  | fcvtF (dst : FEt) (src : FEt) (d : Fin 32) (a : Fin 32) (wa : Bool)
  /-- LD (R132): Zero-extending load; off-core it is a long-latency producer and switch point unless .nw. -/
  | ld (sz : MSz) (d : Fin 32) (b : Fin 32) (wa : Bool) (nw : Bool) (off : BitVec 11)
  /-- LDS (R132): Sign-extending load. -/
  | lds (sz : MSz) (d : Fin 32) (b : Fin 32) (wa : Bool) (nw : Bool) (off : BitVec 11)
  /-- ST (R133): Posts a store of the low bytes of D. -/
  | st (sz : MSz) (d : Fin 32) (b : Fin 32) (wa : Bool) (wd : Bool) (off : BitVec 11)
  /-- LD_ACQ (R134): Acquire load at a scope. -/
  | ldAcq (sz : MSz) (d : Fin 32) (a : Fin 32) (sc : Scope) (wa : Bool)
  /-- ST_REL (R134): Release store at a scope. -/
  | stRel (sz : MSz) (d : Fin 32) (a : Fin 32) (sc : Scope) (wa : Bool)
  /-- LD_Q (R134): 16-byte single-copy-atomic load into a register pair. -/
  | ldQ (d : Fin 32) (a : Fin 32) (wa : Bool)
  /-- ST_Q (R134): 16-byte single-copy-atomic store of a register pair. -/
  | stQ (d : Fin 32) (a : Fin 32) (wa : Bool)
  /-- TOUCH (R134): Checks and translates an address as a byte load without data. -/
  | touch (a : Fin 32) (wa : Bool)
  /-- SBWAIT (R134): Waits until a register is full. -/
  | sbwait (a : Fin 32)
  /-- MKEMPTY (R134): Sets a register to the cleared empty state. -/
  | mkempty (d : Fin 32)
  /-- AMOSWAP (R298): Atomic swap. -/
  | amoswap (w64 : Bool) (d : Fin 32) (a : Fin 32) (b : Fin 32) (ord : Ord) (sc : Scope)
  /-- AMOADD (R298): Atomic add. -/
  | amoadd (w64 : Bool) (d : Fin 32) (a : Fin 32) (b : Fin 32) (ord : Ord) (sc : Scope)
  /-- AMOAND (R298): Atomic AND. -/
  | amoand (w64 : Bool) (d : Fin 32) (a : Fin 32) (b : Fin 32) (ord : Ord) (sc : Scope)
  /-- AMOOR (R298): Atomic OR. -/
  | amoor (w64 : Bool) (d : Fin 32) (a : Fin 32) (b : Fin 32) (ord : Ord) (sc : Scope)
  /-- AMOXOR (R298): Atomic XOR. -/
  | amoxor (w64 : Bool) (d : Fin 32) (a : Fin 32) (b : Fin 32) (ord : Ord) (sc : Scope)
  /-- AMOMIN (R298): Atomic signed minimum. -/
  | amomin (w64 : Bool) (d : Fin 32) (a : Fin 32) (b : Fin 32) (ord : Ord) (sc : Scope)
  /-- AMOMAX (R298): Atomic signed maximum. -/
  | amomax (w64 : Bool) (d : Fin 32) (a : Fin 32) (b : Fin 32) (ord : Ord) (sc : Scope)
  /-- AMOMINN (R298): Atomic unsigned minimum. -/
  | amominn (w64 : Bool) (d : Fin 32) (a : Fin 32) (b : Fin 32) (ord : Ord) (sc : Scope)
  /-- AMOMAXN (R298): Atomic unsigned maximum. -/
  | amomaxn (w64 : Bool) (d : Fin 32) (a : Fin 32) (b : Fin 32) (ord : Ord) (sc : Scope)
  /-- AMOFADD (R297): Atomic F32 add rounded to nearest-even. -/
  | amofadd (d : Fin 32) (a : Fin 32) (b : Fin 32) (ord : Ord) (sc : Scope)
  /-- CAS_D (R299): 8-byte compare-and-swap reporting success in V. -/
  | casD (d : Fin 32) (a : Fin 32) (b : Fin 32) (ord : Ord) (sc : Scope)
  /-- CAS_Q (R299): 16-byte compare-and-swap on register pairs. -/
  | casQ (d : Fin 32) (a : Fin 32) (b : Fin 32) (ord : Ord) (sc : Scope)
  /-- VLD (R155): 64-byte vector load; switch point off-core. -/
  | vld (d : Fin 32) (b : Fin 32) (wa : Bool) (off : BitVec 11)
  /-- VST (R156): Vector store of valid words only. -/
  | vst (d : Fin 32) (b : Fin 32) (wa : Bool) (off : BitVec 11)
  /-- VLD_NW (R155): Vector load without switch. -/
  | vldNw (d : Fin 32) (b : Fin 32) (wa : Bool) (off : BitVec 11)
  /-- VGAT (R158): Gathers lanes from the own scratchpad by index. -/
  | vgat (sz : MSz) (d : Fin 32) (a : Fin 32) (b : Fin 32) (wa : Bool)
  /-- VSCA (R158): Scatters lanes into the own scratchpad by index. -/
  | vsca (sz : MSz) (d : Fin 32) (a : Fin 32) (b : Fin 32) (wa : Bool)
  /-- VLDB (R159): Loads one element and broadcasts it. -/
  | vldb (sz : MSz) (d : Fin 32) (a : Fin 32) (wa : Bool)
  /-- BR (R135): Unconditional branch. -/
  | br (off : BitVec 18)
  /-- CALL (R135): Branch writing the link. -/
  | call (a : Fin 32) (off : BitVec 18)
  /-- BV (R135): Branch when A is valid. -/
  | bv (a : Fin 32) (off : BitVec 18)
  /-- BNV (R135): Branch when A is invalid. -/
  | bnv (a : Fin 32) (off : BitVec 18)
  /-- BNZ (R135): Branch when A is non-zero. -/
  | bnz (a : Fin 32) (off : BitVec 18)
  /-- BZ (R135): Branch when A is zero. -/
  | bz (a : Fin 32) (off : BitVec 18)
  /-- JR (R136): Register-indirect jump with link. -/
  | jr (d : Fin 32) (a : Fin 32) (wa : Bool) (imm : BitVec 14)
  /-- LDK (R263): Split-phase load whose reply becomes a work record. -/
  | ldk (sz : MSz) (d : Fin 32) (a : Fin 32) (b : Fin 32) (wa : Bool) (wb : Bool)
  /-- WPUT (R262): Sends a work record to a splice queue. -/
  | wput (d : Fin 32) (b : Fin 32) (wb : Bool)
  /-- WWAIT (R267): Waits for and takes a dispatched record into registers. -/
  | wwait
  /-- WDISP (R267): Takes a record and transfers to its class handler. -/
  | wdisp
  /-- WDONE (R268): Decrements the in-hand count. -/
  | wdone
  /-- SYNC (R272): Barrier arrival at a level and wait for completion. -/
  | sync (lv : Level)
  /-- VOTE_AND (R272): Barrier combining contributions by AND. -/
  | voteAnd (lv : Level) (d : Fin 32) (a : Fin 32) (wa : Bool)
  /-- VOTE_OR (R272): Barrier combining contributions by OR. -/
  | voteOr (lv : Level) (d : Fin 32) (a : Fin 32) (wa : Bool)
  /-- VOTE_ADD (R272): Barrier combining contributions by sum. -/
  | voteAdd (lv : Level) (d : Fin 32) (a : Fin 32) (wa : Bool)
  /-- FENCE (R292): Orders predecessor before successor accesses at a scope. -/
  | fence (sc : Scope) (pr : Bool) (pw : Bool) (sr : Bool) (sw : Bool)
  /-- HWBAR_ARRIVE (R273): Arrives at a wire barrier without waiting. -/
  | hwbarArrive (lv : WLevel)
  /-- HWBAR_WAIT (R273): Waits for the wire barrier generation. -/
  | hwbarWait (lv : WLevel)
  /-- WATCH (R276): Sets the watched scratchpad line. -/
  | watch (a : Fin 32) (wa : Bool)
  /-- WFE (R277): Waits for and clears the event flag. -/
  | wfe
  /-- SEV (R277): Sets the event flags of the tile. -/
  | sev
  /-- QGET (R259): Pops a unit from an inbound stream port. -/
  | qget (q : Fin 16) (a : Fin 32)
  /-- QPUT (R259): Appends a unit to the outbound stream port. -/
  | qput (q : Fin 16) (a : Fin 32) (wa : Bool)
  /-- VQGET (R259): Pops eight units into a vector. -/
  | vqget (q : Fin 16) (a : Fin 32)
  /-- VQPUT (R259): Appends a vector as eight units. -/
  | vqput (q : Fin 16) (a : Fin 32)
  /-- ECMD (R259): Pushes a 128-bit beat toward an engine queue. -/
  | ecmd (q : Fin 16) (a : Fin 32) (b : Fin 32) (wa : Bool) (wb : Bool)
  /-- EBUSY (R259): Reports whether a queue holds an incomplete command. -/
  | ebusy (q : Fin 16) (a : Fin 32)
  /-- EFENCE (R259): Waits until named engine queues drain. -/
  | efence (lo : BitVec 5) (hi : BitVec 2)
  /-- QLEN (R259): Reads the unit or slot count of a queue. -/
  | qlen (q : Fin 16) (a : Fin 32)
  /-- HLD (R206): Loads a hypervector; always a long-latency producer. -/
  | hld (d : Fin 8) (b : Fin 32) (wa : Bool) (nw : Bool) (off : BitVec 11)
  /-- HST (R207): Stores a hypervector. -/
  | hst (d : Fin 8) (b : Fin 32) (wa : Bool) (wd : Bool) (off : BitVec 11)
  /-- MLD (R189): Loads a tile register from the scratchpad. -/
  | mld (s32 : Bool) (d : Fin 8) (a : Fin 32) (b : Fin 32)
  /-- MST (R189): Stores a tile register to the scratchpad. -/
  | mst (d : Fin 8) (a : Fin 32) (b : Fin 32)
  /-- WBLD (R190): Copies bytes into a weight-buffer slot. -/
  | wbld (len : WLen) (sp : Bool) (d : Fin 32) (a : Fin 32)
  /-- MEPI (R194): Fused epilogue converting a tile to memory. -/
  | mepi (d : Fin 8) (a : Fin 32) (b : Fin 32) (c : Fin 32)
  /-- WBINV (R191): Invalidates weight-buffer slots by mask. -/
  | wbinv (a : Fin 32) (b : Fin 32)
  /-- SYSCALL (R140): Traps SYSCALL with a service code. -/
  | syscall (a : Fin 32) (wa : Bool)
  /-- SRET (R35): Returns from a trap. -/
  | sret
  /-- END (R40): Ends the context. -/
  | endCtx
  /-- BRK (R140): Traps BREAK or halts under BRKHALT. -/
  | brk (code : BitVec 5)
  /-- IFENCE (R142): Drains stores and invalidates the instruction cache. -/
  | ifence
  /-- TLBINV_ALL (R143): Invalidates all stage-1 entries. -/
  | tlbinvAll
  /-- TLBINV_ASID (R143): Invalidates entries of one ASID. -/
  | tlbinvAsid (b : Fin 32) (wb : Bool)
  /-- TLBINV_VA (R143): Invalidates one VA in one ASID. -/
  | tlbinvVa (a : Fin 32) (b : Fin 32) (wa : Bool) (wb : Bool)
  /-- TLBINV_VAALL (R143): Invalidates one VA in every ASID. -/
  | tlbinvVaall (a : Fin 32) (wa : Bool)
  /-- WFI (R144): Waits for an enabled pending interrupt. -/
  | wfi
  /-- RDFE (R145): Reads the F tag mask. -/
  | rdfe (d : Fin 32)
  /-- WRFE (R146): Empties registers named by a zero mask bit. -/
  | wrfe (a : Fin 32) (wa : Bool)
  /-- RDVB (R145): Reads the V tag mask. -/
  | rdvb (d : Fin 32)
  /-- WRVB (R146): Writes V tags of full registers. -/
  | wrvb (a : Fin 32) (wa : Bool)
  /-- YIELD (R147): Retires and offers the core to another context. -/
  | yield
  /-- CSRR (R137): Reads a CSR. -/
  | csrr (d : Fin 32) (n : BitVec 12)
  /-- CSRW (R137): Writes a CSR, returning the old value. -/
  | csrw (d : Fin 32) (a : Fin 32) (wa : Bool) (n : BitVec 12)
  /-- CSRS (R137): Sets CSR bits. -/
  | csrs (d : Fin 32) (a : Fin 32) (wa : Bool) (n : BitVec 12)
  /-- CSRC (R137): Clears CSR bits. -/
  | csrc (d : Fin 32) (a : Fin 32) (wa : Bool) (n : BitVec 12)
  /-- VADD (R160): Lane-wise wrapping add. -/
  | vadd (e : IEt) (d : Fin 32) (a : Fin 32) (b : Fin 32)
  /-- VSUB (R160): Lane-wise wrapping subtract. -/
  | vsub (e : IEt) (d : Fin 32) (a : Fin 32) (b : Fin 32)
  /-- VMUL (R160): Lane-wise low product. -/
  | vmul (e : IEt) (d : Fin 32) (a : Fin 32) (b : Fin 32)
  /-- VMULH (R160): Lane-wise high product. -/
  | vmulh (e : IEt) (d : Fin 32) (a : Fin 32) (b : Fin 32)
  /-- VMIN (R160): Lane-wise minimum. -/
  | vmin (e : IEt) (d : Fin 32) (a : Fin 32) (b : Fin 32)
  /-- VMAX (R160): Lane-wise maximum. -/
  | vmax (e : IEt) (d : Fin 32) (a : Fin 32) (b : Fin 32)
  /-- VABS (R160): Lane-wise absolute value. -/
  | vabs (e : IEt) (d : Fin 32) (a : Fin 32)
  /-- VNEG (R160): Lane-wise negation. -/
  | vneg (e : IEt) (d : Fin 32) (a : Fin 32)
  /-- VAND (R160): Lane-wise AND. -/
  | vand (e : IEt) (d : Fin 32) (a : Fin 32) (b : Fin 32)
  /-- VOR (R160): Lane-wise OR. -/
  | vor (e : IEt) (d : Fin 32) (a : Fin 32) (b : Fin 32)
  /-- VXOR (R160): Lane-wise XOR. -/
  | vxor (e : IEt) (d : Fin 32) (a : Fin 32) (b : Fin 32)
  /-- VANDN (R160): Lane-wise a AND NOT b. -/
  | vandn (e : IEt) (d : Fin 32) (a : Fin 32) (b : Fin 32)
  /-- VSLL (R160): Lane-wise left shift. -/
  | vsll (e : IEt) (d : Fin 32) (a : Fin 32) (b : Fin 32)
  /-- VSRL (R160): Lane-wise logical right shift. -/
  | vsrl (e : IEt) (d : Fin 32) (a : Fin 32) (b : Fin 32)
  /-- VSRA (R160): Lane-wise arithmetic right shift. -/
  | vsra (e : IEt) (d : Fin 32) (a : Fin 32) (b : Fin 32)
  /-- VADDSAT (R160): Lane-wise saturating add. -/
  | vaddsat (e : IEt) (d : Fin 32) (a : Fin 32) (b : Fin 32)
  /-- VSUBSAT (R160): Lane-wise saturating subtract. -/
  | vsubsat (e : IEt) (d : Fin 32) (a : Fin 32) (b : Fin 32)
  /-- VAVG (R160): Lane-wise rounded average. -/
  | vavg (e : IEt) (d : Fin 32) (a : Fin 32) (b : Fin 32)
  /-- VCMP_EQ (R160): Lane-wise equality mask. -/
  | vcmpEq (e : IEt) (d : Fin 32) (a : Fin 32) (b : Fin 32)
  /-- VCMP_LT (R160): Lane-wise less-than mask. -/
  | vcmpLt (e : IEt) (d : Fin 32) (a : Fin 32) (b : Fin 32)
  /-- VCMP_LE (R160): Lane-wise less-or-equal mask. -/
  | vcmpLe (e : IEt) (d : Fin 32) (a : Fin 32) (b : Fin 32)
  /-- VBSEL (R160): Bitwise select by mask in VD. -/
  | vbsel (e : IEt) (d : Fin 32) (a : Fin 32) (b : Fin 32)
  /-- VPOPC (R160): Lane-wise population count. -/
  | vpopc (e : IEt) (d : Fin 32) (a : Fin 32)
  /-- VCLZ (R160): Lane-wise leading zero count. -/
  | vclz (e : IEt) (d : Fin 32) (a : Fin 32)
  /-- VFADD (R161): Lane-wise float add. -/
  | vfadd (e : FEt) (d : Fin 32) (a : Fin 32) (b : Fin 32)
  /-- VFSUB (R161): Lane-wise float subtract. -/
  | vfsub (e : FEt) (d : Fin 32) (a : Fin 32) (b : Fin 32)
  /-- VFMUL (R161): Lane-wise float multiply. -/
  | vfmul (e : FEt) (d : Fin 32) (a : Fin 32) (b : Fin 32)
  /-- VFMA (R161): Lane-wise fused multiply-add. -/
  | vfma (e : FEt) (d : Fin 32) (a : Fin 32) (b : Fin 32)
  /-- VFNMA (R161): Lane-wise fused d minus a*b. -/
  | vfnma (e : FEt) (d : Fin 32) (a : Fin 32) (b : Fin 32)
  /-- VFDIV (R161): Lane-wise float divide. -/
  | vfdiv (e : FEt) (d : Fin 32) (a : Fin 32) (b : Fin 32)
  /-- VFSQRT (R161): Lane-wise square root. -/
  | vfsqrt (e : FEt) (d : Fin 32) (a : Fin 32)
  /-- VFMIN (R161): Lane-wise minimumNumber. -/
  | vfmin (e : FEt) (d : Fin 32) (a : Fin 32) (b : Fin 32)
  /-- VFMAX (R161): Lane-wise maximumNumber. -/
  | vfmax (e : FEt) (d : Fin 32) (a : Fin 32) (b : Fin 32)
  /-- VFABS (R161): Lane-wise sign clear. -/
  | vfabs (e : FEt) (d : Fin 32) (a : Fin 32)
  /-- VFNEG (R161): Lane-wise sign invert. -/
  | vfneg (e : FEt) (d : Fin 32) (a : Fin 32)
  /-- VFCMP_EQ (R161): Lane-wise float equality mask. -/
  | vfcmpEq (e : FEt) (d : Fin 32) (a : Fin 32) (b : Fin 32)
  /-- VFCMP_LT (R161): Lane-wise float less-than mask. -/
  | vfcmpLt (e : FEt) (d : Fin 32) (a : Fin 32) (b : Fin 32)
  /-- VFCMP_LE (R161): Lane-wise float less-or-equal mask. -/
  | vfcmpLe (e : FEt) (d : Fin 32) (a : Fin 32) (b : Fin 32)
  /-- VFDOT (R162): Narrow pair dot product into wide accumulator. -/
  | vfdot (e : FEt) (d : Fin 32) (a : Fin 32) (b : Fin 32)
  /-- VCVT (R164): Whole-register type conversion. -/
  | vcvt (dst : LEt) (src : LEt) (d : Fin 32) (a : Fin 32)
  /-- VENC (R165): Encodes F32 lanes to T8 or T4 codes. -/
  | venc (t4 : Bool) (d : Fin 32) (a : Fin 32)
  /-- VDEC (R166): Decodes T8 or T4 codes to F32. -/
  | vdec (t4 : Bool) (d : Fin 32) (a : Fin 32)
  /-- VCVT_SAT (R164): Saturating conversion. -/
  | vcvtSat (dst : LEt) (src : LEt) (d : Fin 32) (a : Fin 32)
  /-- VPERM (R167): Permutes lanes by index. -/
  | vperm (e : LEt) (d : Fin 32) (a : Fin 32) (b : Fin 32)
  /-- VBCAST (R167): Broadcasts a scalar to all lanes. -/
  | vbcast (e : LEt) (d : Fin 32) (a : Fin 32)
  /-- VEXT (R168): Extracts a lane to a scalar with its word V. -/
  | vext (e : LEt) (d : Fin 32) (a : Fin 32) (b : Fin 32)
  /-- VINS (R168): Inserts a scalar into a lane and marks its word valid. -/
  | vins (e : LEt) (d : Fin 32) (a : Fin 32) (b : Fin 32)
  /-- VSLIDE (R167): Slides lanes from VA then old VD. -/
  | vslide (e : LEt) (d : Fin 32) (a : Fin 32) (b : Fin 32)
  /-- VROT (R167): Rotates lanes. -/
  | vrot (e : LEt) (d : Fin 32) (a : Fin 32) (b : Fin 32)
  /-- VZIP (R167): Interleaves lanes of two vectors. -/
  | vzip (e : LEt) (d : Fin 32) (a : Fin 32) (b : Fin 32)
  /-- VUNZIP (R167): De-interleaves even lanes. -/
  | vunzip (e : LEt) (d : Fin 32) (a : Fin 32) (b : Fin 32)
  /-- VRED_ADD (R169): Tree sum reduction to a scalar. -/
  | vredAdd (e : LEt) (d : Fin 32) (a : Fin 32)
  /-- VRED_MAX (R169): Tree maximum reduction. -/
  | vredMax (e : LEt) (d : Fin 32) (a : Fin 32)
  /-- VRED_MIN (R169): Tree minimum reduction. -/
  | vredMin (e : LEt) (d : Fin 32) (a : Fin 32)
  /-- VPACK24 (R170): Packs 2:4 sparse lanes and writes metadata. -/
  | vpack24 (e : FEt) (d : Fin 32) (a : Fin 32) (b : Fin 32)
  /-- VUNPACK24 (R171): Unpacks 2:4 sparse lanes by metadata. -/
  | vunpack24 (e : FEt) (d : Fin 32) (a : Fin 32) (b : Fin 32)
  /-- VCOMPRESS (R167): Compresses selected lanes. -/
  | vcompress (e : LEt) (d : Fin 32) (a : Fin 32) (b : Fin 32)
  /-- VEXPAND (R167): Expands lanes to selected positions. -/
  | vexpand (e : LEt) (d : Fin 32) (a : Fin 32) (b : Fin 32)
  /-- VRCP (R172): Correctly rounded reciprocal. -/
  | vrcp (e : FEt) (d : Fin 32) (a : Fin 32)
  /-- VRSQRT (R172): Correctly rounded reciprocal square root. -/
  | vrsqrt (e : FEt) (d : Fin 32) (a : Fin 32)
  /-- VEXP2 (R172): Correctly rounded 2^a. -/
  | vexp2 (e : FEt) (d : Fin 32) (a : Fin 32)
  /-- VLOG2 (R172): Correctly rounded log2. -/
  | vlog2 (e : FEt) (d : Fin 32) (a : Fin 32)
  /-- MMA (R185): Commits a dense matrix multiply-accumulate into the array queue. -/
  | mma (p : Pair) (d : Fin 8) (a : Fin 32) (b : Fin 32) (c : Fin 32)
  /-- MMAS (R187): Commits a 2:4 sparse matrix multiply-accumulate. -/
  | mmas (p : Pair) (d : Fin 8) (a : Fin 32) (b : Fin 32) (c : Fin 32)
  /-- MZ (R197): Zeroes a tile register of a kind. -/
  | mz (s32 : Bool) (d : Fin 8)
  /-- MSTAT (R197): Reads tile status without waiting. -/
  | mstat (d : Fin 32) (a : Fin 8)
  /-- MCPY (R197): Copies a tile register. -/
  | mcpy (d : Fin 8) (a : Fin 8)
  /-- MADD (R197): Element-wise tile add with saturation. -/
  | madd (d : Fin 8) (a : Fin 8)
  /-- MSCALE (R197): Scales every tile element. -/
  | mscale (d : Fin 8) (a : Fin 32)
  /-- MROW (R197): Reads half a tile row into a vector. -/
  | mrow (d : Fin 32) (a : Fin 8) (b : Fin 32)
  /-- MWAIT (R197): Waits until a tile is not in flight. -/
  | mwait (d : Fin 8)
  /-- MOVF (R197): Reads and optionally clears the overflow counter. -/
  | movf (clr : Bool) (d : Fin 32) (a : Fin 8)
  /-- HXOR (R209): Hypervector XOR. -/
  | hxor (d : Fin 8) (a : Fin 8) (b : Fin 8)
  /-- HAND (R209): Hypervector AND. -/
  | hand (d : Fin 8) (a : Fin 8) (b : Fin 8)
  /-- HOR (R209): Hypervector OR. -/
  | hor (d : Fin 8) (a : Fin 8) (b : Fin 8)
  /-- HNOT (R209): Hypervector NOT. -/
  | hnot (d : Fin 8) (a : Fin 8)
  /-- HROT (R209): Hypervector rotation. -/
  | hrot (d : Fin 8) (a : Fin 8) (b : Fin 32)
  /-- HBUND (R210): Adds a hypervector into a bundle accumulator. -/
  | hbund (d : Fin 2) (a : Fin 8)
  /-- HBUNW (R210): Weighted bundle. -/
  | hbunw (d : Fin 2) (a : Fin 8) (b : Fin 32)
  /-- HBCLR (R210): Clears a bundle accumulator. -/
  | hbclr (d : Fin 2)
  /-- HTHR (R211): Thresholds counters with tie-break. -/
  | hthr (d : Fin 8) (a : Fin 2) (b : Fin 8)
  /-- HPOPC (R209): Counts one bits of a hypervector. -/
  | hpopc (d : Fin 32) (a : Fin 8)
  /-- HDIST (R209): Hamming distance of two hypervectors. -/
  | hdist (d : Fin 32) (a : Fin 8) (b : Fin 8)
  /-- HBCAST (R209): Broadcasts a 64-bit pattern. -/
  | hbcast (d : Fin 8) (a : Fin 32)
  /-- HINS (R209): Inserts a word into a hypervector. -/
  | hins (d : Fin 8) (a : Fin 32) (b : Fin 32)
  /-- HEXT (R209): Extracts a word of a hypervector. -/
  | hext (d : Fin 32) (a : Fin 8) (b : Fin 32)
  /-- HMOV (R209): Copies a hypervector. -/
  | hmov (d : Fin 8) (a : Fin 8)
  /-- HMST (R215): Stores a hypervector into a recall entry. -/
  | hmst (a : Fin 8) (b : Fin 32)
  /-- HMLD (R215): Loads a recall entry into a hypervector. -/
  | hmld (d : Fin 8) (b : Fin 32)
  /-- HMCLR (R215): Clears one recall entry. -/
  | hmclr (b : Fin 32)
  /-- HMCLR_ALL (R215): Clears every recall entry. -/
  | hmclrAll
  /-- HRECALL (R216): Nearest-entry search with threshold. -/
  | hrecall (d : Fin 32) (a : Fin 8) (b : Fin 32)
  /-- HRECALL2 (R216): Two nearest entries search. -/
  | hrecall2 (d : Fin 32) (a : Fin 8) (b : Fin 32)
  /-- DK_ECMD (R342): Helper pushes an engine command beat. -/
  | dkEcmd (q : Fin 7) (rs1 : Fin 32) (rs2 : Fin 32)
  /-- DK_QPUT (R342): Helper appends a unit to a context's inbound stream port. -/
  | dkQput (c : Fin 4) (p : Fin 4) (rs1 : Fin 32)
  /-- DK_QGET (R342): Helper pops a unit from a context's q11. -/
  | dkQget (c : Fin 4) (rd : Fin 32)
  /-- DK_WCNT (R342): Helper waits for a completion counter. -/
  | dkWcnt (n : Fin 7) (rs1 : Fin 32) (rd : Fin 32)
  /-- DK_SEV (R342): Helper sets all event flags of the tile. -/
  | dkSev
  /-- DK_WFE (R342): Helper waits for its event flag. -/
  | dkWfe
  /-- DK_WFE_WATCH (R342): Helper sets its watched line. -/
  | dkWfeWatch (rs1 : Fin 32)
  /-- DK_RDST (R343): Helper reads a tile status word. -/
  | dkRdst (n : RdSel) (rd : Fin 32)
  /-- DK_WPUT (R342): Helper sends a work record from an image. -/
  | dkWput (rs1 : Fin 32) (rs2 : Fin 32)
  /-- ECALL (R339): Helper runtime service call; a7 = 0 stops the core. -/
  | ecall
  /-- EBREAK (R380): Helper breakpoint, halting under BRKHALT. -/
  | ebreak
  /-- FILL_LAND (R17): Result of a long-latency producer arrives and fills its awaiting register. -/
  | fillLand (vt : Nat) (c : Nat) (k : Nat)
  /-- INTERRUPT_ENTRY (R34): Pending enabled interrupt taken at a boundary or blocked word. -/
  | interruptEntry (vt : Nat) (c : Nat)
  /-- DEFERRED_FAULT (R364): Uncorrectable or poisoned data of a committed access is delivered at the next boundary. -/
  | deferredFault (vt : Nat) (c : Nat)
  /-- RUNCAP_EXPIRY (R232): Turn count reaches CAP and another context is ready. -/
  | runcapExpiry (vt : Nat)
  /-- TIMER_MATCH (R33): time reaches tmatch, setting ip.TIMER. -/
  | timerMatch (vt : Nat) (c : Nat)
  /-- RUNCAP_WRITE (R232): Write to runcap restarts the turn count. -/
  | runcapWrite (vt : Nat) (c : Nat) (v : W64)
  /-- MEMB_WRITE (R239): Write to memb; may open a held generation at once. -/
  | membWrite (vt : Nat) (c : Nat) (v : W64)
  /-- TABLE_LOAD_T8 (R97): dtstat write with LD8 loads the T8 decode table. -/
  | tableLoadT8 (vt : Nat) (toff : BitVec 21)
  /-- TABLE_LOAD_T4 (R97): dtstat write with LD4 loads the T4 decode table. -/
  | tableLoadT4 (vt : Nat) (toff : BitVec 21)
  /-- ENGINE_FAULT_DROP (R357): Writing 1 to efault.VALID drops the shown record and resumes its queue. -/
  | engineFaultDrop (vt : Nat) (r : Nat)
  /-- WINDOW_STORE_ARRIVAL (R318): A window write reaches a tile memory or register. -/
  | windowStoreArrival (k : Nat)
  /-- WINDOW_LOAD_ARRIVAL (R314): A window load reaches its tile and returns data. -/
  | windowLoadArrival (vt : Nat) (c : Nat) (k : Nat)
  /-- PORT_ENTRY_ARRIVAL (R234): A word or vector entry arrives in a neighbour's inbound queue. -/
  | portEntryArrival (k : Nat)
  /-- STREAM_WINDOW_WRITE (R319): A stream-port window write appends units when room exists. -/
  | streamWindowWrite (k : Nat)
  /-- PARKED_MESSAGE (R248): A message for an absent gang enters its parked queue. -/
  | parkedMessage (k : Nat)
  /-- SPLICE_INSERT (R264): An arriving record is folded, placed in a free way or spilled. -/
  | spliceInsert (vt : Nat) (k : Nat)
  /-- RECORD_RETRY (R264): NI offers a refused record again once room appears. -/
  | recordRetry (vt : Nat) (k : Nat)
  /-- SPLICE_REFILL (R265): The queue refills an entry from the spill ring head. -/
  | spliceRefill (vt : Nat)
  /-- SPLICE_DISPATCH (R266): The dispatch event delivers the chosen entry to a waiting context. -/
  | spliceDispatch (vt : Nat)
  /-- BARRIER_COMPLETION (R240): A barrier or vote generation completes and releases its members. -/
  | barrierCompletion (lv : Level) (id : Nat) (remote : W64)
  /-- BARRIER_TIMEOUT (R242): First member deadline expires and the generation is abandoned. -/
  | barrierTimeout (lv : Level) (id : Nat)
  /-- WIRE_BARRIER_COMPLETION (R245): Every tile has arrived on the barrier wires. -/
  | wireBarrierCompletion (lv : WLevel) (id : Nat)
  /-- ARRAY_PASS (R185): The array performs a queued matrix operation once its slot is not busy. -/
  | arrayPass (vt : Nat)
  /-- WBLD_LANDED (R181): All bytes of a wbld land and the slot is no longer BUSY. -/
  | wbldLanded (vt : Nat) (slot : Nat)
  /-- ENGINE_COMMAND_ENQUEUE (R344): A completed command enters its queue when slots are free. -/
  | engineCommandEnqueue (vt : Nat) (r : Nat) (q : Nat)
  /-- COPY (R348): Copy engine copies bytes in 128-byte units. -/
  | copyUnit (vt : Nat) (q : Nat)
  /-- COPY2D (R348): Copy engine copies strided rows. -/
  | copy2d (vt : Nat) (q : Nat)
  /-- GATHER (R348): Gather engine reads indexed elements into a packed array. -/
  | gather (vt : Nat) (q : Nat)
  /-- SCATTER (R348): Gather engine writes packed elements to indexed addresses. -/
  | scatter (vt : Nat) (q : Nat)
  /-- JOIN (R294): Orders later commands after named queues' earlier commands. -/
  | joinCmd (vt : Nat) (q : Nat)
  /-- ALLRED (R352): Collective reduction over a level instance. -/
  | allred (vt : Nat)
  /-- BCAST (R352): Collective broadcast from a root. -/
  | bcast (vt : Nat)
  /-- MCAST_ST (R354): Multicast store to a destination list in chunks. -/
  | mcastSt (vt : Nat)
  /-- RED_ST (R348): Atomic reducing stores element by element. -/
  | redSt (vt : Nat)
  /-- SIGNAL (R348): Atomic add to an 8-byte word. -/
  | signal (vt : Nat) (q : Nat)
  /-- ENGINE_COMPLETION (R348): A command's accesses are performed; counter rises and NOTIFY sets the flag. -/
  | engineCompletion (vt : Nat) (q : Nat)
  /-- COLLECTIVE_GENERATION (R351): Every participant's collective reaches its head and the generation completes. -/
  | collectiveGeneration (lv : Level) (id : Nat)
  /-- COLLECTIVE_TIMEOUT (R353): Collective deadline expires; arrived participants complete with TIMEOUT. -/
  | collectiveTimeout (lv : Level) (id : Nat)
  /-- PAGE_REQUEST_REPLY (R419): PRQREPLY write grants or denies a request, serving every waiter. -/
  | pageRequestReply (v : Nat) (grant : Bool) (tag : BitVec 16)
  /-- QUANTUM_EXPIRY (R416): A resident gang's quantum ends while another gang has demand. -/
  | quantumExpiry (gr : Nat) (gc : Nat)
  /-- GRACE_EXPIRY (R367): Grace time expires without a soft yield. -/
  | graceExpiry (gr : Nat) (gc : Nat)
  /-- HALT_COMPLETE (R369): All agents reach their halted state; ip.PREEMPT cleared. -/
  | haltComplete (gr : Nat) (gc : Nat)
  /-- SWAP_OUT (R371): Firmware writes the gang image to rim memory. -/
  | swapOut (gr : Nat) (gc : Nat)
  /-- SWAP_IN (R373): A gang is placed and its image restored before it runs. -/
  | swapIn (gr : Nat) (gc : Nat)
  /-- DEBUG_HALT (R378): DBGCTL HALT freezes a role at its next boundary. -/
  | debugHalt (vt : Nat) (r : Nat)
  /-- DEBUG_RESUME (R379): DBGCTL RESUME makes a halted role ready. -/
  | debugResume (vt : Nat) (r : Nat)
  /-- DEBUG_STEP (R379): DBGCTL STEP executes one unit and halts again. -/
  | debugStep (vt : Nat) (r : Nat)
  /-- DEBUG_ROLE_WRITE (R418): Debug page write of a halted role's pc or CSR. -/
  | debugRoleWrite (vt : Nat) (r : Nat) (w : RoleWrite)
  /-- SCRUB_PASS (R382): Periodic scrubber reads and corrects a granule. -/
  | scrubPass (g : Granule) (raced : Bool)
  /-- LASH_INTERVAL_END (R387): A lashed interval ends by count or early event. -/
  | lashIntervalEnd (vt : Nat)
  /-- LASH_EXCHANGE (R388): Fingerprint exchange releases or replays the interval. -/
  | lashExchange (vt : Nat) (agree : Bool)
  /-- BELAY_ROLLBACK (R392): Uncorrectable error in a repeatable superstep rolls the instance back. -/
  | belayRollback
  /-- LASHCFG_WRITE (R386): Write to lashcfg clears DISAG and EARLY. -/
  | lashcfgWrite (vt : Nat)
  /-- BELAYCFG_WRITE (R393): Write to belaycfg clears ROLLBK. -/
  | belaycfgWrite (vt : Nat)
  /-- CP_LOCKSTEP_MISMATCH (R394): Command processor mismatch triggers a firmware restart. -/
  | cpLockstepMismatch
  /-- REPLAY_RELEASE (R396): A held event is released when it is next in the log. -/
  | replayRelease (vt : Nat)
  /-- NOTIFY_WRITE (R410): Write to a notify word sets the queue's pending bit. -/
  | notifyWrite (v : Nat) (q : Nat)
  /-- SLOT_MAPPING (R411): A free slot takes the oldest pending queue. -/
  | slotMapping (k : Nat)
  /-- PIN_EXPIRY (R411): A pinned empty queue releases its slot after the limit. -/
  | pinExpiry (k : Nat)
  /-- SLOT_ROTATION (R411): A long-held busy queue releases its slot. -/
  | slotRotation (k : Nat)
  /-- LAUNCH_DISPATCH (R413): A record at its dispatch point is checked and its gangs placed. -/
  | launchDispatch (k : Nat)
  /-- LAUNCH_GROUP_COMMIT (R434): All members of a domain launch group commit together. -/
  | launchGroupCommit (gid : Nat) (remote : Bool)
  /-- LAUNCH_GROUP_TIMEOUT (R434): A group member waits more than 100 ms and ends BADREC. -/
  | launchGroupTimeout (gid : Nat)
  /-- GRID_COMPLETION (R250): All contexts ended and work finished; leftovers discarded. -/
  | gridCompletion
  /-- COMPLETION_RECORD_RELEASE (R415): A waiting completion record is written once the ring frees. -/
  | completionRecordRelease (v : Nat)
  /-- FENCE_COUNTER_WRITE (R414): Host write sets a fence counter and re-evaluates waits. -/
  | fenceCounterWrite (v : Nat) (k : Nat) (x : W64)
  /-- INVAL2 (R408): partctl INVAL2 write removes cached translations. -/
  | inval2 (v : Nat)
  /-- INVAL2_COMPLETE (R408): Removal completes and INVAL2 clears. -/
  | inval2Complete (v : Nat)
  /-- SCOPECTL_WRITE (R290): Write to scopectl sets limits and clears CLAMPS. -/
  | scopectlWrite (v : Nat) (x : W64)
  /-- ENERGY_WINDOW (R417): Every 1 ms the issue fraction k is recomputed. -/
  | energyWindow (v : Nat) (p : Nat)
  /-- PARTITION_CREATE (R423): CREATE write starts assigning clusters. -/
  | partitionCreate (v : Nat)
  /-- PARTITION_READY (R423): Creation finishes in READY or FAILED. -/
  | partitionReady (v : Nat)
  /-- PARTITION_TEARDOWN (R424): TEARDOWN write aborts grids and starts scrubbing. -/
  | partitionTeardown (v : Nat)
  /-- PARTITION_SCRUB_DONE (R424): Scrub completes and the partition returns to FREE. -/
  | partitionScrubDone (v : Nat)
  /-- ATTESTATION_REQUEST (R420): Tenant requests an attestation report. -/
  | attestationRequest (v : Nat) (nonce : BitVec 512) (buf : W64)
  /-- ATTESTATION_REPORT (R420): Security controller writes the signed report and sets done. -/
  | attestationReport (v : Nat)
  /-- METER_PERIOD (R421): Metering period ends and usage records are written. -/
  | meterPeriod
  /-- USAGE_RECORD_RELEASE (R421): A waiting usage record is written once the ring frees. -/
  | usageRecordRelease
  /-- LINKSTAT_WRITE (R428): Write to linkstat clears RETRY. -/
  | linkstatWrite
  /-- REGISTER_WRITE (R407): Write to any register without behaviour of its own. -/
  | registerWrite (p : HostPage) (off : Nat) (x : W64)
  /-- LINK_BEAT (R427): A strand-link beat arrives; CRC failure is resent. -/
  | linkBeat (l : Nat) (ok : Bool)
  /-- LINK_DOWN (R430): A strand link goes down and traffic is rerouted. -/
  | linkDown (l : Nat)
  /-- MIGRATION_START (R435): migctl START begins a post-copy migration. -/
  | migrationStart (v : Nat)
  /-- PAGE_PULL (R435): A page pull completes and its leaf is rewritten. -/
  | pagePull (v : Nat)
  /-- BACKGROUND_PULL (R435): Pull engine starts pulling the next remaining page. -/
  | backgroundPull (v : Nat)
  /-- POOLPAGES_WRITE (R435): Write of POOLPAGES resumes waiting pulls. -/
  | poolpagesWrite (v : Nat) (n : W64)
  /-- BRINGUP (R442): Power-on bring-up sequence to READY. -/
  | bringup (b : BringUp)
  /-- DIRTY_CLUSTER_SCRUB (R443): Bring-up scrub of a DIRTY cluster completes and it is pooled. -/
  | dirtyClusterScrub (k : Nat)
  /-- THERMAL_WARNING (R447): Outlet or flow warning forces k = 4. -/
  | thermalWarning
  /-- THERMAL_CRITICAL (R447): Critical condition for 1 s removes power. -/
  | thermalCritical
  /-- RV64IM_INSTRUCTION (R337): A helper core executes an ordinary RV64IM or Zicsr instruction, including loads, stores, FENCE and CSR accesses, with its access and page faults. -/
  | rv64imInstruction (w : BitVec 32)
  /-- HELPER_ENGINE_INTERRUPT (R340): A helper core takes its ENGINE interrupt, mip bit 16, with mcause 0x8000_0000_0000_0010. -/
  | helperEngineInterrupt (vt : Nat) (r : Nat)
  /-- CXL_MEM_ACCESS (R406): The host reads or writes module rim memory through CXL.mem, with carry-code creation and poison for protected partitions. -/
  | cxlMemAccess (v : Nat) (gpa : Nat) (n : Nat) (data : Option (List (BitVec 8)))
  /-- PRQHEAD_WRITE (R419): The hypervisor advances PRQHEAD and frees page-request ring entries, so walkers and forwarded requests waiting on a full ring proceed. -/
  | prqheadWrite (v : Nat) (x : W64)
  /-- FIRMWARE_RESTART_COMPLETE (R394): The command-processor firmware restart finishes, and launch dispatch, swaps, summons and partition creation resume. -/
  | firmwareRestartComplete
  /-- THERMAL_WARNING_CLEARED (R447): The outlet temperature and coolant flow return within the warning limits, and the forced k = 4 is lifted. -/
  | thermalWarningCleared
  /-- POWER_LOSS (R445): The module loses power, or is reset, while it runs, which empties the key slots and leaves the persistent DIRTY bits as they stand. -/
  | powerLoss
  deriving DecidableEq, Repr

end Sys2Proof
end

