-- ==== Sys2Proof/Machine/State.lean ====
section
/-! DEFINITION. The state of the machine as plain data (INVENTORY.md, State), its reset value, and the reasons a
step can stop. -/

namespace Sys2Proof.Machine

/-! ## Registers of a context -/

/-- The F tag with the two kinds of empty of R14. -/
inductive Tag | full | awaiting | cleared
  deriving DecidableEq, Repr

/-- A scalar register (R13): value, tag, V. The value and V of an empty register cannot be observed (R14) and are
kept at 0. -/
structure XReg where
  val : W64 := 0
  tag : Tag := .full
  v   : Bool := true
  deriving DecidableEq, Repr

/-- A vector register with one V bit for each 64-bit word (R13, R148). -/
structure VReg where
  val : W512 := 0
  tag : Tag := .full
  v   : BitVec 8 := 0xFF
  deriving DecidableEq, Repr

/-- A hypervector register (R201). -/
structure HReg where
  val : W8192 := 0
  tag : Tag := .full
  deriving DecidableEq, Repr

/-- A tile register (R174, R175): element (i, j) is bits 32 * (32 i + j) + 31 down to 32 * (32 i + j) of `data`.
`inflight` counts the operations that have not completed; the status bit INFLIGHT is `inflight ≠ 0` (R177). -/
structure TReg where
  data     : BitVec 32768 := 0
  valid    : Bool := false
  dirty    : Bool := false
  s32      : Bool := false
  inflight : Nat := 0
  ovf      : W16 := 0
  deriving DecidableEq, Repr

/-- An entry of an inbound direction queue (R253); one whose carry code failed at its arrival holds no value (R384). -/
inductive Entry
  | word (x : W64) (v : Bool)
  | vec (x : W512) (v : BitVec 8)
  | bad (wide : Bool)
  deriving DecidableEq, Repr

/-! ## Accesses -/

/-- Where a byte lies: in the physical map of R321, or at an offset of a tile's window (R315); the own scratchpad is
offset 0 to 0x1F_FFFF of the own tile. -/
inductive Place
  | glob (pa : Nat)
  | tile (vt off : Nat)
  deriving DecidableEq, Repr

/-- A part of an access that lies in one place. -/
structure Piece where
  place : Place
  len   : Nat
  key   : Nat := 0                     -- key identity of the access (R327), 0 for no key
  deriving DecidableEq, Repr

/-- The AMO operations (R297). -/
inductive AmoOp | swap | add | and | or | xor | min | max | minn | maxn | fadd
  deriving DecidableEq, Repr

/-- The record that a `wput` or an `ldk` sends (R262, R263). -/
structure Rec where
  cls     : Nat
  key     : W64
  payload : List W64
  deriving DecidableEq, Repr

/-! ## Why a context is blocked -/

/-- The blocking points (R230). -/
inductive Block
  | xreg (r : Fin 32)                  -- an empty or awaiting scalar register (R18, R20)
  | vreg (r : Fin 32)
  | hreg (r : Fin 8)
  | fill (r : Nat)                     -- an off-core load that left the core (R231); register code of R361
  | portEmpty (dir : Fin 4) (n : Nat)  -- the direction queue holds no entry n (R254)
  | credit (dir : Fin 4)               -- no credit for a send (R236)
  | streamIn (q n : Nat)               -- fewer than n units (R259)
  | streamOut (n : Nat)                -- fewer than n free units in q11
  | engine (q n : Nat)                 -- fewer than n free beat slots (R344)
  | efence (mask : Nat)
  | ni                                 -- the NI holds 8 records (R262)
  | inflight (t : Fin 8)               -- a tile register with INFLIGHT = 1 (R177)
  | arrayFull                          -- R200
  | outstanding                        -- sixteen accesses (R366)
  | home                               -- earlier stores are not at their home cache (R142, R334)
  | ordered (reads writes : Bool)      -- an ordering waits for the context's reads or its writes to be performed (R285, R292)
  | bar (lv : Level)
  | wire (lv : WLevel)
  | wfe | wfi
  | record                             -- `wwait`, `wdisp` (R267)
  | page (tag : Nat)                   -- a page request waits for its reply (R332)
  | pull (leaf : Nat)                  -- a migration pulls the page of a stage-2 leaf, named by its address (R435)
  | prqFull                            -- the page-request ring is full (R419)
  | parkFull (gr gc : Nat)             -- the parked queue of a gang is full (R248)
  | tables (t8 t4 : Bool)              -- users of a decode table have not finished (R97)
  | service                            -- the runtime waits on the context's behalf (R448)
  deriving DecidableEq, Repr

/-- What a committed access that is not yet complete will do (R364, R366). -/
inductive AccKind
  | load (d : Fin 32) (sgn : Bool)
  | loadQ (d : Fin 32)
  | vload (d : Fin 32)
  | vbcast (d : Fin 32)
  | hload (d : Fin 8)
  | amo (d : Fin 32) (op : AmoOp) (b : W64) (dword : Bool)
  | casD (d : Fin 32) (exp new : W64)
  | casQ (d : Fin 32) (exp new : BitVec 128)
  | ldk (id : Nat)
  | wbld (slot : Nat) (seq : Nat)
  deriving DecidableEq, Repr

/-- The synchronous causes and the interrupts of R361. -/
inductive Cause
  | illegal | priv | misalign | fetchFault | loadFault | storeFault | access | empty | portKind | portEdge
  | encode | syscall | brk | barTimeout | barExcess | uncorr | belayFull | scope | poison
  | preempt | timer | soft | engine | debug
  deriving DecidableEq, Repr

/-- A fault that is delivered after its access has committed (R364). -/
structure DFault where
  cause : Cause
  tval  : W64
  tval2 : W64
  deriving DecidableEq, Repr

/-- The agents of R279. `far` names one of a grid that is not in focus, by its place in `State.bg`: `c` is 0 to 3 for a context,
4 the loader core, 5 the storer core, 8 + i the engine queue i. -/
inductive Agent
  | ctx (vt c : Nat)
  | helper (vt : Nat) (storer : Bool)
  | engine (vt q : Nat)
  | far (k vt c : Nat)
  | firmware                           -- a command processor of this module
  | domain                             -- an agent of another module
  | host                               -- the host or a CXL device
  deriving DecidableEq, Repr

/-- A committed access whose fill has not landed (R364, R366). `data` is its result once it has been performed,
`cancelled` lists the destinations that a window write took (R19), `reissue` that a squall halt abandoned it (R369). -/
structure Access where
  kind      : AccKind
  va        : W64
  size      : Nat
  pieces    : List Piece
  data      : Option (List Byte) := none
  ok        : Bool := true
  fault     : Option DFault := none
  cancelled : List Nat := []
  reissue   : Bool := false
  page      : Option Block := none     -- a reissued access that waits for a page request (R373)
  acq       : Bool := false            -- annotated acquire: ordered before every later access (R285)
  away      : Option Agent := none     -- the agent outside its scope that the schedule has named for its ordering (R289, log 7)
  got       : List (Nat × List Byte) := []   -- parts of a striped access that have been performed, by number (R313)
  code      : List W32 := []           -- carry codes of the data that a response brings; none while there is no response (R383)
  agreed    : Bool := false            -- an AMO, CAS or `ldk` of a lashed tile whose interval has agreed (R389)
  seq       : Nat := 0                 -- its place in the order of sends at its commit (R240)
  root      : BitVec 41 := 0           -- the space it was made in
  asid      : W16 := 0
  smode     : Bool := false
  deriving DecidableEq, Repr

/-- Run state of a context (R229, R372); `frozen` stands at `tvec` after PREEMPT was taken (R369). -/
inductive Run
  | notStarted
  | ready
  | blocked (b : Block)
  | frozen
  | ended
  deriving DecidableEq, Repr

/-- Which word the context executes next (R25): a unit by the framing rules, or the A word of a pair alone. -/
inductive Pos | unit | aWord
  deriving DecidableEq, Repr

/-- `status` (R29) by fields. -/
structure Status where
  xfer   : Bool := false
  belay  : Bool := false
  lashed : Bool := false
  rm     : BitVec 2 := 0
  half   : Bool := false
  pmode  : Bool := false
  pie    : Bool := false
  ie     : Bool := false
  mode   : Bool := false
  deriving DecidableEq, Repr

/-- How an arrival of the context stands (R240 to R242, R272). -/
inductive Arrival
  | none
  | waiting
  | done (v : W64)                     -- completed; the combined value of a vote
  | late (count gen : Nat)             -- abandoned
  deriving DecidableEq, Repr

/-- The context's generation number at a level and its arrival (R239, R272). -/
structure BarPos where
  gen : Nat := 0
  arr : Arrival := .none
  seq : Nat := 0                       -- place of a context-level arrival in the order of sends (R240)
  after : Bool := false                -- the completion came after a halt of the context's gang had begun (R365)
  deriving DecidableEq, Repr

/-- A fault record of an engine (R355 to R357). -/
structure FaultRec where
  status : Byte
  seq    : W16
  queue  : Nat
  op     : BitVec 4
  base   : BitVec 24
  fva    : W64
  fmask  : W64
  deriving DecidableEq, Repr

/-- Debug control of a role (R377). -/
structure Dbg where
  halted  : Bool := false
  pending : Bool := false
  brkHit  : Bool := false
  brkHalt : Bool := false
  notify  : Bool := false
  step    : Bool := false
  msg     : W64 := 0
  deriving DecidableEq, Repr

/-- The walk of a word that waits for the reply to its page request (R332): the address, where the walk stopped, the fault
that a denial raises at the word, the word's address and mode, and whether the request has been denied. -/
structure Denial where
  va     : W64
  gpa    : Nat
  s1walk : Bool
  cause  : Cause
  at_    : W64
  smode  : Bool
  denied : Bool := false
  deriving DecidableEq, Repr

/-- What the runtime has saved of the trap that it serves before it waits with `status.IE` = 1 (R36, R448), with the page
request that it waits for and the reply that has come meanwhile. -/
structure WaitFrame where
  epc     : W64
  cause   : Byte
  tval    : W64
  tval2   : W64
  xtarget : W64
  status  : Status
  req     : Option Nat
  reply   : Option Bool := none
  deriving DecidableEq, Repr

/-- A store that is committed and not performed yet (R42, R280). -/
structure Post where
  place : Place
  key   : Nat
  bytes : List Byte
  code  : List W32                     -- carry codes of its data, made as it leaves the tile (R383)
  deriving DecidableEq, Repr

/-- A fence that the context has passed while the schedule names an agent outside its scope (R289, log 7): that agent, the sets of
R292, the place of the fence in the order of sends, and the posted stores before it. -/
structure Passed where
  away   : Agent
  reads  : Bool
  writes : Bool
  seq    : Nat
  posts  : List Post
  deriving DecidableEq, Repr

/-- A context (R13, R27, R372). -/
structure Ctx where
  id       : Nat := 0
  run      : Run := .notStarted
  x        : Vector XReg 32 := Vector.replicate 32 {}
  v        : Vector VReg 32 := Vector.replicate 32 {}
  t        : Vector TReg 8 := Vector.replicate 8 {}
  h        : Vector HReg 8 := Vector.replicate 8 {}
  b        : Vector (BitVec 65536) 2 := Vector.replicate 2 0
  pc       : W64 := 0
  pos      : Pos := .unit
  inPair   : Bool := false
  xfer     : Option W64 := none
  viaSret  : Bool := false             -- the A word is being run alone by `sret` (R34, R35)
  status   : Status := {}
  epc      : W64 := 0
  cause    : Byte := 0
  tval     : W64 := 0
  tval2    : W64 := 0
  tvec     : W64 := 0
  scratch  : W64 := 0
  ie       : BitVec 5 := 0b11101
  ipSoft   : Bool := false
  ipDebug  : Bool := false
  ipPre    : Bool := false
  xtarget  : W64 := 0
  fflags   : BitVec 5 := 0
  mDom     : Bool := false
  mGrid    : Bool := true
  mGang    : Bool := true
  mTile    : Bool := true
  runcap   : W32 := 0
  turn     : Nat := 0
  portcfg  : BitVec 4 := 0
  pitch    : BitVec 18 := 4
  sat      : BitVec 2 := 0
  frecs    : List FaultRec := []
  cnt      : Vector W64 7 := Vector.replicate 7 0
  bto      : W32 := 0x00100000
  bars     : Vector BarPos 7 := Vector.replicate 7 {}   -- tile, gang, grid, dom, wire gang, wire grid, own context
  instret  : W64 := 0
  tmatch   : W64 := 0xFFFFFFFFFFFFFFFF
  ptroot   : BitVec 41 := 0
  asid     : W16 := 0
  inq      : Vector (List Entry) 4 := Vector.replicate 4 []      -- n e s w
  qin      : Vector (List W64) 4 := Vector.replicate 4 []        -- q0 to q3
  qbad     : List (Nat × Nat) := []    -- units of q0 to q3 whose carry code failed: port, and place in it (R384)
  qout     : List W64 := []                                      -- q11
  watch    : Option Nat := none
  evt      : Bool := false
  accs     : List Access := []
  dfaults  : List DFault := []
  denial   : Option Denial := none
  kept     : Option (Nat × Denial) := none  -- the page request that a pre-empted word waited for, with its reply (R369)
  fetched  : Option W32 := none        -- the A word of the pair in execution, read with its C word (R52)
  frame    : Option WaitFrame := none      -- what the runtime has saved in a wait (R448)
  posted   : List Post := []           -- stores not performed yet, in program order (R280)
  slow     : Bool := false             -- its next store stays posted (log 7)
  outside  : Option Agent := none      -- an agent that accesses what its next ordering covers (R289, log 7)
  passed   : List Passed := []         -- fences whose orderings towards such an agent are still to be decided (R289, log 7)
  contBar  : Option W64 := none        -- time-out continuation (R404)
  contEng  : Option W64 := none        -- engine-fault continuation (R439)
  recv     : Option (Nat × W64 × List W64 × W64) := none  -- record delivered by the dispatch event: class, key, lanes, meta
  recvBad  : Bool := false             -- a record folded into it had failed its carry code (R384)
  dbg      : Dbg := {}
  deriving DecidableEq, Repr

/-! ## Memory -/

/-- A byte store: address and byte, addresses strictly rising, no byte equal to what an unlisted address reads as
(R321, R41; log 6). -/
structure Memory where
  cells : List Host.Cell := []
  deriving DecidableEq, Repr

/-! ## A tile -/

/-- A weight-buffer slot (R179 to R181). `issued` numbers its writes in commit order, `applied` those that have
taken effect; `pend` holds the ones between, with the bytes once they have arrived. -/
structure SlotWrite where
  clear : Bool := false
  data  : Option (List Byte) := none
  vlen  : Nat := 0
  sp    : Bool := false
  bad   : Bool := false
  deriving DecidableEq, Repr

structure Slot where
  svalid  : Bool := false
  vals    : BitVec 16384 := 0
  mta     : BitVec 2048 := 0
  issued  : Nat := 0
  applied : Nat := 0
  pend    : List SlotWrite := []
  deriving DecidableEq, Repr

/-- A recall-memory entry (R213). -/
structure Recall where
  valid : Bool := false
  data  : W8192 := 0
  deriving DecidableEq, Repr

/-- An operation of the array queue (R185, R200). `need` is how many writes of the slot it reads behind. -/
structure ArrOp where
  c     : Nat
  d     : Fin 8
  p     : Pair
  sp    : Bool
  aAddr : W64
  pitch : Nat
  rows  : Option (List Byte)
  slot  : Nat
  need  : Nat
  wb    : Option (BitVec 16384 × BitVec 2048)
  scale : W64
  unit  : Bool
  slotBad : Bool := false              -- the slot had an uncorrectable error when the operation read it (R350)
  repaired : Nat := 0                  -- correctable errors of the slot that the operation's read has repaired (R381)
  deriving DecidableEq, Repr

/-- An entry of the splice queue (R264). A lane is the element's bits, or the 72-bit sum of a fadd_fixed lane. -/
structure SEntry where
  cls     : Nat
  key     : W64
  lanes   : List Int
  folds   : Nat
  ovf     : Bool
  spilled : Bool
  seq     : Nat
  bad     : Bool := false              -- a record folded into it had failed its carry code (R384)
  deriving DecidableEq, Repr

/-- A record of the spill ring with its converted lanes (R265). -/
structure Spill where
  cls   : Nat
  key   : W64
  lanes : List Int
  ovf   : Bool
  bad   : Bool := false                -- it had failed its carry code (R384)
  deriving DecidableEq, Repr

/-- A record that the sending NI holds (R262 to R264). -/
structure NiRec where
  id      : Nat
  c       : Nat
  dst     : Nat
  r       : Rec
  loaded  : Bool                       -- false while the load of an `ldk` has not been performed
  refused : Bool := false
  ldk     : Bool := false
  seq     : Nat := 0                   -- as for `Msg`
  loose   : Option Agent := none
  deriving DecidableEq, Repr

/-- A command of an engine queue with its progress (R344 to R356). -/
structure Cmd where
  beats    : List (W64 × W64)
  agent    : Nat                       -- 0 to 3 contexts, 4 loader, 5 storer
  seq      : W16
  ptroot   : BitVec 41 := 0
  asid     : W16 := 0
  smode    : Bool := false
  bto      : Nat := 0
  started  : Bool := false
  done     : Nat := 0                  -- units performed
  win      : Option Nat := none        -- window of the first faulting chunk
  skip     : Option Nat := none        -- chunk that faulted, whose rest is skipped
  mask     : W64 := 0
  fva      : Option W64 := none
  status   : Option Byte := none
  crc      : W32 := 0xFFFFFFFF
  join     : List (Nat × W16) := []    -- commands a JOIN waits for: queue and sequence
  finished : Bool := false
  deadline : Option Nat := none
  follow   : Option ArrOp := none
  base     : Nat := 0
  deriving DecidableEq, Repr

structure EQueue where
  cmds   : List Cmd := []
  halted : Bool := false
  next   : W16 := 0
  deriving DecidableEq, Repr

/-- Beats held in an assembly buffer (R344). -/
structure Asm where
  agent  : Nat
  q      : Nat
  beats  : List (W64 × W64)
  follow : Option ArrOp := none        -- the follow-on MMA that the header captured (R350)
  deriving DecidableEq, Repr

/-- A cached translation (R333). -/
structure TlbE where
  vf   : Nat
  asid : W16
  g    : Bool
  base : Nat
  size : Nat
  pa   : Nat
  r    : Bool
  w    : Bool
  x    : Bool
  u    : Bool
  d    : Bool
  key  : BitVec 13
  deriving DecidableEq, Repr

/-- A line of the instruction cache (R44, R323; log 9). -/
structure ILine where
  base  : Nat
  bytes : List Byte
  deriving DecidableEq, Repr

/-- A message in flight or parked (R247, R375). Its sender's number is 0 to 3 for a context, 4 the loader core, 5 the
storer core, 8 + i the engine queue i. -/
inductive Body
  | port (c : Nat) (dir : Fin 4) (e : Entry)       -- into inbound queue dir of context c
  | store (off : Nat) (bytes : List Byte)
  | parts (l : List (Nat × List Byte))              -- a store of several parts of a register block, one access (R316)
  | stream (c q : Nat) (units : List W64)
  | record (r : Rec)
  | loadReq                                         -- a window load to an absent tile (R314, R375)
  deriving DecidableEq, Repr

structure Msg where
  src  : Nat
  c    : Nat
  dst  : Nat
  body : Body
  code : List W32 := []                -- carry codes of its data, one for each 64-byte block it covers (R383)
  seq  : Nat := 0                      -- place in the order of everything that the grid's tiles send
  loose : Option Agent := none         -- the agent outside the scope of its release that the schedule has named (R289, log 7)
  ldk   : Bool := false                -- the record of an `ldk` (R395)
  deriving DecidableEq, Repr

/-- What a generation is: a barrier or a vote operation (R243). -/
inductive BarKind | sync | voteAnd | voteOr | voteAdd
  deriving DecidableEq, Repr

structure ArrRec where
  vt       : Nat
  c        : Nat
  val      : W64
  deadline : Option Nat
  seq      : Nat := 0                  -- its place in the order of sends (R240)
  loose    : Option Agent := none      -- as for `Msg`
  deriving DecidableEq, Repr

/-- What a lashed tile holds back until its interval agrees (R387). -/
inductive Out
  | msg (m : Msg)
  | store (pa key : Nat) (bytes : List Byte) (agent : Nat)   -- 0 to 3 a context, 4 the loader core, 5 the storer core
  | record (r : NiRec)
  | cmd (q : Nat) (c : Cmd)
  | arrive (lv : Nat) (kind : BarKind) (gen : Nat) (a : ArrRec)   -- an arrival at a generation
  deriving DecidableEq, Repr

/-- A generation that has completed, with its value, or has been abandoned, with the number that had arrived and its members, while
a lashed tile was within an interval (R388). -/
inductive BarNote
  | passed (lv gen : Nat) (v : W64)
  | late (lv gen n : Nat) (members : List (Nat × Nat))
  deriving DecidableEq, Repr

/-- What a tile has added to the counters of its grid within a lashed interval (R388). -/
structure Tally where
  uncorr   : Nat := 0
  notTaken : Nat := 0
  recDrop  : Nat := 0
  cmdDrop  : Nat := 0
  trapEnd  : Nat := 0
  deriving DecidableEq, Repr

/-- Lashing state of a tile (R386 to R388). -/
structure Lash where
  role    : BitVec 2 := 0
  disag   : W16 := 0
  early   : W16 := 0
  count   : Nat := 0
  fp      : W64 := 0xFFFFFFFFFFFFFFFF
  pfp     : W64 := 0xFFFFFFFFFFFFFFFF  -- the partner tile's fingerprint (R385, R387)
  gated   : List Out := []
  undo    : List (Nat × List Byte) := []
  due     : Bool := false              -- an early event of R387 ends the interval
  waiting : Bool := false              -- the interval has ended and the exchange is due
  second  : Bool := false              -- the interval is a repeat
  inb     : List Msg := []             -- what has arrived at the tile in the interval, for a repeat of it (R385, R388)
  fin     : List (Nat × Cmd) := []     -- commands that have completed in it, with their queues
  recs    : List (Nat × FaultRec × Option ArrOp) := []   -- fault records delivered in it, with the follow-on of the command
  passed  : List BarNote := []         -- generations that have ended in it
  taken   : List (Nat × Nat) := []     -- contexts and how many units of their q11 engines have taken in it
  tally   : Tally := {}
  deriving DecidableEq, Repr

/-- A store that belay holds (R391), with the number of its agent in the tile. -/
structure Held where
  pa    : Nat
  key   : Nat
  bytes : List Byte
  agent : Nat
  deriving DecidableEq, Repr

/-- Belay state of a tile (R390 to R393). -/
structure Belay where
  rollbk : W16 := 0
  unrep  : Bool := false
  again  : Bool := false               -- the superstep is a repeat (R392)
  seq    : Nat := 0                    -- place in the order of sends at the belay point
  held   : List Held := []
  lines  : List (Nat × List Byte) := []        -- journaled scratchpad lines
  slots  : List (Nat × Slot) := []
  rmem : List (Nat × Recall) := []
  deriving DecidableEq, Repr

/-- A log entry of record mode (R395). -/
structure LogE where
  kind : BitVec 4
  role : BitVec 3
  at_  : BitVec 57
  arg  : W64
  deriving DecidableEq, Repr

/-- The machine CSRs of a helper core (R337, R340; PRESUMED RISC-V, log 12). -/
structure MCsr where
  mstatus  : W64 := 0
  mtvec    : W64 := 0
  mepc     : W64 := 0
  mcause   : W64 := 0
  mtval    : W64 := 0
  mie      : W64 := 0
  mscratch : W64 := 0
  mcycle   : W64 := 0
  minstret : W64 := 0
  deriving DecidableEq, Repr

/-- A helper core (R337 to R343). -/
structure Helper where
  started : Bool := false
  stopped : Bool := false
  waiting : Bool := false
  x       : Vector W64 32 := Vector.replicate 32 0
  pc      : W64 := 0
  mmode   : Bool := false
  csr     : MCsr := {}
  istore  : Memory := {}
  dstore  : Memory := {}
  evt     : Bool := false
  watch   : Option Nat := none
  frecs   : List FaultRec := []
  cnt     : Vector W64 7 := Vector.replicate 7 0
  tlb     : List TlbE := []
  stall   : Option Nat := none         -- page request the core waits on
  denial  : Option Denial := none
  posted  : List Post := []            -- as for a context
  slow    : Bool := false
  outside : Option Agent := none
  retired : Nat := 0
  dbg     : Dbg := {}
  deriving DecidableEq, Repr

/-- A tile (R3, R27, R371). `others` holds its contexts other than the one that `State.c` holds, if that one is a
context of this tile. -/
structure Tile where
  vt      : Nat := 0
  others  : List Ctx := []
  sp      : Memory := {}
  slots   : Vector Slot 128 := Vector.replicate 128 {}
  rmem    : Vector Recall 256 := Vector.replicate 256 {}
  tab8    : Vector (BitVec 19) 256 := Vector.replicate 256 0
  tab4    : Vector (BitVec 19) 16 := Vector.replicate 16 0
  toff    : BitVec 21 := 0
  nan4    : BitVec 4 := 8
  nan8    : Byte := 0x80
  sq      : List SEntry := []
  seqNext : Nat := 0
  spill   : List Spill := []
  ringAt  : Nat := 0                   -- place of the spill ring's head (R265)
  inhand  : W16 := 0
  folds   : W32 := 0
  ovfn    : W32 := 0
  recWait : List Nat := []             -- contexts that wait for a record, the first one first (R249)
  ni      : List NiRec := []
  niNext  : Nat := 0
  eq      : Vector EQueue 7 := Vector.replicate 7 {}
  asm     : List Asm := []
  pushed  : List (Nat × Cmd) := []     -- commands whose last beat is pushed and that have not entered their queue yet (R344)
  arrq    : List ArrOp := []
  cur     : Nat := 0                   -- the running context (R229)
  switch  : Bool := false              -- it stands at a switch point (R230)
  itlb    : List TlbE := []
  dtlb    : List TlbE := []
  etlb    : List TlbE := []
  icache  : List ILine := []
  lash    : Lash := {}
  belay   : Belay := {}
  log     : List LogE := []
  logOut  : Nat := 0                   -- entries of a recorded log that are in its buffer
  fps     : List W64 := []             -- fingerprints of a replay that have not been checked (R396)
  rfp     : W64 := 0xFFFFFFFFFFFFFFFF  -- the fingerprint that the log takes every 4096 bundles, and their count (R395)
  rcount  : Nat := 0
  sqCycle : Option Nat := none         -- cycle in which the port of the splice queue performed its last event (R266)
  bad     : List (Nat × Nat) := []     -- uncorrectable granules: SRC code of R362 and granule
  soft    : List (Nat × Nat) := []     -- granules with a correctable error
  seen    : List (Nat × Nat) := []     -- uncorrectable granules that the scrubber has counted (R382)
  written : List Nat := []             -- 4 KiB blocks written since the last save (R371)
  collGen : Vector Nat 3 := Vector.replicate 3 0   -- collective commands issued at gang, grid, dom
  ldr     : Helper := {}
  str     : Helper := {}
  deriving DecidableEq, Repr

/-! ## A grid -/

/-- A descriptor of the class table (R260). -/
structure ClassD where
  decl    : Bool := false
  handler : W64 := 0
  scale   : Nat := 0
  prio    : Bool := false
  op      : Nat := 0
  et      : Nat := 0
  words   : Nat := 0
  deriving DecidableEq, Repr

/-- The open generation of a level instance (R239 to R243). `lv` is 0 tile, 1 gang, 2 grid, 3 domain, 4 wire gang,
5 wire grid, the index of `Ctx.bars`. -/
structure Bar where
  lv        : Nat
  id        : Nat
  gen       : Nat := 0
  held      : Bool := false
  members   : List (Nat × Nat)
  kind      : Option BarKind := none
  arrivals  : List ArrRec := []
  abandoned : List (Nat × Nat) := []   -- generation and count of arrived contexts
  deriving DecidableEq, Repr

/-- A part of the image of a gang in its shadow region: tile, its number within the tile, and contents (R371, R372). -/
inductive ImgItem
  | block (vt n : Nat) (cells : List Host.Cell)
  | slot (vt k : Nat) (vals : BitVec 16384) (mta : BitVec 2048)
  | recall (vt k : Nat) (data : W8192)
  | recallBits (vt : Nat) (valid : List Bool)
  | tables (vt : Nat) (t8 t4 : List (BitVec 19)) (nan8 : Byte) (nan4 : BitVec 4)
  | entry (vt : Nat) (e : SEntry)
  | splice (vt seq : Nat) (inhand : W16) (folds ovf : W32) (head tail : Nat)
  | place (vt c : Nat) (pc : W64) (resume : Bool) (xfer : Option W64) (run : Run)
  | csrs (vt c : Nat) (regs : List (Nat × W64)) (frecs : List FaultRec)
  | xregs (vt c : Nat) (regs : List (W64 × BitVec 2))
  | vregs (vt c : Nat) (v : List VReg) (h : List HReg) (b : List (BitVec 65536))
  | tileReg (vt c i : Nat) (data : BitVec 32768)
  | tileStatus (vt c : Nat) (l : List W64)
  | reissue (vt c : Nat) (accs : List Access) (faults : List DFault)
  | queues (vt c : Nat) (inq : List (List Entry)) (qin : List (List W64)) (qout : List W64)
  | barriers (vt c : Nat) (bars : List BarPos) (evt : Bool) (watch : Option Nat) (recv : Option (Nat × W64 × List W64 × W64))
  | helper (vt : Nat) (storer : Bool) (h : Helper)
  | engines (vt : Nat) (eq : List EQueue) (asm : List Asm) (pushed : List (Nat × Cmd)) (gens : List Nat) (arrq : List ArrOp)
  | ni (vt : Nat) (recs : List NiRec) (credits : List Nat)
  deriving DecidableEq, Repr

/-- A gang (R225 to R227, R367 to R376). -/
structure Gang where
  gr       : Nat
  gc       : Nat
  resident : Bool := false
  clusters : List Nat := []
  yieldReq : Bool := false
  grace    : Option Nat := none
  halting  : Bool := false
  halted   : Bool := false
  soft     : Bool := false             -- the halt is a soft yield
  parked   : List Msg := []
  faulted  : Bool := false
  summon   : Bool := false
  faults   : Nat := 0
  placedAt : Nat := 0
  quantum  : Nat := 0                  -- cycle at which the quantum ends
  swapped  : Bool := false             -- has been swapped out before
  image    : List ImgItem := []        -- its shadow region, as the last swap-out has written it
  asked    : Nat := 0                  -- cycle of its request for clusters (R416)
  summonAt : Nat := 0                  -- cycle of the tile fault that has summoned it (R376)
  deriving DecidableEq, Repr

/-- The collective generation of a level instance (R351 to R353): the participants that stand at their queue heads,
with the data they contribute. -/
structure Coll where
  lv        : Nat                      -- 1 gang, 2 grid, 3 domain
  id        : Nat
  gen       : Nat := 0
  arrived   : List (Nat × Bool × List Byte) := []   -- tile, own checks passed, source bytes
  abandoned : List Nat := []
  deriving DecidableEq, Repr

/-- The launch of a grid and what the grid shares (R224, R225, R412). -/
structure Grid where
  live     : Bool := false
  vf       : Nat := 0
  w        : Nat := 1
  h        : Nat := 1
  gw       : Nat := 1
  gh       : Nat := 1
  nctx     : Nat := 1
  prio     : Nat := 0
  reg      : Bool := false
  belay    : Nat := 0
  rr       : Nat := 0
  domgrp   : Bool := false
  group    : Nat := 0
  grpN     : Nat := 1                  -- members of the domain launch group, and this grid's index in it (R434)
  grpIdx   : Nat := 0
  grpHere  : List Nat := [0]           -- indices of the members that run, or have run, on this module
  spillCap : Nat := 65536
  parkCap  : Nat := 262144
  logCap   : Nat := 0
  tag      : W64 := 0
  sigEn    : Bool := false
  sigId    : Nat := 0
  sigInc   : W32 := 0
  startT   : Nat := 0
  classes  : Vector ClassD 16 := Vector.replicate 16 {}
  bars     : List Bar := []
  gangs    : List Gang := []
  mesh     : List Msg := []
  sendNext : Nat := 0
  colls    : List Coll := []
  ctlb     : List (Nat × TlbE) := []   -- second-level TLB of each virtual cluster
  diverged : Option (Nat × Nat) := none  -- tile and POS of a replay's first mismatch, which stops the grid (R396)
  spine    : List LogE := []           -- log entries of the control spine (R395)
  spineOut : Nat := 0
  logVa    : W64 := 0                  -- record or replay log buffer, and the space it is translated in (R412)
  root     : BitVec 41 := 0
  asid     : W16 := 0
  trapEnd  : Nat := 0
  trapWhy  : Nat := 0
  uncorr   : Nat := 0
  notTaken : Nat := 0
  recDrop  : Nat := 0
  cmdDrop  : Nat := 0
  rollbks  : Nat := 0
  logFull  : Bool := false
  rollReq  : List Nat := []            -- tiles that consumed an uncorrectable error of a repeatable superstep (R392)
  lashChk  : List Tile := []           -- checkpoints of lashed tiles (R387), whole tiles
  belayChk : List Tile := []           -- checkpoints of the belay points (R390), whole tiles
  chkBars  : List Bar := []            -- the generations and the collectives at the belay points
  chkColls : List Coll := []
  partners : List Tile := []           -- the partner tiles of lashed ones, whole, with the numbers of their primaries (R385)
  partnerChk : List Tile := []         -- their checkpoints (R387)
  deriving DecidableEq, Repr

/-- A grid that is not in the focus of the state, with its tiles. -/
structure GridBox where
  g     : Grid
  tiles : List Tile
  deriving DecidableEq, Repr

/-! ## The module and its hosts -/

inductive PState | free | creating | ready | teardown | scrubbing | failed
  deriving DecidableEq, Repr

/-- A launch queue (R409 to R411). -/
structure LQueue where
  q      : Nat
  base   : W64 := 0
  log2   : Nat := 0
  pin    : Bool := false
  en     : Bool := false
  tail   : W32 := 0
  head   : W32 := 0
  notify : Option Nat := none          -- cycle of the pending notify
  deriving DecidableEq, Repr

/-- A page request of the ring (R419). -/
structure PReq where
  tag    : W16
  kind   : BitVec 2
  s1walk : Bool
  stage1 : Bool
  va     : W64
  gpa    : Nat
  vt     : Nat
  role   : Nat
  asid   : W16
  deriving DecidableEq, Repr

/-- A completion record (R415) as its eight dwords. -/
structure Compl where
  dw : List W64
  deriving DecidableEq, Repr

/-- Migration words (R435). -/
structure Mig where
  st       : BitVec 2 := 0
  poisoned : W32 := 0
  src      : BitVec 4 := 0
  poolBase : W64 := 0
  poolN    : W64 := 0
  pulling  : List Nat := []            -- addresses of the stage-2 leaves being pulled
  deriving DecidableEq, Repr

/-- A virtual function and its configuration block (R407, R408). -/
structure Vf where
  st       : PState := .free
  clusters : BitVec 10 := 0
  inval2   : Bool := false
  lash     : Bool := false
  prot     : Bool := false
  s2root   : BitVec 41 := 0
  s2en     : Bool := false
  scopeCap : Nat := 7
  scopeAct : Bool := false
  clamps   : W32 := 0
  quantum  : W32 := 1000
  grace    : W16 := 50
  weight   : Byte := 1
  maxRes   : Byte := 0
  summon   : BitVec 2 := 0
  k        : Nat := 8
  budget   : W32 := 0
  scrubPgs : List Nat := []            -- 64 KiB rim pages that a teardown has still to scrub (R424)
  partNo   : Nat := 0                  -- partitions created so far
  prqBase  : W64 := 0
  prqTail  : Nat := 0
  prqHead  : Nat := 0
  nextTag  : W16 := 0
  reqs     : List PReq := []           -- outstanding
  meters   : Vector W64 7 := Vector.replicate 7 0
  chainN   : Nat := 0
  chainH   : W512 := 0
  queues   : List LQueue := []
  fences   : Vector W64 256 := Vector.replicate 256 0
  starve   : W16 := 0
  cbase    : W64 := 0
  clog2    : Nat := 0
  chead    : W64 := 0
  ctail    : W64 := 0
  cwait    : List Compl := []
  attNonce : W512 := 0
  attBuf   : W64 := 0
  attDone  : Bool := false
  attPend  : Bool := false
  joined   : Bool := false             -- dompart (R433)
  setId    : BitVec 12 := 0
  home     : BitVec 4 := 0
  mig      : Mig := {}
  owned    : List Nat := []            -- clusters assigned
  winAt    : Nat := 0                  -- energy windows that have ended (R417)
  deriving DecidableEq, Repr

inductive Pool | free | assigned (v : Nat) | dirty | excluded
  deriving DecidableEq, Repr

/-- A physical cluster (R425, R443, R445). -/
structure Cluster where
  defects : Nat := 0
  pool    : Pool := .excluded
  dirty   : Bool := false              -- persistent DIRTY bit of the BMC
  deriving DecidableEq, Repr

/-- A launch slot (R411). -/
structure LSlot where
  n     : Nat                          -- 0 to 255
  v     : Nat
  q     : Nat
  since : Nat
  deriving DecidableEq, Repr

/-- A member of a domain launch group that waits at its dispatch point (R434). -/
structure GroupWait where
  gid   : Nat
  count : Nat
  idx   : Nat
  since : Nat
  v     : Nat
  q     : Nat
  dw    : List W64                     -- the record, and its grid size
  w     : Nat
  h     : Nat
  deriving DecidableEq, Repr

/-- `failed` names the step of R442 and the cause that the BMC reports. -/
inductive Power | off | inReset | failed (step cause : Nat) | ready
  deriving DecidableEq, Repr

/-- The module status is READY (R442). -/
def Power.isReady : Power → Bool
  | .ready => true
  | _ => false

/-- The module (R12, R321, R407, R428). -/
structure Module where
  cycle    : Nat := 0
  mem      : Memory := {}
  badMem   : List Nat := []            -- uncorrectable 64-byte blocks
  softMem  : List Nat := []            -- blocks with a correctable error
  badHome  : List Nat := []            -- uncorrectable granules of 8 bytes of the home caches (R381)
  softHome : List Nat := []            -- granules of the home caches with a correctable error
  seenMem  : List Nat := []            -- uncorrectable blocks that the scrubber has counted (R382)
  codes    : List (Nat × W32) := []    -- blocks whose stored carry code is not that of their data, with it (R383, R384)
  vfs      : Vector Vf 64 := Vector.replicate 64 {}
  slots    : List LSlot := []
  clusters : List Cluster := List.replicate 896 {}
  power    : Power := .off
  corrErr  : W64 := 0
  uncErr   : W64 := 0                  -- uncorrectable granules that the scrubber has found (R382)
  errLog   : List (Nat × W64) := []    -- code of the entry and its detail
  restarts : W64 := 0
  restart  : Bool := false             -- the command processors restart (R394)
  domEn    : Bool := false
  domMem   : W16 := 0
  modId    : BitVec 4 := 0
  linkUp   : W32 := 0
  linkRet  : W32 := 0
  farDown  : List Nat := []            -- links between other members that are down: 32 * (member + 1) + link (R430)
  pullWait : Bool := false             -- a walk in this step has met a page that is being pulled or that the pool lacks (R435)
  cxlUp    : BitVec 4 := 0             -- CXL ports that are up (R445)
  warn     : Bool := false             -- thermal warning
  outlet   : Int := 0                  -- what the BMC last measured: outlet temperature, and flow in L/min (R447)
  flow     : Nat := 60
  bmc      : Nat := 0                  -- the BMC's clock, which counts whatever power the module has, in cycles of 1.9 GHz
  critAt   : Option Nat := none        -- its time since which the critical limits are passed (R447)
  fwImage  : List Byte := []           -- the firmware image and the runtime image, with their measurements (R444)
  rtImage  : List Byte := []
  keyHash  : W512 := 0                 -- the key hash fused in the spine (R442)
  fwHash   : W512 := 0
  rtHash   : W512 := 0
  cxlOut   : Option (List Byte × Bool) := none   -- the last answer to a read of the host: its data, and whether it is poisoned (R384)
  msix     : List (Nat × Nat) := []    -- MSI-X signals sent: function and vector (R436)
  dbgSel   : W64 := 0
  dbgCsr   : W64 := 0
  usageB   : W64 := 0                  -- usage ring descriptor words
  usageC   : W64 := 0
  usageT   : Nat := 0
  usageH   : Nat := 0
  usageW   : List (List Byte) := []
  period   : Nat := 1000
  perStart : Nat := 0
  meterT   : Nat := 0                  -- cycle up to which counter 0 has been advanced
  groups   : List GroupWait := []
  keys     : List (Nat × Nat) := []    -- key slot and the function that owns it
  keyEpoch : List (Nat × Nat) := []    -- how often a slot's key has been zeroised
  blockKey : List (Nat × Nat) := []    -- 64-byte blocks that hold ciphertext, and the key identity
  rrTurn   : Nat := 0                  -- function that the round robin visits, and the swaps left to the visit (R416)
  rrLeft   : Nat := 0
  deriving DecidableEq, Repr

/-! ## The state -/

/-- Which event or agent moves next: the order among agents, which the manual leaves to timing, as data (log 2). -/
inductive Sched
  | event (e : Instr)                  -- this event happens, if it can
  | turn (vt : Nat)                    -- this tile core issues next
  | helper (vt : Nat) (storer : Bool)  -- this helper core issues next
  | grid (k : Nat)                     -- background grid k comes into focus
  | idle (n : Nat)                     -- n cycles pass
  | iflush (base : Nat)                -- the instruction cache gives up a line (R44)
  | slow (vt c : Nat)                  -- the next store of agent c of the tile (a context, 4 the loader core, 5 the storer
                                       -- core) is not performed at once (R42; log 7)
  | store (vt c k : Nat)               -- posted store k of the agent is performed
  | outside (vt c : Nat) (x : Agent)   -- agent x accesses what the agent's next ordering covers (R289; log 7)
  | measure (outlet : Int) (flow : Nat)  -- the BMC measures outlet temperature in °C and flow in L/min (R447)
  deriving DecidableEq, Repr

/-- The machine. `c` is the context in focus, `t` its tile, `tiles` the other tiles of its grid, `storer` which
helper core of `t` a helper instruction runs on. -/
structure State where
  c        : Ctx
  t        : Tile
  tiles    : List Tile
  g        : Grid
  bg       : List GridBox
  m        : Module
  storer   : Bool
  sched    : List Sched
  free     : Nat
  deriving DecidableEq, Repr

/-- The module right after module reset, with nothing launched: every register at its reset value, memory with
nothing listed (log 4, log 5, log 6). -/
def State.reset : State where
  c := {}
  t := {}
  tiles := []
  g := {}
  bg := []
  m := {}
  storer := false
  sched := []
  free := 0

/-- The model stops with no fault: every fault of the manual is a trap, a fault record or a completion status. -/
inductive Fault
  /-- Raised by no meaning; kept so that the type is not empty. Safe. -/
  | noMeaning
  deriving DecidableEq, Repr

/-- Reasons to have no meaning. -/
inductive Refusal
  /-- An instruction that is not modelled yet, by its mnemonic. Safe: nothing is claimed of it. -/
  | notModelled (mnemonic : String)
  /-- Raised by an event whose condition, as the manual states it, does not hold in the state: the event cannot
  happen there. Safe: the step passes over it and the state stays as it is. -/
  | eventNotEnabled (row : String)
  deriving DecidableEq, Repr

end Sys2Proof.Machine
end

