-- ==== Sys2Proof/Machine/Bits.lean ====
section
/-! DEFINITION. Bytes, bit patterns and lanes as natural numbers and integers (R5), and the byte store of a memory. -/

namespace Sys2Proof.Machine

/-! ## Bytes, little-endian (R5) -/

/-- The `n` low bytes of `v`, lowest first. -/
def bytesOf : Nat → Nat → List Byte
  | 0, _ => []
  | n + 1, v => BitVec.ofNat 8 v :: bytesOf n (v / 256)

def natOf : List Byte → Nat
  | [] => 0
  | b :: r => b.toNat + 256 * natOf r

/-- The bytes at positions `off` to `off + n - 1` of a byte list, zero beyond its end. -/
def slice (l : List Byte) (off n : Nat) : List Byte :=
  let m := (l.drop off).take n
  m ++ List.replicate (n - m.length) 0

/-- `old` with `new` laid over it from position `off`; bytes of `new` beyond the end of `old` are dropped. -/
def overlay : List Byte → Nat → List Byte → List Byte
  | [], _, _ => []
  | o :: r, 0, [] => o :: r
  | _ :: r, 0, n :: m => n :: overlay r 0 m
  | o :: r, k + 1, m => o :: overlay r k m

/-! ## Patterns -/

/-- `w` bits of `x` from bit `lo`. -/
def bits (x lo w : Nat) : Nat := x / 2 ^ lo % 2 ^ w

/-- s(x): a `w`-bit pattern read as a signed integer. -/
def sgn (w x : Nat) : Int := if x % 2 ^ w < 2 ^ (w - 1) then (x % 2 ^ w : Nat) else ((x % 2 ^ w : Nat) : Int) - 2 ^ w

/-- The `w`-bit two's complement pattern of an integer. -/
def pat (w : Nat) (i : Int) : Nat := (i % 2 ^ w).toNat

/-- sext from `w` bits to 64. -/
def sext64 (w x : Nat) : W64 := BitVec.ofInt 64 (sgn w x)

def clampInt (lo hi x : Int) : Int := if x < lo then lo else if x > hi then hi else x

def smin (w : Nat) : Int := -(2 ^ (w - 1))
def smax (w : Nat) : Int := 2 ^ (w - 1) - 1

/-- Number of 1 bits among the low `n` bits. -/
def popcount : Nat → Nat → Nat
  | 0, _ => 0
  | n + 1, x => x % 2 + popcount n (x / 2)

/-- Number of bits of the number: 0 for 0. -/
def bitlen (x : Nat) : Nat := if x = 0 then 0 else Nat.log2 x + 1

/-- Trailing zeros of a `w`-bit pattern. -/
def ctzN : Nat → Nat → Nat
  | 0, _ => 0
  | n + 1, x => if x % 2 = 1 then 0 else 1 + ctzN n (x / 2)

/-- Bit `i` of a `w`-bit pattern moved to bit `w - 1 - i`. -/
def revBits : Nat → Nat → Nat
  | 0, _ => 0
  | n + 1, x => x % 2 * 2 ^ n + revBits n (x / 2)

/-! ## Lanes (R148) -/

/-- The `n` lanes of width `w`, lane 0 first. -/
def lanes (w : Nat) : Nat → Nat → List Nat
  | 0, _ => []
  | n + 1, x => x % 2 ^ w :: lanes w n (x / 2 ^ w)

def ofLanes (w : Nat) : List Nat → Nat
  | [] => 0
  | x :: r => x % 2 ^ w + 2 ^ w * ofLanes w r

def lane (w x i : Nat) : Nat := bits x (w * i) w

/-- `x` with lane `i` replaced. -/
def setLane (w x i v : Nat) : Nat := x - bits x (w * i) w * 2 ^ (w * i) + v % 2 ^ w * 2 ^ (w * i)

/-! ## Lists -/

/-- Replace element `i`. -/
def setNth {α : Type} : List α → Nat → α → List α
  | [], _, _ => []
  | _ :: r, 0, y => y :: r
  | x :: r, n + 1, y => x :: setNth r n y

def dropNth {α : Type} : List α → Nat → List α
  | [], _ => []
  | _ :: r, 0 => r
  | x :: r, n + 1 => x :: dropNth r n

/-- The first element that satisfies `p`, with its position. -/
def findNth {α : Type} (p : α → Bool) : List α → Nat → Option (Nat × α)
  | [], _ => none
  | x :: r, n => if p x then some (n, x) else findNth p r (n + 1)

/-- A set of numbers kept in rising order. -/
def insertNat : List Nat → Nat → List Nat
  | [], a => [a]
  | b :: r, a => if a < b then a :: b :: r else if a = b then b :: r else b :: insertNat r a

/-! ## The byte store -/

def cellsGet : List Host.Cell → Nat → Byte
  | [], _ => 0
  | (k, b) :: r, a => if k = a then b else cellsGet r a

def cellsSet : List Host.Cell → Nat → Byte → List Host.Cell
  | [], a, b => if b = 0 then [] else [(a, b)]
  | (k, c) :: r, a, b =>
    if k < a then (k, c) :: cellsSet r a b
    else if k = a then (if b = 0 then r else (a, b) :: r)
    else if b = 0 then (k, c) :: r else (a, b) :: (k, c) :: r

/-- The canonical form: addresses strictly rising, no byte equal to the 0 an unlisted address reads as (log 6). -/
def cellsWf : List Host.Cell → Bool
  | [] => true
  | (k, b) :: r => b != 0 && (match r with | [] => true | (k', _) :: _ => decide (k < k')) && cellsWf r

abbrev Memory.wf (m : Memory) : Bool := cellsWf m.cells

/-- One byte of a memory; an unlisted address reads 0 (log 6). -/
def Memory.get (m : Memory) (a : Nat) : Byte := cellsGet m.cells a
def Memory.set (m : Memory) (a : Nat) (b : Byte) : Memory := ⟨cellsSet m.cells a b⟩

def Memory.read (m : Memory) (a : Nat) : Nat → List Byte
  | 0 => []
  | n + 1 => m.get a :: m.read (a + 1) n

def Memory.write (m : Memory) (a : Nat) : List Byte → Memory
  | [] => m
  | b :: r => (m.set a b).write (a + 1) r

def Memory.readNat (m : Memory) (a n : Nat) : Nat := natOf (m.read a n)
def Memory.writeNat (m : Memory) (a n v : Nat) : Memory := m.write a (bytesOf n v)

end Sys2Proof.Machine
end

