-- ==== Sys2Proof/Machine/Float.lean ====
section
/-! DEFINITION. Floating-point formats, rounding, flags and operations (R79 to R92, R109, R129, R130, R172), on exact
dyadic values. Flags are a mask: 1 NX, 2 UF, 4 OF, 8 DZ, 16 NV (R32). -/

namespace Sys2Proof.Machine

/-- A format of R79: exponent width, fraction width; the bias is 2^(ew - 1) - 1. -/
structure Fmt where
  ew : Nat
  fw : Nat

def Fmt.bias (f : Fmt) : Int := 2 ^ (f.ew - 1) - 1
def Fmt.width (f : Fmt) : Nat := 1 + f.ew + f.fw
def Fmt.emin (f : Fmt) : Int := 1 - f.bias
def Fmt.inf (f : Fmt) : Nat := (2 ^ f.ew - 1) * 2 ^ f.fw
/-- The canonical NaN (R84). -/
def Fmt.nan (f : Fmt) : Nat := f.inf + 2 ^ (f.fw - 1)
def Fmt.maxFin (f : Fmt) : Nat := f.inf - 1
def Fmt.signBit (f : Fmt) : Nat := 2 ^ (f.ew + f.fw)

def fmtOf : FEt → Fmt
  | .f16 => ⟨5, 10⟩ | .bf16 => ⟨8, 7⟩ | .f32 => ⟨8, 23⟩ | .f64 => ⟨11, 52⟩
def f32 : Fmt := ⟨8, 23⟩
def e8m10 : Fmt := ⟨8, 10⟩

/-- A decoded value (R80): a NaN, an infinity, or (-1)^s * m * 2^e. -/
inductive Fl
  | nan (signalling : Bool)
  | inf (s : Bool)
  | fin (s : Bool) (m : Nat) (e : Int)
  deriving DecidableEq, Repr

def Fmt.decode (f : Fmt) (x : Nat) : Fl :=
  let s := bits x (f.ew + f.fw) 1 == 1
  let e := bits x f.fw f.ew
  let m := bits x 0 f.fw
  if e = 2 ^ f.ew - 1 then (if m = 0 then .inf s else .nan (m < 2 ^ (f.fw - 1)))
  else if e = 0 then .fin s m (f.emin - f.fw)
  else .fin s (2 ^ f.fw + m) (f.emin - f.fw + (e - 1 : Nat))

abbrev NX : Nat := 1
abbrev UF : Nat := 2
abbrev OF : Nat := 4
abbrev DZ : Nat := 8
abbrev NV : Nat := 16

/-- A pattern and the flags it raised. -/
abbrev FRes := Nat × Nat

/-- Rounding modes of R86: 0 RNE, 1 RTZ, 2 RDN, 3 RUP. -/
abbrev Rm := BitVec 2

/-- `m / 2^sh` rounded, with whether bits were lost; `s` is the sign. -/
def roundShift (rm : Rm) (s : Bool) (m sh : Nat) : Nat × Bool :=
  let q := m / 2 ^ sh
  let r := m % 2 ^ sh
  let up : Bool :=
    if rm = 0 then decide (2 * r > 2 ^ sh) || (decide (2 * r = 2 ^ sh) && q % 2 == 1)
    else if rm = 1 then false
    else if rm = 2 then s && r != 0
    else !s && r != 0
  (if up then q + 1 else q, r != 0)

/-- `m * 2^e` in units of `2^q`, rounded. -/
def roundAt (rm : Rm) (s : Bool) (m : Nat) (e q : Int) : Nat × Bool :=
  if q ≤ e then (m * 2 ^ (e - q).toNat, false) else roundShift rm s m (q - e).toNat

/-- The overflow result of R87. -/
def overflowTo (f : Fmt) (rm : Rm) (s : Bool) : Nat :=
  (if rm = 0 ∨ (rm = 2 ∧ s) ∨ (rm = 3 ∧ !s) then f.inf else f.maxFin) + (if s then f.signBit else 0)

/-- (-1)^s * m * 2^e rounded once to a format, with flags (R86 to R88). -/
def roundTo (f : Fmt) (rm : Rm) (s : Bool) (m : Nat) (e : Int) : FRes :=
  let sb := if s then f.signBit else 0
  if m = 0 then (sb, 0)
  else
    let E := e + (bitlen m : Int) - 1
    let qmin := f.emin - f.fw
    let q := max (E - f.fw) qmin
    let (n, ix) := roundAt rm s m e q
    let pat := (q - qmin).toNat * 2 ^ f.fw + n
    if f.inf ≤ pat then (overflowTo f rm s, OF ||| NX)
    else
      let (u, _) := roundAt rm s m e (E - f.fw)
      let tiny := E + (if u = 2 ^ (f.fw + 1) then 1 else 0) < f.emin
      (pat + sb, (if ix then NX else 0) ||| (if ix ∧ tiny then UF else 0))

/-- A value with more bits below the last place of `m`: `m` and half a place. -/
def withSticky (m : Nat) (e : Int) (sticky : Bool) : Nat × Int := (2 * m + sticky.toNat, e - 1)

def nvIf (b : Bool) : Nat := if b then NV else 0
def Fl.snan : Fl → Bool
  | .nan s => s
  | _ => false
def Fl.isNan : Fl → Bool
  | .nan _ => true
  | _ => false
def Fl.sign : Fl → Bool
  | .nan _ => false | .inf s => s | .fin s _ _ => s
def Fl.isZero : Fl → Bool
  | .fin _ m _ => m == 0
  | _ => false
def Fl.neg : Fl → Fl
  | .nan s => .nan s | .inf s => .inf !s | .fin s m e => .fin (!s) m e

/-- An integer times 2^e, its sign when it is zero given by `z` (R85). -/
def roundInt (f : Fmt) (rm : Rm) (v e : Int) (z : Bool) : FRes :=
  if v = 0 then (if z then f.signBit else 0, 0) else roundTo f rm (v < 0) v.natAbs e

def sInt (s : Bool) (m : Nat) : Int := if s then -(m : Int) else m

/-- The exact sum of finite values as an integer times a power of two. -/
def exactSum (l : List (Bool × Nat × Int)) : Int × Int :=
  let e := (l.map (·.2.2)).foldl min (match l with | [] => 0 | x :: _ => x.2.2)
  ((l.map fun (s, m, ex) => sInt s (m * 2 ^ (ex - e).toNat)).sum, e)

/-- The sign of an exact zero sum (R85): that of its terms when all are zeros of one sign, else - under RDN only. -/
def zeroSign (rm : Rm) (l : List (Bool × Nat × Int)) : Bool :=
  if l.all fun x => x.2.1 == 0 && x.1 then true
  else if l.all fun x => x.2.1 == 0 && !x.1 then false
  else rm == 2

def addFl (f : Fmt) (rm : Rm) (a b : Fl) : FRes :=
  match a, b with
  | .fin s m e, .fin t n g =>
    let l := [(s, m, e), (t, n, g)]
    let (v, x) := exactSum l
    roundInt f rm v x (zeroSign rm l)
  | .inf s, .inf t => if s = t then (f.inf + (if s then f.signBit else 0), 0) else (f.nan, NV)
  | .inf s, .fin _ _ _ => (f.inf + (if s then f.signBit else 0), 0)
  | .fin _ _ _, .inf s => (f.inf + (if s then f.signBit else 0), 0)
  | a, b => (f.nan, nvIf (a.snan || b.snan))

/-- The exact product, or what stands for it; `none` is infinity times zero. -/
def mulExact (a b : Fl) : Option Fl :=
  match a, b with
  | .fin s m e, .fin t n g => some (.fin (s != t) (m * n) (e + g))
  | .inf s, .fin t n _ => if n = 0 then none else some (.inf (s != t))
  | .fin s m _, .inf t => if m = 0 then none else some (.inf (s != t))
  | .inf s, .inf t => some (.inf (s != t))
  | a, b => some (.nan (a.snan || b.snan))

/-- A value as it stands, rounded to a format. -/
def roundFl (f : Fmt) (rm : Rm) : Fl → FRes
  | .nan s => (f.nan, nvIf s)
  | .inf s => (f.inf + (if s then f.signBit else 0), 0)
  | .fin s m e => roundTo f rm s m e

def mulFl (f : Fmt) (rm : Rm) (a b : Fl) : FRes :=
  match mulExact a b with
  | none => (f.nan, NV)
  | some p => roundFl f rm p

/-- round(a * b + d), one rounding; infinity times zero sets NV even beside a quiet NaN (R84). -/
def fmaFl (f : Fmt) (rm : Rm) (a b d : Fl) : FRes :=
  match mulExact a b with
  | none => (f.nan, NV)
  | some p =>
    match p, d with
    | .nan s, d => (f.nan, nvIf (s || d.snan))
    | _, .nan s => (f.nan, nvIf s)
    | p, d => addFl f rm p d

def divFl (f : Fmt) (rm : Rm) (a b : Fl) : FRes :=
  let sg := a.sign != b.sign
  let sb := if sg then f.signBit else 0
  match a, b with
  | .fin _ m e, .fin _ n g =>
    if n = 0 then (if m = 0 then (f.nan, NV) else (f.inf + sb, DZ))
    else if m = 0 then (sb, 0)
    else
      let k := f.fw + 4 + bitlen n
      let (q, x) := withSticky (m * 2 ^ k / n) (e - g - k) (m * 2 ^ k % n != 0)
      roundTo f rm sg q x
  | .inf _, .fin _ _ _ => (f.inf + sb, 0)
  | .fin _ _ _, .inf _ => (sb, 0)
  | .inf _, .inf _ => (f.nan, NV)
  | a, b => (f.nan, nvIf (a.snan || b.snan))

/-- The integer square root, found bit by bit from bit `k - 1`. -/
def isqrt (n : Nat) : Nat → Nat → Nat
  | 0, r => r
  | k + 1, r => if (r + 2 ^ k) * (r + 2 ^ k) ≤ n then isqrt n k (r + 2 ^ k) else isqrt n k r

def sqrtNat (n : Nat) : Nat := isqrt n (bitlen n / 2 + 1) 0

def sqrtFl (f : Fmt) (rm : Rm) : Fl → FRes
  | .nan s => (f.nan, nvIf s)
  | .inf s => if s then (f.nan, NV) else (f.inf, 0)
  | .fin s m e =>
    if m = 0 then (if s then f.signBit else 0, 0)
    else if s then (f.nan, NV)
    else
      let odd := e % 2 = 1
      let m := if odd then 2 * m else m
      let e := if odd then e - 1 else e
      let k := f.fw + 4
      let r := sqrtNat (m * 2 ^ (2 * k))
      let (q, x) := withSticky r (e / 2 - k) (r * r != m * 2 ^ (2 * k))
      roundTo f rm false q x

/-- a < b on values that are not NaN; `zs` orders -0 below +0 (R85). -/
def ltFl (zs : Bool) (a b : Fl) : Bool :=
  match a, b with
  | .inf s, .inf t => s && !t
  | .inf s, .fin _ _ _ => s
  | .fin _ _ _, .inf t => !t
  | .fin s m e, .fin t n g =>
    if m = 0 ∧ n = 0 then zs && s && !t
    else
      let x := min e g
      decide (sInt s (m * 2 ^ (e - x).toNat) < sInt t (n * 2 ^ (g - x).toNat))
  | _, _ => false

def eqFl (a b : Fl) : Bool := !a.isNan && !b.isNan && !ltFl false a b && !ltFl false b a

/-- minimumNumber, maximumNumber (R85) on patterns. -/
def minmaxF (f : Fmt) (mx : Bool) (x y : Nat) : FRes :=
  let a := f.decode x
  let b := f.decode y
  let nv := nvIf (a.snan || b.snan)
  let x := x % 2 ^ f.width
  let y := y % 2 ^ f.width
  if a.isNan then (if b.isNan then f.nan else y, nv)
  else if b.isNan then (x, nv)
  else if ltFl true a b then (if mx then y else x, nv)
  else (if mx then x else y, nv)

def fadd (f : Fmt) (rm : Rm) (x y : Nat) : FRes := addFl f rm (f.decode x) (f.decode y)
def fsub (f : Fmt) (rm : Rm) (x y : Nat) : FRes := addFl f rm (f.decode x) (f.decode y).neg
def fmul (f : Fmt) (rm : Rm) (x y : Nat) : FRes := mulFl f rm (f.decode x) (f.decode y)
def fdiv (f : Fmt) (rm : Rm) (x y : Nat) : FRes := divFl f rm (f.decode x) (f.decode y)
def fsqrt (f : Fmt) (rm : Rm) (x : Nat) : FRes := sqrtFl f rm (f.decode x)
def ffma (f : Fmt) (rm : Rm) (x y d : Nat) : FRes := fmaFl f rm (f.decode x) (f.decode y) (f.decode d)
/-- round(d - a * b). -/
def ffnma (f : Fmt) (rm : Rm) (x y d : Nat) : FRes := fmaFl f rm (f.decode x).neg (f.decode y) (f.decode d)

/-- The sign operations (R84): only the sign bit changes. -/
def fabsBits (f : Fmt) (x : Nat) : Nat := x % f.signBit
def fnegBits (f : Fmt) (x : Nat) : Nat := (x % 2 ^ f.width) ^^^ f.signBit
def fsgnjBits (f : Fmt) (x y : Nat) : Nat := x % f.signBit + bits y (f.ew + f.fw) 1 * f.signBit

inductive FCmp | eq | lt | le | un
  deriving DecidableEq, Repr

/-- The comparisons of R123 with the flags of R89. -/
def fcmp (f : Fmt) (op : FCmp) (x y : Nat) : Bool × Nat :=
  let a := f.decode x
  let b := f.decode y
  let anyNan := a.isNan || b.isNan
  let anyS := a.snan || b.snan
  match op with
  | .eq => (eqFl a b, nvIf anyS)
  | .un => (anyNan, nvIf anyS)
  | .lt => (!anyNan && ltFl false a b, nvIf anyNan)
  | .le => (!anyNan && (ltFl false a b || eqFl a b), nvIf anyNan)

/-- The class mask (R130). -/
def fclass (f : Fmt) (x : Nat) : Nat :=
  match f.decode x with
  | .nan s => if s then 2 ^ 8 else 2 ^ 9
  | .inf s => if s then 2 ^ 0 else 2 ^ 7
  | .fin s m _ =>
    if m = 0 then (if s then 2 ^ 3 else 2 ^ 4)
    else if m < 2 ^ f.fw then (if s then 2 ^ 2 else 2 ^ 5)
    else (if s then 2 ^ 1 else 2 ^ 6)

/-- A value rounded to an integer, with whether bits were lost. -/
def toInt (rm : Rm) (s : Bool) (m : Nat) (e : Int) : Int × Bool :=
  let (n, ix) := roundAt rm s m e 0
  (sInt s n, ix)

/-- Conversion to an integer of width `w` (R90). -/
def fToInt (f : Fmt) (rm : Rm) (signed : Bool) (w x : Nat) : FRes :=
  let lo : Int := if signed then smin w else 0
  let hi : Int := if signed then smax w else 2 ^ w - 1
  match f.decode x with
  | .nan _ => (pat w hi, NV)
  | .inf s => (pat w (if s then lo else hi), NV)
  | .fin s m e =>
    let (v, ix) := toInt rm s m e
    if v > hi then (pat w hi, NV) else if v < lo then (pat w lo, NV) else (pat w v, if ix then NX else 0)

/-- Conversion from an integer (R91). -/
def fOfInt (f : Fmt) (rm : Rm) (v : Int) : FRes := roundInt f rm v 0 false

/-- Conversion between formats (R92). -/
def fConv (dst src : Fmt) (rm : Rm) (x : Nat) : FRes := roundFl dst rm (src.decode x)

/-- A result that overflowed from a finite source becomes the largest finite value (R164). -/
def satFin (f : Fmt) (finite : Bool) (r : FRes) : FRes :=
  if finite ∧ r.2 &&& OF ≠ 0 then (if r.1 / f.signBit % 2 = 1 then f.maxFin + f.signBit else f.maxFin, OF ||| NX) else r

def Fl.isFin : Fl → Bool
  | .fin _ _ _ => true
  | _ => false

/-! ## vfdot (R109) -/

/-- round(p + q + d) of two exact products and an addend, once. -/
def sum3 (f : Fmt) (rm : Rm) (a b c d e : Fl) : FRes :=
  match mulExact a b, mulExact c d with
  | some p, some q =>
    let anyNan := p.isNan || q.isNan || e.isNan
    let sn := p.snan || q.snan || e.snan
    let infs := [p, q, e].filter fun x => match x with | .inf _ => true | _ => false
    let pos := infs.any fun x => !x.sign
    let neg := infs.any fun x => x.sign
    if anyNan then (f.nan, nvIf sn)
    else if pos && neg then (f.nan, NV)
    else if pos then (f.inf, 0)
    else if neg then (f.inf + f.signBit, 0)
    else
      let l := [p, q, e].filterMap fun x => match x with | .fin s m g => some (s, m, g) | _ => none
      let (v, x) := exactSum l
      roundInt f rm v x (zeroSign rm l)
  | _, _ => (f.nan, NV)

/-! ## Special functions (R172), always to nearest-even -/

def rcp (f : Fmt) (x : Nat) : FRes := divFl f 0 (.fin false 1 0) (f.decode x)

def rsqrt (f : Fmt) (x : Nat) : FRes :=
  match f.decode x with
  | .nan s => (f.nan, nvIf s)
  | .inf s => if s then (f.nan, NV) else (0, 0)
  | .fin s m e =>
    if m = 0 then (f.inf + (if s then f.signBit else 0), DZ)
    else if s then (f.nan, NV)
    else
      let odd := e % 2 = 1
      let m := if odd then 2 * m else m
      let e := if odd then e - 1 else e
      let k := f.fw + 4 + bitlen m
      let r := sqrtNat (2 ^ (2 * k) / m)
      let (q, x) := withSticky r (-(e / 2) - k) (r * r * m != 2 ^ (2 * k))
      roundTo f 0 false q x

/-- ln 2 * 2^256, truncated. -/
def ln2fix : Nat := 80260960185991308862233904206310070533990667611589946606122867505419956976171

/-- Terms of exp(y) after the one of order `n`, `y` and the sum in units of 2^-256. -/
def expSeries (y : Nat) : Nat → Nat → Nat → Nat
  | 0, _, _ => 0
  | fuel + 1, n, t =>
    let t' := t * y / 2 ^ 256 / n
    t' + expSeries y fuel (n + 1) t'

/-- 2^a, correctly rounded: integral `a` exactly, else from exp(frac * ln 2) to 2^-240 (log 10). -/
def exp2 (f : Fmt) (x : Nat) : FRes :=
  match f.decode x with
  | .nan s => (f.nan, nvIf s)
  | .inf s => if s then (0, 0) else (f.inf, 0)
  | .fin s m e =>
    if m = 0 then roundTo f 0 false 1 0
    else if 12 < e + (bitlen m : Int) then
      -- beyond every format: overflow, or below every subnormal
      (if s then roundTo f 0 false 1 (-5000) else roundTo f 0 false 1 5000)
    else
      -- a in units of 2^-200, floor and fraction
      let a : Int := sInt s (if 0 ≤ e + 200 then m * 2 ^ (e + 200).toNat else m / 2 ^ (-(e + 200)).toNat)
      let i := a / 2 ^ 200
      let fr := (a % 2 ^ 200).toNat
      if fr = 0 then roundTo f 0 false 1 i
      else
        let y := fr * ln2fix / 2 ^ 200
        let v := 2 ^ 256 + expSeries y 80 1 (2 ^ 256)
        let (q, g) := withSticky (v / 2 ^ 16) (i - 240) true
        roundTo f 0 false q g

/-- `n` bits of log2 of `y` in [1, 2), `y` in units of 2^-300, by repeated squaring. -/
def log2Bits : Nat → Nat → Nat → Nat
  | 0, _, acc => acc
  | n + 1, y, acc =>
    let z := y * y / 2 ^ 300
    if 2 ^ 301 ≤ z then log2Bits n (z / 2) (2 * acc + 1) else log2Bits n z (2 * acc)

/-- log2 a, correctly rounded: powers of two exactly, else from 120 bits of the fraction (log 10). -/
def log2 (f : Fmt) (x : Nat) : FRes :=
  match f.decode x with
  | .nan s => (f.nan, nvIf s)
  | .inf s => if s then (f.nan, NV) else (f.inf, 0)
  | .fin s m e =>
    if m = 0 then (f.inf + f.signBit, DZ)
    else if s then (f.nan, NV)
    else
      let k := bitlen m - 1
      let i : Int := e + k
      if m = 2 ^ k then roundInt f 0 i 0 false
      else
        let fr := log2Bits 120 (m * 2 ^ (300 - k)) 0
        let v : Int := i * 2 ^ 120 + fr
        -- the value lies strictly between v and v + 1, in units of 2^-120
        if 0 ≤ v then
          let (q, g) := withSticky v.toNat (-120) true
          roundTo f 0 false q g
        else
          let (q, g) := withSticky (-(v + 1)).toNat (-120) true
          roundTo f 0 true q g

end Sys2Proof.Machine
end

