-- ==== Sys2Proof/WellFormed.lean ====
section
/-! DEFINITION. The checks of an instruction's fields that its types do not make: registers a description rules out,
formats a description narrows (R48, R54, R69). -/

namespace Sys2Proof

/-- A field that may not name a port register. -/
def noPort (r : Fin 32) : Bool := r.val < 28

/-- The even register of a pair (R134, R296). -/
def evenPair (r : Fin 32) : Bool := r.val % 2 == 0 && 2 ≤ r.val && r.val ≤ 26

/-- The integer format pairs, which take no scales (R184). -/
def Pair.isInt : Pair → Bool
  | .s8s8 => true
  | .s8s4 => true
  | .s4s4 => true
  | _ => false

/-- The pairs that MMAS accepts: FN 0 to 7 (R68). -/
def Pair.sparse : Pair → Bool
  | .s8s4 => false
  | .s4s4 => false
  | .t8bf16 => false
  | .t4bf16 => false
  | _ => true

/-- The word of a helper core that is an Xdk instruction, `ecall` or `ebreak`. -/
def helperOwn (w : BitVec 32) : Bool := w.toNat % 128 == 0x0B || w == 0x73 || w == 0x100073

/-- Well-formed: the word of the instruction is a legal encoding. -/
def Instr.wf : Instr → Bool
  | .ld _ d _ _ _ _ => noPort d
  | .lds sz d _ _ _ _ => noPort d && sz != .d
  | .ldAcq _ d _ _ _ => noPort d
  | .ldQ d _ _ => evenPair d
  | .stQ d _ _ => evenPair d
  | .mkempty d => noPort d
  | .amoswap _ d a b _ _ => noPort d && noPort a && noPort b
  | .amoadd _ d a b _ _ => noPort d && noPort a && noPort b
  | .amoand _ d a b _ _ => noPort d && noPort a && noPort b
  | .amoor _ d a b _ _ => noPort d && noPort a && noPort b
  | .amoxor _ d a b _ _ => noPort d && noPort a && noPort b
  | .amomin _ d a b _ _ => noPort d && noPort a && noPort b
  | .amomax _ d a b _ _ => noPort d && noPort a && noPort b
  | .amominn _ d a b _ _ => noPort d && noPort a && noPort b
  | .amomaxn _ d a b _ _ => noPort d && noPort a && noPort b
  | .amofadd d a b _ _ => noPort d && noPort a && noPort b
  | .casD d a b _ _ => noPort d && noPort a && noPort b
  | .casQ d a b _ _ => evenPair d && noPort a && evenPair b
  | .vld d _ _ _ => noPort d
  | .vldNw d _ _ _ => noPort d
  | .vst d _ _ _ => noPort d
  | .vgat _ d _ _ _ => noPort d
  | .vsca _ d _ _ _ => noPort d
  | .vldb _ d _ _ => noPort d
  | .call a _ => noPort a
  | .bv a _ => noPort a
  | .bnv a _ => noPort a
  | .bnz a _ => noPort a
  | .bz a _ => noPort a
  | .jr d _ _ _ => noPort d
  | .ldk _ d _ _ _ _ => noPort d
  | .wput d _ _ => noPort d
  | .syscall a _ => noPort a
  | .wrfe a _ => noPort a
  | .wrvb a _ => noPort a
  | .rdfe d => noPort d
  | .rdvb d => noPort d
  | .tlbinvVa a _ _ _ => noPort a
  | .tlbinvVaall a _ => noPort a
  | .vbsel _ d _ _ => noPort d
  | .vfma _ d _ _ => noPort d
  | .vfnma _ d _ _ => noPort d
  | .vfdot e d _ _ => noPort d && e != .f64
  | .vins _ d _ _ => noPort d
  | .vslide _ d _ _ => noPort d
  | .vpack24 e _ _ _ => e == .f16 || e == .bf16
  | .vunpack24 e _ _ _ => e == .f16 || e == .bf16
  | .vrcp e _ _ => e != .f64
  | .vrsqrt e _ _ => e != .f64
  | .vexp2 e _ _ => e != .f64
  | .vlog2 e _ _ => e != .f64
  | .mma p _ _ _ c => !p.isInt || c == 0
  | .mmas p _ _ _ c => p.sparse && (!p.isInt || c == 0)
  | .rv64imInstruction w => !helperOwn w
  | _ => true

end Sys2Proof
end

