-- ==== Sys2Proof/Decode.lean ====
section
/-! DEFINITION. The decoder: total on any word, rejecting by name, written from the encoding tables of R53 to R68
and of the family chapters; after it the encoder, from the same tables. A word is a Nat below 2^32. The L bit (31) is the
framing's (R46) and not read here. -/

namespace Sys2Proof

/-- Why a word is no legal encoding (R48, R69). -/
inductive Reject
  | reservedMajor | unassigned | size | elementType | register | unusedField | level | operand
  deriving DecidableEq, Repr

/-- The field of `len` bits at bit `lo`. -/
def fld (w lo len : Nat) : Nat := w / 2 ^ lo % 2 ^ len

def fin32 (w lo : Nat) : Fin 32 := ⟨fld w lo 5, Nat.mod_lt _ (by decide)⟩
def fin4 (w lo : Nat) : Fin 4 := ⟨fld w lo 2, Nat.mod_lt _ (by decide)⟩
def bit (w lo : Nat) : Bool := fld w lo 1 == 1

/-! Fields whose every value is legal (R57, R59, R60). -/

def fmt2 (w lo : Nat) : FEt :=
  match fld w lo 2 with
  | 0 => .f16 | 1 => .bf16 | 2 => .f32 | _ => .f64
def msz (w lo : Nat) : MSz :=
  match fld w lo 2 with
  | 0 => .b | 1 => .h | 2 => .w | _ => .d
def scope (w lo : Nat) : Scope :=
  match fld w lo 3 with
  | 0 => .ctx | 1 => .tile | 2 => .clu | 3 => .gang | 4 => .grid | 5 => .mod | 6 => .dom | _ => .sys
def ord (w lo : Nat) : Ord :=
  match fld w lo 2 with
  | 0 => .rlx | 1 => .acq | 2 => .rel | _ => .acqRel

/-! Fields some of whose values are encoding faults (R54, R57, R58, R68, R188, R271, R342, R343). -/

abbrev Dec := Except Reject Instr

/-- A field that must hold `v` (R54, R55). -/
def fixed (w lo len v : Nat) (r : Dec) : Dec := if fld w lo len = v then r else .error .unusedField
def reg8 (w lo : Nat) (k : Fin 8 → Dec) : Dec := if h : fld w lo 5 < 8 then k ⟨fld w lo 5, h⟩ else .error .register
def reg2 (w lo : Nat) (k : Fin 2 → Dec) : Dec := if h : fld w lo 5 < 2 then k ⟨fld w lo 5, h⟩ else .error .register
def reg16 (w lo : Nat) (k : Fin 16 → Dec) : Dec :=
  if h : fld w lo 5 < 16 then k ⟨fld w lo 5, h⟩ else .error .register
def equeue (w lo : Nat) (k : Fin 7 → Dec) : Dec :=
  if h : 4 ≤ fld w lo 7 ∧ fld w lo 7 < 11 then k ⟨fld w lo 7 - 4, by omega⟩ else .error .operand
def fin7 (w lo : Nat) (k : Fin 7 → Dec) : Dec := if h : fld w lo 7 < 7 then k ⟨fld w lo 7, h⟩ else .error .operand
def sz32 (w lo : Nat) (k : Sz32 → Dec) : Dec :=
  match fld w lo 2 with
  | 0 => k .w64 | 1 => k .w32 | _ => .error .size
def fet (w lo : Nat) (k : FEt → Dec) : Dec :=
  match fld w lo 4 with
  | 8 => k .f16 | 9 => k .bf16 | 10 => k .f32 | 11 => k .f64 | _ => .error .elementType
def iet (w lo : Nat) (k : IEt → Dec) : Dec :=
  match fld w lo 4 with
  | 0 => k .n8 | 1 => k .s8 | 2 => k .n16 | 3 => k .s16 | 4 => k .n32 | 5 => k .s32 | 6 => k .n64 | 7 => k .s64
  | _ => .error .elementType
def anyEt (w lo : Nat) (k : LEt → Dec) : Dec :=
  match fld w lo 4 with
  | 0 => k (.int .n8) | 1 => k (.int .s8) | 2 => k (.int .n16) | 3 => k (.int .s16)
  | 4 => k (.int .n32) | 5 => k (.int .s32) | 6 => k (.int .n64) | 7 => k (.int .s64)
  | 8 => k (.flt .f16) | 9 => k (.flt .bf16) | 10 => k (.flt .f32) | 11 => k (.flt .f64)
  | _ => .error .elementType
def level (w lo : Nat) (k : Level → Dec) : Dec :=
  match fld w lo 3 with
  | 0 => k .ctx | 1 => k .tile | 3 => k .gang | 4 => k .grid | 6 => k .dom | _ => .error .level
def wlevel (w lo : Nat) (k : WLevel → Dec) : Dec :=
  match fld w lo 3 with
  | 3 => k .gang | 4 => k .grid | _ => .error .level
def wlen (w lo : Nat) (k : WLen → Dec) : Dec :=
  match fld w lo 2 with
  | 0 => k .b512 | 1 => k .k1 | 2 => k .k2 | _ => .error .operand
def pair (w lo : Nat) (k : Pair → Dec) : Dec :=
  match fld w lo 5 with
  | 0 => k .bf16bf16 | 1 => k .f16f16 | 2 => k .bf16t8 | 3 => k .bf16t4 | 4 => k .t8t8 | 5 => k .t8t4
  | 6 => k .t4t4 | 7 => k .s8s8 | 8 => k .s8s4 | 9 => k .s4s4 | 10 => k .t8bf16 | 11 => k .t4bf16
  | _ => .error .unassigned
def rdSel (w lo : Nat) (k : RdSel → Dec) : Dec :=
  match fld w lo 7 with
  | 0 => k .tags | 1 => k .wq | 2 => k .slots | 4 => k .ctx0 | 5 => k .ctx1 | 6 => k .ctx2 | 7 => k .ctx3
  | _ => .error .operand

/-! The majors (R61 to R68). The runtime cannot build a constructor as late in `Instr` as some of these, so their
functions are for the kernel only. -/
noncomputable section


def decLd (w : Nat) : Dec := .ok (.ld (msz w 11) (fin32 w 20) (fin32 w 15) (bit w 14) (bit w 13) (.ofNat 11 (fld w 0 11)))
def decLds (w : Nat) : Dec := .ok (.lds (msz w 11) (fin32 w 20) (fin32 w 15) (bit w 14) (bit w 13) (.ofNat 11 (fld w 0 11)))
def decSt (w : Nat) : Dec := .ok (.st (msz w 11) (fin32 w 20) (fin32 w 15) (bit w 14) (bit w 13) (.ofNat 11 (fld w 0 11)))
def decMemx (w : Nat) : Dec :=
  match fld w 4 6 with
  | 0 => fixed w 3 1 0 <| fixed w 13 2 0 <| .ok (.ldAcq (msz w 0) (fin32 w 20) (fin32 w 15) (scope w 10) (bit w 2))
  | 1 => fixed w 3 1 0 <| fixed w 13 2 0 <| .ok (.stRel (msz w 0) (fin32 w 20) (fin32 w 15) (scope w 10) (bit w 2))
  | 2 => fixed w 0 2 0 <| fixed w 3 1 0 <| fixed w 10 5 0 <| .ok (.ldQ (fin32 w 20) (fin32 w 15) (bit w 2))
  | 3 => fixed w 0 2 0 <| fixed w 3 1 0 <| fixed w 10 5 0 <| .ok (.stQ (fin32 w 20) (fin32 w 15) (bit w 2))
  | 4 => fixed w 0 2 0 <| fixed w 3 1 0 <| fixed w 10 5 0 <| fixed w 20 5 0 <| .ok (.touch (fin32 w 15) (bit w 2))
  | 5 => fixed w 0 2 0 <| fixed w 2 1 0 <| fixed w 3 1 0 <| fixed w 10 5 0 <| fixed w 20 5 0 <| .ok (.sbwait (fin32 w 15))
  | 6 => fixed w 0 2 0 <| fixed w 2 1 0 <| fixed w 3 1 0 <| fixed w 10 5 0 <| fixed w 15 5 0 <| .ok (.mkempty (fin32 w 20))
  | _ => .error .unassigned
def decAmo (w : Nat) : Dec :=
  match fld w 6 4 with
  | 0 => .ok (.amoswap (bit w 0) (fin32 w 20) (fin32 w 15) (fin32 w 10) (ord w 4) (scope w 1))
  | 1 => .ok (.amoadd (bit w 0) (fin32 w 20) (fin32 w 15) (fin32 w 10) (ord w 4) (scope w 1))
  | 2 => .ok (.amoand (bit w 0) (fin32 w 20) (fin32 w 15) (fin32 w 10) (ord w 4) (scope w 1))
  | 3 => .ok (.amoor (bit w 0) (fin32 w 20) (fin32 w 15) (fin32 w 10) (ord w 4) (scope w 1))
  | 4 => .ok (.amoxor (bit w 0) (fin32 w 20) (fin32 w 15) (fin32 w 10) (ord w 4) (scope w 1))
  | 5 => .ok (.amomin (bit w 0) (fin32 w 20) (fin32 w 15) (fin32 w 10) (ord w 4) (scope w 1))
  | 6 => .ok (.amomax (bit w 0) (fin32 w 20) (fin32 w 15) (fin32 w 10) (ord w 4) (scope w 1))
  | 7 => .ok (.amominn (bit w 0) (fin32 w 20) (fin32 w 15) (fin32 w 10) (ord w 4) (scope w 1))
  | 8 => .ok (.amomaxn (bit w 0) (fin32 w 20) (fin32 w 15) (fin32 w 10) (ord w 4) (scope w 1))
  | 9 => fixed w 0 1 0 <| .ok (.amofadd (fin32 w 20) (fin32 w 15) (fin32 w 10) (ord w 4) (scope w 1))
  | _ => .error .unassigned
def decCas (w : Nat) : Dec :=
  match fld w 6 4 with
  | 0 => fixed w 0 1 1 <| .ok (.casD (fin32 w 20) (fin32 w 15) (fin32 w 10) (ord w 4) (scope w 1))
  | 1 => fixed w 0 1 1 <| .ok (.casQ (fin32 w 20) (fin32 w 15) (fin32 w 10) (ord w 4) (scope w 1))
  | _ => .error .unassigned
def decVmem (w : Nat) : Dec :=
  match fld w 11 2 with
  | 0 => fixed w 13 1 0 <| .ok (.vld (fin32 w 20) (fin32 w 15) (bit w 14) (.ofNat 11 (fld w 0 11)))
  | 1 => fixed w 13 1 0 <| .ok (.vst (fin32 w 20) (fin32 w 15) (bit w 14) (.ofNat 11 (fld w 0 11)))
  | 2 => fixed w 13 1 0 <| .ok (.vldNw (fin32 w 20) (fin32 w 15) (bit w 14) (.ofNat 11 (fld w 0 11)))
  | _ => .error .unassigned
def decVmemx (w : Nat) : Dec :=
  match fld w 4 6 with
  | 0 => fixed w 3 1 0 <| .ok (.vgat (msz w 0) (fin32 w 20) (fin32 w 15) (fin32 w 10) (bit w 2))
  | 1 => fixed w 3 1 0 <| .ok (.vsca (msz w 0) (fin32 w 20) (fin32 w 15) (fin32 w 10) (bit w 2))
  | 2 => fixed w 3 1 0 <| fixed w 10 5 0 <| .ok (.vldb (msz w 0) (fin32 w 20) (fin32 w 15) (bit w 2))
  | _ => .error .unassigned
def decBr (w : Nat) : Dec :=
  match fld w 18 2 with
  | 0 => fixed w 20 5 0 <| .ok (.br (.ofNat 18 (fld w 0 18)))
  | 1 => .ok (.call (fin32 w 20) (.ofNat 18 (fld w 0 18)))
  | _ => .error .unassigned
def decBc (w : Nat) : Dec :=
  match fld w 18 2 with
  | 0 => .ok (.bv (fin32 w 20) (.ofNat 18 (fld w 0 18)))
  | 1 => .ok (.bnv (fin32 w 20) (.ofNat 18 (fld w 0 18)))
  | 2 => .ok (.bnz (fin32 w 20) (.ofNat 18 (fld w 0 18)))
  | _ => .ok (.bz (fin32 w 20) (.ofNat 18 (fld w 0 18)))
def decJr (w : Nat) : Dec := .ok (.jr (fin32 w 20) (fin32 w 15) (bit w 14) (.ofNat 14 (fld w 0 14)))
def decMsg (w : Nat) : Dec :=
  match fld w 4 6 with
  | 0 => .ok (.ldk (msz w 0) (fin32 w 20) (fin32 w 15) (fin32 w 10) (bit w 2) (bit w 3))
  | 1 => fixed w 0 2 0 <| fixed w 2 1 0 <| fixed w 15 5 0 <| .ok (.wput (fin32 w 20) (fin32 w 10) (bit w 3))
  | 2 => fixed w 0 2 0 <| fixed w 2 1 0 <| fixed w 3 1 0 <| fixed w 10 5 0 <| fixed w 15 5 0 <| fixed w 20 5 0 <| .ok (.wwait)
  | 3 => fixed w 0 2 0 <| fixed w 2 1 0 <| fixed w 3 1 0 <| fixed w 10 5 0 <| fixed w 15 5 0 <| fixed w 20 5 0 <| .ok (.wdisp)
  | 4 => fixed w 0 2 0 <| fixed w 2 1 0 <| fixed w 3 1 0 <| fixed w 10 5 0 <| fixed w 15 5 0 <| fixed w 20 5 0 <| .ok (.wdone)
  | _ => .error .unassigned
def decSync (w : Nat) : Dec :=
  match fld w 4 6 with
  | 0 => fixed w 0 2 0 <| fixed w 2 1 0 <| fixed w 3 1 0 <| fixed w 13 2 0 <| fixed w 15 5 0 <| fixed w 20 5 0 <| level w 10 fun lv => .ok (.sync lv)
  | 1 => fixed w 0 2 0 <| fixed w 3 1 0 <| fixed w 13 2 0 <| level w 10 fun lv => .ok (.voteAnd lv (fin32 w 20) (fin32 w 15) (bit w 2))
  | 2 => fixed w 0 2 0 <| fixed w 3 1 0 <| fixed w 13 2 0 <| level w 10 fun lv => .ok (.voteOr lv (fin32 w 20) (fin32 w 15) (bit w 2))
  | 3 => fixed w 0 2 0 <| fixed w 3 1 0 <| fixed w 13 2 0 <| level w 10 fun lv => .ok (.voteAdd lv (fin32 w 20) (fin32 w 15) (bit w 2))
  | 4 => fixed w 0 2 0 <| fixed w 2 1 0 <| fixed w 3 1 0 <| fixed w 13 2 0 <| fixed w 15 5 0 <| fixed w 24 1 0 <| .ok (.fence (scope w 10) (bit w 23) (bit w 22) (bit w 21) (bit w 20))
  | 5 => fixed w 0 2 0 <| fixed w 2 1 0 <| fixed w 3 1 0 <| fixed w 13 2 0 <| fixed w 15 5 0 <| fixed w 20 5 0 <| wlevel w 10 fun lv => .ok (.hwbarArrive lv)
  | 6 => fixed w 0 2 0 <| fixed w 2 1 0 <| fixed w 3 1 0 <| fixed w 13 2 0 <| fixed w 15 5 0 <| fixed w 20 5 0 <| wlevel w 10 fun lv => .ok (.hwbarWait lv)
  | 7 => fixed w 0 2 0 <| fixed w 3 1 0 <| fixed w 10 5 0 <| fixed w 20 5 0 <| .ok (.watch (fin32 w 15) (bit w 2))
  | 8 => fixed w 0 2 0 <| fixed w 2 1 0 <| fixed w 3 1 0 <| fixed w 10 5 0 <| fixed w 15 5 0 <| fixed w 20 5 0 <| .ok (.wfe)
  | 9 => fixed w 0 2 0 <| fixed w 2 1 0 <| fixed w 3 1 0 <| fixed w 10 5 0 <| fixed w 15 5 0 <| fixed w 20 5 0 <| .ok (.sev)
  | _ => .error .unassigned
def decPort (w : Nat) : Dec :=
  match fld w 4 6 with
  | 0 => fixed w 0 2 0 <| fixed w 2 1 0 <| fixed w 3 1 0 <| fixed w 10 5 0 <| reg16 w 20 fun q => .ok (.qget q (fin32 w 15))
  | 1 => fixed w 0 2 0 <| fixed w 3 1 0 <| fixed w 10 5 0 <| reg16 w 20 fun q => .ok (.qput q (fin32 w 15) (bit w 2))
  | 2 => fixed w 0 2 0 <| fixed w 2 1 0 <| fixed w 3 1 0 <| fixed w 10 5 0 <| reg16 w 20 fun q => .ok (.vqget q (fin32 w 15))
  | 3 => fixed w 0 2 0 <| fixed w 2 1 0 <| fixed w 3 1 0 <| fixed w 10 5 0 <| reg16 w 20 fun q => .ok (.vqput q (fin32 w 15))
  | 4 => fixed w 0 2 0 <| reg16 w 20 fun q => .ok (.ecmd q (fin32 w 15) (fin32 w 10) (bit w 2) (bit w 3))
  | 5 => fixed w 0 2 0 <| fixed w 2 1 0 <| fixed w 3 1 0 <| fixed w 10 5 0 <| reg16 w 20 fun q => .ok (.ebusy q (fin32 w 15))
  | 6 => fixed w 2 1 0 <| fixed w 3 1 0 <| fixed w 15 5 0 <| fixed w 20 5 0 <| .ok (.efence (.ofNat 5 (fld w 10 5)) (.ofNat 2 (fld w 0 2)))
  | 7 => fixed w 0 2 0 <| fixed w 2 1 0 <| fixed w 3 1 0 <| fixed w 10 5 0 <| reg16 w 20 fun q => .ok (.qlen q (fin32 w 15))
  | _ => .error .unassigned
def decHmem (w : Nat) : Dec :=
  match fld w 11 2 with
  | 0 => reg8 w 20 fun d => .ok (.hld d (fin32 w 15) (bit w 14) (bit w 13) (.ofNat 11 (fld w 0 11)))
  | 1 => reg8 w 20 fun d => .ok (.hst d (fin32 w 15) (bit w 14) (bit w 13) (.ofNat 11 (fld w 0 11)))
  | _ => .error .unassigned
def decMmem (w : Nat) : Dec :=
  match fld w 0 5 with
  | 0 => fixed w 6 4 0 <| reg8 w 20 fun d => .ok (.mld (bit w 5) d (fin32 w 15) (fin32 w 10))
  | 1 => fixed w 5 5 0 <| reg8 w 20 fun d => .ok (.mst d (fin32 w 15) (fin32 w 10))
  | 2 => fixed w 8 2 0 <| fixed w 10 5 0 <| wlen w 5 fun len => .ok (.wbld len (bit w 7) (fin32 w 20) (fin32 w 15))
  | 3 => reg8 w 20 fun d => .ok (.mepi d (fin32 w 15) (fin32 w 10) (fin32 w 5))
  | 4 => fixed w 5 5 0 <| fixed w 20 5 0 <| .ok (.wbinv (fin32 w 15) (fin32 w 10))
  | _ => .error .unassigned
def decSys (w : Nat) : Dec :=
  match fld w 4 6 with
  | 0 => fixed w 0 2 0 <| fixed w 3 1 0 <| fixed w 10 5 0 <| fixed w 20 5 0 <| .ok (.syscall (fin32 w 15) (bit w 2))
  | 1 => fixed w 0 2 0 <| fixed w 2 1 0 <| fixed w 3 1 0 <| fixed w 10 5 0 <| fixed w 15 5 0 <| fixed w 20 5 0 <| .ok (.sret)
  | 2 => fixed w 0 2 0 <| fixed w 2 1 0 <| fixed w 3 1 0 <| fixed w 10 5 0 <| fixed w 15 5 0 <| fixed w 20 5 0 <| .ok (.endCtx)
  | 3 => fixed w 0 2 0 <| fixed w 2 1 0 <| fixed w 3 1 0 <| fixed w 15 5 0 <| fixed w 20 5 0 <| .ok (.brk (.ofNat 5 (fld w 10 5)))
  | 4 => fixed w 0 2 0 <| fixed w 2 1 0 <| fixed w 3 1 0 <| fixed w 10 5 0 <| fixed w 15 5 0 <| fixed w 20 5 0 <| .ok (.ifence)
  | 5 =>
    match fld w 0 2 with
    | 0 => fixed w 2 1 0 <| fixed w 3 1 0 <| fixed w 10 5 0 <| fixed w 15 5 0 <| fixed w 20 5 0 <| .ok (.tlbinvAll)
    | 1 => fixed w 2 1 0 <| fixed w 15 5 0 <| fixed w 20 5 0 <| .ok (.tlbinvAsid (fin32 w 10) (bit w 3))
    | 2 => fixed w 20 5 0 <| .ok (.tlbinvVa (fin32 w 15) (fin32 w 10) (bit w 2) (bit w 3))
    | _ => fixed w 3 1 0 <| fixed w 10 5 0 <| fixed w 20 5 0 <| .ok (.tlbinvVaall (fin32 w 15) (bit w 2))
  | 6 => fixed w 0 2 0 <| fixed w 2 1 0 <| fixed w 3 1 0 <| fixed w 10 5 0 <| fixed w 15 5 0 <| fixed w 20 5 0 <| .ok (.wfi)
  | 7 => fixed w 0 2 0 <| fixed w 2 1 0 <| fixed w 3 1 0 <| fixed w 10 5 0 <| fixed w 15 5 0 <| .ok (.rdfe (fin32 w 20))
  | 8 => fixed w 0 2 0 <| fixed w 3 1 0 <| fixed w 10 5 0 <| fixed w 20 5 0 <| .ok (.wrfe (fin32 w 15) (bit w 2))
  | 9 => fixed w 0 2 0 <| fixed w 2 1 0 <| fixed w 3 1 0 <| fixed w 10 5 0 <| fixed w 15 5 0 <| .ok (.rdvb (fin32 w 20))
  | 10 => fixed w 0 2 0 <| fixed w 3 1 0 <| fixed w 10 5 0 <| fixed w 20 5 0 <| .ok (.wrvb (fin32 w 15) (bit w 2))
  | 11 => fixed w 0 2 0 <| fixed w 2 1 0 <| fixed w 3 1 0 <| fixed w 10 5 0 <| fixed w 15 5 0 <| fixed w 20 5 0 <| .ok (.yield)
  | _ => .error .unassigned
def decCsr (w : Nat) : Dec :=
  match fld w 12 2 with
  | 0 => fixed w 14 1 0 <| fixed w 15 5 0 <| .ok (.csrr (fin32 w 20) (.ofNat 12 (fld w 0 12)))
  | 1 => .ok (.csrw (fin32 w 20) (fin32 w 15) (bit w 14) (.ofNat 12 (fld w 0 12)))
  | 2 => .ok (.csrs (fin32 w 20) (fin32 w 15) (bit w 14) (.ofNat 12 (fld w 0 12)))
  | _ => .ok (.csrc (fin32 w 20) (fin32 w 15) (bit w 14) (.ofNat 12 (fld w 0 12)))
def decAlu (w : Nat) : Dec :=
  match fld w 4 6 with
  | 0 => sz32 w 0 fun sz => .ok (.add sz (fin32 w 20) (fin32 w 15) (fin32 w 10) (bit w 2) (bit w 3))
  | 1 => sz32 w 0 fun sz => .ok (.sub sz (fin32 w 20) (fin32 w 15) (fin32 w 10) (bit w 2) (bit w 3))
  | 2 => sz32 w 0 fun sz => .ok (.and sz (fin32 w 20) (fin32 w 15) (fin32 w 10) (bit w 2) (bit w 3))
  | 3 => sz32 w 0 fun sz => .ok (.or sz (fin32 w 20) (fin32 w 15) (fin32 w 10) (bit w 2) (bit w 3))
  | 4 => sz32 w 0 fun sz => .ok (.xor sz (fin32 w 20) (fin32 w 15) (fin32 w 10) (bit w 2) (bit w 3))
  | 5 => sz32 w 0 fun sz => .ok (.andn sz (fin32 w 20) (fin32 w 15) (fin32 w 10) (bit w 2) (bit w 3))
  | 6 => sz32 w 0 fun sz => .ok (.orn sz (fin32 w 20) (fin32 w 15) (fin32 w 10) (bit w 2) (bit w 3))
  | 7 => sz32 w 0 fun sz => .ok (.sll sz (fin32 w 20) (fin32 w 15) (fin32 w 10) (bit w 2) (bit w 3))
  | 8 => sz32 w 0 fun sz => .ok (.srl sz (fin32 w 20) (fin32 w 15) (fin32 w 10) (bit w 2) (bit w 3))
  | 9 => sz32 w 0 fun sz => .ok (.sra sz (fin32 w 20) (fin32 w 15) (fin32 w 10) (bit w 2) (bit w 3))
  | 10 => sz32 w 0 fun sz => .ok (.rol sz (fin32 w 20) (fin32 w 15) (fin32 w 10) (bit w 2) (bit w 3))
  | 11 => sz32 w 0 fun sz => .ok (.ror sz (fin32 w 20) (fin32 w 15) (fin32 w 10) (bit w 2) (bit w 3))
  | 12 => sz32 w 0 fun sz => .ok (.min sz (fin32 w 20) (fin32 w 15) (fin32 w 10) (bit w 2) (bit w 3))
  | 13 => sz32 w 0 fun sz => .ok (.max sz (fin32 w 20) (fin32 w 15) (fin32 w 10) (bit w 2) (bit w 3))
  | 14 => sz32 w 0 fun sz => .ok (.minn sz (fin32 w 20) (fin32 w 15) (fin32 w 10) (bit w 2) (bit w 3))
  | 15 => sz32 w 0 fun sz => .ok (.maxn sz (fin32 w 20) (fin32 w 15) (fin32 w 10) (bit w 2) (bit w 3))
  | 16 => sz32 w 0 fun sz => .ok (.mul sz (fin32 w 20) (fin32 w 15) (fin32 w 10) (bit w 2) (bit w 3))
  | 17 => sz32 w 0 fun sz => .ok (.mulh sz (fin32 w 20) (fin32 w 15) (fin32 w 10) (bit w 2) (bit w 3))
  | 18 => sz32 w 0 fun sz => .ok (.mulhn sz (fin32 w 20) (fin32 w 15) (fin32 w 10) (bit w 2) (bit w 3))
  | 19 => sz32 w 0 fun sz => .ok (.mulhsn sz (fin32 w 20) (fin32 w 15) (fin32 w 10) (bit w 2) (bit w 3))
  | 20 => sz32 w 0 fun sz => .ok (.div sz (fin32 w 20) (fin32 w 15) (fin32 w 10) (bit w 2) (bit w 3))
  | 21 => sz32 w 0 fun sz => .ok (.divn sz (fin32 w 20) (fin32 w 15) (fin32 w 10) (bit w 2) (bit w 3))
  | 22 => sz32 w 0 fun sz => .ok (.rem sz (fin32 w 20) (fin32 w 15) (fin32 w 10) (bit w 2) (bit w 3))
  | 23 => sz32 w 0 fun sz => .ok (.remn sz (fin32 w 20) (fin32 w 15) (fin32 w 10) (bit w 2) (bit w 3))
  | 24 => sz32 w 0 fun sz => .ok (.addsat sz (fin32 w 20) (fin32 w 15) (fin32 w 10) (bit w 2) (bit w 3))
  | 25 => sz32 w 0 fun sz => .ok (.subsat sz (fin32 w 20) (fin32 w 15) (fin32 w 10) (bit w 2) (bit w 3))
  | _ => .error .unassigned
def decAddi (w : Nat) : Dec := .ok (.addi (fin32 w 20) (fin32 w 15) (bit w 14) (.ofNat 14 (fld w 0 14)))
def decAndi (w : Nat) : Dec := .ok (.andi (fin32 w 20) (fin32 w 15) (bit w 14) (.ofNat 14 (fld w 0 14)))
def decOri (w : Nat) : Dec := .ok (.ori (fin32 w 20) (fin32 w 15) (bit w 14) (.ofNat 14 (fld w 0 14)))
def decXori (w : Nat) : Dec := .ok (.xori (fin32 w 20) (fin32 w 15) (bit w 14) (.ofNat 14 (fld w 0 14)))
def decShi (w : Nat) : Dec :=
  match fld w 12 2 with
  | 0 => fixed w 6 6 0 <| .ok (.slli (fin32 w 20) (fin32 w 15) (bit w 14) (.ofNat 6 (fld w 0 6)))
  | 1 => fixed w 6 6 0 <| .ok (.srli (fin32 w 20) (fin32 w 15) (bit w 14) (.ofNat 6 (fld w 0 6)))
  | 2 => fixed w 6 6 0 <| .ok (.srai (fin32 w 20) (fin32 w 15) (bit w 14) (.ofNat 6 (fld w 0 6)))
  | _ => fixed w 6 6 0 <| .ok (.rori (fin32 w 20) (fin32 w 15) (bit w 14) (.ofNat 6 (fld w 0 6)))
def decCmp (w : Nat) : Dec :=
  match fld w 4 6 with
  | 0 => sz32 w 0 fun sz => .ok (.cmpEq sz (fin32 w 20) (fin32 w 15) (fin32 w 10) (bit w 2) (bit w 3))
  | 1 => sz32 w 0 fun sz => .ok (.cmpNe sz (fin32 w 20) (fin32 w 15) (fin32 w 10) (bit w 2) (bit w 3))
  | 2 => sz32 w 0 fun sz => .ok (.cmpLt sz (fin32 w 20) (fin32 w 15) (fin32 w 10) (bit w 2) (bit w 3))
  | 3 => sz32 w 0 fun sz => .ok (.cmpLtn sz (fin32 w 20) (fin32 w 15) (fin32 w 10) (bit w 2) (bit w 3))
  | 4 => sz32 w 0 fun sz => .ok (.cmpLe sz (fin32 w 20) (fin32 w 15) (fin32 w 10) (bit w 2) (bit w 3))
  | 5 => sz32 w 0 fun sz => .ok (.cmpLen sz (fin32 w 20) (fin32 w 15) (fin32 w 10) (bit w 2) (bit w 3))
  | 6 => sz32 w 0 fun sz => .ok (.cmpGt sz (fin32 w 20) (fin32 w 15) (fin32 w 10) (bit w 2) (bit w 3))
  | 7 => sz32 w 0 fun sz => .ok (.cmpGtn sz (fin32 w 20) (fin32 w 15) (fin32 w 10) (bit w 2) (bit w 3))
  | 8 => sz32 w 0 fun sz => .ok (.cmpGe sz (fin32 w 20) (fin32 w 15) (fin32 w 10) (bit w 2) (bit w 3))
  | 9 => sz32 w 0 fun sz => .ok (.cmpGen sz (fin32 w 20) (fin32 w 15) (fin32 w 10) (bit w 2) (bit w 3))
  | 10 => .ok (.fcmpEq (fmt2 w 0) (fin32 w 20) (fin32 w 15) (fin32 w 10) (bit w 2) (bit w 3))
  | 11 => .ok (.fcmpLt (fmt2 w 0) (fin32 w 20) (fin32 w 15) (fin32 w 10) (bit w 2) (bit w 3))
  | 12 => .ok (.fcmpLe (fmt2 w 0) (fin32 w 20) (fin32 w 15) (fin32 w 10) (bit w 2) (bit w 3))
  | 13 => .ok (.fcmpUn (fmt2 w 0) (fin32 w 20) (fin32 w 15) (fin32 w 10) (bit w 2) (bit w 3))
  | 14 => fixed w 0 2 0 <| .ok (.tst (fin32 w 20) (fin32 w 15) (fin32 w 10) (bit w 2) (bit w 3))
  | _ => .error .unassigned
def decCmpi (w : Nat) : Dec :=
  match fld w 11 3 with
  | 0 => .ok (.cmpiEq (fin32 w 20) (fin32 w 15) (bit w 14) (.ofNat 11 (fld w 0 11)))
  | 1 => .ok (.cmpiNe (fin32 w 20) (fin32 w 15) (bit w 14) (.ofNat 11 (fld w 0 11)))
  | 2 => .ok (.cmpiLt (fin32 w 20) (fin32 w 15) (bit w 14) (.ofNat 11 (fld w 0 11)))
  | 3 => .ok (.cmpiLtn (fin32 w 20) (fin32 w 15) (bit w 14) (.ofNat 11 (fld w 0 11)))
  | 4 => .ok (.cmpiGt (fin32 w 20) (fin32 w 15) (bit w 14) (.ofNat 11 (fld w 0 11)))
  | 5 => .ok (.cmpiGtn (fin32 w 20) (fin32 w 15) (bit w 14) (.ofNat 11 (fld w 0 11)))
  | _ => .error .unassigned
def decLi (w : Nat) : Dec := .ok (.li (fin32 w 20) (.ofNat 20 (fld w 0 20)))
def decLih (w : Nat) : Dec := .ok (.lih (fin32 w 20) (.ofNat 20 (fld w 0 20)))
def decBit (w : Nat) : Dec :=
  match fld w 4 6 with
  | 0 => fixed w 3 1 0 <| fixed w 10 5 0 <| sz32 w 0 fun sz => .ok (.clz sz (fin32 w 20) (fin32 w 15) (bit w 2))
  | 1 => fixed w 3 1 0 <| fixed w 10 5 0 <| sz32 w 0 fun sz => .ok (.ctz sz (fin32 w 20) (fin32 w 15) (bit w 2))
  | 2 => fixed w 3 1 0 <| fixed w 10 5 0 <| sz32 w 0 fun sz => .ok (.popc sz (fin32 w 20) (fin32 w 15) (bit w 2))
  | 3 => fixed w 3 1 0 <| fixed w 10 5 0 <| sz32 w 0 fun sz => .ok (.bswap sz (fin32 w 20) (fin32 w 15) (bit w 2))
  | 4 => fixed w 0 2 0 <| fixed w 3 1 0 <| fixed w 10 5 0 <| .ok (.sextB (fin32 w 20) (fin32 w 15) (bit w 2))
  | 5 => fixed w 0 2 0 <| fixed w 3 1 0 <| fixed w 10 5 0 <| .ok (.sextH (fin32 w 20) (fin32 w 15) (bit w 2))
  | 6 => fixed w 0 2 0 <| fixed w 3 1 0 <| fixed w 10 5 0 <| .ok (.sextW (fin32 w 20) (fin32 w 15) (bit w 2))
  | 7 => fixed w 0 2 0 <| fixed w 3 1 0 <| fixed w 10 5 0 <| .ok (.zextB (fin32 w 20) (fin32 w 15) (bit w 2))
  | 8 => fixed w 0 2 0 <| fixed w 3 1 0 <| fixed w 10 5 0 <| .ok (.zextH (fin32 w 20) (fin32 w 15) (bit w 2))
  | 9 => fixed w 0 2 0 <| fixed w 3 1 0 <| fixed w 10 5 0 <| .ok (.zextW (fin32 w 20) (fin32 w 15) (bit w 2))
  | 10 => sz32 w 0 fun sz => .ok (.bfx sz (fin32 w 20) (fin32 w 15) (fin32 w 10) (bit w 2) (bit w 3))
  | 11 => sz32 w 0 fun sz => .ok (.bfi sz (fin32 w 20) (fin32 w 15) (fin32 w 10) (bit w 2) (bit w 3))
  | 12 => fixed w 3 1 0 <| fixed w 10 5 0 <| sz32 w 0 fun sz => .ok (.brev sz (fin32 w 20) (fin32 w 15) (bit w 2))
  | 13 => sz32 w 0 fun sz => .ok (.pack sz (fin32 w 20) (fin32 w 15) (fin32 w 10) (bit w 2) (bit w 3))
  | _ => .error .unassigned
def decVal (w : Nat) : Dec :=
  match fld w 4 6 with
  | 0 => fixed w 0 2 0 <| .ok (.gate (fin32 w 20) (fin32 w 15) (fin32 w 10) (bit w 2) (bit w 3))
  | 1 => fixed w 0 2 0 <| .ok (.gaten (fin32 w 20) (fin32 w 15) (fin32 w 10) (bit w 2) (bit w 3))
  | 2 => fixed w 0 2 0 <| fixed w 3 1 0 <| fixed w 10 5 0 <| .ok (.setv (fin32 w 20) (fin32 w 15) (bit w 2))
  | 3 => fixed w 0 2 0 <| fixed w 3 1 0 <| fixed w 10 5 0 <| .ok (.clrv (fin32 w 20) (fin32 w 15) (bit w 2))
  | 4 => fixed w 0 2 0 <| fixed w 3 1 0 <| fixed w 10 5 0 <| .ok (.isv (fin32 w 20) (fin32 w 15) (bit w 2))
  | 5 => fixed w 0 2 0 <| .ok (.selv (fin32 w 20) (fin32 w 15) (fin32 w 10) (bit w 2) (bit w 3))
  | 6 => fixed w 0 2 0 <| fixed w 3 1 0 <| fixed w 10 5 0 <| .ok (.movv (fin32 w 20) (fin32 w 15) (bit w 2))
  | _ => .error .unassigned
def decFp (w : Nat) : Dec :=
  match fld w 4 6 with
  | 0 => .ok (.fadd (fmt2 w 0) (fin32 w 20) (fin32 w 15) (fin32 w 10) (bit w 2) (bit w 3))
  | 1 => .ok (.fsub (fmt2 w 0) (fin32 w 20) (fin32 w 15) (fin32 w 10) (bit w 2) (bit w 3))
  | 2 => .ok (.fmul (fmt2 w 0) (fin32 w 20) (fin32 w 15) (fin32 w 10) (bit w 2) (bit w 3))
  | 3 => .ok (.fdiv (fmt2 w 0) (fin32 w 20) (fin32 w 15) (fin32 w 10) (bit w 2) (bit w 3))
  | 4 => fixed w 3 1 0 <| fixed w 10 5 0 <| .ok (.fsqrt (fmt2 w 0) (fin32 w 20) (fin32 w 15) (bit w 2))
  | 5 => .ok (.fmin (fmt2 w 0) (fin32 w 20) (fin32 w 15) (fin32 w 10) (bit w 2) (bit w 3))
  | 6 => .ok (.fmax (fmt2 w 0) (fin32 w 20) (fin32 w 15) (fin32 w 10) (bit w 2) (bit w 3))
  | 7 => .ok (.fma (fmt2 w 0) (fin32 w 20) (fin32 w 15) (fin32 w 10) (bit w 2) (bit w 3))
  | 8 => .ok (.fnma (fmt2 w 0) (fin32 w 20) (fin32 w 15) (fin32 w 10) (bit w 2) (bit w 3))
  | 9 => fixed w 3 1 0 <| fixed w 10 5 0 <| .ok (.fabs (fmt2 w 0) (fin32 w 20) (fin32 w 15) (bit w 2))
  | 10 => fixed w 3 1 0 <| fixed w 10 5 0 <| .ok (.fneg (fmt2 w 0) (fin32 w 20) (fin32 w 15) (bit w 2))
  | 11 => .ok (.fsgnj (fmt2 w 0) (fin32 w 20) (fin32 w 15) (fin32 w 10) (bit w 2) (bit w 3))
  | 12 => fixed w 3 1 0 <| fixed w 10 5 0 <| .ok (.fclass (fmt2 w 0) (fin32 w 20) (fin32 w 15) (bit w 2))
  | 13 => fixed w 3 1 0 <| fixed w 10 5 0 <| .ok (.fcvtS (fmt2 w 0) (fin32 w 20) (fin32 w 15) (bit w 2))
  | 14 => fixed w 3 1 0 <| fixed w 10 5 0 <| .ok (.fcvtN (fmt2 w 0) (fin32 w 20) (fin32 w 15) (bit w 2))
  | 15 => fixed w 3 1 0 <| fixed w 10 5 0 <| .ok (.scvtF (fmt2 w 0) (fin32 w 20) (fin32 w 15) (bit w 2))
  | 16 => fixed w 3 1 0 <| fixed w 10 5 0 <| .ok (.ncvtF (fmt2 w 0) (fin32 w 20) (fin32 w 15) (bit w 2))
  | 17 => fixed w 3 1 0 <| fixed w 12 3 0 <| .ok (.fcvtF (fmt2 w 0) (fmt2 w 10) (fin32 w 20) (fin32 w 15) (bit w 2))
  | _ => .error .unassigned
def decVint (w : Nat) : Dec :=
  match fld w 4 6 with
  | 0 => iet w 0 fun e => .ok (.vadd e (fin32 w 20) (fin32 w 15) (fin32 w 10))
  | 1 => iet w 0 fun e => .ok (.vsub e (fin32 w 20) (fin32 w 15) (fin32 w 10))
  | 2 => iet w 0 fun e => .ok (.vmul e (fin32 w 20) (fin32 w 15) (fin32 w 10))
  | 3 => iet w 0 fun e => .ok (.vmulh e (fin32 w 20) (fin32 w 15) (fin32 w 10))
  | 4 => iet w 0 fun e => .ok (.vmin e (fin32 w 20) (fin32 w 15) (fin32 w 10))
  | 5 => iet w 0 fun e => .ok (.vmax e (fin32 w 20) (fin32 w 15) (fin32 w 10))
  | 6 => fixed w 10 5 0 <| iet w 0 fun e => .ok (.vabs e (fin32 w 20) (fin32 w 15))
  | 7 => fixed w 10 5 0 <| iet w 0 fun e => .ok (.vneg e (fin32 w 20) (fin32 w 15))
  | 8 => iet w 0 fun e => .ok (.vand e (fin32 w 20) (fin32 w 15) (fin32 w 10))
  | 9 => iet w 0 fun e => .ok (.vor e (fin32 w 20) (fin32 w 15) (fin32 w 10))
  | 10 => iet w 0 fun e => .ok (.vxor e (fin32 w 20) (fin32 w 15) (fin32 w 10))
  | 11 => iet w 0 fun e => .ok (.vandn e (fin32 w 20) (fin32 w 15) (fin32 w 10))
  | 12 => iet w 0 fun e => .ok (.vsll e (fin32 w 20) (fin32 w 15) (fin32 w 10))
  | 13 => iet w 0 fun e => .ok (.vsrl e (fin32 w 20) (fin32 w 15) (fin32 w 10))
  | 14 => iet w 0 fun e => .ok (.vsra e (fin32 w 20) (fin32 w 15) (fin32 w 10))
  | 15 => iet w 0 fun e => .ok (.vaddsat e (fin32 w 20) (fin32 w 15) (fin32 w 10))
  | 16 => iet w 0 fun e => .ok (.vsubsat e (fin32 w 20) (fin32 w 15) (fin32 w 10))
  | 17 => iet w 0 fun e => .ok (.vavg e (fin32 w 20) (fin32 w 15) (fin32 w 10))
  | 18 => iet w 0 fun e => .ok (.vcmpEq e (fin32 w 20) (fin32 w 15) (fin32 w 10))
  | 19 => iet w 0 fun e => .ok (.vcmpLt e (fin32 w 20) (fin32 w 15) (fin32 w 10))
  | 20 => iet w 0 fun e => .ok (.vcmpLe e (fin32 w 20) (fin32 w 15) (fin32 w 10))
  | 21 => iet w 0 fun e => .ok (.vbsel e (fin32 w 20) (fin32 w 15) (fin32 w 10))
  | 22 => fixed w 10 5 0 <| iet w 0 fun e => .ok (.vpopc e (fin32 w 20) (fin32 w 15))
  | 23 => fixed w 10 5 0 <| iet w 0 fun e => .ok (.vclz e (fin32 w 20) (fin32 w 15))
  | _ => .error .unassigned
def decVflt (w : Nat) : Dec :=
  match fld w 4 6 with
  | 0 => fet w 0 fun e => .ok (.vfadd e (fin32 w 20) (fin32 w 15) (fin32 w 10))
  | 1 => fet w 0 fun e => .ok (.vfsub e (fin32 w 20) (fin32 w 15) (fin32 w 10))
  | 2 => fet w 0 fun e => .ok (.vfmul e (fin32 w 20) (fin32 w 15) (fin32 w 10))
  | 3 => fet w 0 fun e => .ok (.vfma e (fin32 w 20) (fin32 w 15) (fin32 w 10))
  | 4 => fet w 0 fun e => .ok (.vfnma e (fin32 w 20) (fin32 w 15) (fin32 w 10))
  | 5 => fet w 0 fun e => .ok (.vfdiv e (fin32 w 20) (fin32 w 15) (fin32 w 10))
  | 6 => fixed w 10 5 0 <| fet w 0 fun e => .ok (.vfsqrt e (fin32 w 20) (fin32 w 15))
  | 7 => fet w 0 fun e => .ok (.vfmin e (fin32 w 20) (fin32 w 15) (fin32 w 10))
  | 8 => fet w 0 fun e => .ok (.vfmax e (fin32 w 20) (fin32 w 15) (fin32 w 10))
  | 9 => fixed w 10 5 0 <| fet w 0 fun e => .ok (.vfabs e (fin32 w 20) (fin32 w 15))
  | 10 => fixed w 10 5 0 <| fet w 0 fun e => .ok (.vfneg e (fin32 w 20) (fin32 w 15))
  | 11 => fet w 0 fun e => .ok (.vfcmpEq e (fin32 w 20) (fin32 w 15) (fin32 w 10))
  | 12 => fet w 0 fun e => .ok (.vfcmpLt e (fin32 w 20) (fin32 w 15) (fin32 w 10))
  | 13 => fet w 0 fun e => .ok (.vfcmpLe e (fin32 w 20) (fin32 w 15) (fin32 w 10))
  | 14 => fet w 0 fun e => .ok (.vfdot e (fin32 w 20) (fin32 w 15) (fin32 w 10))
  | _ => .error .unassigned
def decVcvt (w : Nat) : Dec :=
  match fld w 4 6 with
  | 0 => fixed w 14 1 0 <| anyEt w 0 fun dst => anyEt w 10 fun src => .ok (.vcvt dst src (fin32 w 20) (fin32 w 15))
  | 1 => fixed w 1 3 6 <| fixed w 10 5 0 <| .ok (.venc (bit w 0) (fin32 w 20) (fin32 w 15))
  | 2 => fixed w 0 4 10 <| fixed w 11 4 6 <| .ok (.vdec (bit w 10) (fin32 w 20) (fin32 w 15))
  | 3 => fixed w 14 1 0 <| anyEt w 0 fun dst => anyEt w 10 fun src => .ok (.vcvtSat dst src (fin32 w 20) (fin32 w 15))
  | _ => .error .unassigned
def decVperm (w : Nat) : Dec :=
  match fld w 4 6 with
  | 0 => anyEt w 0 fun e => .ok (.vperm e (fin32 w 20) (fin32 w 15) (fin32 w 10))
  | 1 => fixed w 10 5 0 <| anyEt w 0 fun e => .ok (.vbcast e (fin32 w 20) (fin32 w 15))
  | 2 => anyEt w 0 fun e => .ok (.vext e (fin32 w 20) (fin32 w 15) (fin32 w 10))
  | 3 => anyEt w 0 fun e => .ok (.vins e (fin32 w 20) (fin32 w 15) (fin32 w 10))
  | 4 => anyEt w 0 fun e => .ok (.vslide e (fin32 w 20) (fin32 w 15) (fin32 w 10))
  | 5 => anyEt w 0 fun e => .ok (.vrot e (fin32 w 20) (fin32 w 15) (fin32 w 10))
  | 6 => anyEt w 0 fun e => .ok (.vzip e (fin32 w 20) (fin32 w 15) (fin32 w 10))
  | 7 => anyEt w 0 fun e => .ok (.vunzip e (fin32 w 20) (fin32 w 15) (fin32 w 10))
  | 8 => fixed w 10 5 0 <| anyEt w 0 fun e => .ok (.vredAdd e (fin32 w 20) (fin32 w 15))
  | 9 => fixed w 10 5 0 <| anyEt w 0 fun e => .ok (.vredMax e (fin32 w 20) (fin32 w 15))
  | 10 => fixed w 10 5 0 <| anyEt w 0 fun e => .ok (.vredMin e (fin32 w 20) (fin32 w 15))
  | 11 => fet w 0 fun e => .ok (.vpack24 e (fin32 w 20) (fin32 w 15) (fin32 w 10))
  | 12 => fet w 0 fun e => .ok (.vunpack24 e (fin32 w 20) (fin32 w 15) (fin32 w 10))
  | 13 => anyEt w 0 fun e => .ok (.vcompress e (fin32 w 20) (fin32 w 15) (fin32 w 10))
  | 14 => anyEt w 0 fun e => .ok (.vexpand e (fin32 w 20) (fin32 w 15) (fin32 w 10))
  | _ => .error .unassigned
def decVsf (w : Nat) : Dec :=
  match fld w 4 6 with
  | 0 => fixed w 10 5 0 <| fet w 0 fun e => .ok (.vrcp e (fin32 w 20) (fin32 w 15))
  | 1 => fixed w 10 5 0 <| fet w 0 fun e => .ok (.vrsqrt e (fin32 w 20) (fin32 w 15))
  | 2 => fixed w 10 5 0 <| fet w 0 fun e => .ok (.vexp2 e (fin32 w 20) (fin32 w 15))
  | 3 => fixed w 10 5 0 <| fet w 0 fun e => .ok (.vlog2 e (fin32 w 20) (fin32 w 15))
  | _ => .error .unassigned
def decMma (w : Nat) : Dec := pair w 0 fun p => reg8 w 20 fun d => .ok (.mma p d (fin32 w 15) (fin32 w 10) (fin32 w 5))
def decMctl (w : Nat) : Dec :=
  match fld w 0 5 with
  | 0 => fixed w 6 4 0 <| fixed w 10 5 0 <| fixed w 15 5 0 <| reg8 w 20 fun d => .ok (.mz (bit w 5) d)
  | 1 => fixed w 5 5 0 <| fixed w 10 5 0 <| reg8 w 15 fun a => .ok (.mstat (fin32 w 20) a)
  | 2 => fixed w 5 5 0 <| fixed w 10 5 0 <| reg8 w 20 fun d => reg8 w 15 fun a => .ok (.mcpy d a)
  | 3 => fixed w 5 5 0 <| fixed w 10 5 0 <| reg8 w 20 fun d => reg8 w 15 fun a => .ok (.madd d a)
  | 4 => fixed w 5 5 0 <| fixed w 10 5 0 <| reg8 w 20 fun d => .ok (.mscale d (fin32 w 15))
  | 5 => fixed w 5 5 0 <| reg8 w 15 fun a => .ok (.mrow (fin32 w 20) a (fin32 w 10))
  | 6 => fixed w 5 5 0 <| fixed w 10 5 0 <| fixed w 15 5 0 <| reg8 w 20 fun d => .ok (.mwait d)
  | 7 => fixed w 6 4 0 <| fixed w 10 5 0 <| reg8 w 15 fun a => .ok (.movf (bit w 5) (fin32 w 20) a)
  | _ => .error .unassigned
def decMmas (w : Nat) : Dec := pair w 0 fun p => reg8 w 20 fun d => .ok (.mmas p d (fin32 w 15) (fin32 w 10) (fin32 w 5))
def decHv (w : Nat) : Dec :=
  match fld w 0 5 with
  | 0 => fixed w 5 5 0 <| reg8 w 20 fun d => reg8 w 15 fun a => reg8 w 10 fun b => .ok (.hxor d a b)
  | 1 => fixed w 5 5 0 <| reg8 w 20 fun d => reg8 w 15 fun a => reg8 w 10 fun b => .ok (.hand d a b)
  | 2 => fixed w 5 5 0 <| reg8 w 20 fun d => reg8 w 15 fun a => reg8 w 10 fun b => .ok (.hor d a b)
  | 3 => fixed w 5 5 0 <| fixed w 10 5 0 <| reg8 w 20 fun d => reg8 w 15 fun a => .ok (.hnot d a)
  | 4 => fixed w 5 5 0 <| reg8 w 20 fun d => reg8 w 15 fun a => .ok (.hrot d a (fin32 w 10))
  | 5 => fixed w 5 5 0 <| fixed w 10 5 0 <| reg2 w 20 fun d => reg8 w 15 fun a => .ok (.hbund d a)
  | 6 => fixed w 5 5 0 <| reg2 w 20 fun d => reg8 w 15 fun a => .ok (.hbunw d a (fin32 w 10))
  | 7 => fixed w 5 5 0 <| fixed w 10 5 0 <| fixed w 15 5 0 <| reg2 w 20 fun d => .ok (.hbclr d)
  | 8 => fixed w 5 5 0 <| reg8 w 20 fun d => reg2 w 15 fun a => reg8 w 10 fun b => .ok (.hthr d a b)
  | 9 => fixed w 5 5 0 <| fixed w 10 5 0 <| reg8 w 15 fun a => .ok (.hpopc (fin32 w 20) a)
  | 10 => fixed w 5 5 0 <| reg8 w 15 fun a => reg8 w 10 fun b => .ok (.hdist (fin32 w 20) a b)
  | 11 => fixed w 5 5 0 <| fixed w 10 5 0 <| reg8 w 20 fun d => .ok (.hbcast d (fin32 w 15))
  | 12 => fixed w 5 5 0 <| reg8 w 20 fun d => .ok (.hins d (fin32 w 15) (fin32 w 10))
  | 13 => fixed w 5 5 0 <| reg8 w 15 fun a => .ok (.hext (fin32 w 20) a (fin32 w 10))
  | 14 => fixed w 5 5 0 <| fixed w 10 5 0 <| reg8 w 20 fun d => reg8 w 15 fun a => .ok (.hmov d a)
  | _ => .error .unassigned
def decHrec (w : Nat) : Dec :=
  match fld w 0 5 with
  | 0 => fixed w 5 5 0 <| fixed w 20 5 0 <| reg8 w 15 fun a => .ok (.hmst a (fin32 w 10))
  | 1 => fixed w 5 5 0 <| fixed w 15 5 0 <| reg8 w 20 fun d => .ok (.hmld d (fin32 w 10))
  | 2 =>
    match fld w 5 1 with
    | 0 => fixed w 6 4 0 <| fixed w 15 5 0 <| fixed w 20 5 0 <| .ok (.hmclr (fin32 w 10))
    | _ => fixed w 6 4 0 <| fixed w 10 5 0 <| fixed w 15 5 0 <| fixed w 20 5 0 <| .ok (.hmclrAll)
  | 3 => fixed w 5 5 0 <| reg8 w 15 fun a => .ok (.hrecall (fin32 w 20) a (fin32 w 10))
  | 4 => fixed w 5 5 0 <| reg8 w 15 fun a => .ok (.hrecall2 (fin32 w 20) a (fin32 w 10))
  | _ => .error .unassigned

/-- The word by its major (R61, R62), before the checks of `Instr.wf`. -/
def decodeMajor (w : Nat) : Dec :=
  match fld w 25 6 with
  | 1 => decLd w
  | 2 => decLds w
  | 3 => decSt w
  | 4 => decMemx w
  | 5 => decAmo w
  | 6 => decCas w
  | 7 => decVmem w
  | 8 => decVmemx w
  | 9 => decBr w
  | 10 => decBc w
  | 11 => decJr w
  | 12 => decMsg w
  | 13 => decSync w
  | 14 => decPort w
  | 15 => decHmem w
  | 16 => decMmem w
  | 17 => decSys w
  | 18 => decCsr w
  | 32 => decAlu w
  | 33 => decAddi w
  | 34 => decAndi w
  | 35 => decOri w
  | 36 => decXori w
  | 37 => decShi w
  | 38 => decCmp w
  | 39 => decCmpi w
  | 40 => decLi w
  | 41 => decLih w
  | 42 => decBit w
  | 43 => decVal w
  | 44 => decFp w
  | 48 => decVint w
  | 49 => decVflt w
  | 50 => decVcvt w
  | 51 => decVperm w
  | 52 => decVsf w
  | 56 => decMma w
  | 57 => decMctl w
  | 58 => decMmas w
  | 60 => decHv w
  | 61 => decHrec w
  | _ => .error .reservedMajor

/-- An Efpex word (R45 to R69): the instruction, or why it is an encoding fault. -/
def decode (w : Nat) : Dec :=
  match decodeMajor w with
  | .ok i => if i.wf then .ok i else .error .operand
  | .error r => .error r

/-- The custom-0 words of the helper cores (R342, R343). -/
def decDk (w : Nat) : Dec :=
  match fld w 12 3 with
  | 0 => fixed w 7 5 0 <| equeue w 25 fun q => .ok (.dkEcmd q (fin32 w 15) (fin32 w 20))
  | 1 => fixed w 7 5 0 <| fixed w 20 5 0 <| fixed w 29 3 0 <| .ok (.dkQput (fin4 w 27) (fin4 w 25) (fin32 w 15))
  | 2 => fixed w 15 5 0 <| fixed w 20 5 0 <| fixed w 27 5 0 <| .ok (.dkQget (fin4 w 25) (fin32 w 7))
  | 3 => fixed w 20 5 0 <| fin7 w 25 fun n => .ok (.dkWcnt n (fin32 w 15) (fin32 w 7))
  | 4 => fixed w 7 5 0 <| fixed w 15 5 0 <| fixed w 20 5 0 <| fixed w 25 7 0 <| .ok (.dkSev)
  | 5 =>
    match fld w 25 7 with
    | 0 => fixed w 7 5 0 <| fixed w 15 5 0 <| fixed w 20 5 0 <| .ok (.dkWfe)
    | 1 => fixed w 7 5 0 <| fixed w 20 5 0 <| .ok (.dkWfeWatch (fin32 w 15))
    | _ => .error .unassigned
  | 6 => fixed w 15 5 0 <| fixed w 20 5 0 <| rdSel w 25 fun n => .ok (.dkRdst n (fin32 w 7))
  | _ => fixed w 7 5 0 <| fixed w 25 7 0 <| .ok (.dkWput (fin32 w 15) (fin32 w 20))

/-- A helper-core word: an Xdk instruction, `ecall`, `ebreak`, or a word of the base instruction set (R337, R342). -/
def decodeHelper (w : Nat) : Dec :=
  if fld w 0 7 = 0x0B then decDk w
  else if w = 0x73 then .ok .ecall
  else if w = 0x100073 then .ok .ebreak
  else .ok (.rv64imInstruction (.ofNat 32 w))

/-- The word of a row of the opcode table as this decoder reads it. -/
def decodeTableWord (nbits w : Nat) : Option Instr :=
  if nbits = 0 then none
  else
    let w := w % 2 ^ nbits
    match (if fld w 0 7 = 0x0B then decDk w else .error .unassigned) with
    | .ok i => some i
    | .error _ =>
      match decode w with
      | .ok i => some i
      | .error _ => none


end

/-! The encoder. -/


def Sz32.code : Sz32 → Nat
  | .w64 => 0 | .w32 => 1
def FEt.code : FEt → Nat
  | .f16 => 0 | .bf16 => 1 | .f32 => 2 | .f64 => 3
def IEt.code : IEt → Nat
  | .n8 => 0 | .s8 => 1 | .n16 => 2 | .s16 => 3 | .n32 => 4 | .s32 => 5 | .n64 => 6 | .s64 => 7
def MSz.code : MSz → Nat
  | .b => 0 | .h => 1 | .w => 2 | .d => 3
def Scope.code : Scope → Nat
  | .ctx => 0 | .tile => 1 | .clu => 2 | .gang => 3 | .grid => 4 | .mod => 5 | .dom => 6 | .sys => 7
def Ord.code : Ord → Nat
  | .rlx => 0 | .acq => 1 | .rel => 2 | .acqRel => 3
def Level.code : Level → Nat
  | .ctx => 0 | .tile => 1 | .gang => 3 | .grid => 4 | .dom => 6
def WLevel.code : WLevel → Nat
  | .gang => 3 | .grid => 4
def WLen.code : WLen → Nat
  | .b512 => 0 | .k1 => 1 | .k2 => 2
def Pair.code : Pair → Nat
  | .bf16bf16 => 0 | .f16f16 => 1 | .bf16t8 => 2 | .bf16t4 => 3 | .t8t8 => 4 | .t8t4 => 5 | .t4t4 => 6 | .s8s8 => 7 | .s8s4 => 8 | .s4s4 => 9 | .t8bf16 => 10 | .t4bf16 => 11
def RdSel.code : RdSel → Nat
  | .tags => 0 | .wq => 1 | .slots => 2 | .ctx0 => 4 | .ctx1 => 5 | .ctx2 => 6 | .ctx3 => 7
def LEt.code : LEt → Nat
  | .int t => t.code | .flt t => t.code + 8

/-! The formats of R53, and R of the helper cores (R342). -/

def encR (maj d a b fn wb wa sz : Nat) : Nat :=
  maj * 0x2000000 + d * 0x100000 + a * 0x8000 + b * 0x400 + fn * 0x10 + wb * 0x8 + wa * 0x4 + sz
def encI (maj d a wa imm : Nat) : Nat :=
  maj * 0x2000000 + d * 0x100000 + a * 0x8000 + wa * 0x4000 + imm
def encU (maj d imm : Nat) : Nat :=
  maj * 0x2000000 + d * 0x100000 + imm
def encB (maj a cc off : Nat) : Nat :=
  maj * 0x2000000 + a * 0x100000 + cc * 0x40000 + off
def encM (maj d a wa nw sz off : Nat) : Nat :=
  maj * 0x2000000 + d * 0x100000 + a * 0x8000 + wa * 0x4000 + nw * 0x2000 + sz * 0x800 + off
def encRA (maj d a b op ord sc width : Nat) : Nat :=
  maj * 0x2000000 + d * 0x100000 + a * 0x8000 + b * 0x400 + op * 0x40 + ord * 0x10 + sc * 0x2 + width
def encV (maj d a b fn et : Nat) : Nat :=
  maj * 0x2000000 + d * 0x100000 + a * 0x8000 + b * 0x400 + fn * 0x10 + et
def encX (maj d a b c fn : Nat) : Nat :=
  maj * 0x2000000 + d * 0x100000 + a * 0x8000 + b * 0x400 + c * 0x20 + fn
def encDk (f7 rs2 rs1 f3 rd : Nat) : Nat :=
  f7 * 0x2000000 + rs2 * 0x100000 + rs1 * 0x8000 + f3 * 0x1000 + rd * 0x80 + 0x0B

/-- The word of a well-formed instruction of the tile core with L = 0; none for a helper instruction or an event. -/
def encode : Instr → Option Nat
  | .add sz d a b wa wb => some (encR 0x20 d.val a.val b.val 0 wb.toNat wa.toNat sz.code)
  | .sub sz d a b wa wb => some (encR 0x20 d.val a.val b.val 1 wb.toNat wa.toNat sz.code)
  | .and sz d a b wa wb => some (encR 0x20 d.val a.val b.val 2 wb.toNat wa.toNat sz.code)
  | .or sz d a b wa wb => some (encR 0x20 d.val a.val b.val 3 wb.toNat wa.toNat sz.code)
  | .xor sz d a b wa wb => some (encR 0x20 d.val a.val b.val 4 wb.toNat wa.toNat sz.code)
  | .andn sz d a b wa wb => some (encR 0x20 d.val a.val b.val 5 wb.toNat wa.toNat sz.code)
  | .orn sz d a b wa wb => some (encR 0x20 d.val a.val b.val 6 wb.toNat wa.toNat sz.code)
  | .sll sz d a b wa wb => some (encR 0x20 d.val a.val b.val 7 wb.toNat wa.toNat sz.code)
  | .srl sz d a b wa wb => some (encR 0x20 d.val a.val b.val 8 wb.toNat wa.toNat sz.code)
  | .sra sz d a b wa wb => some (encR 0x20 d.val a.val b.val 9 wb.toNat wa.toNat sz.code)
  | .rol sz d a b wa wb => some (encR 0x20 d.val a.val b.val 10 wb.toNat wa.toNat sz.code)
  | .ror sz d a b wa wb => some (encR 0x20 d.val a.val b.val 11 wb.toNat wa.toNat sz.code)
  | .min sz d a b wa wb => some (encR 0x20 d.val a.val b.val 12 wb.toNat wa.toNat sz.code)
  | .max sz d a b wa wb => some (encR 0x20 d.val a.val b.val 13 wb.toNat wa.toNat sz.code)
  | .minn sz d a b wa wb => some (encR 0x20 d.val a.val b.val 14 wb.toNat wa.toNat sz.code)
  | .maxn sz d a b wa wb => some (encR 0x20 d.val a.val b.val 15 wb.toNat wa.toNat sz.code)
  | .mul sz d a b wa wb => some (encR 0x20 d.val a.val b.val 16 wb.toNat wa.toNat sz.code)
  | .mulh sz d a b wa wb => some (encR 0x20 d.val a.val b.val 17 wb.toNat wa.toNat sz.code)
  | .mulhn sz d a b wa wb => some (encR 0x20 d.val a.val b.val 18 wb.toNat wa.toNat sz.code)
  | .mulhsn sz d a b wa wb => some (encR 0x20 d.val a.val b.val 19 wb.toNat wa.toNat sz.code)
  | .div sz d a b wa wb => some (encR 0x20 d.val a.val b.val 20 wb.toNat wa.toNat sz.code)
  | .divn sz d a b wa wb => some (encR 0x20 d.val a.val b.val 21 wb.toNat wa.toNat sz.code)
  | .rem sz d a b wa wb => some (encR 0x20 d.val a.val b.val 22 wb.toNat wa.toNat sz.code)
  | .remn sz d a b wa wb => some (encR 0x20 d.val a.val b.val 23 wb.toNat wa.toNat sz.code)
  | .addsat sz d a b wa wb => some (encR 0x20 d.val a.val b.val 24 wb.toNat wa.toNat sz.code)
  | .subsat sz d a b wa wb => some (encR 0x20 d.val a.val b.val 25 wb.toNat wa.toNat sz.code)
  | .addi d a wa imm => some (encI 0x21 d.val a.val wa.toNat imm.toNat)
  | .andi d a wa imm => some (encI 0x22 d.val a.val wa.toNat imm.toNat)
  | .ori d a wa imm => some (encI 0x23 d.val a.val wa.toNat imm.toNat)
  | .xori d a wa imm => some (encI 0x24 d.val a.val wa.toNat imm.toNat)
  | .slli d a wa k => some (encI 0x25 d.val a.val wa.toNat k.toNat)
  | .srli d a wa k => some (encI 0x25 d.val a.val wa.toNat (k.toNat + 4096))
  | .srai d a wa k => some (encI 0x25 d.val a.val wa.toNat (k.toNat + 8192))
  | .rori d a wa k => some (encI 0x25 d.val a.val wa.toNat (k.toNat + 12288))
  | .cmpEq sz d a b wa wb => some (encR 0x26 d.val a.val b.val 0 wb.toNat wa.toNat sz.code)
  | .cmpNe sz d a b wa wb => some (encR 0x26 d.val a.val b.val 1 wb.toNat wa.toNat sz.code)
  | .cmpLt sz d a b wa wb => some (encR 0x26 d.val a.val b.val 2 wb.toNat wa.toNat sz.code)
  | .cmpLtn sz d a b wa wb => some (encR 0x26 d.val a.val b.val 3 wb.toNat wa.toNat sz.code)
  | .cmpLe sz d a b wa wb => some (encR 0x26 d.val a.val b.val 4 wb.toNat wa.toNat sz.code)
  | .cmpLen sz d a b wa wb => some (encR 0x26 d.val a.val b.val 5 wb.toNat wa.toNat sz.code)
  | .cmpGt sz d a b wa wb => some (encR 0x26 d.val a.val b.val 6 wb.toNat wa.toNat sz.code)
  | .cmpGtn sz d a b wa wb => some (encR 0x26 d.val a.val b.val 7 wb.toNat wa.toNat sz.code)
  | .cmpGe sz d a b wa wb => some (encR 0x26 d.val a.val b.val 8 wb.toNat wa.toNat sz.code)
  | .cmpGen sz d a b wa wb => some (encR 0x26 d.val a.val b.val 9 wb.toNat wa.toNat sz.code)
  | .fcmpEq f d a b wa wb => some (encR 0x26 d.val a.val b.val 10 wb.toNat wa.toNat f.code)
  | .fcmpLt f d a b wa wb => some (encR 0x26 d.val a.val b.val 11 wb.toNat wa.toNat f.code)
  | .fcmpLe f d a b wa wb => some (encR 0x26 d.val a.val b.val 12 wb.toNat wa.toNat f.code)
  | .fcmpUn f d a b wa wb => some (encR 0x26 d.val a.val b.val 13 wb.toNat wa.toNat f.code)
  | .tst d a b wa wb => some (encR 0x26 d.val a.val b.val 14 wb.toNat wa.toNat 0)
  | .cmpiEq d a wa imm => some (encI 0x27 d.val a.val wa.toNat imm.toNat)
  | .cmpiNe d a wa imm => some (encI 0x27 d.val a.val wa.toNat (imm.toNat + 2048))
  | .cmpiLt d a wa imm => some (encI 0x27 d.val a.val wa.toNat (imm.toNat + 4096))
  | .cmpiLtn d a wa imm => some (encI 0x27 d.val a.val wa.toNat (imm.toNat + 6144))
  | .cmpiGt d a wa imm => some (encI 0x27 d.val a.val wa.toNat (imm.toNat + 8192))
  | .cmpiGtn d a wa imm => some (encI 0x27 d.val a.val wa.toNat (imm.toNat + 10240))
  | .li d imm => some (encU 0x28 d.val imm.toNat)
  | .lih d imm => some (encU 0x29 d.val imm.toNat)
  | .clz sz d a wa => some (encR 0x2A d.val a.val 0 0 0 wa.toNat sz.code)
  | .ctz sz d a wa => some (encR 0x2A d.val a.val 0 1 0 wa.toNat sz.code)
  | .popc sz d a wa => some (encR 0x2A d.val a.val 0 2 0 wa.toNat sz.code)
  | .bswap sz d a wa => some (encR 0x2A d.val a.val 0 3 0 wa.toNat sz.code)
  | .sextB d a wa => some (encR 0x2A d.val a.val 0 4 0 wa.toNat 0)
  | .sextH d a wa => some (encR 0x2A d.val a.val 0 5 0 wa.toNat 0)
  | .sextW d a wa => some (encR 0x2A d.val a.val 0 6 0 wa.toNat 0)
  | .zextB d a wa => some (encR 0x2A d.val a.val 0 7 0 wa.toNat 0)
  | .zextH d a wa => some (encR 0x2A d.val a.val 0 8 0 wa.toNat 0)
  | .zextW d a wa => some (encR 0x2A d.val a.val 0 9 0 wa.toNat 0)
  | .bfx sz d a b wa wb => some (encR 0x2A d.val a.val b.val 10 wb.toNat wa.toNat sz.code)
  | .bfi sz d a b wa wb => some (encR 0x2A d.val a.val b.val 11 wb.toNat wa.toNat sz.code)
  | .brev sz d a wa => some (encR 0x2A d.val a.val 0 12 0 wa.toNat sz.code)
  | .pack sz d a b wa wb => some (encR 0x2A d.val a.val b.val 13 wb.toNat wa.toNat sz.code)
  | .gate d a b wa wb => some (encR 0x2B d.val a.val b.val 0 wb.toNat wa.toNat 0)
  | .gaten d a b wa wb => some (encR 0x2B d.val a.val b.val 1 wb.toNat wa.toNat 0)
  | .setv d a wa => some (encR 0x2B d.val a.val 0 2 0 wa.toNat 0)
  | .clrv d a wa => some (encR 0x2B d.val a.val 0 3 0 wa.toNat 0)
  | .isv d a wa => some (encR 0x2B d.val a.val 0 4 0 wa.toNat 0)
  | .selv d a b wa wb => some (encR 0x2B d.val a.val b.val 5 wb.toNat wa.toNat 0)
  | .movv d a wa => some (encR 0x2B d.val a.val 0 6 0 wa.toNat 0)
  | .fadd f d a b wa wb => some (encR 0x2C d.val a.val b.val 0 wb.toNat wa.toNat f.code)
  | .fsub f d a b wa wb => some (encR 0x2C d.val a.val b.val 1 wb.toNat wa.toNat f.code)
  | .fmul f d a b wa wb => some (encR 0x2C d.val a.val b.val 2 wb.toNat wa.toNat f.code)
  | .fdiv f d a b wa wb => some (encR 0x2C d.val a.val b.val 3 wb.toNat wa.toNat f.code)
  | .fsqrt f d a wa => some (encR 0x2C d.val a.val 0 4 0 wa.toNat f.code)
  | .fmin f d a b wa wb => some (encR 0x2C d.val a.val b.val 5 wb.toNat wa.toNat f.code)
  | .fmax f d a b wa wb => some (encR 0x2C d.val a.val b.val 6 wb.toNat wa.toNat f.code)
  | .fma f d a b wa wb => some (encR 0x2C d.val a.val b.val 7 wb.toNat wa.toNat f.code)
  | .fnma f d a b wa wb => some (encR 0x2C d.val a.val b.val 8 wb.toNat wa.toNat f.code)
  | .fabs f d a wa => some (encR 0x2C d.val a.val 0 9 0 wa.toNat f.code)
  | .fneg f d a wa => some (encR 0x2C d.val a.val 0 10 0 wa.toNat f.code)
  | .fsgnj f d a b wa wb => some (encR 0x2C d.val a.val b.val 11 wb.toNat wa.toNat f.code)
  | .fclass f d a wa => some (encR 0x2C d.val a.val 0 12 0 wa.toNat f.code)
  | .fcvtS f d a wa => some (encR 0x2C d.val a.val 0 13 0 wa.toNat f.code)
  | .fcvtN f d a wa => some (encR 0x2C d.val a.val 0 14 0 wa.toNat f.code)
  | .scvtF f d a wa => some (encR 0x2C d.val a.val 0 15 0 wa.toNat f.code)
  | .ncvtF f d a wa => some (encR 0x2C d.val a.val 0 16 0 wa.toNat f.code)
  | .fcvtF dst src d a wa => some (encR 0x2C d.val a.val src.code 17 0 wa.toNat dst.code)
  | .ld sz d b wa nw off => some (encM 0x01 d.val b.val wa.toNat nw.toNat sz.code off.toNat)
  | .lds sz d b wa nw off => some (encM 0x02 d.val b.val wa.toNat nw.toNat sz.code off.toNat)
  | .st sz d b wa wd off => some (encM 0x03 d.val b.val wa.toNat wd.toNat sz.code off.toNat)
  | .ldAcq sz d a sc wa => some (encR 0x04 d.val a.val sc.code 0 0 wa.toNat sz.code)
  | .stRel sz d a sc wa => some (encR 0x04 d.val a.val sc.code 1 0 wa.toNat sz.code)
  | .ldQ d a wa => some (encR 0x04 d.val a.val 0 2 0 wa.toNat 0)
  | .stQ d a wa => some (encR 0x04 d.val a.val 0 3 0 wa.toNat 0)
  | .touch a wa => some (encR 0x04 0 a.val 0 4 0 wa.toNat 0)
  | .sbwait a => some (encR 0x04 0 a.val 0 5 0 0 0)
  | .mkempty d => some (encR 0x04 d.val 0 0 6 0 0 0)
  | .amoswap w64 d a b ord sc => some (encRA 0x05 d.val a.val b.val 0 ord.code sc.code w64.toNat)
  | .amoadd w64 d a b ord sc => some (encRA 0x05 d.val a.val b.val 1 ord.code sc.code w64.toNat)
  | .amoand w64 d a b ord sc => some (encRA 0x05 d.val a.val b.val 2 ord.code sc.code w64.toNat)
  | .amoor w64 d a b ord sc => some (encRA 0x05 d.val a.val b.val 3 ord.code sc.code w64.toNat)
  | .amoxor w64 d a b ord sc => some (encRA 0x05 d.val a.val b.val 4 ord.code sc.code w64.toNat)
  | .amomin w64 d a b ord sc => some (encRA 0x05 d.val a.val b.val 5 ord.code sc.code w64.toNat)
  | .amomax w64 d a b ord sc => some (encRA 0x05 d.val a.val b.val 6 ord.code sc.code w64.toNat)
  | .amominn w64 d a b ord sc => some (encRA 0x05 d.val a.val b.val 7 ord.code sc.code w64.toNat)
  | .amomaxn w64 d a b ord sc => some (encRA 0x05 d.val a.val b.val 8 ord.code sc.code w64.toNat)
  | .amofadd d a b ord sc => some (encRA 0x05 d.val a.val b.val 9 ord.code sc.code 0)
  | .casD d a b ord sc => some (encRA 0x06 d.val a.val b.val 0 ord.code sc.code 1)
  | .casQ d a b ord sc => some (encRA 0x06 d.val a.val b.val 1 ord.code sc.code 1)
  | .vld d b wa off => some (encM 0x07 d.val b.val wa.toNat 0 0 off.toNat)
  | .vst d b wa off => some (encM 0x07 d.val b.val wa.toNat 0 1 off.toNat)
  | .vldNw d b wa off => some (encM 0x07 d.val b.val wa.toNat 0 2 off.toNat)
  | .vgat sz d a b wa => some (encR 0x08 d.val a.val b.val 0 0 wa.toNat sz.code)
  | .vsca sz d a b wa => some (encR 0x08 d.val a.val b.val 1 0 wa.toNat sz.code)
  | .vldb sz d a wa => some (encR 0x08 d.val a.val 0 2 0 wa.toNat sz.code)
  | .br off => some (encB 0x09 0 0 off.toNat)
  | .call a off => some (encB 0x09 a.val 1 off.toNat)
  | .bv a off => some (encB 0x0A a.val 0 off.toNat)
  | .bnv a off => some (encB 0x0A a.val 1 off.toNat)
  | .bnz a off => some (encB 0x0A a.val 2 off.toNat)
  | .bz a off => some (encB 0x0A a.val 3 off.toNat)
  | .jr d a wa imm => some (encI 0x0B d.val a.val wa.toNat imm.toNat)
  | .ldk sz d a b wa wb => some (encR 0x0C d.val a.val b.val 0 wb.toNat wa.toNat sz.code)
  | .wput d b wb => some (encR 0x0C d.val 0 b.val 1 wb.toNat 0 0)
  | .wwait => some (encR 0x0C 0 0 0 2 0 0 0)
  | .wdisp => some (encR 0x0C 0 0 0 3 0 0 0)
  | .wdone => some (encR 0x0C 0 0 0 4 0 0 0)
  | .sync lv => some (encR 0x0D 0 0 lv.code 0 0 0 0)
  | .voteAnd lv d a wa => some (encR 0x0D d.val a.val lv.code 1 0 wa.toNat 0)
  | .voteOr lv d a wa => some (encR 0x0D d.val a.val lv.code 2 0 wa.toNat 0)
  | .voteAdd lv d a wa => some (encR 0x0D d.val a.val lv.code 3 0 wa.toNat 0)
  | .fence sc pr pw sr sw => some (encR 0x0D (pr.toNat * 8 + pw.toNat * 4 + sr.toNat * 2 + sw.toNat) 0 sc.code 4 0 0 0)
  | .hwbarArrive lv => some (encR 0x0D 0 0 lv.code 5 0 0 0)
  | .hwbarWait lv => some (encR 0x0D 0 0 lv.code 6 0 0 0)
  | .watch a wa => some (encR 0x0D 0 a.val 0 7 0 wa.toNat 0)
  | .wfe => some (encR 0x0D 0 0 0 8 0 0 0)
  | .sev => some (encR 0x0D 0 0 0 9 0 0 0)
  | .qget q a => some (encR 0x0E q.val a.val 0 0 0 0 0)
  | .qput q a wa => some (encR 0x0E q.val a.val 0 1 0 wa.toNat 0)
  | .vqget q a => some (encR 0x0E q.val a.val 0 2 0 0 0)
  | .vqput q a => some (encR 0x0E q.val a.val 0 3 0 0 0)
  | .ecmd q a b wa wb => some (encR 0x0E q.val a.val b.val 4 wb.toNat wa.toNat 0)
  | .ebusy q a => some (encR 0x0E q.val a.val 0 5 0 0 0)
  | .efence lo hi => some (encR 0x0E 0 0 lo.toNat 6 0 0 hi.toNat)
  | .qlen q a => some (encR 0x0E q.val a.val 0 7 0 0 0)
  | .hld d b wa nw off => some (encM 0x0F d.val b.val wa.toNat nw.toNat 0 off.toNat)
  | .hst d b wa wd off => some (encM 0x0F d.val b.val wa.toNat wd.toNat 1 off.toNat)
  | .mld s32 d a b => some (encX 0x10 d.val a.val b.val s32.toNat 0)
  | .mst d a b => some (encX 0x10 d.val a.val b.val 0 1)
  | .wbld len sp d a => some (encX 0x10 d.val a.val 0 (len.code + sp.toNat * 4) 2)
  | .mepi d a b c => some (encX 0x10 d.val a.val b.val c.val 3)
  | .wbinv a b => some (encX 0x10 0 a.val b.val 0 4)
  | .syscall a wa => some (encR 0x11 0 a.val 0 0 0 wa.toNat 0)
  | .sret => some (encR 0x11 0 0 0 1 0 0 0)
  | .endCtx => some (encR 0x11 0 0 0 2 0 0 0)
  | .brk code => some (encR 0x11 0 0 code.toNat 3 0 0 0)
  | .ifence => some (encR 0x11 0 0 0 4 0 0 0)
  | .tlbinvAll => some (encR 0x11 0 0 0 5 0 0 0)
  | .tlbinvAsid b wb => some (encR 0x11 0 0 b.val 5 wb.toNat 0 1)
  | .tlbinvVa a b wa wb => some (encR 0x11 0 a.val b.val 5 wb.toNat wa.toNat 2)
  | .tlbinvVaall a wa => some (encR 0x11 0 a.val 0 5 0 wa.toNat 3)
  | .wfi => some (encR 0x11 0 0 0 6 0 0 0)
  | .rdfe d => some (encR 0x11 d.val 0 0 7 0 0 0)
  | .wrfe a wa => some (encR 0x11 0 a.val 0 8 0 wa.toNat 0)
  | .rdvb d => some (encR 0x11 d.val 0 0 9 0 0 0)
  | .wrvb a wa => some (encR 0x11 0 a.val 0 10 0 wa.toNat 0)
  | .yield => some (encR 0x11 0 0 0 11 0 0 0)
  | .csrr d n => some (encI 0x12 d.val 0 0 n.toNat)
  | .csrw d a wa n => some (encI 0x12 d.val a.val wa.toNat (n.toNat + 4096))
  | .csrs d a wa n => some (encI 0x12 d.val a.val wa.toNat (n.toNat + 8192))
  | .csrc d a wa n => some (encI 0x12 d.val a.val wa.toNat (n.toNat + 12288))
  | .vadd e d a b => some (encV 0x30 d.val a.val b.val 0 e.code)
  | .vsub e d a b => some (encV 0x30 d.val a.val b.val 1 e.code)
  | .vmul e d a b => some (encV 0x30 d.val a.val b.val 2 e.code)
  | .vmulh e d a b => some (encV 0x30 d.val a.val b.val 3 e.code)
  | .vmin e d a b => some (encV 0x30 d.val a.val b.val 4 e.code)
  | .vmax e d a b => some (encV 0x30 d.val a.val b.val 5 e.code)
  | .vabs e d a => some (encV 0x30 d.val a.val 0 6 e.code)
  | .vneg e d a => some (encV 0x30 d.val a.val 0 7 e.code)
  | .vand e d a b => some (encV 0x30 d.val a.val b.val 8 e.code)
  | .vor e d a b => some (encV 0x30 d.val a.val b.val 9 e.code)
  | .vxor e d a b => some (encV 0x30 d.val a.val b.val 10 e.code)
  | .vandn e d a b => some (encV 0x30 d.val a.val b.val 11 e.code)
  | .vsll e d a b => some (encV 0x30 d.val a.val b.val 12 e.code)
  | .vsrl e d a b => some (encV 0x30 d.val a.val b.val 13 e.code)
  | .vsra e d a b => some (encV 0x30 d.val a.val b.val 14 e.code)
  | .vaddsat e d a b => some (encV 0x30 d.val a.val b.val 15 e.code)
  | .vsubsat e d a b => some (encV 0x30 d.val a.val b.val 16 e.code)
  | .vavg e d a b => some (encV 0x30 d.val a.val b.val 17 e.code)
  | .vcmpEq e d a b => some (encV 0x30 d.val a.val b.val 18 e.code)
  | .vcmpLt e d a b => some (encV 0x30 d.val a.val b.val 19 e.code)
  | .vcmpLe e d a b => some (encV 0x30 d.val a.val b.val 20 e.code)
  | .vbsel e d a b => some (encV 0x30 d.val a.val b.val 21 e.code)
  | .vpopc e d a => some (encV 0x30 d.val a.val 0 22 e.code)
  | .vclz e d a => some (encV 0x30 d.val a.val 0 23 e.code)
  | .vfadd e d a b => some (encV 0x31 d.val a.val b.val 0 (e.code + 8))
  | .vfsub e d a b => some (encV 0x31 d.val a.val b.val 1 (e.code + 8))
  | .vfmul e d a b => some (encV 0x31 d.val a.val b.val 2 (e.code + 8))
  | .vfma e d a b => some (encV 0x31 d.val a.val b.val 3 (e.code + 8))
  | .vfnma e d a b => some (encV 0x31 d.val a.val b.val 4 (e.code + 8))
  | .vfdiv e d a b => some (encV 0x31 d.val a.val b.val 5 (e.code + 8))
  | .vfsqrt e d a => some (encV 0x31 d.val a.val 0 6 (e.code + 8))
  | .vfmin e d a b => some (encV 0x31 d.val a.val b.val 7 (e.code + 8))
  | .vfmax e d a b => some (encV 0x31 d.val a.val b.val 8 (e.code + 8))
  | .vfabs e d a => some (encV 0x31 d.val a.val 0 9 (e.code + 8))
  | .vfneg e d a => some (encV 0x31 d.val a.val 0 10 (e.code + 8))
  | .vfcmpEq e d a b => some (encV 0x31 d.val a.val b.val 11 (e.code + 8))
  | .vfcmpLt e d a b => some (encV 0x31 d.val a.val b.val 12 (e.code + 8))
  | .vfcmpLe e d a b => some (encV 0x31 d.val a.val b.val 13 (e.code + 8))
  | .vfdot e d a b => some (encV 0x31 d.val a.val b.val 14 (e.code + 8))
  | .vcvt dst src d a => some (encV 0x32 d.val a.val src.code 0 dst.code)
  | .venc t4 d a => some (encV 0x32 d.val a.val 0 1 (t4.toNat + 12))
  | .vdec t4 d a => some (encV 0x32 d.val a.val (t4.toNat + 12) 2 10)
  | .vcvtSat dst src d a => some (encV 0x32 d.val a.val src.code 3 dst.code)
  | .vperm e d a b => some (encV 0x33 d.val a.val b.val 0 e.code)
  | .vbcast e d a => some (encV 0x33 d.val a.val 0 1 e.code)
  | .vext e d a b => some (encV 0x33 d.val a.val b.val 2 e.code)
  | .vins e d a b => some (encV 0x33 d.val a.val b.val 3 e.code)
  | .vslide e d a b => some (encV 0x33 d.val a.val b.val 4 e.code)
  | .vrot e d a b => some (encV 0x33 d.val a.val b.val 5 e.code)
  | .vzip e d a b => some (encV 0x33 d.val a.val b.val 6 e.code)
  | .vunzip e d a b => some (encV 0x33 d.val a.val b.val 7 e.code)
  | .vredAdd e d a => some (encV 0x33 d.val a.val 0 8 e.code)
  | .vredMax e d a => some (encV 0x33 d.val a.val 0 9 e.code)
  | .vredMin e d a => some (encV 0x33 d.val a.val 0 10 e.code)
  | .vpack24 e d a b => some (encV 0x33 d.val a.val b.val 11 (e.code + 8))
  | .vunpack24 e d a b => some (encV 0x33 d.val a.val b.val 12 (e.code + 8))
  | .vcompress e d a b => some (encV 0x33 d.val a.val b.val 13 e.code)
  | .vexpand e d a b => some (encV 0x33 d.val a.val b.val 14 e.code)
  | .vrcp e d a => some (encV 0x34 d.val a.val 0 0 (e.code + 8))
  | .vrsqrt e d a => some (encV 0x34 d.val a.val 0 1 (e.code + 8))
  | .vexp2 e d a => some (encV 0x34 d.val a.val 0 2 (e.code + 8))
  | .vlog2 e d a => some (encV 0x34 d.val a.val 0 3 (e.code + 8))
  | .mma p d a b c => some (encX 0x38 d.val a.val b.val c.val p.code)
  | .mmas p d a b c => some (encX 0x3A d.val a.val b.val c.val p.code)
  | .mz s32 d => some (encX 0x39 d.val 0 0 s32.toNat 0)
  | .mstat d a => some (encX 0x39 d.val a.val 0 0 1)
  | .mcpy d a => some (encX 0x39 d.val a.val 0 0 2)
  | .madd d a => some (encX 0x39 d.val a.val 0 0 3)
  | .mscale d a => some (encX 0x39 d.val a.val 0 0 4)
  | .mrow d a b => some (encX 0x39 d.val a.val b.val 0 5)
  | .mwait d => some (encX 0x39 d.val 0 0 0 6)
  | .movf clr d a => some (encX 0x39 d.val a.val 0 clr.toNat 7)
  | .hxor d a b => some (encX 0x3C d.val a.val b.val 0 0)
  | .hand d a b => some (encX 0x3C d.val a.val b.val 0 1)
  | .hor d a b => some (encX 0x3C d.val a.val b.val 0 2)
  | .hnot d a => some (encX 0x3C d.val a.val 0 0 3)
  | .hrot d a b => some (encX 0x3C d.val a.val b.val 0 4)
  | .hbund d a => some (encX 0x3C d.val a.val 0 0 5)
  | .hbunw d a b => some (encX 0x3C d.val a.val b.val 0 6)
  | .hbclr d => some (encX 0x3C d.val 0 0 0 7)
  | .hthr d a b => some (encX 0x3C d.val a.val b.val 0 8)
  | .hpopc d a => some (encX 0x3C d.val a.val 0 0 9)
  | .hdist d a b => some (encX 0x3C d.val a.val b.val 0 10)
  | .hbcast d a => some (encX 0x3C d.val a.val 0 0 11)
  | .hins d a b => some (encX 0x3C d.val a.val b.val 0 12)
  | .hext d a b => some (encX 0x3C d.val a.val b.val 0 13)
  | .hmov d a => some (encX 0x3C d.val a.val 0 0 14)
  | .hmst a b => some (encX 0x3D 0 a.val b.val 0 0)
  | .hmld d b => some (encX 0x3D d.val 0 b.val 0 1)
  | .hmclr b => some (encX 0x3D 0 0 b.val 0 2)
  | .hmclrAll => some (encX 0x3D 0 0 0 1 2)
  | .hrecall d a b => some (encX 0x3D d.val a.val b.val 0 3)
  | .hrecall2 d a b => some (encX 0x3D d.val a.val b.val 0 4)
  | .dkEcmd _ _ _ => none
  | .dkQput _ _ _ => none
  | .dkQget _ _ => none
  | .dkWcnt _ _ _ => none
  | .dkSev => none
  | .dkWfe => none
  | .dkWfeWatch _ => none
  | .dkRdst _ _ => none
  | .dkWput _ _ => none
  | .ecall => none
  | .ebreak => none
  | .fillLand _ _ _ => none
  | .interruptEntry _ _ => none
  | .deferredFault _ _ => none
  | .runcapExpiry _ => none
  | .timerMatch _ _ => none
  | .runcapWrite _ _ _ => none
  | .membWrite _ _ _ => none
  | .tableLoadT8 _ _ => none
  | .tableLoadT4 _ _ => none
  | .engineFaultDrop _ _ => none
  | .windowStoreArrival _ => none
  | .windowLoadArrival _ _ _ => none
  | .portEntryArrival _ => none
  | .streamWindowWrite _ => none
  | .parkedMessage _ => none
  | .spliceInsert _ _ => none
  | .recordRetry _ _ => none
  | .spliceRefill _ => none
  | .spliceDispatch _ => none
  | .barrierCompletion _ _ _ => none
  | .barrierTimeout _ _ => none
  | .wireBarrierCompletion _ _ => none
  | .arrayPass _ => none
  | .wbldLanded _ _ => none
  | .engineCommandEnqueue _ _ _ => none
  | .copyUnit _ _ => none
  | .copy2d _ _ => none
  | .gather _ _ => none
  | .scatter _ _ => none
  | .joinCmd _ _ => none
  | .allred _ => none
  | .bcast _ => none
  | .mcastSt _ => none
  | .redSt _ => none
  | .signal _ _ => none
  | .engineCompletion _ _ => none
  | .collectiveGeneration _ _ => none
  | .collectiveTimeout _ _ => none
  | .pageRequestReply _ _ _ => none
  | .quantumExpiry _ _ => none
  | .graceExpiry _ _ => none
  | .haltComplete _ _ => none
  | .swapOut _ _ => none
  | .swapIn _ _ => none
  | .debugHalt _ _ => none
  | .debugResume _ _ => none
  | .debugStep _ _ => none
  | .debugRoleWrite _ _ _ => none
  | .scrubPass _ _ => none
  | .lashIntervalEnd _ => none
  | .lashExchange _ _ => none
  | .belayRollback => none
  | .lashcfgWrite _ => none
  | .belaycfgWrite _ => none
  | .cpLockstepMismatch => none
  | .replayRelease _ => none
  | .notifyWrite _ _ => none
  | .slotMapping _ => none
  | .pinExpiry _ => none
  | .slotRotation _ => none
  | .launchDispatch _ => none
  | .launchGroupCommit _ _ => none
  | .launchGroupTimeout _ => none
  | .gridCompletion => none
  | .completionRecordRelease _ => none
  | .fenceCounterWrite _ _ _ => none
  | .inval2 _ => none
  | .inval2Complete _ => none
  | .scopectlWrite _ _ => none
  | .energyWindow _ _ => none
  | .partitionCreate _ => none
  | .partitionReady _ => none
  | .partitionTeardown _ => none
  | .partitionScrubDone _ => none
  | .attestationRequest _ _ _ => none
  | .attestationReport _ => none
  | .meterPeriod => none
  | .usageRecordRelease => none
  | .linkstatWrite => none
  | .registerWrite _ _ _ => none
  | .linkBeat _ _ => none
  | .linkDown _ => none
  | .migrationStart _ => none
  | .pagePull _ => none
  | .backgroundPull _ => none
  | .poolpagesWrite _ _ => none
  | .bringup _ => none
  | .dirtyClusterScrub _ => none
  | .thermalWarning => none
  | .thermalCritical => none
  | .rv64imInstruction _ => none
  | .helperEngineInterrupt _ _ => none
  | .cxlMemAccess _ _ _ _ => none
  | .prqheadWrite _ _ => none
  | .firmwareRestartComplete => none
  | .thermalWarningCleared => none
  | .powerLoss => none

/-- The word of an instruction of a helper core. -/
def encodeHelper : Instr → Option Nat
  | .dkEcmd q rs1 rs2 => some (encDk (q.val + 4) rs2.val rs1.val 0 0)
  | .dkQput c p rs1 => some (encDk (c.val * 4 + p.val) 0 rs1.val 1 0)
  | .dkQget c rd => some (encDk c.val 0 0 2 rd.val)
  | .dkWcnt n rs1 rd => some (encDk n.val 0 rs1.val 3 rd.val)
  | .dkSev => some (encDk 0 0 0 4 0)
  | .dkWfe => some (encDk 0 0 0 5 0)
  | .dkWfeWatch rs1 => some (encDk 1 0 rs1.val 5 0)
  | .dkRdst n rd => some (encDk n.code 0 0 6 rd.val)
  | .dkWput rs1 rs2 => some (encDk 0 rs2.val rs1.val 7 0)
  | .ecall => some 0x73
  | .ebreak => some 0x100073
  | .rv64imInstruction w => some w.toNat
  | _ => none

end Sys2Proof
end

