-- ==== Sys2Proof/Machine/Ops.lean ====
section
/-! DEFINITION. The shared operations: tiles and contexts by name, the fingerprint and the log, sending, trap entry and
return, retirement, and how a word's result becomes an outcome. -/

namespace Sys2Proof.Machine

abbrev Out3 := Host.Outcome State Fault Refusal

/-! ## The virtual grid (R224, R225) -/

def vtRow (vt : Nat) : Nat := vt / 4096
def vtCol (vt : Nat) : Nat := vt % 4096
def vtid (row col : Nat) : Nat := row * 4096 + col

/-- `vt` names a tile of the grid (R224). -/
def Grid.has (g : Grid) (vt : Nat) : Bool := vtRow vt < g.h && vtCol vt < g.w
/-- Row and column of the tile's virtual cluster. -/
def clusterOf (vt : Nat) : Nat × Nat := (vtRow vt / 4, vtCol vt / 4)
def Grid.gangOf (g : Grid) (vt : Nat) : Nat × Nat := (vtRow vt / 4 / g.gh, vtCol vt / 4 / g.gw)
def Grid.gang? (g : Grid) (k : Nat × Nat) : Option Gang := g.gangs.find? fun x => x.gr == k.1 && x.gc == k.2
/-- The tile's gang is absent (R227). -/
def Grid.absent (g : Grid) (vt : Nat) : Bool :=
  match g.gang? (g.gangOf vt) with
  | some x => !x.resident
  | none => false
/-- Messages to the tile are parked: its gang is absent, or a halt of it has begun (R248, R369). -/
def Grid.parks (g : Grid) (vt : Nat) : Bool :=
  match g.gang? (g.gangOf vt) with
  | some x => !x.resident || x.halting || x.halted
  | none => false
/-- A squall halt of the tile's gang has begun and is not complete (R369). -/
def Grid.halts (g : Grid) (vt : Nat) : Bool :=
  match g.gang? (g.gangOf vt) with
  | some x => x.halting && !x.soft
  | none => false
/-- Tiles of the belay instance of tile `vt` (R390). -/
def belayMember (g : Grid) (vt u : Nat) : Bool := if g.belay = 3 then g.gangOf vt == g.gangOf u else true

/-- The tile's agents have stopped for a rollback of their belay instance (R392). -/
def Grid.rolling (g : Grid) (vt : Nat) : Bool := g.rollReq.any fun u => belayMember g u vt
/-- The tile's agents are stopped: its gang is absent, its halt is complete (R369), its replay has diverged (R396), or its
belay instance rolls back (R392). -/
def Grid.still (g : Grid) (vt : Nat) : Bool :=
  g.diverged.isSome || g.rolling vt || match g.gang? (g.gangOf vt) with
  | some x => !x.resident || x.halted
  | none => false
/-- The tile's contexts are stopped: as above, or frozen by a soft yield (R368). -/
def Grid.stopped (g : Grid) (vt : Nat) : Bool :=
  g.diverged.isSome || g.rolling vt || match g.gang? (g.gangOf vt) with
  | some x => !x.resident || x.halted || (x.halting && x.soft)
  | none => false
def Grid.mapGang (g : Grid) (k : Nat × Nat) (f : Gang → Gang) : Grid :=
  { g with gangs := g.gangs.map fun x => if x.gr == k.1 && x.gc == k.2 then f x else x }

/-! ## Tiles and contexts by name -/

def State.tile? (s : State) (vt : Nat) : Option Tile :=
  if s.t.vt = vt then some s.t else s.tiles.find? (·.vt == vt)
def State.mapTile (s : State) (vt : Nat) (f : Tile → Tile) : State :=
  if s.t.vt = vt then { s with t := f s.t }
  else { s with tiles := s.tiles.map fun t => if t.vt = vt then f t else t }
def State.allTiles (s : State) : List Tile := s.t :: s.tiles
def State.mapTiles (s : State) (f : Tile → Tile) : State := { s with t := f s.t, tiles := s.tiles.map f }

/-- The contexts of a tile of the focused grid, with the focused one if it is there. -/
def State.ctxsOf (s : State) (t : Tile) : List Ctx := if t.vt = s.t.vt then s.c :: t.others else t.others
def State.ctx? (s : State) (vt c : Nat) : Option Ctx :=
  match s.tile? vt with
  | some t => (s.ctxsOf t).find? (·.id == c)
  | none => none
/-- Change the contexts of tile `vt` that satisfy nothing more than `f` says. -/
def State.mapCtxs (s : State) (vt : Nat) (f : Ctx → Ctx) : State :=
  let s := s.mapTile vt fun t => { t with others := t.others.map f }
  if s.t.vt = vt then { s with c := f s.c } else s
def State.mapCtx (s : State) (vt c : Nat) (f : Ctx → Ctx) : State :=
  s.mapCtxs vt fun x => if x.id = c then f x else x
/-- Every context of the focused grid with its tile. -/
def State.allCtxs (s : State) : List (Nat × Ctx) :=
  s.allTiles.flatMap fun t => (s.ctxsOf t).map fun c => (t.vt, c)
def State.mapAllCtxs (s : State) (f : Nat → Ctx → Ctx) : State :=
  { s with c := f s.t.vt s.c, t := { s.t with others := s.t.others.map (f s.t.vt) },
           tiles := s.tiles.map fun t => { t with others := t.others.map (f t.vt) } }

def insertCtx : List Ctx → Ctx → List Ctx
  | [], c => [c]
  | d :: r, c => if c.id ≤ d.id then c :: d :: r else d :: insertCtx r c
def insertTile : List Tile → Tile → List Tile
  | [], t => [t]
  | u :: r, t => if t.vt ≤ u.vt then t :: u :: r else u :: insertTile r t

/-- Bring context `c` of tile `vt` into focus; the state is otherwise the same machine. -/
def State.focus (s : State) (vt c : Nat) : State :=
  if s.t.vt = vt ∧ s.c.id = c then s
  else
    let ts := insertTile s.tiles { s.t with others := insertCtx s.t.others s.c }
    match ts.find? (·.vt == vt) with
    | none => s
    | some t =>
      match t.others.find? (·.id == c) with
      | none => s
      | some x => { s with c := x, t := { t with others := t.others.filter (·.id != c) },
                           tiles := ts.filter (·.vt != vt) }

/-- Background grid `k` comes into focus, and the focused grid goes behind. -/
def swapGrid (s : State) (k : Nat) : State :=
  match s.bg[k]? with
  | none => s
  | some b =>
    match b.tiles with
    | [] => s
    | t :: ts =>
      match t.others with
      | [] => s
      | c :: cs =>
        { s with
          bg := setNth s.bg k ⟨s.g, { s.t with others := insertCtx s.t.others s.c } :: s.tiles⟩
          g := b.g, t := { t with others := cs }, tiles := ts, c := c }

/-! ### Partner tiles (R385, R386) -/

/-- The tile with every context of it. -/
def wholeTile (s : State) (t : Tile) : Tile := if t.vt = s.t.vt then { t with others := insertCtx t.others s.c } else t

/-- Tile `vt` with all its contexts. -/
def State.whole? (s : State) (vt : Nat) : Option Tile := (s.tile? vt).map (wholeTile s)

/-- Put a tile with all its contexts in the place of the tile of its number. -/
def restoreTile (s : State) (u : Tile) : State :=
  if u.vt = s.t.vt then
    match u.others.find? (·.id == s.c.id) with
    | some c => { s with c := c, t := { u with others := u.others.filter (·.id != s.c.id) } }
    | none => s
  else { s with tiles := s.tiles.map fun t => if t.vt = u.vt then u else t }

/-- What a pair has in common: where its interval stands, and the counts of `lashcfg`. -/
def Lash.asPair (u p : Lash) : Lash :=
  { u with count := p.count, due := p.due, waiting := p.waiting, second := p.second, disag := p.disag, early := p.early, pfp := p.fp }

/-- The machine with partner tile `u` in the place of its primary: it takes every response and message in the same order. -/
def State.asPartner (s : State) (u : Tile) : State :=
  let l := match s.tile? u.vt with | some p => u.lash.asPair p.lash | none => u.lash
  restoreTile { s with g := { s.g with lashChk := s.g.partnerChk } } { u with lash := l }

/-- The partner of tile `vt` is what `p` has in its place; only its fingerprint reaches the primary, and whatever else it has done
outside the pair is dropped. -/
def State.notePartner (s p : State) (vt : Nat) : State :=
  match p.whole? vt with
  | none => s
  | some u =>
    let s := s.mapTile vt fun t => { t with lash := { t.lash with pfp := u.lash.fp } }
    { s with g := { s.g with
        partners := s.g.partners.map fun x => if x.vt = vt then u else x
        partnerChk := p.g.lashChk.filter (·.vt == vt) ++ s.g.partnerChk.filter (·.vt != vt) } }

/-- The partners of the focused grid do from `s` on what their primaries have done, which is `r`. -/
def mirrored (f : State → State) (s r : State) : State :=
  s.g.partners.foldl (fun r u => r.notePartner (f (s.asPartner u)) u.vt) r

/-- Grids of one domain launch group (R434). -/
def sameGroup (g h : Grid) : Bool := g.live && h.live && g.domgrp && h.domgrp && g.group == h.group

def groupIdx (s : State) : List Nat :=
  ((List.range s.bg.length).zip s.bg).filterMap fun (k, b) => if sameGroup s.g b.g then some k else none

/-- Apply `f` to the focused grid and to every other grid of its launch group on this module; the focus stays. -/
def forGroup (f : State → State) (s : State) : State :=
  ((groupIdx s).foldl (fun s k => swapGrid (mirrored f (swapGrid s k) (f (swapGrid s k))) k) (f s)).focus s.t.vt s.c.id

/-- `p` of the focused grid and of every other grid of its launch group on this module. -/
def allGroup (p : State → Bool) (s : State) : Bool := p s && (groupIdx s).all fun k => p (swapGrid s k)

def sumGroup (f : State → Nat) (s : State) : Nat := f s + ((groupIdx s).map fun k => f (swapGrid s k)).sum

/-- Members of the launch group that run on this module, and whether those are all of them. -/
def groupHere (s : State) : Bool := s.g.grpHere.length == s.g.grpN

/-- The virtual function the focused grid runs in. -/
def State.vf (s : State) : Vf := s.m.vfs.toList.getD s.g.vf {}
def Module.mapVf (m : Module) (v : Nat) (f : Vf → Vf) : Module :=
  if h : v < 64 then { m with vfs := m.vfs.set v (f m.vfs[v]) } else m
def State.mapVf (s : State) (v : Nat) (f : Vf → Vf) : State := { s with m := s.m.mapVf v f }

/-- `time` (R33). -/
def State.time (s : State) : Nat := s.m.cycle * 1000 / 1900

def satAdd (lim a b : Nat) : Nat := if a + b > lim then lim else a + b

/-! ## Fingerprint and log (R387, R395) -/

/-- One step of a CRC over bits, not reflected, of width `w`. -/
def crcShift (w poly : Nat) : Nat → Nat → Nat
  | 0, x => x
  | n + 1, x => crcShift w poly n (if x / 2 ^ (w - 1) % 2 = 1 then (x * 2 % 2 ^ w) ^^^ poly else x * 2 % 2 ^ w)

/-- CRC-64 of R387 continued over bytes. -/
def crc64 (x : Nat) : List Byte → Nat
  | [] => x
  | b :: r => crc64 (crcShift 64 0x42F0E1EBA9EA3693 8 (x ^^^ (b.toNat * 2 ^ 56))) r

/-- The tile keeps a fingerprint: it is lashed or its grid is recorded or replayed. -/
def State.fingers (s : State) : Bool := s.t.lash.role != 0 || s.g.rr != 0

/-- Bytes enter the fingerprints of the tile: those of a lashed interval, the tile's and its partner's (R385, R387), and that of a
log (R395). -/
def Tile.take (t : Tile) (rr : Nat) (bs : List Byte) : Tile :=
  { t with
    lash := if t.lash.role = 0 then t.lash else { t.lash with
      fp := .ofNat 64 (crc64 t.lash.fp.toNat bs), pfp := .ofNat 64 (crc64 t.lash.pfp.toNat bs) }
    rfp := if rr = 0 then t.rfp else .ofNat 64 (crc64 t.rfp.toNat bs) }

/-- A register write enters the fingerprint of the focused tile (R387). -/
def absorb (s : State) (role code : Nat) (contents : List Byte) (tag : Nat) : State :=
  if s.fingers then
    { s with t := s.t.take s.g.rr (bytesOf 1 role ++ bytesOf 2 code ++ contents ++ bytesOf 1 tag) }
  else s

/-- A store or outbound access enters the fingerprint: address and data (R387). -/
def absorbOut (s : State) (addr : Nat) (data : List Byte) : State :=
  if s.fingers then { s with t := s.t.take s.g.rr (bytesOf 8 addr ++ data) } else s

/-- Append an entry to the log part of tile `vt` (R395). -/
def logEvent (s : State) (vt kind role : Nat) (pos : Nat) (arg : W64) : State :=
  if s.g.rr = 1 ∧ !s.g.logFull then
    match s.tile? vt with
    | none => s
    | some t =>
      if s.g.logCap ≤ t.log.length then { s with g := { s.g with logFull := true } }
      else s.mapTile vt fun t => { t with log := t.log ++ [⟨.ofNat 4 kind, .ofNat 3 role, .ofNat 57 pos, arg⟩] }
  else s

/-- In replay an event of the tile waits for its release while the tile's log has an entry left. -/
def State.heldBack (s : State) (vt : Nat) : Bool :=
  s.g.rr == 2 && (match s.tile? vt with | some t => t.log != [] | none => false)

/-! ## CSR contents that traps touch -/

def Status.toNat (x : Status) : Nat :=
  x.mode.toNat + 2 * x.ie.toNat + 4 * x.pie.toNat + 8 * x.pmode.toNat + 16 * x.half.toNat + 32 * x.rm.toNat
    + 128 * x.lashed.toNat + 256 * x.belay.toNat + 512 * x.xfer.toNat

/-- Codes of R361. -/
def Cause.code : Cause → Byte
  | .illegal => 0x01 | .priv => 0x02 | .misalign => 0x03 | .fetchFault => 0x04 | .loadFault => 0x05
  | .storeFault => 0x06 | .access => 0x07 | .empty => 0x08 | .portKind => 0x09 | .portEdge => 0x0A
  | .encode => 0x0B | .syscall => 0x0C | .brk => 0x0D | .barTimeout => 0x0E | .barExcess => 0x0F
  | .uncorr => 0x10 | .belayFull => 0x11 | .scope => 0x12 | .poison => 0x13
  | .preempt => 0x80 | .timer => 0x81 | .soft => 0x82 | .engine => 0x83 | .debug => 0x84

def absorbCsr (s : State) (n : Nat) (v : Nat) : State := absorb s s.c.id (5 * 8192 + n) (bytesOf 8 v) 0

/-- The trap CSRs enter the fingerprint (R387). -/
def absorbTrapCsrs (s : State) : State :=
  let s := absorbCsr s 0 s.c.status.toNat
  let s := absorbCsr s 1 s.c.epc.toNat
  let s := absorbCsr s 2 s.c.cause.toNat
  let s := absorbCsr s 3 s.c.tval.toNat
  let s := absorbCsr s 4 s.c.tval2.toNat
  if s.c.status.xfer then absorbCsr s 9 s.c.xtarget.toNat else s

/-! ## Counts for the completion record (R415) -/

def Tally.add (a b : Tally) : Tally :=
  ⟨a.uncorr + b.uncorr, a.notTaken + b.notTaken, a.recDrop + b.recDrop, a.cmdDrop + b.cmdDrop, a.trapEnd + b.trapEnd⟩

/-- The grid with a tally added to its counters. -/
def Grid.count (g : Grid) (n : Tally) : Grid :=
  { g with uncorr := g.uncorr + n.uncorr, notTaken := g.notTaken + n.notTaken, recDrop := g.recDrop + n.recDrop
           cmdDrop := g.cmdDrop + n.cmdDrop, trapEnd := g.trapEnd + n.trapEnd }

/-- The grid without a tally that has been added. -/
def Grid.uncount (g : Grid) (n : Tally) : Grid :=
  { g with uncorr := g.uncorr - n.uncorr, notTaken := g.notTaken - n.notTaken, recDrop := g.recDrop - n.recDrop
           cmdDrop := g.cmdDrop - n.cmdDrop, trapEnd := g.trapEnd - n.trapEnd }

/-- Tile `vt` adds to the counters of the grid; a lashed one notes what, so that a repeat of the interval does not count it
twice (R388). -/
def State.tally (s : State) (vt : Nat) (n : Tally) : State :=
  { s.mapTile vt fun t => if t.lash.role = 0 then t else { t with lash := { t.lash with tally := t.lash.tally.add n } } with
    g := s.g.count n }

/-! ## Trap entry and return (R34, R35) -/

/-- Trap entry of the focused context for a cause, in one step (R34); the completion record counts errors delivered
(R415). -/
def trapEntry (s : State) (z : Cause) (tval tval2 : W64) : State :=
  let c := s.c
  let aw := c.pos == .aWord
  let n := (decide (z = .uncorr ∨ z = .poison)).toNat
  let t := { s.t with recWait := s.t.recWait.filter (· != c.id) }
  absorbTrapCsrs { { s with t := t }.tally s.t.vt { uncorr := n } with c := { c with
    epc := c.pc
    cause := z.code
    tval := tval
    tval2 := tval2
    xtarget := if aw && !c.viaSret then c.xfer.getD c.xtarget else c.xtarget
    status := { c.status with
      half := aw
      xfer := if aw then (if c.viaSret then c.status.xfer else c.xfer.isSome) else false
      pmode := c.status.mode, mode := true, pie := c.status.ie, ie := false }
    pc := c.tvec
    pos := .unit, inPair := false, xfer := none, viaSret := false, run := .ready, denial := none, fetched := none } }

/-- The status enters the fingerprint: all that a return from a trap changes of the CSRs (R35, R387). -/
def absorbStatus (s : State) : State := absorbCsr s 0 s.c.status.toNat

/-- Return from a trap (R35), `sret` in S mode: the mode and IE come back; with HALF the A word at `epc` runs alone next. -/
def trapReturn (s : State) : State :=
  let c := s.c
  let st := { c.status with mode := c.status.pmode, ie := c.status.pie, pie := true, pmode := false, half := false }
  absorbStatus { s with c :=
    if c.status.half then
      { c with status := st, pc := c.epc, pos := .aWord, inPair := false, viaSret := true
               xfer := if c.status.xfer then some c.xtarget else none }
    else { c with status := { st with xfer := false }, pc := c.epc, pos := .unit, inPair := false, xfer := none } }

/-! ## Retirement -/

/-- One bundle more for the interval of the tile (R387) and for the fingerprint entries of the log (R395). -/
def countBundle (s : State) (role : Nat) (pos : Nat) : State :=
  if s.fingers then
    let s := if s.t.lash.role = 0 then s else { s with t := { s.t with lash := { s.t.lash with count := s.t.lash.count + 1 } } }
    if s.g.rr = 0 then s
    else if s.t.rcount + 1 < 4096 then { s with t := { s.t with rcount := s.t.rcount + 1 } }
    else
      let f := s.t.rfp ^^^ BitVec.allOnes 64
      let s := logEvent s s.t.vt 8 role pos f
      { s with t := { s.t with
          fps := if s.g.rr = 2 then s.t.fps ++ [f] else s.t.fps, rcount := 0, rfp := BitVec.allOnes 64 } }
  else s

/-- Address that follows the word: the next word, or a pending transfer's target after the A word (R25, R49). -/
def Ctx.nextPc (c : Ctx) : W64 := if c.pos = .aWord then c.xfer.getD (c.pc + 4) else c.pc + 4

/-- The context after its word has retired and the pc has moved on; a C word of a pair leaves its A word next. -/
def Ctx.retired (c : Ctx) : Ctx :=
  let c' := { c with instret := c.instret + 1, run := .ready, denial := none, slow := false, outside := none
                     kept := c.kept.filter fun k => k.2.at_ != c.pc || k.2.smode != c.status.mode }
  if c.inPair then { c' with pc := c.pc + 4, pos := .aWord, inPair := false, viaSret := false }
  else { c' with pc := c.nextPc, pos := .unit, xfer := none, viaSret := false, fetched := none
                 status := if c.viaSret then { c.status with xfer := false } else c.status }

/-- The word retires (R33, R46). -/
def retire (s : State) : State :=
  let s' := { s with c := s.c.retired }
  if s.c.inPair then s' else countBundle s' s.c.id s'.c.instret.toNat

/-- The word retires as a taken transfer to `t`: at once for a lone word, after the A word for a C word (R49). -/
def retireTo (s : State) (t : W64) : State :=
  if s.c.inPair then
    let s' := retire s
    { s' with c := { s'.c with xfer := some t } }
  else
    let s' := retire s
    { s' with c := { s'.c with pc := t } }

/-- The link value of `call`, `jr` and `wdisp` (R135). -/
def Ctx.link (c : Ctx) : W64 := if c.inPair then c.pc + 8 else c.pc + 4

/-- The issuing context stands at a switch point (R230). -/
def atSwitch (s : State) : State := { s with t := { s.t with switch := true } }

/-- The word blocks (R230): nothing has executed and the context waits at it. -/
def blockAt (s : State) (b : Block) : State := atSwitch { s with c := { s.c with run := .blocked b } }

/-! ## Results of a word -/

/-- What a word comes to: it completes (`done`), completes at a switch point (`leave`), completes and leaves the context
waiting (`park`), transfers control (`jump`), is nullified (`null`), traps, blocks (`wait`), or has put the context
where it is to stand (`stay`). -/
inductive Res
  | done (s : State)
  | leave (s : State)
  | park (s : State) (b : Block)
  | jump (s : State) (target : W64)
  | null
  | trap (s : State) (z : Cause) (tval tval2 : W64)
  | wait (s : State) (b : Block)
  | stay (s : State)

/-- The focused tile's superstep can be rolled back (R391, R392). -/
def State.repeatable (s : State) : Bool := s.g.belay != 0 && !s.t.belay.unrep && !s.t.belay.again

/-- The belay instance of the focused tile stops and repeats its superstep (R392). -/
def askRollback (s : State) : State :=
  let ask (s' : State) : State := { s' with g := { s'.g with rollReq := s'.g.rollReq ++ [s.t.vt] } }
  if s.g.belay = 6 then forGroup ask s else ask s

/-- A synchronous trap of the word; an uncorrectable error in a repeatable superstep starts the rollback instead (R392). -/
def trapWord (s : State) (z : Cause) (tval tval2 : W64) : State :=
  if z = .uncorr ∧ s.repeatable then
    askRollback (blockAt s .service)
  else trapEntry s z tval tval2

/-- The outcome of a word executed by the focused context of `s`. -/
def finish (s : State) : Res → Out3
  | .done s' => .next (retire s')
  | .leave s' => .next (atSwitch (retire s'))
  | .park s' b => .next (blockAt (retire s') b)
  | .jump s' t => .next (retireTo s' t)
  | .null => .next (retire s)
  | .trap s' z a b => .next (trapWord s' z a b)
  | .wait s' b => .next (blockAt s' b)
  | .stay s' => .next s'

/-- An event that its condition does not allow (log 2). -/
def off (row : String) : Out3 := .refused (.eventNotEnabled row)

/-! ## Free values -/

/-- The next free value and the state that has used it (log 13). -/
def takeFree (s : State) : W64 × State := (Config.freeWord s.free, { s with free := s.free + 1 })

/-! ## Messages (R234, R247, R375) -/

/-- The port neighbour of R234 and R235; directions are 0 n, 1 e, 2 s, 3 w. -/
def neighbour (g : Grid) (vt : Nat) (portcfg : BitVec 4) (dir : Fin 4) : Option Nat :=
  let r := vtRow vt
  let c := vtCol vt
  let wrap := portcfg.getLsbD dir
  match dir with
  | 0 => if 0 < r then some (vtid (r - 1) c) else if wrap then some (vtid (g.h - 1) c) else none
  | 1 => if c + 1 < g.w then some (vtid r (c + 1)) else if wrap then some (vtid r 0) else none
  | 2 => if r + 1 < g.h then some (vtid (r + 1) c) else if wrap then some (vtid 0 c) else none
  | 3 => if 0 < c then some (vtid r (c - 1)) else if wrap then some (vtid r (g.w - 1)) else none

/-- A write to a direction arrives in the opposite queue of the neighbour (R234). -/
def opposite (dir : Fin 4) : Fin 4 := dir + 2

def ceilDiv (a b : Nat) : Nat := (a + b - 1) / b

/-- Numbers of the `size`-byte units that a range touches, and those it covers whole. -/
def unitsOf (size off n : Nat) : List Nat :=
  if n = 0 then [] else (List.range ((off + n - 1) / size + 1 - off / size)).map (· + off / size)
def unitsWhole (size off n : Nat) : List Nat :=
  (unitsOf size off n).filter fun u => off ≤ u * size && u * size + size ≤ off + n

/-! ### Carry codes (R383) -/

/-- CRC-32C of R349 continued over bytes, before the final exclusive-or. -/
def crc32cBits : Nat → Nat → Nat
  | 0, x => x
  | n + 1, x => crc32cBits n (if x % 2 = 1 then (x / 2) ^^^ 0x82F63B78 else x / 2)
def crc32c (x : Nat) : List Byte → Nat
  | [] => x
  | b :: r => crc32c (crc32cBits 8 (x ^^^ b.toNat)) r

/-- The carry code of bytes (R383). -/
def carryCode (bs : List Byte) : W32 := .ofNat 32 (crc32c 0xFFFFFFFF bs) ^^^ 0xFFFFFFFF

/-- The carry codes of bytes that lie from `off` on: one for each aligned 64-byte block, over the bytes of it that are there. -/
def carryCodes (off : Nat) (bs : List Byte) : List W32 :=
  (unitsOf 64 off bs.length).map fun u =>
    carryCode (slice bs (max off (64 * u) - off) (min (off + bs.length) (64 * u + 64) - max off (64 * u)))

def Entry.bytes : Entry → List Byte
  | .word x _ => bytesOf 8 x.toNat
  | .vec x _ => bytesOf 64 x.toNat
  | .bad w => List.replicate (if w then 64 else 8) 0

/-- The entry after its carry code failed (R384). -/
def Entry.fail : Entry → Entry
  | .word _ _ => .bad false
  | .vec _ _ => .bad true
  | .bad w => .bad w

/-- Carry codes of the data of a message, made as it leaves its tile (R383). -/
def Body.codes : Body → List W32
  | .port _ _ e => carryCodes 0 e.bytes
  | .store o bs => carryCodes o bs
  | .parts l => l.flatMap fun (o, bs) => carryCodes o bs
  | .stream _ _ us => carryCodes 0 (us.flatMap fun u => bytesOf 8 u.toNat)
  | .record r => carryCodes 0 (bytesOf 8 r.key.toNat ++ r.payload.flatMap fun x => bytesOf 8 x.toNat)
  | .loadReq => []

/-- The codes that a message carries are those of its data (R384). -/
def Msg.sound (m : Msg) : Bool := m.code == m.body.codes

/-- Bytes of a parked queue that a message takes (R375). -/
def Body.parkBytes : Body → Nat
  | .port _ _ (.word _ _) => 32
  | .port _ _ (.vec _ _) => 96
  | .port _ _ (.bad w) => if w then 96 else 32
  | .store _ bs => if bs.length ≤ 8 then 32 else 32 + 32 * ceilDiv (bs.length - 8) 32
  | .parts l => 32 + 32 * ceilDiv ((l.map (·.2.length)).sum - 8) 32
  | .stream _ _ us => if us.length ≤ 1 then 32 else 32 + 32 * ceilDiv (8 * us.length - 8) 32
  | .record r => 32 + 32 * ceilDiv (8 * r.payload.length + 8) 32
  | .loadReq => 32

/-- What the grid has under way to the tiles of a gang: its parked queue and the mesh. -/
def Grid.bound (g : Grid) (k : Nat × Nat) : List Msg :=
  (match g.gang? k with | some x => x.parked | none => []) ++ g.mesh.filter fun m => g.gangOf m.dst == k

/-- The parked queue of a gang whose messages are parked takes the message (R248, R375). -/
def parkRoom (g : Grid) (dst : Nat) (b : Body) : Bool :=
  !g.parks dst || ((g.bound (g.gangOf dst)).map (·.body.parkBytes)).sum + b.parkBytes ≤ g.parkCap

def Out.isPort (o : Out) (dst c : Nat) (dir : Fin 4) : Bool :=
  match o with
  | .msg m => match m.body with
    | .port c' dir' _ => m.dst == dst && c' == c && dir' == dir
    | _ => false
  | _ => false

/-- Entries on their way into one inbound queue, and those in it. -/
def State.queued (s : State) (dst c : Nat) (dir : Fin 4) : Nat :=
  (match s.ctx? dst c with | some x => x.inq[dir].length | none => 0)
    + ((s.g.bound (s.g.gangOf dst)).filter fun m =>
        match m.body with | .port c' d' _ => m.dst == dst && c' == c && d' == dir | _ => false).length
    + (s.t.lash.gated.filter (·.isPort dst c dir)).length

/-- The NI holds a credit for the queue (R236), or the parked queue has room (R248). -/
def State.credit (s : State) (dst c : Nat) (dir : Fin 4) (e : Entry) : Bool :=
  if s.g.parks dst then parkRoom s.g dst (.port c dir e) else s.queued dst c dir < 16

/-- Agent `x` lies in the instance of scope `sc` that holds context `c`, or a helper core, of tile `vt` (R287). -/
def inScope (g : Grid) (vt c sc : Nat) (x : Agent) : Bool :=
  let near (v : Nat) : Bool :=
    if sc ≤ 1 then v == vt else if sc = 2 then clusterOf v == clusterOf vt else if sc = 3 then g.gangOf v == g.gangOf vt else g.has v
  match x with
  | .ctx v k => near v && (sc != 0 || k == c)
  | .helper v _ => sc != 0 && near v
  | .engine v _ => sc != 0 && near v
  | .far _ _ _ => 5 ≤ sc
  | .firmware => 5 ≤ sc
  | .domain => 6 ≤ sc
  | .host => sc == 7

/-- The agent that the schedule has named for the context's next ordering, where it lies outside the instance of scope `sc`: the
ordering is dropped for what that agent accesses (R289, log 7). -/
def State.awayAt (s : State) (sc : Nat) : Option Agent := s.c.outside.filter fun x => !inScope s.g s.t.vt s.c.id sc x

/-- An ordering of scope `sc` by the focused context is kept, whoever accesses what it covers (R289). -/
def State.keeps (s : State) (sc : Nat) : Bool := (s.awayAt sc).isNone

/-- The scope of a message to tile `dst`: gang, or grid across gangs (R288). -/
def State.msgScope (s : State) (dst : Nat) : Nat := if s.g.gangOf dst == s.g.gangOf s.t.vt then 3 else 4

/-- The next place in the order of sends. -/
def stampNext (s : State) : State := { s with g := { s.g with sendNext := s.g.sendNext + 1 } }

/-- A message of sender `c` of tile `src` goes on its way (R247). -/
def post (s : State) (src c dst : Nat) (b : Body) : State :=
  let m : Msg := { src := src, c := c, dst := dst, body := b, code := b.codes, seq := s.g.sendNext
                   loose := s.awayAt (s.msgScope dst) }
  stampNext { s with g := { s.g with mesh := s.g.mesh ++ [m] } }

/-- The NI of the focused tile accepts a message of the focused context (R247); a lashed tile holds it in the gated buffer
(R387). -/
def send (s : State) (dst : Nat) (b : Body) : State :=
  if s.t.lash.role = 0 then post s s.t.vt s.c.id dst b
  else
    let m : Msg := { src := s.t.vt, c := s.c.id, dst := dst, body := b, code := b.codes, seq := s.g.sendNext
                     loose := s.awayAt (s.msgScope dst) }
    stampNext { s with t := { s.t with lash := { s.t.lash with gated := s.t.lash.gated ++ [.msg m] } } }

/-- A port write by the focused context (R234, R255). -/
def sendPort (s : State) (dir : Fin 4) (e : Entry) : State :=
  match neighbour s.g s.t.vt s.c.portcfg dir with
  | none => s
  | some vt => absorbOut (send s vt (.port s.c.id (opposite dir) e)) (28 + dir.val) e.bytes

/-! ## Error marks (R381) -/

/-- SRC codes of R362. -/
def srcRim : Nat := 0
def srcSp : Nat := 1
def srcWb : Nat := 2
def srcRecall : Nat := 3
def srcReg : Nat := 4
def srcCarry : Nat := 5
def srcLash : Nat := 6
def srcXlate : Nat := 7

/-- Granules of 8 bytes that a write covers whole hold no old error (R381). -/
def Tile.heal (t : Tile) (src off n : Nat) : Tile :=
  if t.bad = [] ∧ t.soft = [] then t
  else
    let w := unitsWhole 8 off n
    let p (x : Nat × Nat) := !(x.1 == src && w.contains x.2)
    { t with bad := t.bad.filter p, soft := t.soft.filter p, seen := t.seen.filter p }

/-- The range of a tile memory holds an uncorrectable granule. -/
def Tile.badRange (t : Tile) (src o n : Nat) : Bool :=
  if t.bad = [] then false else (unitsOf 8 o n).any fun u => t.bad.contains (src, u)

/-- A read repairs the correctable errors of granules of a tile memory, which the counters count (R381). -/
def repairMarks (s : State) (vt src : Nat) (us : List Nat) : State :=
  match s.tile? vt with
  | none => s
  | some t =>
    if t.soft = [] then s
    else
      let hit := t.soft.filter fun x => x.1 == src && us.contains x.2
      { s.mapTile vt fun t => { t with soft := t.soft.filter fun x => !hit.contains x } with
        m := { s.m with corrErr := s.m.corrErr + .ofNat 64 hit.length } }

/-- A register of the focused context is overwritten: its granules hold no old error. -/
def healReg (s : State) (off n : Nat) : State := { s with t := s.t.heal srcReg (s.c.id * 0x20000 + off) n }

/-! ## Register writes -/

def Ctx.setX (c : Ctx) (r : Fin 32) (x : XReg) : Ctx := { c with x := c.x.set r x }
def Ctx.setV (c : Ctx) (r : Fin 32) (x : VReg) : Ctx := { c with v := c.v.set r x }
def Ctx.setH (c : Ctx) (r : Fin 8) (x : HReg) : Ctx := { c with h := c.h.set r x }
def Ctx.setT (c : Ctx) (r : Fin 8) (x : TReg) : Ctx := { c with t := c.t.set r x }

def State.setX (s : State) (r : Fin 32) (x : XReg) : State := { s with c := s.c.setX r x }

def Tag.isFull : Tag → Bool
  | .full => true
  | _ => false

/-- Direction of a port register. -/
def dirOf (r : Fin 32) : Fin 4 := Fin.ofNat 4 (r.val - 28)

/-- Change the tags of a scalar register, which enters the fingerprint (R387); the stored value, with what errors it has, stays. -/
def markX (s : State) (d : Fin 32) (x : XReg) : State :=
  absorb (s.setX d x) s.c.id d.val (bytesOf 8 x.val.toNat) (2 * x.tag.isFull.toNat + x.v.toNat)

/-- Put a scalar register, whose granule then holds no old error (R381). -/
def putX (s : State) (d : Fin 32) (x : XReg) : State := markX (healReg s (8 * d.val) 8) d x

/-- `write(d, value, v)` of R115. -/
def writeX (s : State) (d : Fin 32) (val : W64) (v : Bool) : State :=
  if d.val = 0 then s
  else if d.val < 28 then putX s d ⟨val, .full, v⟩
  else sendPort s (dirOf d) (.word val v)

/-- The register becomes empty, awaiting a fill or cleared (R14, R17). -/
def emptyX (s : State) (d : Fin 32) (g : Tag) : State :=
  if d.val = 0 ∨ 28 ≤ d.val then s else putX s d ⟨0, g, false⟩

/-- Write a vector register, or send one vector entry (R152). -/
def writeV (s : State) (d : Fin 32) (val : W512) (v : BitVec 8) : State :=
  if d.val < 28 then
    absorb (healReg { s with c := s.c.setV d ⟨val, .full, v⟩ } (0x1000 + 64 * d.val) 64) s.c.id (8192 + d.val) (bytesOf 64 val.toNat) v.toNat
  else sendPort s (dirOf d) (.vec val v)

/-- A vector register becomes empty (R14, R17). DESIGN CHOICE (log 42): its words are 0 with V = 0, which a word-wise write may keep. -/
def emptyV (s : State) (d : Fin 32) (g : Tag) : State :=
  if 28 ≤ d.val then s
  else absorb (healReg { s with c := s.c.setV d ⟨0, g, 0⟩ } (0x1000 + 64 * d.val) 64) s.c.id (8192 + d.val) (bytesOf 64 0) 0

def putH (s : State) (d : Fin 8) (x : HReg) : State :=
  absorb (healReg { s with c := s.c.setH d x } (0x4000 + 1024 * d.val) 1024) s.c.id (2 * 8192 + d.val) (bytesOf 1024 x.val.toNat) x.tag.isFull.toNat

def writeH (s : State) (d : Fin 8) (val : W8192) : State := putH s d ⟨val, .full⟩
def emptyH (s : State) (d : Fin 8) (g : Tag) : State := putH s d ⟨0, g⟩

/-- The status word of a tile register (R175). -/
def TReg.status (t : TReg) : W64 :=
  .ofNat 64 (t.valid.toNat + 2 * t.dirty.toNat + 4 * (decide (t.inflight ≠ 0)).toNat + 8 * t.s32.toNat
    + 65536 * t.ovf.toNat)

/-- Change a tile register, whose granules keep their errors: its status alone, or a sum onto what it holds (R387). -/
def markT (s : State) (d : Fin 8) (x : TReg) : State :=
  absorb { s with c := s.c.setT d x } s.c.id (3 * 8192 + d.val) (bytesOf 4096 x.data.toNat ++ bytesOf 8 x.status.toNat) 0

/-- Write a whole tile register, whose granules then hold no old error (R381). -/
def putT (s : State) (d : Fin 8) (x : TReg) : State := markT (healReg s (0x10000 + 4096 * d.val) 4096) d x

def putB (s : State) (d : Fin 2) (x : BitVec 65536) : State :=
  absorb (healReg { s with c := { s.c with b := s.c.b.set d x } } (0x8000 + 8192 * d.val) 8192) s.c.id (4 * 8192 + d.val) (bytesOf 8192 x.toNat) 0

end Sys2Proof.Machine
end

