-- ==== Sys2Proof/Machine/Rim.lean ====
section
/-! DEFINITION. Global memory as its physical map lays it out (R321, R322), with the keys of protected partitions
(R327, R424) and the error marks of its blocks (R381, R384). -/

namespace Sys2Proof.Machine

/-- The physical map names memory there (R321). -/
def paMapped (pa : Nat) : Bool :=
  pa < 0x30000000000
  || (0x1000000000000 ≤ pa && pa < 0x1000000000000 + 16 * 0x40000000000
      && (pa - 0x1000000000000) % 0x40000000000 < 0x30000000000)
  || (0x8000000000000 ≤ pa && pa < 0x10000000000000)

/-- Host memory, through CXL.cache (R321). -/
def paHost (pa : Nat) : Bool := 0x8000000000000 ≤ pa

/-- The domain module whose rim holds the address (R321). -/
def paModule (pa : Nat) : Option Nat :=
  if 0x1000000000000 ≤ pa ∧ pa < 0x8000000000000 then some ((pa - 0x1000000000000) / 0x40000000000) else none

/-- Bit `i` of a member or link mask. -/
def maskBit (x i : Nat) : Bool := x / 2 ^ i % 2 == 1

/-- Another module's rim slot may be accessed: the domain words are set up, and that module is a member (R428). -/
def Module.remoteOk (m : Module) (p : Nat) : Bool :=
  m.domEn && maskBit m.domMem.toNat m.modId.toNat && maskBit m.domMem.toNat p

/-- The physical address names memory (R321, R428, R429). -/
def Module.paExists (m : Module) (pa : Nat) : Bool :=
  paMapped pa && (match paModule pa with
    | some p => p == m.modId.toNat || m.remoteOk p
    | none => true)

/-- The address that a byte has at its home: the slot of the module's own MODID is its local rim (R429). -/
def Module.home (m : Module) (pa : Nat) : Nat :=
  if paModule pa = some m.modId.toNat then (pa - 0x1000000000000) % 0x40000000000 else pa

/-- A direct link to module `p` is up (R427). -/
def Module.linked (m : Module) (p : Nat) : Bool :=
  maskBit m.linkUp.toNat (2 * p) || maskBit m.linkUp.toNat (2 * p + 1)

/-- A direct link between two other members is up. A link that is down is listed under its number at either end (R427). -/
def Module.farLinked (m : Module) (r p : Nat) : Bool :=
  !(m.farDown.contains (32 * (r + 1) + 2 * p) && m.farDown.contains (32 * (r + 1) + 2 * p + 1))

/-- Link `n % 32` of member `n / 32 - 1` at its other end: links 2p and 2p + 1 of module a are links 2a and 2a + 1 of module p
(R427). -/
def otherEnd (n : Nat) : Nat := 32 * (n % 32 / 2 + 1) + 2 * (n / 32 - 1) + n % 2

/-- A link goes down: one of this module below 32, else link `l % 32` of member `l / 32 - 1`. It is one link with two numbers. -/
def Module.markDown (m : Module) (l : Nat) : Module :=
  let l := if 32 ≤ l ∧ l / 32 - 1 = m.modId.toNat then l % 32
    else if 32 ≤ l ∧ l % 32 / 2 = m.modId.toNat then otherEnd l % 32 else l
  if l < 32 then { m with linkUp := m.linkUp &&& ~~~(.ofNat 32 (2 ^ l)) }
  else { m with farDown := [l, otherEnd l] ++ m.farDown.filter fun x => x != l && x != otherEnd l }

/-- Module `p` is reachable: directly, or through a member (R430). -/
def Module.reaches (m : Module) (p : Nat) : Bool :=
  m.linked p || (List.range 16).any fun r =>
    r != p && r != m.modId.toNat && maskBit m.domMem.toNat r && m.linked r && m.farLinked r p

/-- The address lies in an unreachable module (R432). -/
def Module.lost (m : Module) (pa : Nat) : Bool :=
  match paModule pa with
  | some p => p != m.modId.toNat && !m.reaches p
  | none => false

def lookupNat (l : List (Nat × Nat)) (k : Nat) : Nat :=
  match l.find? (·.1 == k) with
  | some x => x.2
  | none => 0
def setNat (l : List (Nat × Nat)) (k v : Nat) : List (Nat × Nat) :=
  (if v = 0 then [] else [(k, v)]) ++ l.filter (·.1 != k)

/-- The identity of the key that slot `k` holds: 0 while it holds none. -/
def Module.keyId (m : Module) (slot : Nat) : Nat :=
  if m.keys.any (·.1 == slot) then 1 + slot + 8192 * lookupNat m.keyEpoch slot else 0

/-- A byte as an access under key identity `key` reads it; under another key than it was written with, a free value
(log 14). -/
def Module.getByte (m : Module) (key pa : Nat) : Byte :=
  let own := lookupNat m.blockKey (pa / 64)
  if own = key then m.mem.get pa
  else Config.underOtherKey (own * 2 ^ 40 + key) (pa * 256 + (m.mem.get pa).toNat)

def Module.readGlob (m : Module) (key pa : Nat) : Nat → List Byte
  | 0 => []
  | n + 1 => m.getByte key pa :: m.readGlob key (pa + 1) n

/-- A block becomes ciphertext of another key: its other bytes turn into what that key reads. -/
def Module.rekey (m : Module) (key blk : Nat) : Module :=
  if lookupNat m.blockKey blk = key then m
  else { m with mem := m.mem.write (blk * 64) (m.readGlob key (blk * 64) 64), blockKey := setNat m.blockKey blk key }

def Module.setByte (m : Module) (key pa : Nat) (b : Byte) : Module :=
  let m := m.rekey key (pa / 64)
  { m with mem := m.mem.set pa b }

def Module.putBytes (m : Module) (key pa : Nat) : List Byte → Module
  | [] => m
  | b :: r => (m.setByte key pa b).putBytes key (pa + 1) r

/-- Blocks of 64 bytes that the range touches, and those it covers whole. -/
def blocksOf (pa n : Nat) : List Nat := (List.range ((pa + n - 1) / 64 + 1 - pa / 64)).map (· + pa / 64)
def blocksWhole (pa n : Nat) : List Nat := (blocksOf pa n).filter fun b => pa ≤ b * 64 && b * 64 + 64 ≤ pa + n

/-- An entry of the module error log (R364, R382, R384, R394, R419, R432); `code` says which. -/
def Module.logErr (m : Module) (code : Nat) (detail : W64) : Module := { m with errLog := m.errLog ++ [(code, detail)] }

def errLost : Nat := 9
def errScrub : Nat := 1
def errCarry : Nat := 2
def errEnded : Nat := 3
def errRestart : Nat := 4
def errReply : Nat := 5
def errBringup : Nat := 6
def errThermal : Nat := 7
def errDiverge : Nat := 8

/-- The carry codes of blocks that are written: a whole block has a new one; a part is merged into its block, whose own code is
checked with that, and a mismatch marks the block and is logged with the writer (R383, R384). -/
def Module.recode (m : Module) (who pa n : Nat) : Module :=
  if m.codes = [] then m
  else
    let hit := (m.codes.map (·.1)).filter fun b => (blocksOf pa n).contains b && !(blocksWhole pa n).contains b
    { m with
      codes := m.codes.filter fun x => !(blocksOf pa n).contains x.1
      badMem := hit ++ m.badMem
      errLog := m.errLog ++ hit.map fun _ => (errCarry, BitVec.ofNat 64 who) }

/-- Blocks that a write covers whole, and granules of the home caches, hold no old error (R381). -/
def Module.healGlob (m : Module) (pa n : Nat) : Module :=
  if m.badMem = [] ∧ m.softMem = [] ∧ m.badHome = [] ∧ m.softHome = [] then m
  else
    let w := blocksWhole pa n
    let u := unitsWhole 8 pa n
    { m with badMem := m.badMem.filter (!w.contains ·), softMem := m.softMem.filter (!w.contains ·)
             seenMem := m.seenMem.filter (!w.contains ·)
             badHome := m.badHome.filter (!u.contains ·), softHome := m.softHome.filter (!u.contains ·) }

/-- A write to global memory by writer `who`, which the log of a carry-code mismatch names: a tile, or from 2^24 on a unit of the
device. A write to an unreachable module is discarded and counted (R432). -/
def Module.writeBy (m : Module) (who key pa : Nat) (bs : List Byte) : Module :=
  if m.lost pa then m.logErr errLost (.ofNat 64 pa)
  else ((m.putBytes key pa bs).recode who pa bs.length).healGlob pa bs.length

/-- The module's own units, and the host link, as writers. -/
def byDevice : Nat := 2 ^ 24
def byHost : Nat := 2 ^ 24 + 1

/-- A write to global memory by a unit of the device. -/
def Module.writeGlob (m : Module) (key pa : Nat) (bs : List Byte) : Module := m.writeBy byDevice key pa bs

/-- A write that arrives with carry codes: one whose codes fail is performed, the granules it covers become uncorrectable, and the
log names the writer (R384). -/
def Module.writeCoded (m : Module) (who key pa : Nat) (bs : List Byte) (code : List W32) : Module :=
  let m' := m.writeBy who key pa bs
  if code = carryCodes pa bs || m.lost pa then m'
  else { m' with badHome := unitsOf 8 pa bs.length ++ m'.badHome }.logErr errCarry (.ofNat 64 who)

/-- The range holds data that fails its carry code (R384). -/
def Module.codeBad (m : Module) (pa n : Nat) : Bool :=
  if m.codes = [] then false else (blocksOf pa n).any fun b => m.codes.any (·.1 == b)

/-- The range holds an uncorrectable block of the rim, or granule of a home cache (R381), or lies in an unreachable module (R432). -/
def Module.badRange (m : Module) (pa n : Nat) : Bool :=
  if m.lost pa then true
  else (m.badMem != [] && (blocksOf pa n).any m.badMem.contains) || (m.badHome != [] && (unitsOf 8 pa n).any m.badHome.contains)

/-- A read corrects the correctable errors of its range, which the counters count (R381). -/
def Module.correctRange (m : Module) (pa n : Nat) : Module :=
  if m.softMem = [] ∧ m.softHome = [] then m
  else
    let hit := m.softMem.filter ((blocksOf pa n).contains ·)
    let near := m.softHome.filter ((unitsOf 8 pa n).contains ·)
    { m with softMem := m.softMem.filter (!hit.contains ·), softHome := m.softHome.filter (!near.contains ·)
             corrErr := m.corrErr + .ofNat 64 (hit.length + near.length) }

/-- The physical-function offset of the first error counters is 0; a dword of physical memory for the device's own
structures, under no key. -/
def Module.dword (m : Module) (key pa : Nat) : W64 := .ofNat 64 (natOf (m.readGlob key pa 8))
def Module.putDword (m : Module) (key pa : Nat) (v : W64) : Module := m.writeGlob key pa (bytesOf 8 v.toNat)

end Sys2Proof.Machine
end

