-- ==== Sys2Proof/Machine/Translate.lean ====
section
/-! DEFINITION. Page tables, walks and translation caches (R324 to R336), and page requests (R332, R419). -/

namespace Sys2Proof.Machine

/-- Access kinds of R328. `dirty` is a store, AMO or CAS that commits, whose walk sets D (R330). -/
inductive AKind | fetch | load | store | amo | cas | dirty
  deriving DecidableEq, Repr

def AKind.needR (k : AKind) : Bool := k == .load || k == .amo || k == .cas
def AKind.needW (k : AKind) : Bool := k == .store || k == .amo || k == .cas || k == .dirty
def AKind.needX (k : AKind) : Bool := k == .fetch
/-- The walk for the access sets D: only a committed write does (R330), a CAS only when it writes (R299). -/
def AKind.setsD (k : AKind) : Bool := k == .dirty

/-- The address space an access is made in, and the mode of the U test (R324, R328). -/
structure Space where
  vf    : Nat
  root  : BitVec 41
  asid  : W16
  smode : Bool

/-! ## Entries (R326) -/

def pteV (p : Nat) : Bool := bits p 0 1 == 1
def pteLeaf (p : Nat) : Bool := bits p 1 1 == 1
def pteR (p : Nat) : Bool := bits p 52 1 == 1
def pteW (p : Nat) : Bool := bits p 53 1 == 1
def pteX (p : Nat) : Bool := bits p 54 1 == 1
def pteU (p : Nat) : Bool := bits p 55 1 == 1
def pteA (p : Nat) : Bool := bits p 56 1 == 1
def pteD (p : Nat) : Bool := bits p 57 1 == 1
def pteG (p : Nat) : Bool := bits p 58 1 == 1
def ptePoison (p : Nat) : Bool := bits p 59 1 == 1
def pteKey (p : Nat) : Nat := bits p 3 13
def pteAddr (p : Nat) : Nat := bits p 16 36 * 2 ^ 16
def pteNext (p : Nat) : Nat := bits p 8 44 * 2 ^ 8

/-- The levels below a table, top first: index shift, index bits, a leaf is allowed (R325). -/
def levels : List (Nat × Nat × Bool) :=
  [(48, 8, false), (39, 9, false), (30, 9, true), (21, 9, true), (16, 5, true)]

/-- log2 of the size of the table at the level below: 4 KiB, and 256 bytes for the P table (R325). -/
def nextLog2 (shift : Nat) : Nat := if shift = 21 then 8 else 12

/-- A reserved-bit fault of an entry at a level (R326). -/
def pteReserved (p shift : Nat) : Bool :=
  if pteLeaf p then
    bits p 60 4 != 0 || bits p 2 1 != 0 || (pteW p && !pteR p) || pteAddr p % 2 ^ shift != 0
  else bits p 52 12 != 0 || bits p 2 6 != 0 || pteNext p % 2 ^ nextLog2 shift != 0

/-! ## Stage 2 -/

/-- A leaf found by a walk: the address of the entry, the entry and the page shift. -/
structure Leaf where
  pa    : Nat
  pte   : Nat
  shift : Nat

/-- What a walk over the stage-2 tables finds: a leaf, nothing, or an entry at an address where there is no memory (R428). -/
inductive Found
  | leaf (l : Leaf)
  | none
  | access

def Found.leaf? : Found → Option Leaf
  | .leaf l => some l
  | _ => Option.none

/-- The top 16 GiB of the local rim, which a stage-2 leaf may not name (R426). -/
def paReserved (pa : Nat) : Bool := 0x2FC00000000 ≤ pa && pa < 0x30000000000

/-- A walk over tables that lie at addresses as they stand (stage 2, R327): none on an invalid entry or a
reserved-bit fault; an entry in a rim that may not be accessed is an access there (R428). DESIGN CHOICE (log 42): stage-2 tables are
read under no key, where R327 names none. -/
def walk2 (m : Module) (a : Nat) : List (Nat × Nat × Bool) → Nat → Found
  | [], _ => .none
  | (shift, n, leafOk) :: r, table =>
    let pe := m.home (table + bits a shift n * 8)
    let p := natOf (m.readGlob 0 pe 8)
    if !m.paExists (table + bits a shift n * 8) then .access
    else if !pteV p || pteReserved p shift || (pteLeaf p && paReserved (m.home (pteAddr p))) then .none
    else if pteLeaf p then (if leafOk then .leaf ⟨pe, p, shift⟩ else .none)
    else walk2 m a r (pteNext p)

/-- A leaf of a protected function names one of its own key slots, and no leaf names a slot that another function owns (R420). -/
def ownKey (m : Module) (v : Nat) (vf : Vf) (p : Nat) : Bool :=
  if vf.prot then m.keys.any fun x => x.1 == pteKey p && x.2 == v
  else !m.keys.any fun x => x.1 == pteKey p && x.2 != v

/-- The leaf is a 64 KiB leaf that names the slot a migration of the function pulls from (R435). -/
def Mig.pulls (g : Mig) (m : Module) (l : Leaf) : Bool :=
  g.st == 1 && l.shift == 16 && paModule (pteAddr l.pte) == some g.src.toNat && g.src != m.modId

/-- The leaf, still to be pulled, that a stage-2 walk of `gpa` reaches. -/
def pullLeaf (m : Module) (v gpa : Nat) : Option Leaf :=
  let vf := m.vfs.toList.getD v {}
  if vf.s2en ∧ vf.mig.st = 1 then
    match walk2 m gpa levels (vf.s2root.toNat * 2 ^ 11) with
    | .leaf l => if vf.mig.pulls m l then some l else none
    | _ => none
  else none

/-- A pull of the page of a leaf starts, unless it is under way. -/
def startPull (m : Module) (v leaf : Nat) : Module :=
  m.mapVf v fun f => if f.mig.pulling.contains leaf then f else { f with mig := { f.mig with pulling := f.mig.pulling ++ [leaf] } }

/-- `a` atomically ORed with A and D bits (R330). -/
def setAD (m : Module) (key pa pte : Nat) (d : Bool) : Module :=
  let new := pte ||| 2 ^ 56 ||| (if d then 2 ^ 57 else 0)
  if new = pte then m else m.writeGlob key pa (bytesOf 8 new)

/-- What stage 2 gives for a guest-physical address (R327, R329). -/
structure S2 where
  m      : Module
  pa     : Nat
  shift  : Nat
  r      : Bool
  w      : Bool
  x      : Bool
  d      : Bool
  key    : Option Nat
  poison : Bool

/-- What stage 2 comes to: a translation, a stage-2 fault, or an access to tables that are not there (R428). -/
inductive St2
  | ok (s : S2)
  | fault
  | access

def St2.s2? : St2 → Option S2
  | .ok s => some s
  | _ => none

/-- Stage-2 translation of `gpa` with the permissions it needs, and D set for `d`. -/
def stage2 (m : Module) (v gpa : Nat) (r w x d : Bool) : St2 :=
  let vf := m.vfs.toList.getD v {}
  if !vf.s2en then .ok ⟨m, m.home gpa, 52, true, true, true, true, none, false⟩
  else
    match walk2 m gpa levels (vf.s2root.toNat * 2 ^ 11) with
    | .none => .fault
    | .access => .access
    | .leaf l =>
      if (r && !pteR l.pte) || (w && !pteW l.pte) || (x && !pteX l.pte) || !ownKey m v vf l.pte
          || vf.mig.pulls m l then .fault
      else .ok ⟨setAD m 0 l.pa l.pte d, m.home (pteAddr l.pte) + gpa % 2 ^ l.shift, l.shift, pteR l.pte, pteW l.pte, pteX l.pte,
                 d || pteD l.pte, some (pteKey l.pte), ptePoison l.pte⟩

/-! ### Accesses of the host -/

/-- The address is rim memory (R321). -/
def paRim (m : Module) (pa : Nat) : Bool := m.paExists pa && !paHost pa

/-- Where the host's access to guest-physical `gpa` goes, with the key; none where stage 2 maps no rim memory. It sets no A or D
bit. DESIGN CHOICE (log 42): it asks for no permission of the leaf, R or W, and with stage 2 off it reaches the address unchanged
(R406). -/
def cxlPlace (m : Module) (v gpa : Nat) : Option (Nat × Nat) :=
  let f := m.vfs.toList.getD v {}
  if !f.s2en then (if paRim m gpa then some (m.home gpa, 0) else none)
  else
    match walk2 m gpa levels (f.s2root.toNat * 2 ^ 11) with
    | .leaf l =>
      let pa := m.home (pteAddr l.pte) + gpa % 2 ^ l.shift
      if ptePoison l.pte || !ownKey m v f l.pte || !paRim m pa then none else some (pa, m.keyId (pteKey l.pte))
    | _ => none

/-! ### Leaves of stage 2 -/

/-- A leaf of the stage-2 tables and the guest-physical address it maps. -/
structure Leaf2 where
  gpa  : Nat
  leaf : Leaf

/-- Every valid leaf below a table, in ascending order of address. -/
def leavesBelow (m : Module) : List (Nat × Nat × Bool) → Nat → Nat → List Leaf2
  | [], _, _ => []
  | (shift, n, leafOk) :: r, table, base =>
    (List.range (2 ^ (if shift = 48 then 4 else n))).flatMap fun i =>
      let pe := m.home (table + i * 8)
      let p := natOf (m.readGlob 0 pe 8)
      if !m.paExists (table + i * 8) || !pteV p || pteReserved p shift || (pteLeaf p && paReserved (m.home (pteAddr p))) then []
      else if pteLeaf p then (if leafOk then [⟨base + i * 2 ^ shift, pe, p, shift⟩] else [])
      else leavesBelow m r (pteNext p) (base + i * 2 ^ shift)

/-- The leaves of function `v`. -/
def leavesOf (m : Module) (v : Nat) : List Leaf2 :=
  let f := m.vfs.toList.getD v {}
  if f.s2en then leavesBelow m levels (f.s2root.toNat * 2 ^ 11) 0 else []

/-- MiB of rim memory that stage 2 maps for function `v` (R421). -/
def mappedMib (m : Module) (v : Nat) : Nat :=
  ((leavesOf m v).map fun l => if paHost (m.home (pteAddr l.leaf.pte)) then 0 else 2 ^ l.leaf.shift).sum / 2 ^ 20

/-! ## Stage 1 -/

/-- What a translation comes to. -/
inductive Tl
  | ok (m : Module) (e : TlbE)
  | fault (m : Module)                        -- a stage-1 fault (R331)
  | poison (m : Module)
  | access (m : Module)                       -- an entry of a table where there is no memory (R428)
  | miss (m : Module) (gpa : Nat) (walk : Bool)  -- a stage-2 fault (R332)

/-- A leaf permits the access (R328). -/
def permitted (p : Nat) (k : AKind) (smode : Bool) : Bool :=
  (!k.needR || pteR p) && (!k.needW || pteW p) && (!k.needX || pteX p)
  && (match k with
      | .fetch => pteU p == !smode
      | _ => smode || pteU p)

/-- The last part of a walk, from a permitted stage-1 leaf whose entry lies at `pe` (guest-physical `ge`). -/
def finishWalk (m : Module) (sp : Space) (k : AKind) (va ge pe key1 pte shift : Nat) : Tl :=
  let needD := k.setsD
  let new := pte ||| 2 ^ 56 ||| (if needD then 2 ^ 57 else 0)
  match (if new = pte then Except.ok m
         else match stage2 m sp.vf ge true true false true with
           | .fault => .error (Tl.miss m ge true)
           | .access => .error (Tl.access m)
           | .ok s2 => .ok (if s2.poison then s2.m else s2.m.writeGlob key1 pe (bytesOf 8 new))) with
  | .error r => r
  | .ok m =>
    let gpa := pteAddr pte + va % 2 ^ shift
    match stage2 m sp.vf gpa k.needR k.needW k.needX k.setsD with
    | .fault => .miss m gpa false
    | .access => .access m
    | .ok s2 =>
      if ptePoison pte || s2.poison then .poison s2.m
      else
        let sh := min shift s2.shift
        .ok s2.m {
          vf := sp.vf, asid := sp.asid, g := pteG pte
          base := va / 2 ^ sh * 2 ^ sh, size := 2 ^ sh, pa := s2.pa / 2 ^ sh * 2 ^ sh
          r := pteR pte && s2.r, w := pteW pte && s2.w, x := pteX pte && s2.x, u := pteU pte
          d := (needD || pteD pte) && s2.d
          key := .ofNat 13 (match s2.key with | some q => q | none => pteKey pte) }

/-- The stage-1 walk (R329), each entry read through stage 2, whose POISON traps as it does for the access (R326). DESIGN CHOICE
(log 42): a table is read under the key of the stage-2 leaf that maps it, and under no key with stage 2 off. -/
def walk1 (sp : Space) (k : AKind) (va : Nat) : List (Nat × Nat × Bool) → Nat → Module → Tl
  | [], _, m => .fault m
  | (shift, n, leafOk) :: r, table, m =>
    let ge := table + bits va shift n * 8
    match stage2 m sp.vf ge true false false false with
    | .fault => .miss m ge true
    | .access => .access m
    | .ok s2 =>
      let m := s2.m
      let key := match s2.key with | some q => m.keyId q | none => 0
      if s2.poison then .poison m else if !m.paExists s2.pa then .access m else
      let p := natOf (m.readGlob key s2.pa 8)
      if !pteV p || pteReserved p shift then .fault m
      else if !pteLeaf p then (if shift = 16 then .fault m else walk1 sp k va r (pteNext p) m)
      else if !leafOk || !permitted p k sp.smode then .fault m
      else finishWalk m sp k va ge s2.pa key p shift

/-! ## The runtime region (R449) -/

def inRuntime (va : Nat) : Bool := bits va 48 16 == 0x00FF

/-- R, W, X and U of a page of the region by its number: the end stub's page, the pages of the runtime's vector and of the
block that x4 names, and whatever else the runtime maps for itself. R449 gives the U bits and the stub's rights; PRESUMED (log 5):
the block's page is read and written and not executed, and the vector's page is executed, with R and W as `Config.runtimePage` says,
or R alone where that names no page. -/
def runtimeRights (page : Nat) : Option (Bool × Bool × Bool × Bool) :=
  if page = Config.endStub.toNat / 65536 then some (false, false, true, true)
  else if page = Config.runtimeVector.toNat / 65536 then
    some (match Config.runtimePage page with | some (r, w, _) => (r, w, true, false) | none => (true, false, true, false))
  else if page = Config.runtimePtr.toNat / 65536 then some (true, true, false, false)
  else (Config.runtimePage page).map fun (r, w, x) => (r, w, x, false)

/-! ## Translation caches (R333) -/

/-- The cache an agent looks in first. -/
inductive Tlb | i | d | e | ldr | str
  deriving DecidableEq, Repr

def Tlb.size : Tlb → Nat
  | .i => 64 | .d => 96 | .e => 32 | .ldr => 16 | .str => 16

def Tile.tlb (t : Tile) : Tlb → List TlbE
  | .i => t.itlb | .d => t.dtlb | .e => t.etlb | .ldr => t.ldr.tlb | .str => t.str.tlb

def Tile.setTlb (t : Tile) (b : Tlb) (l : List TlbE) : Tile :=
  match b with
  | .i => { t with itlb := l }
  | .d => { t with dtlb := l }
  | .e => { t with etlb := l }
  | .ldr => { t with ldr := { t.ldr with tlb := l } }
  | .str => { t with str := { t.str with tlb := l } }

/-- The entry translates the address in the space. -/
def TlbE.hits (e : TlbE) (sp : Space) (va : Nat) : Bool :=
  e.vf == sp.vf && (e.g || e.asid == sp.asid) && e.base ≤ va && va < e.base + e.size

/-- The entry permits the access; a write through D = 0 walks again (R330). -/
def TlbE.permits (e : TlbE) (k : AKind) (smode : Bool) : Bool :=
  (!k.needR || e.r) && (!k.needW || e.w) && (!k.setsD || e.d) && (!k.needX || e.x)
  && (match k with
      | .fetch => e.u == !smode
      | _ => smode || e.u)

/-- Put an entry into a cache of `n` entries; a full cache gives up a free choice (log 8). -/
def putTlb (n free : Nat) (l : List TlbE) (e : TlbE) : List TlbE :=
  if l.length < n then e :: l else e :: dropNth l (Config.tlbVictim free % n)

def clusterKey (vt : Nat) : Nat := (clusterOf vt).1 * 1024 + (clusterOf vt).2

/-- A translation: the physical address and the key identity, or why there is none. -/
inductive Trans
  | ok (s : State) (pa key : Nat)
  | fault (s : State)
  | poison (s : State)
  | access (s : State)
  | miss (s : State) (gpa : Nat) (walk : Bool)

/-- The runtime's translation of an address of its region: global, under no key slot (R449). -/
def runtimeEntry (sp : Space) (va : Nat) : Option TlbE :=
  (runtimeRights (va / 65536)).map fun (r, w, x, u) =>
    { vf := sp.vf, asid := sp.asid, g := true, base := va / 65536 * 65536, size := 65536
      pa := 0x2FC00000000 + Config.runtimeFrame (va / 65536) % 262144 * 65536, r := r, w := w, x := x, u := u, d := true, key := 0 }

/-- The walk for an address: through the runtime's own tables in its region (R449), else through the context's (R329). -/
def walk (sp : Space) (k : AKind) (va : Nat) (m : Module) : Tl :=
  if inRuntime va then
    match runtimeEntry sp va with
    | some e => if e.permits k sp.smode then .ok m e else .fault m
    | none => .fault m
  else walk1 sp k va levels (sp.root.toNat * 2 ^ 11) m

/-- The translation may be cached: none to the slot of a migration under way is (R435). -/
def cacheable (m : Module) (e : TlbE) : Bool :=
  let g := (m.vfs.toList.getD e.vf {}).mig
  !(g.st == 1 && paModule e.pa == some g.src.toNat && g.src != m.modId)

def useEntry (s : State) (e : TlbE) (va : Nat) : Trans :=
  .ok s (e.pa + (va - e.base)) (if inRuntime e.base then 0 else s.m.keyId e.key.toNat)

/-- Put an entry into the second-level TLB of the cluster of tile `vt`; a full one gives up one of its own (R333, log 8). -/
def putCtlb (s : State) (vt : Nat) (e : TlbE) : List (Nat × TlbE) :=
  let mine := s.g.ctlb.filter fun (x : Nat × TlbE) => x.1 == clusterKey vt
  let rest := s.g.ctlb.filter fun (x : Nat × TlbE) => x.1 != clusterKey vt
  (putTlb 4096 s.free (mine.map (·.2)) e).map (fun e => (clusterKey vt, e)) ++ rest

/-- Translate `va` for tile `vt` of the focused grid through cache `b` and the cluster's second-level TLB, with the caches filled and
A and D set (R329, R330, R333). DESIGN CHOICE (log 42): an entry that covers the address and lacks the permission is walked again. -/
def translate (s : State) (vt : Nat) (b : Tlb) (sp : Space) (k : AKind) (va : Nat) : Trans :=
  match (match s.tile? vt with | some t => t.tlb b | none => ([] : List TlbE)).find? (fun (e : TlbE) => e.hits sp va && e.permits k sp.smode) with
  | some e => useEntry s e va
  | none =>
      match s.g.ctlb.find? (fun (x : Nat × TlbE) => x.1 == clusterKey vt && x.2.hits sp va && x.2.permits k sp.smode) with
      | some (_, e) =>
        useEntry { s.mapTile vt (fun t => t.setTlb b (putTlb b.size s.free (t.tlb b) e)) with free := s.free + 1 } e va
      | none =>
        match walk sp k va s.m with
        | .fault m => .fault { s with m := m }
        | .poison m => .poison { s with m := m }
        | .access m => .access { s with m := m }
        | .miss m gpa w => .miss { s with m := m } gpa w
        | .ok m e =>
          if !cacheable m e then useEntry { s with m := m } e va
          else
          let s := { s with m := m, free := s.free + 1
                            g := { s.g with ctlb := putCtlb s vt e } }
          useEntry (s.mapTile vt fun t => t.setTlb b (putTlb b.size s.free (t.tlb b) e)) e va

/-- Stage-1 entries that an invalidation names leave the caches of a tile and its cluster (R143, R334). -/
def invalidate (s : State) (vt : Nat) (p : TlbE → Bool) : State :=
  let keep (l : List TlbE) := l.filter fun e => !p e
  let s := s.mapTile vt fun t =>
    { t with itlb := keep t.itlb, dtlb := keep t.dtlb, etlb := keep t.etlb
             ldr := { t.ldr with tlb := keep t.ldr.tlb }, str := { t.str with tlb := keep t.str.tlb } }
  { s with g := { s.g with ctlb := s.g.ctlb.filter fun x => !(x.1 == clusterKey vt && p x.2) } }

/-! ## Page requests (R332, R419) -/

def AKind.reqCode : AKind → BitVec 2
  | .fetch => 0 | .load => 1 | .store => 2 | .amo => 2 | .cas => 2 | .dirty => 2

/-- Two requests stand for the same page. -/
def PReq.same (a b : PReq) : Bool :=
  a.stage1 == b.stage1 &&
    (if a.stage1 then a.va.toNat / 65536 == b.va.toNat / 65536 && a.asid == b.asid else a.gpa / 65536 == b.gpa / 65536)

/-- The next tag that is not outstanding, counting modulo 2^16. -/
def freeTag (used : List W16) : Nat → W16 → W16
  | 0, t => t
  | n + 1, t => if used.contains t then freeTag used n (t + 1) else t

def PReq.dwords (r : PReq) : List W64 :=
  [.ofNat 64 (r.tag.toNat + 2 ^ 16 * r.kind.toNat + 2 ^ 18 * r.s1walk.toNat + 2 ^ 19 * r.stage1.toNat),
   r.va, if r.stage1 then 0 else .ofNat 64 r.gpa, .ofNat 64 (r.vt % 2 ^ 24 + 2 ^ 24 * r.role)]

/-- Entries of the page-request ring that the hypervisor has not read. -/
def Vf.prqUsed (f : Vf) : Nat := (f.prqTail + 256 - f.prqHead) % 256

/-- Write the entry at the ring's tail and count the request as outstanding (R419). -/
def pushReq (m : Module) (v : Nat) (r : PReq) : Module :=
  let f := m.vfs.toList.getD v {}
  let r := { r with tag := freeTag (f.reqs.map (·.tag)) 65536 f.nextTag }
  let m := if !m.paExists (f.prqBase.toNat + 32 * f.prqTail) then m
    else m.writeGlob 0 (m.home (f.prqBase.toNat + 32 * f.prqTail)) (r.dwords.flatMap fun d => bytesOf 8 d.toNat)
  m.mapVf v fun f => { f with prqTail := (f.prqTail + 1) % 256, nextTag := r.tag + 1, reqs := f.reqs ++ [r] }

/-- Place a request, or join the one that stands for the page: the block the translator waits at. A walk that met a page of
a migration starts its pull instead (R435). -/
def placeReq (m : Module) (v : Nat) (r : PReq) : Module × Block :=
  let f := m.vfs.toList.getD v {}
  match (if r.stage1 then none else pullLeaf m v r.gpa), f.reqs.find? (·.same r) with
  | some l, _ => (startPull m v l.pa, .pull l.pa)
  | none, some o => (m, .page o.tag.toNat)
  | none, none =>
    if f.prqUsed = 255 then (m, .prqFull)
    else (pushReq m v r, .page (freeTag (f.reqs.map (·.tag)) 65536 f.nextTag).toNat)

end Sys2Proof.Machine
end

