-- ==== Sys2Proof/Machine/Window.lean ====
section
/-! DEFINITION. The memories and registers of a tile at the offsets of its window (R315 to R320, R178, R179, R202, R213),
and what a write to them brings with it. -/

namespace Sys2Proof.Machine

/-! ## Scratchpad -/

def spSize : Nat := 0x200000

def overlapsLine (size off n line : Nat) : Bool := off < (line + 1) * size && line * size < off + n

/-- The old contents of lines go to a journal the first time they are written (R387, R391). -/
def journal (l : List (Nat × List Byte)) (sp : Memory) : List Nat → List (Nat × List Byte)
  | [] => l
  | u :: r => journal (if l.any (·.1 == u) then l else l ++ [(u, sp.read (u * 128) 128)]) sp r

/-- Bytes written to a tile's scratchpad, with the marks, journals and watches of the tile (R371, R276). -/
def Tile.spWrite (t : Tile) (belay : Bool) (o : Nat) (bs : List Byte) : Tile :=
  let n := bs.length
  let ls := unitsOf 128 o n
  let t := t.heal srcSp o n
  let wk (h : Helper) : Helper := match h.watch with
    | some l => if overlapsLine 64 o n l then { h with evt := true } else h
    | none => h
  { t with
    sp := t.sp.write o bs
    written := (unitsOf 4096 o n).foldl insertNat t.written
    lash := if t.lash.role = 0 then t.lash else { t.lash with undo := journal t.lash.undo t.sp ls }
    belay := if belay then { t.belay with lines := journal t.belay.lines t.sp ls } else t.belay
    ldr := wk t.ldr, str := wk t.str }

/-- A write reaches the watched line of a context (R276). -/
def Ctx.watchHit (c : Ctx) (o n : Nat) : Ctx :=
  match c.watch with
  | some l => if overlapsLine 64 o n l then { c with evt := true } else c
  | none => c

/-- Write bytes to the scratchpad of tile `vt` at an offset. -/
def spWrite (s : State) (vt o : Nat) (bs : List Byte) : State :=
  (s.mapTile vt fun t => t.spWrite (s.g.belay != 0) o bs).mapCtxs vt fun c => c.watchHit o bs.length

def spRead (s : State) (vt o n : Nat) : List Byte :=
  match s.tile? vt with
  | some t => t.sp.read o n
  | none => List.replicate n 0

/-! ## Weight buffer and recall memory -/

/-- A slot is journaled before its first write of a superstep (R391). -/
def Tile.noteSlot (t : Tile) (belay : Bool) (k : Nat) : Tile :=
  if belay && !t.belay.slots.any (·.1 == k) then
    { t with belay := { t.belay with slots := t.belay.slots ++ [(k, t.slots.toList.getD k {})] } }
  else t

def Tile.mapSlot (t : Tile) (k : Nat) (f : Slot → Slot) : Tile :=
  if h : k < 128 then { t with slots := t.slots.set k (f t.slots[k]) } else t

/-- A window write to a slot's values or metadata (R181). -/
def Slot.winWrite (x : Slot) (md : Bool) (o : Nat) (bs : List Byte) : Slot :=
  let x := if x.svalid then x else { x with vals := 0, mta := 0 }
  if md then { x with svalid := true, mta := .ofNat 2048 (natOf (overlay (bytesOf 256 x.mta.toNat) o bs)) }
  else { x with svalid := true, vals := .ofNat 16384 (natOf (overlay (bytesOf 2048 x.vals.toNat) o bs)) }

def Tile.noteRecall (t : Tile) (belay : Bool) (e : Nat) : Tile :=
  if belay && !t.belay.rmem.any (·.1 == e) then
    { t with belay := { t.belay with rmem := t.belay.rmem ++ [(e, t.rmem.toList.getD e {})] } }
  else t

def Tile.mapRecall (t : Tile) (belay : Bool) (e : Nat) (f : Recall → Recall) : Tile :=
  let t := t.noteRecall belay e
  if h : e < 256 then { t with rmem := t.rmem.set e (f t.rmem[e]) } else t

/-- The bytes of an entry, zeros when it is invalid (R213). -/
def Recall.bytes (r : Recall) : List Byte := if r.valid then bytesOf 1024 r.data.toNat else List.replicate 1024 0

/-! ## Register blocks (R316 to R318) -/

/-- A range of bytes cut along registers of `size` bytes: register number, offset within it, its bytes. -/
def cut (size : Nat) : Nat → Nat → List Byte → List (Nat × Nat × List Byte)
  | 0, _, _ => []
  | _, _, [] => []
  | fuel + 1, o, b :: r =>
    let k := size - o % size
    (o / size, o % size, (b :: r).take k) :: cut size fuel (o + k) ((b :: r).drop k)

/-- The pending fill of a register is cancelled (R19). -/
def Ctx.cancel (c : Ctx) (code : Nat) : Ctx :=
  { c with accs := c.accs.map fun a => { a with cancelled := code :: a.cancelled } }

def Ctx.regX (c : Ctx) (i : Nat) : XReg := c.x.toList.getD i {}
def Ctx.regV (c : Ctx) (i : Nat) : VReg := c.v.toList.getD i {}
def Ctx.regH (c : Ctx) (i : Nat) : HReg := c.h.toList.getD i {}
def Ctx.regT (c : Ctx) (i : Nat) : TReg := c.t.toList.getD i {}

def isPortReg (i : Nat) : Bool := 28 ≤ i && i ≤ 31

/-- Masks of F and V over registers, as `rdfe`, `rdvb` and the tag block give them (R145, R317). -/
def Ctx.fMask (c : Ctx) : Nat := 1 + ((List.range 27).map fun i => (c.regX (i + 1)).tag.isFull.toNat * 2 ^ (i + 1)).sum
def Ctx.vMask (c : Ctx) : Nat :=
  1 + ((List.range 27).map fun i => ((c.regX (i + 1)).tag.isFull && (c.regX (i + 1)).v).toNat * 2 ^ (i + 1)).sum
def Ctx.fvMask (c : Ctx) : Nat := ((List.range 28).map fun i => (c.regV i).tag.isFull.toNat * 2 ^ i).sum
def Ctx.fhMask (c : Ctx) : Nat := ((List.range 8).map fun i => (c.regH i).tag.isFull.toNat * 2 ^ i).sum

/-- The tag block, 128 bytes (R317). -/
def Ctx.tagBlock (c : Ctx) : List Byte :=
  bytesOf 8 c.fMask ++ bytesOf 8 c.vMask ++ bytesOf 8 c.fvMask ++ bytesOf 8 c.fhMask
    ++ ((List.range 28).map fun i => if (c.regV i).tag.isFull then BitVec.ofNat 8 (c.regV i).v.toNat else 0)
    ++ [0, 0, 0, 0]
    ++ (List.range 8).flatMap fun i => bytesOf 8 (c.regT i).status.toNat

/-- Contents of a tile register, zeros when it is not VALID (R175). -/
def TReg.bytes (t : TReg) : List Byte := if t.valid then bytesOf 4096 t.data.toNat else List.replicate 4096 0

def readRegs (size : Nat) (f : Nat → List Byte) (o n : Nat) : List Byte :=
  (cut size (n + 1) o (List.replicate n 0)).flatMap fun (i, k, bs) => slice (f i) k bs.length

/-- A read of a register block; the offset is relative to the block (R316, R318). -/
def Ctx.winRead (c : Ctx) (o n : Nat) : List Byte :=
  if o < 0x100 then
    readRegs 8 (fun i => if i = 0 ∨ isPortReg i ∨ !(c.regX i).tag.isFull then List.replicate 8 0
                         else bytesOf 8 (c.regX i).val.toNat) o n
  else if o < 0x180 then slice c.tagBlock (o - 0x100) n
  else if o < 0x1800 then
    readRegs 64 (fun i => if isPortReg i ∨ !(c.regV i).tag.isFull then List.replicate 64 0
                          else bytesOf 64 (c.regV i).val.toNat) (o - 0x1000) n
  else if o < 0x6000 then
    readRegs 1024 (fun i => if (c.regH i).tag.isFull then bytesOf 1024 (c.regH i).val.toNat
                            else List.replicate 1024 0) (o - 0x4000) n
  else if o < 0xC000 then
    readRegs 8192 (fun i => bytesOf 8192 (c.b.toList.getD i 0).toNat) (o - 0x8000) n
  else readRegs 4096 (fun i => (c.regT i).bytes) (o - 0x10000) n

def Ctx.putXi (c : Ctx) (i : Nat) (x : XReg) : Ctx := if h : i < 32 then { c with x := c.x.set i x } else c
def Ctx.putVi (c : Ctx) (i : Nat) (x : VReg) : Ctx := if h : i < 32 then { c with v := c.v.set i x } else c
def Ctx.putHi (c : Ctx) (i : Nat) (x : HReg) : Ctx := if h : i < 8 then { c with h := c.h.set i x } else c
def Ctx.putTi (c : Ctx) (i : Nat) (x : TReg) : Ctx := if h : i < 8 then { c with t := c.t.set i x } else c
def Ctx.putBi (c : Ctx) (i : Nat) (x : BitVec 65536) : Ctx := if h : i < 2 then { c with b := c.b.set i x } else c

/-- A window write to an x register (R318). -/
def Ctx.winX (c : Ctx) (i : Nat) (bs : List Byte) : Ctx :=
  if i = 0 ∨ isPortReg i then c
  else (c.putXi i ⟨.ofNat 64 (natOf bs), .full, true⟩).cancel i

/-- A window write to bytes of a v register: the words it touches become valid (R318). -/
def Ctx.winV (c : Ctx) (i k : Nat) (bs : List Byte) : Ctx :=
  if isPortReg i then c
  else
    let r := c.regV i
    let old : VReg := if r.tag.isFull then r else ⟨0, .full, 0⟩
    let m : Nat := ((unitsOf 8 k bs.length).map fun w => 2 ^ w).sum
    (c.putVi i ⟨.ofNat 512 (natOf (overlay (bytesOf 64 old.val.toNat) k bs)), .full, old.v ||| .ofNat 8 m⟩).cancel (32 + i)

def Ctx.winH (c : Ctx) (i k : Nat) (bs : List Byte) : Ctx :=
  let r := c.regH i
  let old := if r.tag.isFull then bytesOf 1024 r.val.toNat else List.replicate 1024 0
  (c.putHi i ⟨.ofNat 8192 (natOf (overlay old k bs)), .full⟩).cancel (64 + i)

def Ctx.winB (c : Ctx) (i k : Nat) (bs : List Byte) : Ctx :=
  let bs := bs.map fun b => if b = 0x80 then 0x81 else b
  c.putBi i (.ofNat 65536 (natOf (overlay (bytesOf 8192 (c.b.toList.getD i 0).toNat) k bs)))

/-- A window write to a tile register (R178). -/
def Ctx.winT (c : Ctx) (i k : Nat) (bs : List Byte) : Ctx :=
  let r := c.regT i
  c.putTi i { r with
    data := .ofNat 32768 (natOf (overlay r.bytes k bs)), s32 := r.valid && r.s32, valid := true, dirty := true }

/-- A write to a register block (R316, R318). -/
def Ctx.winWrite (c : Ctx) (o : Nat) (bs : List Byte) : Ctx :=
  let go (size base : Nat) (f : Ctx → Nat → Nat → List Byte → Ctx) : Ctx :=
    (cut size (bs.length + 1) (o - base) bs).foldl (fun c (i, k, b) => f c i k b) c
  if o < 0x100 then go 8 0 fun c i _ b => c.winX i b
  else if o < 0x180 then c
  else if o < 0x1800 then go 64 0x1000 Ctx.winV
  else if o < 0x6000 then go 1024 0x4000 Ctx.winH
  else if o < 0xC000 then go 8192 0x8000 Ctx.winB
  else go 4096 0x10000 Ctx.winT

/-- The tile registers that a range of a register block touches (R178). -/
def tileRegsOf (o n : Nat) : List Nat := if o < 0x10000 then [] else unitsOf 4096 (o - 0x10000) n

/-! ## The window map (R315) -/

/-- The row of R315, or range of R316, that an offset falls in; none where no access is allowed. The row's number
tells rows apart, and the flags say whether it is read and written. -/
def winRow (o : Nat) : Option (Nat × Bool × Bool) :=
  if o < 0x200000 then some (0, true, true)
  else if o < 0x400000 then none
  else if o < 0x440000 then some (1, false, true)
  else if o < 0x448000 then some (2, false, true)
  else if o < 0x480000 then none
  else if o < 0x4C0000 then some (3, true, true)
  else if o < 0x4C0020 then some (4, true, true)
  else if o < 0x800000 then none
  else if o < 0x880000 then
    let c := (o - 0x800000) / 0x20000
    let r := o % 0x20000
    if r < 0x100 then some (16 + 8 * c, true, true)
    else if r < 0x180 then some (17 + 8 * c, true, true)
    else if r < 0x1000 then none
    else if r < 0x1800 then some (18 + 8 * c, true, true)
    else if r < 0x4000 then none
    else if r < 0x6000 then some (19 + 8 * c, true, true)
    else if r < 0x8000 then none
    else if r < 0xC000 then some (20 + 8 * c, true, true)
    else if r < 0x10000 then none
    else if r < 0x18000 then some (21 + 8 * c, true, true)
    else none
  else if o < 0xC00000 then none
  else if o < 0xC01000 then some (5, false, true)
  else if o < 0xC10000 then none
  else if o < 0xC10400 then some (6, false, true)
  else none

/-- Operation kinds that R315 to R320 tell apart. -/
inductive WKind | load | store (masked : Bool) | amo
  deriving DecidableEq, Repr

/-- The checks of R300 and R315 to R320 on an access of `n` bytes at offset `o`: true where it is allowed. -/
def winAllowed (k : WKind) (o n : Nat) : Bool :=
  match winRow o, winRow (o + n - 1) with
  | some (a, rd, wr), some (b, _, _) =>
    a == b &&
    (match k with
     | .load => rd
     | .store _ => wr
     | .amo => a == 0) &&
    -- whole words of x registers (R316)
    (if 16 ≤ a ∧ a % 8 = 0 then o % 8 == 0 && n % 8 == 0 else true) &&
    -- stream-port slots of q0 to q3 (R319): slot c * 16 + q of 64 bytes
    (if a = 5 then (n == 8 || n == 64) && o % n == 0 && (o - 0xC00000) / 0x40 % 16 < 4 else true) &&
    -- the insert window (R320)
    (if a = 6 then o == 0xC10000 && (n == 64 || n == 1024) else true)
  | _, _ => false

/-- What a window offset reads (R315); a tile in flight is the caller's to wait for. -/
def winRead (s : State) (vt o n : Nat) : List Byte :=
  match s.tile? vt with
  | none => List.replicate n 0
  | some t =>
    if o < 0x200000 then t.sp.read o n
    else if o < 0x480000 then List.replicate n 0
    else if o < 0x4C0000 then readRegs 1024 (fun e => (t.rmem.toList.getD e {}).bytes) (o - 0x480000) n
    else if o < 0x800000 then
      slice (bytesOf 32 ((List.range 256).map fun e => (t.rmem.toList.getD e {}).valid.toNat * 2 ^ e).sum) (o - 0x4C0000) n
    else
      match s.ctx? vt ((o - 0x800000) / 0x20000) with
      | some c => c.winRead (o % 0x20000) n
      | none => List.replicate n 0

/-- What reaches a lashed tile in an interval is kept for a repeat of it (R385, R388); 15 is the number of no sender. -/
def Tile.keep (t : Tile) (b : Body) : Tile :=
  if t.lash.role = 0 then t
  else { t with lash := { t.lash with inb := t.lash.inb ++ [{ src := t.vt, c := 15, dst := t.vt, body := b, code := b.codes }] } }
def Tile.keepMsg (t : Tile) (m : Msg) : Tile :=
  if t.lash.role = 0 then t else { t with lash := { t.lash with inb := t.lash.inb ++ [m] } }

/-- Perform a window write of a memory or register (R318). -/
def winWrite (s : State) (vt o : Nat) (bs : List Byte) : State :=
  let s := s.mapTile vt fun t => t.keep (.store o bs)
  let belay := s.g.belay != 0
  if o < 0x200000 then spWrite s vt o bs
  else if o < 0x440000 then
    (cut 0x800 (bs.length + 1) (o - 0x400000) bs).foldl (fun s (k, off, b) => s.mapTile vt fun t =>
      ((t.noteSlot belay k).mapSlot k (·.winWrite false off b)).heal srcWb (o - 0x400000) bs.length) s
  else if o < 0x480000 then
    (cut 0x100 (bs.length + 1) (o - 0x440000) bs).foldl (fun s (k, off, b) => s.mapTile vt fun t =>
      ((t.noteSlot belay k).mapSlot k (·.winWrite true off b)).heal srcWb (o - 0x400000) bs.length) s
  else if o < 0x4C0000 then
    (cut 0x400 (bs.length + 1) (o - 0x480000) bs).foldl (fun s (e, off, b) => s.mapTile vt fun t =>
      (t.mapRecall belay e fun r => ⟨true, .ofNat 8192 (natOf (overlay r.bytes off b))⟩).heal srcRecall (o - 0x480000) bs.length) s
  else if o < 0x800000 then s
  else (s.mapTile vt fun t => t.heal srcReg (o - 0x800000) bs.length).mapCtx vt ((o - 0x800000) / 0x20000) fun c =>
    c.winWrite (o % 0x20000) bs

/-- A window access to tile registers waits until none of them is in flight (R178). -/
def winBusy (s : State) (vt o n : Nat) : Bool :=
  if o < 0x800000 ∨ 0x880000 ≤ o then false
  else
    match s.ctx? vt ((o - 0x800000) / 0x20000) with
    | some c => (tileRegsOf (o % 0x20000) n).any fun i => (c.regT i).inflight != 0
    | none => false

/-- The storage of an offset, as SRC codes name it, and its granules. -/
def winSrc (o : Nat) : Nat × Nat :=
  if o < 0x200000 then (srcSp, o)
  else if o < 0x480000 then (srcWb, o - 0x400000)
  else if o < 0x800000 then (srcRecall, o - 0x480000)
  else (srcReg, o - 0x800000)

def winBad (s : State) (vt o n : Nat) : Bool :=
  match s.tile? vt with
  | some t => t.badRange (winSrc o).1 (winSrc o).2 n
  | none => false

end Sys2Proof.Machine
end

