-- ==== Sys2Proof/Machine/Operands.lean ====
section
/-! DEFINITION. Examination of sources and destinations: the full/empty rule (R18, R20), the validity rule (R21), port
registers (R254 to R256), in the order of R114 and R363. -/

namespace Sys2Proof.Machine

/-- How far the examination of a word's sources has come: the entries examined in each inbound queue, whether every
scalar source so far is valid, and the register-block offset of the first register with an uncorrectable error, or of the port
register whose entry's carry code has failed. -/
structure Cur where
  pops  : Vector Nat 4 := Vector.replicate 4 0
  valid : Bool := true
  bad   : Option Nat := none
  soft  : List Nat := []               -- granules of the register file with a correctable error that have been read

/-- The registers of the focused context at `n` bytes of its register block hold an uncorrectable error (R381). -/
def regBad (s : State) (off n : Nat) : Bool := s.t.badRange srcReg (s.c.id * 0x20000 + off) n

/-- Granules of the same registers with a correctable error. -/
def regSoft (s : State) (off n : Nat) : List Nat :=
  if s.t.soft = [] then [] else (unitsOf 8 (s.c.id * 0x20000 + off) n).filter fun u => s.t.soft.contains (srcReg, u)

def Cur.see (s : State) (off n : Nat) (k : Cur) : Cur :=
  let k := if regBad s off n then { k with bad := some (k.bad.getD off) } else k
  match regSoft s off n with
  | [] => k
  | l => { k with soft := k.soft ++ l }

/-- Positions of R361: the field that a source stands in. -/
def fldA : Nat := 0
def fldB : Nat := 1
def fldC : Nat := 2
def fldD : Nat := 3

def Cur.take (k : Cur) (dir : Fin 4) : Cur := { k with pops := k.pops.set dir (k.pops[dir] + 1) }

/-- An entry whose carry code has failed is examined (R384). -/
def Cur.spoil (k : Cur) (off : Nat) : Cur := { k with bad := some (k.bad.getD off) }

/-- Register code of R361: class 0 x, 1 v, 2 h. -/
def regCode (cls idx : Nat) : W64 := .ofNat 64 (cls * 32 + idx)

/-- The next entry of a direction queue for a port register read (R254): edge, emptiness, then `k`. -/
def examPort (s : State) (dir : Fin 4) (code : W64) (field : Nat) (w : Bool) (cur : Cur) (k : Entry → Res) : Res :=
  match neighbour s.g s.t.vt s.c.portcfg dir with
  | none => .trap s .portEdge (.ofNat 64 dir.val) 0
  | some _ =>
    match s.c.inq[dir][cur.pops[dir]]? with
    | none => if w then .trap s .empty code (.ofNat 64 field) else .wait s (.portEmpty dir cur.pops[dir])
    | some e => k e

/-- Examine a scalar source (R20, R254) and go on with its value and V. -/
def examX (s : State) (r : Fin 32) (field : Nat) (w : Bool) (cur : Cur) (k : W64 → Bool → Cur → Res) : Res :=
  if r.val = 0 then k 0 true cur
  else if r.val < 28 then
    let x := s.c.x[r]
    match x.tag with
    | .full => k x.val x.v (cur.see s (8 * r.val) 8)
    | _ => if w then .trap s .empty (regCode 0 r.val) (.ofNat 64 field) else .wait s (.xreg r)
  else
    examPort s (dirOf r) (regCode 0 r.val) field w cur fun
      | .word x v => k x v (cur.take (dirOf r))
      | .bad false => k 0 true ((cur.take (dirOf r)).spoil (8 * r.val))
      | .vec _ _ => .trap s .portKind (.ofNat 64 (dirOf r).val) 1
      | .bad true => .trap s .portKind (.ofNat 64 (dirOf r).val) 1

/-- A scalar source of an ordinary word: an invalid one nullifies it (R21). -/
def srcX (s : State) (r : Fin 32) (field : Nat) (w : Bool) (cur : Cur) (k : W64 → Cur → Res) : Res :=
  examX s r field w cur fun x v cur => k x { cur with valid := cur.valid && v }

/-- A vector source, whose V bits never nullify the word (R23, R149, R152). -/
def srcV (s : State) (r : Fin 32) (field : Nat) (cur : Cur) (k : W512 → BitVec 8 → Cur → Res) : Res :=
  if r.val < 28 then
    let x := s.c.v[r]
    match x.tag with
    | .full => k x.val x.v (cur.see s (0x1000 + 64 * r.val) 64)
    | _ => .wait s (.vreg r)
  else
    examPort s (dirOf r) (regCode 1 r.val) field false cur fun
      | .vec x v => k x v (cur.take (dirOf r))
      | .bad true => k 0 0xFF ((cur.take (dirOf r)).spoil (0x1000 + 64 * r.val))
      | .word _ _ => .trap s .portKind (.ofNat 64 (dirOf r).val) 0
      | .bad false => .trap s .portKind (.ofNat 64 (dirOf r).val) 0

/-- A hypervector source (R203, R207). -/
def srcH (s : State) (r : Fin 8) (field : Nat) (w : Bool) (cur : Cur) (k : W8192 → Cur → Res) : Res :=
  match s.c.h[r].tag with
  | .full => k s.c.h[r].val (cur.see s (0x4000 + 1024 * r.val) 1024)
  | _ => if w then .trap s .empty (regCode 2 r.val) (.ofNat 64 field) else .wait s (.hreg r)

/-- Entries examined leave their queues when the word completes (R254). -/
def popAll (s : State) (cur : Cur) : State :=
  { s with c := { s.c with inq := Vector.ofFn fun (i : Fin 4) => (s.c.inq[i]).drop cur.pops[i] } }

def Res.pop (cur : Cur) : Res → Res
  | .done s => .done (popAll s cur)
  | .leave s => .leave (popAll s cur)
  | .park s b => .park (popAll s cur) b
  | .jump s t => .jump (popAll s cur) t
  | r => r

def Res.onDone (f : State → State) : Res → Res
  | .done s => .done (f s)
  | .leave s => .leave (f s)
  | .park s b => .park (f s) b
  | .jump s t => .jump (f s) t
  | r => r

/-- The correctable errors that the word has read are repaired (R381). -/
def Res.repair (vt : Nat) (l : List Nat) (r : Res) : Res :=
  match l with
  | [] => r
  | l => r.onDone fun s => repairMarks s vt srcReg l

/-- The offset is that of a port register. -/
def portOff (off : Nat) : Bool := (8 * 28 ≤ off && off < 8 * 32) || (0x1000 + 64 * 28 ≤ off && off < 0x1000 + 64 * 32)

/-- UNCORR of the registers read, last among the causes of a word (R363). DESIGN CHOICE (log 42): where the word has also found
an uncorrectable error in a memory of the tile, that one is reported. -/
def Res.uncorr (s : State) (off : Nat) : Res → Res
  | .null => .null
  | .trap s' z a b => .trap s' z a b
  | .wait s' b => .wait s' b
  | _ => .trap s .uncorr (.ofNat 64 off) (.ofNat 64 (if portOff off then srcCarry else srcReg))

/-- The rest of a word that no invalid source nullifies; its sources are popped if it completes. -/
def accept (s : State) (cur : Cur) (r : Res) : Res :=
  match cur.bad with
  | none => (r.pop cur).repair s.t.vt cur.soft
  | some off => (r.pop cur).uncorr s off

/-- After every source is full: the validity rule (R21), then the rest of the word. -/
def commit (s : State) (cur : Cur) (r : Res) : Res := if cur.valid then accept s cur r else .null

/-- The destination wait of R18, or the edge and credit of a port write (R255, R256). -/
def dstX (s : State) (d : Fin 32) (e : Entry) (k : Res) : Res :=
  if d.val = 0 then k
  else if d.val < 28 then
    match s.c.x[d].tag with
    | .awaiting => .wait s (.xreg d)
    | _ => k
  else
    match neighbour s.g s.t.vt s.c.portcfg (dirOf d) with
    | none => .trap s .portEdge (.ofNat 64 (dirOf d).val) 1
    | some vt => if s.credit vt s.c.id (opposite (dirOf d)) e then k else .wait s (.credit (dirOf d))

def anyWord : Entry := .word 0 true
def anyVec : Entry := .vec 0 0

def dstV (s : State) (d : Fin 32) (k : Res) : Res :=
  if d.val < 28 then
    match s.c.v[d].tag with
    | .awaiting => .wait s (.vreg d)
    | _ => k
  else dstX s d anyVec k

/-- The destination wait for a second send of the word, where `s'` has made the first (R236, R256): nothing has been sent while
the word waits. -/
def dstNext (s s' : State) (d : Fin 32) (e : Entry) (k : Res) : Res :=
  match dstX s' d e .null with
  | .null => k
  | .wait _ b => .wait s b
  | .trap _ z x y => .trap s z x y
  | _ => k

def dstH (s : State) (d : Fin 8) (k : Res) : Res :=
  match s.c.h[d].tag with
  | .awaiting => .wait s (.hreg d)
  | _ => k

/-- A word that writes one scalar result with a V (R18, R115). -/
def putResult (s : State) (d : Fin 32) (v : W64) (valid : Bool) : Res :=
  dstX s d anyWord (.done (writeX s d v valid))

/-- A tile register in flight is waited for (R177). -/
def waitT (s : State) (t : Fin 8) (k : TReg → Res) : Res :=
  if s.c.t[t].inflight ≠ 0 then .wait s (.inflight t) else k s.c.t[t]

/-- A word that reads a tile register or bundle accumulator with an uncorrectable error (R363). -/
def onCoreReg (s : State) (off n : Nat) (r : Res) : Res :=
  if regBad s off n then r.uncorr s off else r.repair s.t.vt (regSoft s off n)

/-- The word that is being executed, of a C-class instruction (R45, R361): L is 0 in a pair. -/
def wordOf (s : State) (i : Instr) : W64 := .ofNat 64 ((encode i).getD 0 + (if s.c.inPair then 0 else 2 ^ 31))

/-- A privileged instruction in U mode (R26, R361). -/
def privileged (s : State) (word : W64) (k : Res) : Res :=
  if s.c.status.mode then k else .trap s .priv word 0

end Sys2Proof.Machine
end

