-- ==== Sys2Proof/Machine/Access.lean ====
section
/-! DEFINITION. Data accesses of a context: the checks of R312, committed accesses and their performance (R42, R280,
R364, R366), stores (R133, R284, R387, R391). -/

namespace Sys2Proof.Machine

/-! ## The address map (R311) -/

inductive Region | glob | own | striped | tile | bad
  deriving DecidableEq, Repr

def regionOf (a : Nat) : Region :=
  if a < 2 ^ 56 then .glob
  else if 0xFF00000000000000 ≤ a ∧ a < 0xFF00000000200000 then .own
  else if 0xFF10000000000000 ≤ a ∧ a < 0xFF10000002000000 then .striped
  else if 0xFF20000000000000 ≤ a ∧ a < 0xFF21000000000000 then .tile
  else .bad

/-- The address lies in the own scratchpad window (R41). -/
def isOwn (a : W64) : Bool := regionOf a.toNat == .own

/-- Byte of a striped-window offset for an issuer in cluster (row, col): tile and offset (R313). -/
def stripe (cl : Nat × Nat) (o : Nat) : Nat × Nat :=
  let st := o / 128
  let idx := st % 16
  (vtid (4 * cl.1 + idx / 4) (4 * cl.2 + idx % 4), st / 16 * 128 + o % 128)

/-- A range cut at multiples of `size`: start and length of each part. -/
def cutRange (size : Nat) : Nat → Nat → Nat → List (Nat × Nat)
  | 0, _, _ => []
  | _, _, 0 => []
  | fuel + 1, a, n =>
    let k := min n (size - a % size)
    (a, k) :: cutRange size fuel (a + k) (n - k)

/-! ## check_address (R312) -/

/-- What the checks of an access come to. -/
inductive Chk
  | ok (s : State) (ps : List Piece)
  | trap (s : State) (z : Cause) (tval tval2 : W64)
  | wait (s : State) (b : Block)

def Ctx.space (s : State) (c : Ctx) : Space := ⟨s.g.vf, c.ptroot, c.asid, c.status.mode⟩

/-- The fault of a translation by access kind (R331). -/
def AKind.cause : AKind → Cause
  | .fetch => .fetchFault | .load => .loadFault | .store => .storeFault | .amo => .storeFault | .cas => .storeFault
  | .dirty => .storeFault

/-- `tval2` of a denial of a walk that stopped at `gpa` (R332). -/
def denialTval2 (gpa : Nat) (s1walk : Bool) : W64 := if s1walk then .ofNat 64 (gpa + 1) else .ofNat 64 (gpa / 8 * 8 + 2)

/-- The outcome of a translation for the focused context: a stage-2 fault places a page request at which the context
blocks (R332). -/
def chkTrans (k : AKind) (va : Nat) : Trans → Chk
  | .ok s pa key => .ok s [⟨.glob pa, 1, key⟩]
  | .fault s => .trap s k.cause (.ofNat 64 va) 0
  | .poison s => .trap s .poison (.ofNat 64 va) 0
  | .access s => .trap s .access (.ofNat 64 va) 0
  | .miss s gpa w =>
    let (m, b) := placeReq s.m s.g.vf
      { tag := 0, kind := k.reqCode, s1walk := w, stage1 := false, va := .ofNat 64 va, gpa := gpa
        vt := s.t.vt, role := s.c.id, asid := s.c.asid }
    let d : Denial := ⟨.ofNat 64 va, gpa, w, k.cause, s.c.pc, s.c.status.mode, false⟩
    .wait { s with m := m, c := { s.c with denial := some d } } b

/-- Translate each 64 KiB part of a global range. -/
def chkGlob (k : AKind) (b : Tlb) : List (Nat × Nat) → State → List Piece → Chk
  | [], s, ps => .ok s ps
  | (a, n) :: r, s, ps =>
    match chkTrans k a (translate s s.t.vt b (s.c.space s) k a) with
    | .ok s' [⟨.glob pa, _, key⟩] =>
      if s'.m.paExists pa then chkGlob k b r s' (ps ++ [⟨.glob pa, n, key⟩]) else .trap s' .access (.ofNat 64 a) 0
    | .ok s' _ => .ok s' ps
    | .trap s' z t1 t2 => .trap s' z t1 t2
    | .wait s' bl => .wait s' bl

/-- A write at `ea` commits to the pieces that its checks have found: its pages become dirty, by a walk where a cached entry has
D = 0, whose outcome, pieces or fault, is the write's (R328, R330, R332). -/
def chkDirty (s : State) (ea : W64) (ps : List Piece) : Chk :=
  let n := (ps.map (·.len)).sum
  if 2 ^ 56 ≤ ea.toNat then .ok s ps else chkGlob .dirty .d (cutRange 65536 (n + 1) ea.toNat n) s []

/-- Parts of a striped range (R313). -/
def stripes (cl : Nat × Nat) (o n : Nat) : List Piece :=
  (cutRange 128 (n + 1) o n).map fun (a, k) => ⟨.tile (stripe cl a).1 (stripe cl a).2, k, 0⟩

/-- The address checks of R312 after alignment, for `n` bytes at `ea`. -/
def checkRange (s : State) (ea : W64) (n : Nat) (k : AKind) (w : WKind) : Chk :=
  let a := ea.toNat
  let r := regionOf a
  if r = .bad ∨ regionOf (a + n - 1) ≠ r then .trap s .access ea 0
  else
    match r with
    | .glob => chkGlob k .d (cutRange 65536 (n + 1) a n) s []
    | .own => .ok s [⟨.tile s.t.vt (a - 0xFF00000000000000), n, 0⟩]
    | .striped =>
      let ps := stripes (clusterOf s.t.vt) (a - 0xFF10000000000000) n
      if ps.all fun p => match p.place with | .tile vt _ => s.g.has vt | .glob _ => true then .ok s ps
      else .trap s .access ea 3
    | .tile =>
      let vt := bits a 24 24
      let o := bits a 0 24
      if !s.g.has vt then .trap s .access ea 1
      else if !winAllowed w o n then .trap s .access ea 0
      else .ok s [⟨.tile vt o, n, 0⟩]
    | .bad => .trap s .access ea 0

/-- check_address: alignment, then the range (R312). -/
def checkAddr (s : State) (ea : W64) (n align : Nat) (k : AKind) (w : WKind) : Chk :=
  if ea.toNat % align ≠ 0 then .trap s .misalign ea 0 else checkRange s ea n k w

def Chk.bind (c : Chk) (k : State → List Piece → Res) : Res :=
  match c with
  | .ok s ps => k s ps
  | .trap s z a b => .trap s z a b
  | .wait s b => .wait s b

/-! ## Own accesses and messages under way -/

def Piece.overlaps (p q : Piece) : Bool :=
  match p.place, q.place with
  | .glob a, .glob b => a < b + q.len && b < a + p.len
  | .tile v a, .tile u b => v == u && a < b + q.len && b < a + p.len
  | _, _ => false

def anyOverlap (ps qs : List Piece) : Bool := ps.any fun p => qs.any p.overlaps

/-- The parts of a window store: offset and bytes. -/
def Body.writes : Body → List (Nat × List Byte)
  | .store o bs => [(o, bs)]
  | .parts l => l
  | _ => []

/-- The message is a window store that touches one of the pieces. -/
def Msg.touches (m : Msg) (ps : List Piece) : Bool :=
  m.body.writes.any fun (o, bs) => ps.any (Piece.overlaps ⟨.tile m.dst o, bs.length, 0⟩)

def Out.msg? : Out → Option Msg
  | .msg m => some m
  | _ => none

/-- Messages of a context that have not arrived: in the gated buffer, the mesh, or a parked queue. -/
def State.msgsOf (s : State) (vt c : Nat) : List Msg :=
  ((match s.tile? vt with | some t => t.lash.gated.filterMap Out.msg? | none => []) ++ s.g.mesh
    ++ s.g.gangs.flatMap (·.parked)).filter fun m => m.src == vt && m.c == c

def Out.rec? : Out → Option NiRec
  | .record r => some r
  | _ => none

/-- Messages of a context that are not delivered: a parked port entry is, a parked record or window store is not (R240). -/
def State.undelivered (s : State) (vt c : Nat) : List Msg :=
  (((match s.tile? vt with | some t => t.lash.gated.filterMap Out.msg? | none => []) ++ s.g.mesh
    ++ (s.g.gangs.flatMap (·.parked)).filter fun m => match m.body with | .port _ _ _ => false | _ => true)).filter
      fun m => m.body != .loadReq && m.src == vt && m.c == c

/-- Window stores of a context that have not been performed at their memory (R280). -/
def State.storesOf (s : State) (vt c : Nat) : List Msg :=
  (s.msgsOf vt c).filter fun m => m.body.writes != []

/-- An own window store under way overlaps the range: an access there waits for it (R43, R285; log 7). One in the gated buffer
is read there (R387). -/
def ownPending (s : State) (ps : List Piece) : Bool :=
  (s.msgsOf s.t.vt s.c.id).any fun m => m.touches ps && !s.t.lash.gated.contains (.msg m)

/-- An own window store that was sent before the access, and is not in the gated buffer, has still to land on its bytes (R285,
R389). -/
def storesAhead (s : State) (vt c : Nat) (a : Access) : Bool :=
  match s.tile? vt with
  | some t => (s.msgsOf vt c).any fun m => m.seq < a.seq && m.touches a.pieces && !t.lash.gated.contains (.msg m)
  | none => false

def Access.performed (a : Access) : Bool := a.data.isSome || a.fault.isSome

def Post.piece (p : Post) : Piece := ⟨p.place, p.bytes.length, p.key⟩

/-! ## Agents that access what an ordering covers (R289, log 7) -/

/-- Address ranges that a command of an engine names in its beats: those of COPY, COPY2D, MCAST_ST, RED_ST and SIGNAL. -/
def Cmd.ranges (c : Cmd) : List (Nat × Nat) :=
  let lo (i : Nat) : Nat := (c.beats.getD i (0, 0)).1.toNat
  let hi (i : Nat) : Nat := (c.beats.getD i (0, 0)).2.toNat
  let len := bits (lo 0) 0 32
  match bits (lo 0) 60 4 with
  | 1 => [(lo 1, len), (hi 1, len)]
  | 2 => (List.range (lo 3)).flatMap fun i => [((lo 1 + i * lo 2) % 2 ^ 64, len), ((hi 1 + i * hi 2) % 2 ^ 64, len)]
  | 8 => [(lo 1, len)]
  | 9 => [(lo 1, 8 * len), (hi 1, 8 * len)]
  | 10 => [(hi 1, 8)]
  | _ => []

/-- The pieces of a range as an engine of tile `vt` reaches them. -/
def rangePieces (s : State) (vt : Nat) (sp : Space) (a n : Nat) : List Piece :=
  match regionOf a with
  | .glob => (cutRange 65536 (n + 1) a n).filterMap fun (x, k) => match translate s vt .e sp .load x with
    | .ok _ pa key => some ⟨.glob pa, k, key⟩
    | _ => none
  | .own => [⟨.tile vt (a - 0xFF00000000000000), n, 0⟩]
  | .striped => stripes (clusterOf vt) (a - 0xFF10000000000000) n
  | .tile => [⟨.tile (bits a 24 24) (bits a 0 24), n, 0⟩]
  | .bad => []

/-- The context has an access to one of the pieces under way. -/
def Ctx.accessing (c : Ctx) (ps : List Piece) : Bool :=
  c.accs.any (fun a => !a.performed && anyOverlap a.pieces ps) || c.posted.any fun p => ps.any p.piece.overlaps

/-- The host accesses one of the pieces later in the schedule. -/
def State.hostAccessing (s : State) (ps : List Piece) : Bool :=
  s.sched.any fun x => match x with
    | .event (.cxlMemAccess v gpa n data) =>
      let n := match data with | some bs => bs.length | none => n
      (cutRange 65536 (n + 1) gpa n).any fun (a, k) => match cxlPlace s.m v a with
        | some (pa, _) => ps.any (Piece.overlaps ⟨.glob pa, k, 0⟩)
        | none => false
    | _ => false

/-- Agent `x` accesses one of the pieces: it has an access to them under way, or for the host one is to come. An agent of another
module is not in this state and its accesses are the schedule's to choose (log 7). -/
def State.accessing (s : State) (x : Agent) (ps : List Piece) : Bool :=
  match x with
  | .ctx vt c => (match s.ctx? vt c with | some k => k.accessing ps | none => false) || (s.msgsOf vt c).any (·.touches ps)
  | .helper vt st =>
    (match s.tile? vt with | some t => (if st then t.str else t.ldr).posted.any fun p => ps.any p.piece.overlaps | none => false)
      || (s.msgsOf vt (if st then 5 else 4)).any (·.touches ps)
  | .engine vt q =>
    (match s.tile? vt with
      | some t => (match (t.eq.toList.getD q {}).cmds with
        | c :: _ => c.ranges.any fun (a, n) => anyOverlap (rangePieces s vt ⟨s.g.vf, c.ptroot, c.asid, c.smode⟩ a n) ps
        | [] => false)
      | none => false) || (s.msgsOf vt (8 + q)).any (·.touches ps)
  | .far k vt c =>
    let ps := ps.filter fun p => match p.place with | .glob _ => true | .tile _ _ => false
    match s.bg[k]? with
    | some b => b.tiles.any fun t => t.vt == vt && (if c < 4 then t.others.any fun x => x.id == c && x.accessing ps
        else if c < 6 then (if c = 5 then t.str else t.ldr).posted.any fun p => ps.any p.piece.overlaps
        else match (t.eq.toList.getD (c - 8) {}).cmds with
          | d :: _ => d.ranges.any fun (a, n) => anyOverlap (rangePieces s vt ⟨b.g.vf, d.ptroot, d.asid, d.smode⟩ a n) ps
          | [] => false)
    | none => false
  | .firmware => false
  | .domain => true
  | .host => s.hostAccessing ps

/-- An ordering towards the named agent is dropped for these pieces. -/
def State.drops (s : State) (away : Option Agent) (ps : List Piece) : Bool := away.any fun x => s.accessing x ps

/-- Access `a` is not performed yet and an access to `ps` comes after it: it is an acquire whose ordering is not dropped (R285,
R289), or a load one of whose registers a window write has filled (R286). -/
def State.fences (s : State) (ps : List Piece) (a : Access) : Bool :=
  a.data.isNone && a.fault.isNone && (a.cancelled != [] || (a.acq && !s.drops a.away (a.pieces ++ ps)))

/-- The part `[a, a + |new|)` of other bytes laid over those from `base` on. -/
def layOver (base : Nat) (bs : List Byte) (a : Nat) (new : List Byte) : List Byte :=
  if a < base + bs.length ∧ base < a + new.length then
    if base ≤ a then overlay bs (a - base) new else overlay bs 0 (new.drop (base - a))
  else bs

/-! ## Performing accesses -/

def AmoOp.apply (op : AmoOp) (w m b : Nat) : Nat :=
  match op with
  | .swap => b
  | .add => (m + b) % 2 ^ w
  | .and => m &&& b
  | .or => m ||| b
  | .xor => m ^^^ b
  | .min => if sgn w m ≤ sgn w b then m else b
  | .max => if sgn w m ≤ sgn w b then b else m
  | .minn => if m ≤ b then m else b
  | .maxn => if m ≤ b then b else m
  | .fadd => (Machine.fadd f32 0 m b).1

/-- Held stores and gated stores of tile `t` laid over global bytes (R43, R387, R391). -/
def overHeld (t : Tile) (pa : Nat) (bs : List Byte) : List Byte :=
  let bs := t.belay.held.foldl (fun b x => layOver pa b x.pa x.bytes) bs
  t.lash.gated.foldl (fun b o => match o with | .store a _ x _ => layOver pa b a x | _ => b) bs

/-- Gated window stores of tile `t` laid over bytes of a window (R387). -/
def overGated (t : Tile) (vt off : Nat) (bs : List Byte) : List Byte :=
  t.lash.gated.foldl (fun b o => match o with
    | .msg m => if m.dst = vt then m.body.writes.foldl (fun b w => layOver off b w.1 w.2) b else b
    | _ => b) bs

/-- Bytes of a piece as an agent of tile `t` reads them. -/
def readPiece (s : State) (t : Tile) (p : Piece) : List Byte :=
  match p.place with
  | .glob pa =>
    let bs := s.m.readGlob p.key pa p.len
    if t.belay.held = [] ∧ t.lash.gated = [] then bs else overHeld t pa bs
  | .tile vt o => if t.lash.gated = [] then winRead s vt o p.len else overGated t vt o (winRead s vt o p.len)

def readPieces (s : State) (t : Tile) (ps : List Piece) : List Byte := ps.flatMap (readPiece s t)

/-- Where the data of a piece is uncorrectable or poisoned: the cause and its SRC code (R362, R364). -/
def pieceFault (s : State) (p : Piece) : Option (Cause × Nat) :=
  match p.place with
  | .glob pa => if s.m.badRange pa p.len then some (if paHost pa then .poison else .uncorr, srcRim)
    else if s.m.codeBad pa p.len then some (.uncorr, srcCarry) else none
  | .tile vt o => if winBad s vt o p.len then some (.uncorr, (winSrc o).1) else none

/-- The piece lies in a tile of an absent gang, so the access is parked (R314). -/
def pieceAbsent (s : State) (p : Piece) : Bool :=
  match p.place with
  | .glob _ => false
  | .tile vt o => s.g.absent vt || winBusy s vt o p.len

/-- The access waits for the gang of a tile: the gang is absent, or its halt has begun and the access is a message (R314,
R369). -/
def Access.absent (s : State) (a : Access) : Bool :=
  a.pieces.any fun p => pieceAbsent s p || (!isOwn a.va && (match p.place with | .tile vt _ => s.g.parks vt | .glob _ => false))

/-- An access to another tile that is lashed, within an interval of it, ends that interval first (R387). -/
def lashInbound (s : State) (vt : Nat) (ps : List Piece) : Option State :=
  match ps.findSome? fun p => match p.place with
      | .tile u _ => (match s.tile? u with
        | some t => if u != vt && t.lash.role != 0 && (t.lash.count != 0 || t.lash.due) then some (u, t.lash.due) else none
        | none => none)
      | .glob _ => none with
  | some (u, due) =>
    some (if due then s else s.mapTile u fun t => { t with lash := { t.lash with due := true } })
  | none => none

/-- The superstep of the instance can no longer be repeated (R391): of the gang, of the grid, or of every grid of the launch group. -/
def unrepeatable (s : State) (vt : Nat) : State :=
  let mark (p : Nat → Bool) (s : State) : State :=
    s.mapTiles fun t => if p t.vt then { t with belay := { t.belay with unrep := true } } else t
  if s.g.belay = 6 then forGroup (mark fun _ => true) s else mark (belayMember s.g vt) s

/-- The tile performs the stores it holds, in commit order (R284, R390, R391). -/
def performHeld (s : State) (vt : Nat) : State :=
  match s.tile? vt with
  | none => s
  | some t =>
    if t.belay.held = [] then s
    else
      { s.mapTile vt fun t => { t with belay := { t.belay with held := [] } } with
        m := t.belay.held.foldl (fun m x => m.writeBy vt x.key x.pa x.bytes) s.m }

/-- Tile `who` writes bytes to the pieces of an atomic access. -/
def writePieces (who : Nat) (s : State) : List Piece → List Byte → State
  | [], _ => s
  | p :: r, bs =>
    let b := bs.take p.len
    let s := match p.place with
      | .glob pa => { s with m := s.m.writeBy who p.key pa b }
      | .tile vt o => winWrite s vt o b
    writePieces who s r (bs.drop p.len)

/-- An AMO or CAS to global memory under belay performs the held stores first and ends repeatability (R391). -/
def belayAtomic (s : State) (vt : Nat) (ps : List Piece) : State :=
  if s.g.belay ≠ 0 ∧ ps.any fun p => match p.place with | .glob _ => true | _ => false then
    unrepeatable (performHeld s vt) vt
  else s

/-- Register codes of the destinations of an access; `x0` is none. -/
def AccKind.dests (k : AccKind) : List Nat :=
  (match k with
    | .load d _ => [d.val]
    | .loadQ d => [d.val, d.val + 1]
    | .vload d => [32 + d.val]
    | .vbcast d => [32 + d.val]
    | .hload d => [64 + d.val]
    | .amo d _ _ _ => [d.val]
    | .casD d _ _ => [d.val]
    | .casQ d _ _ => [d.val, d.val + 1]
    | .ldk _ => []
    | .wbld _ _ => []).filter (· != 0)

/-- Destinations of an access that no window write has filled meanwhile (R19). -/
def Access.live (a : Access) : List Nat := a.kind.dests.filter fun r => !a.cancelled.contains r

/-- DREG of R362, as a fault lands: the lowest destination that it leaves cleared; 0 when there is none. -/
def Access.dreg (a : Access) : Nat := a.live.headD 0

/-- A fault of a committed access reaches the focused context: it stays pending until the next boundary, or, when the
context has ended, is logged and counted, or starts the rollback of a repeatable superstep (R364). -/
def raiseDeferred (s : State) (f : DFault) : State :=
  if s.c.run ≠ .ended then { s with c := { s.c with dfaults := s.c.dfaults ++ [f] } }
  else if f.cause = .uncorr ∧ s.repeatable then askRollback s
  else { s.tally s.t.vt { notTaken := 1 } with
                m := s.m.logErr errEnded (.ofNat 64 (s.t.vt + 2 ^ 24 * s.c.id + 2 ^ 32 * (f.tval2.toNat / 256 % 256))) }

/-- The fault of a translation that an access makes after its commit, SRC 7; DREG follows when it lands (R362, R373). -/
def xlateFault (z : Cause) (va : W64) : DFault := ⟨z, va, .ofNat 64 (srcXlate + 16)⟩

/-- The request of a translation that an access of context `c` of tile `vt` makes after its commit: the access waits for it. -/
def waitPage (s : State) (vt c : Nat) (asid : W16) (k : AKind) (va gpa : Nat) (w : Bool) (a : Access) : State × Access :=
  let (m, b) := placeReq s.m s.g.vf
    { tag := 0, kind := k.reqCode, s1walk := w, stage1 := false, va := .ofNat 64 va, gpa := gpa, vt := vt, role := c, asid := asid }
  ({ s with m := m }, { a with page := some b })

/-- The write of a CAS of the focused context that matches: its page becomes dirty, by a walk where a cached entry has D = 0, which
may fault or meet a page that is not there (R299, R328, R330, R332). -/
def casWrite (s : State) (vt : Nat) (a : Access) (old new : Nat) : State × Access :=
  let done (s : State) (ps : List Piece) : State × Access :=
    (writePieces vt s ps (bytesOf a.size new), { a with data := some (bytesOf a.size old), code := carryCodes (a.va.toNat % 64) (bytesOf a.size old) })
  if 2 ^ 56 ≤ a.va.toNat then done s a.pieces
  else
    match translate s vt .d ⟨s.g.vf, a.root, a.asid, a.smode⟩ .dirty a.va.toNat with
    | .ok s pa key =>
      if s.m.paExists pa then done s [⟨.glob pa, a.size, key⟩] else (s, { a with fault := some (xlateFault .access a.va) })
    | .fault s => (s, { a with fault := some (xlateFault .storeFault a.va) })
    | .poison s => (s, { a with fault := some (xlateFault .poison a.va) })
    | .access s => (s, { a with fault := some (xlateFault .access a.va) })
    | .miss s gpa w => waitPage s vt s.c.id a.asid .dirty a.va.toNat gpa w a

/-- A read corrects the correctable errors of what it reads, which the counters count (R381). -/
def correctPiece (s : State) (p : Piece) : State :=
  match p.place with
  | .glob pa => { s with m := s.m.correctRange pa p.len }
  | .tile vt o => repairMarks s vt (winSrc o).1 (unitsOf 8 (winSrc o).2 p.len)

/-- An AMO, CAS or `ldk`: it changes memory or sends a record when it is performed (R389). -/
def AccKind.acts : AccKind → Bool
  | .amo _ _ _ _ => true
  | .casD _ _ _ => true
  | .casQ _ _ _ => true
  | .ldk _ => true
  | _ => false

/-- The fault of an access whose piece cannot be read (R364). -/
def dataFaultOf (z : Cause) (va : W64) (src : Nat) : DFault := ⟨z, va, .ofNat 64 (src + 16)⟩

/-- The response of an access: its data, with the carry codes that they bring (R383). -/
def Access.respond (a : Access) (bs : List Byte) : Access :=
  { a with data := some bs, code := carryCodes (a.va.toNat % 64) bs }

/-- Bytes of the parts of an access, those read before as they were then (R313). -/
def partBytes (s : State) (t : Tile) (a : Access) : List Byte :=
  ((List.range a.pieces.length).zip a.pieces).flatMap fun (i, p) =>
    match a.got.find? (·.1 == i) with
    | some g => g.2
    | none => readPiece s t p

/-- Perform the memory access of `a` for tile `vt`: its value is fixed, an atomic writes (R280, R298, R299). -/
def perform (s : State) (vt : Nat) (a : Access) : State × Access :=
  if a.data.isSome ∨ a.fault.isSome then (s, a)
  else
    match (a.pieces.filterMap (pieceFault s)).head? with
    | some (z, src) => (s, { a with fault := some (dataFaultOf z a.va src) })
    | none =>
      let s := a.pieces.foldl correctPiece s
      let t := (s.tile? vt).getD {}
      let old (s : State) : Nat := natOf (readPieces s t a.pieces)
      let cas (e n : Nat) : State × Access :=
        let s := belayAtomic s vt a.pieces
        if old s = e then casWrite s vt a (old s) n else (s, { a.respond (bytesOf a.size (old s)) with ok := false })
      match a.kind with
      | .amo _ op b dw =>
        let s := belayAtomic s vt a.pieces
        let w := if dw then 64 else 32
        (writePieces vt s a.pieces (bytesOf a.size (op.apply w (old s) (b.toNat % 2 ^ w))), a.respond (bytesOf a.size (old s)))
      | .casD _ e n => cas e.toNat n.toNat
      | .casQ _ e n => cas e.toNat n.toNat
      | _ => (s, a.respond (partBytes s t a))

/-- Perform part `j` of an access that the striped window cuts into several, each at a point of its own (R313). -/
def performPart (s : State) (vt : Nat) (a : Access) (j : Nat) : State × Access :=
  match a.pieces[j]? with
  | none => (s, a)
  | some p =>
    match pieceFault s p with
    | some (z, src) => (s, { a with fault := some (dataFaultOf z a.va src) })
    | none =>
      let s := correctPiece s p
      let t := (s.tile? vt).getD {}
      let a := if a.got.any (·.1 == j) then a else { a with got := a.got ++ [(j, readPiece s t p)] }
      (s, if a.got.length = a.pieces.length then a.respond (partBytes s t a) else a)

/-- The access of a lashed tile waits for an exchange: its own tile's, until its commit has agreed (R389). -/
def Access.gatedBy (t : Tile) (a : Access) : Bool := t.lash.role != 0 && a.kind.acts && !a.agreed

/-- The result of an access performed after its interval agreed belongs to the checkpoint too, so that a repeat of the next
interval finds it (R389). -/
def noteReply (s : State) (vt c : Nat) (a : Access) : State :=
  if a.agreed ∧ s.g.lashChk ≠ [] then
    let upd (x : Access) : Access :=
      if x.agreed && x.data.isNone && x.fault.isNone && x.kind == a.kind && x.va == a.va && x.seq == a.seq then
        { x with data := a.data, ok := a.ok, fault := a.fault, code := a.code } else x
    { s with g := { s.g with lashChk := s.g.lashChk.map fun t => if t.vt = vt then { t with
        others := t.others.map fun x => if x.id = c then { x with accs := x.accs.map upd } else x } else t } }
  else s

/-- Access `a` comes after one of `l` that is not performed: an acquire, or an access to the same bytes (R285). -/
def Access.behind (s : State) (a : Access) (l : List Access) : Bool :=
  l.any fun b => s.fences a.pieces b || (!b.performed && anyOverlap b.pieces a.pieces)

/-- Perform the unperformed accesses of the focused context that satisfy `p`, in commit order (R285). In a lashed tile an
AMO, CAS or `ldk` waits for the exchange (R389), and for the stores that the exchange has released before it; one to another lashed
tile waits for the end of its interval (R387). -/
def performOwn (p : Access → Bool) (s : State) : State :=
  let go (sa : State × List Access) (a : Access) : State × List Access :=
    if p a && !a.performed && a.page.isNone && !a.behind sa.1 sa.2 && !a.absent sa.1 && !a.gatedBy sa.1.t
        && !storesAhead sa.1 sa.1.t.vt sa.1.c.id a then
      match lashInbound sa.1 sa.1.t.vt a.pieces with
      | some s' => (s', sa.2 ++ [a])
      | none =>
        let (s', a') := perform sa.1 sa.1.t.vt a
        (noteReply s' s'.t.vt s'.c.id a', sa.2 ++ [a'])
    else (sa.1, sa.2 ++ [a])
  let (s', l) := s.c.accs.foldl go (s, [])
  { s' with c := { s'.c with accs := l } }

/-! ## Posted stores (R42, R280; log 7) -/

/-- A posted store of tile `who` is performed at its memory, where its carry codes are checked (R384). -/
def performPost (who : Nat) (s : State) (p : Post) : State :=
  match p.place with
  | .glob pa => { s with m := s.m.writeCoded who p.key pa p.bytes p.code }
  | .tile vt off => spWrite s vt off p.bytes

/-- The posted stores that satisfy `q`, with the earlier ones that they overlap, and the others. -/
def splitPosts (q : Post → Bool) : List Post → List Post × List Post
  | [] => ([], [])
  | p :: r =>
    let (now, later) := splitPosts q r
    if q p || now.any (fun x => x.piece.overlaps p.piece) then (p :: now, later) else (now, p :: later)

/-- The posted stores of the focused context that satisfy `q` are performed (R285). -/
def settlePosts (q : Post → Bool) (s : State) : State :=
  if s.c.posted = [] then s
  else (splitPosts q s.c.posted).1.foldl (performPost s.t.vt) { s with c := { s.c with posted := (splitPosts q s.c.posted).2 } }

/-- The posted stores that overlap the pieces come before an access to them (R43, R285). -/
def settleOver (ps : List Piece) (s : State) : State := settlePosts (fun p => ps.any p.piece.overlaps) s

/-- Every posted store of the focused context is performed. -/
def settleAll (s : State) : State := settlePosts (fun _ => true) s

/-- The posted stores of the helper cores of a tile are performed, but for what a release towards an agent is dropped for. -/
def settleHelpers (s : State) (away : Option Agent) (vt : Nat) : State :=
  match s.tile? vt with
  | none => s
  | some t =>
    let l := splitPosts (fun p => !s.drops away [p.piece]) t.ldr.posted
    let r := splitPosts (fun p => !s.drops away [p.piece]) t.str.posted
    (l.1 ++ r.1).foldl (performPost vt) (s.mapTile vt fun t =>
      { t with ldr := { t.ldr with posted := l.2 }, str := { t.str with posted := r.2 } })

/-- The focused context's next store stays posted: the schedule says so, and neither belay nor an interval holds it back. -/
def State.defers (s : State) : Bool := s.c.slow && s.t.lash.role == 0 && s.g.belay == 0

/-- A context of a lashed tile that waits for what the gated buffer holds ends the interval (log 15). -/
def waitGated (s : State) (b : Block) : Res :=
  .wait (if s.t.lash.gated = [] then s else { s with t := { s.t with lash := { s.t.lash with due := true } } }) b

/-- The gated buffer of the tile holds a global store of agent `c`. -/
def Tile.gatesGlob (t : Tile) (c : Nat) : Bool := t.lash.gated.any fun o => match o with | .store _ _ _ a => a == c | _ => false

/-- The access comes before a message of the context that carries a release and is still on its way: a port or stream write, or a
record (R288). -/
def sendAfter (s : State) (a : Access) : Bool :=
  (s.undelivered s.t.vt s.c.id).any (fun m => m.body.writes == [] && m.loose.isNone && a.seq ≤ m.seq)
    || (s.t.ni ++ s.t.lash.gated.filterMap Out.rec?).any fun n => n.c == s.c.id && n.loose.isNone && a.seq ≤ n.seq

/-- What the context did before is performed, or it waits (R285, R292): its reads, or its writes and what its releases among them
come after. `q` says of which accesses, by their place in the order of sends and their pieces, and `qp` of which posted stores. Stores
that belay holds are not waited for (R391), and those of a lashed tile under belay become such. -/
def settled (s : State) (reads writes : Bool) (qp : Post → Bool) (q : Nat → List Piece → Bool) (k : State → Res) : Res :=
  let want (s : State) (a : Access) : Bool := q a.seq a.pieces && (reads || (writes && (a.kind.acts || sendAfter s a)))
  let s := if writes then settlePosts qp s else s
  let s := if reads || writes then performOwn (want s) s else s
  if (writes && ((s.storesOf s.t.vt s.c.id).any (fun m => q m.seq (m.body.writes.map fun w => ⟨.tile m.dst w.1, w.2.length, 0⟩))
        || (s.g.belay == 0 && s.t.gatesGlob s.c.id)))
      || s.c.accs.any (fun a => want s a && !a.performed) then waitGated s (.ordered reads writes)
  else k s

/-- Everything the context did before is performed, or it waits (R285, R292); a fence passed before has nothing left to order. -/
def allPerformed (s : State) (reads writes : Bool) (k : State → Res) : Res :=
  settled s reads writes (fun _ => true) (fun _ _ => true) fun s =>
    k (if reads && writes then { s with c := { s.c with passed := [] } } else s)

/-- What comes before an access to `ps` by the fences that the context has passed, towards agents outside their scopes: all that the
agent does not access, unless it accesses `ps` (R289, log 7). -/
def afterFences (ps : List Piece) (k : State → Res) : List Passed → State → Res
  | [], s => k s
  | f :: r, s =>
    if s.accessing f.away ps then afterFences ps k r s
    else settled s f.reads f.writes (fun p => f.posts.contains p && !s.accessing f.away [p.piece])
      (fun n qs => n ≤ f.seq && !s.accessing f.away qs) (afterFences ps k r)

/-- A word that accesses `ps` comes after every acquire of its context, and after a load whose register a window write has
filled (R285, R286). -/
def afterAcquire (s : State) (ps : List Piece) (k : State → Res) : Res :=
  if s.c.accs.any (s.fences ps) then
    let s := performOwn (s.fences ps) s
    if s.c.accs.any (s.fences ps) then .wait s (.ordered true false) else afterFences ps k s.c.passed s
  else afterFences ps k s.c.passed s

/-- An access to the pieces comes after the context's earlier accesses and posted stores to the same bytes (R43, R285). -/
def afterOwn (s : State) (ps : List Piece) (k : State → Res) : Res :=
  let s := settleOver ps (performOwn (fun a => anyOverlap a.pieces ps) s)
  if s.c.accs.any (fun a => !a.performed && anyOverlap a.pieces ps) then waitGated s (.ordered true true) else k s

/-- An access of a word to scratchpad bytes on-core: after every acquire, an own window store to them waited for, and after
the context's earlier accesses to them (R43, R285, R286). -/
def onCoreAccess (s : State) (ps : List Piece) (k : State → Res) : Res :=
  afterAcquire s ps fun s => if ownPending s ps then .wait s (.ordered false true) else afterOwn s ps k

/-! ## Stores -/

/-- Units of 16 bytes of the held-store buffer in use (R393). -/
def Tile.sbuf (t : Tile) : Nat := (t.belay.held.map fun x => (unitsOf 16 x.pa x.bytes.length).length).sum

/-- Units of the held-store buffer that the gated stores of a lashed tile will take (R391). -/
def Tile.gatedUnits (t : Tile) : Nat :=
  (t.lash.gated.map fun o => match o with | .store pa _ bs _ => (unitsOf 16 pa bs.length).length | _ => 0).sum

/-- The parts of a store: offset from the access's first byte, and bytes. `vst` leaves words out (R156). -/
abbrev Segs := List (Nat × List Byte)

/-- The segments that fall into a piece that starts at position `p0` of the access. -/
def segsIn (p0 n : Nat) (sg : Segs) : List (Nat × List Byte) :=
  sg.filterMap fun (o, bs) =>
    let lo := max o p0
    let hi := min (o + bs.length) (p0 + n)
    if lo < hi then some (lo - p0, (bs.drop (lo - o)).take (hi - lo)) else none

/-- Bytes of the whole access, unwritten ones 0 (R320). -/
def segImage (n : Nat) (sg : Segs) : List Byte :=
  sg.foldl (fun im (o, bs) => overlay im o bs) (List.replicate n 0)

/-- Work record of an insert-window image (R320). -/
def imageRec (g : Grid) (im : List Byte) : Rec :=
  let d (i : Nat) : W64 := .ofNat 64 (natOf (slice im (8 * i) 8))
  let cls := (d 0).toNat % 16
  let n := (g.classes.toList.getD cls {}).words
  ⟨cls, d 1, (List.range n).map fun i => if 8 * (i + 2) < im.length then d (i + 2) else 0⟩

def recBytes (r : Rec) : List Byte := bytesOf 8 r.key.toNat ++ r.payload.flatMap fun x => bytesOf 8 x.toNat

/-- The tile's NI takes a record (R262). -/
def niTake (s : State) (dst : Nat) (r : Rec) : State :=
  let n : NiRec := { id := s.t.niNext, c := s.c.id, dst := dst, r := r, loaded := true, seq := s.g.sendNext
                     loose := s.awayAt (s.msgScope dst) }
  let s := stampNext { s with t := { s.t with niNext := s.t.niNext + 1 } }
  let s := absorbOut s (dst + 2 ^ 24 * r.cls) (recBytes r)
  if s.t.lash.role = 0 then { s with t := { s.t with ni := s.t.ni ++ [n] } }
  else { s with t := { s.t with lash := { s.t.lash with gated := s.t.lash.gated ++ [.record n] } } }

/-- Records that the NI and the gated buffer of the focused tile hold (R262). -/
def niCount (t : Tile) : Nat :=
  t.ni.length + (t.lash.gated.filter fun o => match o with | .record _ => true | _ => false).length

/-- Global bytes stored by the focused context: performed, posted, held under belay, or gated (R42, R284, R387, R391). -/
def storeGlob (s : State) (key pa : Nat) (bs : List Byte) : State :=
  let s := absorbOut s pa bs
  if s.t.lash.role ≠ 0 then
    { s with t := { s.t with lash := { s.t.lash with gated := s.t.lash.gated ++ [.store pa key bs s.c.id] } } }
  else if s.g.belay ≠ 0 then
    { s with t := { s.t with belay := { s.t.belay with held := s.t.belay.held ++ [⟨pa, key, bs, s.c.id⟩] } } }
  else if s.defers then { s with c := { s.c with posted := s.c.posted ++ [⟨.glob pa, key, bs, carryCodes pa bs⟩] } }
  else { s with m := s.m.writeBy s.t.vt key pa bs }

/-- The message of a window store to offset `o` (R319, R318). -/
def storeBody (o : Nat) (bs : List Byte) : Body :=
  if 0xC00000 ≤ o ∧ o < 0xC01000 then
    .stream ((o - 0xC00000) / 0x400) ((o - 0xC00000) / 0x40 % 16)
      ((List.range (bs.length / 8)).map fun i => .ofNat 64 (natOf (slice bs (8 * i) 8)))
  else .store o bs

/-- Bytes stored by the focused context to its own scratchpad. -/
def storeOwn (s : State) (vt off : Nat) (b : List Byte) : State :=
  let s := absorbOut s (0xFF00000000000000 + off) b
  if s.defers then { s with c := { s.c with posted := s.c.posted ++ [⟨.tile vt off, 0, b, []⟩] } } else spWrite s vt off b

/-- Adjoining parts of a store are one. -/
def joinSegs : List (Nat × List Byte) → List (Nat × List Byte)
  | [] => []
  | (o, b) :: r =>
    match joinSegs r with
    | (o', b') :: r' => if o + b.length = o' then (o, b ++ b') :: r' else (o, b) :: (o', b') :: r'
    | [] => [(o, b)]

/-- A window store of the focused context to a register block: one access, whatever parts it leaves out (R316). -/
def sendRegs (s : State) (vt off : Nat) (sg : List (Nat × List Byte)) : State :=
  let at_ := 0xFF20000000000000 + vt * 2 ^ 24
  match (joinSegs sg).map fun (o, b) => (off + o, b) with
  | [] => s
  | [(o, b)] => absorbOut (send s vt (.store o b)) (at_ + o) b
  | l => l.foldl (fun s (o, b) => absorbOut s (at_ + o) b) (send s vt (.parts l))

/-- Perform or post one piece of a store. -/
def storePiece (s : State) (own : Bool) (p : Piece) (p0 : Nat) (sg : Segs) : State :=
  match p.place with
  | .glob pa => (segsIn p0 p.len sg).foldl (fun s (o, b) => storeGlob s p.key (pa + o) b) s
  | .tile vt off =>
    if own then
      (segsIn p0 p.len sg).foldl (fun s (o, b) => storeOwn s vt (off + o) b) s
    else if 0xC10000 ≤ off then
      let im := segImage p.len sg
      niTake s vt (imageRec s.g im)
    else if 0xC00000 ≤ off then
      let im := segImage p.len sg
      absorbOut (send s vt (storeBody off im)) (0xFF20000000000000 + vt * 2 ^ 24 + off) im
    else if 0x800000 ≤ off then sendRegs s vt off (segsIn p0 p.len sg)
    else
      (segsIn p0 p.len sg).foldl (fun s (o, b) =>
        absorbOut (send s vt (.store (off + o) b)) (0xFF20000000000000 + vt * 2 ^ 24 + off + o) b) s

def storePieces (s : State) (own : Bool) (sg : Segs) : List Piece → Nat → State
  | [], _ => s
  | p :: r, p0 => storePieces (storePiece s own p p0 sg) own sg r (p0 + p.len)

/-- What a store must wait for or fails on once its address is good: the class of an insert-window image (R320), the NI,
a parked queue, the held-store buffer (R391), an own window store that must land first. -/
def storeGate (s : State) (ea : W64) (own : Bool) (sg : Segs) (ps : List Piece) (k : State → Res) : Res :=
  let isIns := ps.any fun p => match p.place with | .tile _ o => !own && 0xC10000 ≤ o | _ => false
  let isGlob := ps.any fun p => match p.place with | .glob _ => true | _ => false
  let full := ps.find? fun p => match p.place with
    | .tile vt o => !own && !parkRoom s.g vt (if isIns then .record (imageRec s.g (segImage p.len sg))
        else storeBody o (List.replicate p.len 0))
    | _ => false
  if isIns && !(s.g.classes.toList.getD (imageRec s.g (segImage ((ps.map (·.len)).sum) sg)).cls {}).decl then
    .trap s .access ea 2
  else if isIns && 8 ≤ niCount s.t then .wait s .ni
  else if isGlob && s.g.belay != 0
      && 0x4000 < s.t.sbuf + s.t.gatedUnits + (sg.map fun x => (unitsOf 16 (ea.toNat + x.1) x.2.length).length).sum then
    .trap s .belayFull ea 0
  else
    match full with
    | some ⟨.tile vt _, _, _⟩ => .wait s (.parkFull (s.g.gangOf vt).1 (s.g.gangOf vt).2)
    | _ => if own && ownPending s ps then .wait s (.ordered false true) else k s

/-- A store of a context: its own earlier accesses to the bytes are performed first (R285), its pages become dirty (R330), then
the bytes are posted. -/
def storeTo (s : State) (ea : W64) (sg : Segs) (ps : List Piece) : Res :=
  let own := isOwn ea
  afterAcquire s ps fun s => storeGate s ea own sg ps fun s => afterOwn s ps fun s =>
    (chkDirty s ea ps).bind fun s ps => .done (storePieces s own sg ps 0)

/-- The first tile whose messages are parked that the pieces reach (R314, R369). -/
def absentTile (s : State) (ps : List Piece) : Option Nat :=
  ps.findSome? fun p => match p.place with
    | .tile vt _ => if s.g.parks vt then some vt else none
    | .glob _ => none

/-- The tile of an absent gang that an access sends a request to, which is parked there (R314, R375). What waits for the exchange of a
lashed tile sends it once the fingerprints agree (R389). -/
def accRequest (s : State) (a : Access) : Option Nat :=
  if isOwn a.va || a.gatedBy s.t then none else absentTile s a.pieces

/-- What an outstanding access waits for before it commits (R231, R366). -/
def accGate (s : State) (a : Access) (k : State → Res) : Res :=
  afterAcquire s a.pieces fun s =>
  if 16 ≤ s.c.accs.length then .wait s .outstanding
  else if ownPending s a.pieces then .wait s (.ordered false true)
  else
    match accRequest s a with
    | none => k (settleOver a.pieces s)
    | some vt =>
      if parkRoom s.g vt .loadReq then k (settleOver a.pieces s)
      else .wait s (.parkFull (s.g.gangOf vt).1 (s.g.gangOf vt).2)

/-- An outstanding access commits (R366). -/
def commitAcc (s : State) (a : Access) : State :=
  let a := { a with root := s.c.ptroot, asid := s.c.asid, smode := s.c.status.mode, seq := s.g.sendNext }
  let s' : State := { s with c := { s.c with accs := s.c.accs ++ [a] } }
  match accRequest s a with
  | none => s'
  | some vt => post s' s.t.vt s.c.id vt .loadReq

def startAcc (s : State) (a : Access) (k : State → Res) : Res := accGate s a fun s => k (commitAcc s a)

/-- Scratchpad bytes that a word reads on-core: its own accesses to them are performed first, an own window store to them
is waited for, an uncorrectable error traps UNCORR (R43, R285, R363). -/
def onCoreRead (s : State) (ea : W64) (n : Nat) (k : State → List Byte → Res) : Res :=
  let o := ea.toNat - 0xFF00000000000000
  let p : Piece := ⟨.tile s.t.vt o, n, 0⟩
  onCoreAccess s [p] fun s =>
    if s.t.badRange srcSp o n then .trap s .uncorr ea (.ofNat 64 srcSp)
    else
      let s := correctPiece s p
      k s (s.t.sp.read o n)

/-- A release of scope `sc` whose own access is to `ps`: the context's earlier accesses are performed first (R285); towards an agent
outside the scope that the schedule names, those that it does not access, unless it accesses `ps` (R289, log 7). -/
def releaseOver (s : State) (sc : Nat) (ps : List Piece) (k : State → Res) : Res :=
  match s.awayAt sc with
  | none => allPerformed s true true k
  | some x =>
    if s.accessing x ps then k s
    else settled s true true (fun p => !s.accessing x [p.piece]) (fun _ qs => !s.accessing x qs) k

/-- Every earlier store of the context is performed at its home cache, those that belay holds too, or it waits (R142, R334). -/
def atHome (s : State) (k : State → Res) : Res :=
  allPerformed s false true fun s =>
    if s.t.gatesGlob s.c.id || s.t.belay.held.any (fun x => x.agent == s.c.id) then waitGated s .home else k s

end Sys2Proof.Machine
end

