-- ==== Sys2Proof/Machine/Flags.lean ====
section
/-! DEFINITION. The sticky floating-point flags (R32, R89). -/

namespace Sys2Proof.Machine

/-- Flags accrue and are never cleared by arithmetic; they are a CSR of the context (R32). -/
def accrue (s : State) (m : Nat) : State := { s with c := { s.c with fflags := s.c.fflags ||| .ofNat 5 m } }

/-- A word that writes one scalar result and accrues flags. -/
def putFlagged (s : State) (d : Fin 32) (m : Nat) (v : W64) (valid : Bool) : Res :=
  dstX s d anyWord (.done (writeX (accrue s m) d v valid))

/-- The rounding mode in force (R29, R86). -/
def rmOf (s : State) : Rm := s.c.status.rm

end Sys2Proof.Machine
end

