-- ==== Sys2Proof/Machine/Alu.lean ====
section
/-! DEFINITION. Integer register operations, immediates, shifts and constants (R118 to R122, R93, R94). -/

namespace Sys2Proof.Machine

def Sz32.width : Sz32 → Nat
  | .w64 => 64
  | .w32 => 32

/-- A word with sources A and B and a scalar result with V = 1 (R118). -/
def binary (s : State) (d a b : Fin 32) (wa wb : Bool) (f : W64 → W64 → W64) : Out3 :=
  finish s <| srcX s a fldA wa {} fun va k => srcX s b fldB wb k fun vb k => commit s k (putResult s d (f va vb) true)

/-- A word with source A. -/
def unary (s : State) (d a : Fin 32) (wa : Bool) (f : W64 → W64) : Out3 :=
  finish s <| srcX s a fldA wa {} fun va k => commit s k (putResult s d (f va) true)

/-- The frame of the ALU major: `f` on the w-bit patterns of A and B, the w-bit result sign-extended (R118). -/
def alu (s : State) (sz : Sz32) (d a b : Fin 32) (wa wb : Bool) (f : Nat → Nat → Nat → Nat) : Out3 :=
  let w := Sz32.width sz
  binary s d a b wa wb fun x y => sext64 w (f w (x.toNat % 2 ^ w) (y.toNat % 2 ^ w))

def rotL (w a k : Nat) : Nat := (a * 2 ^ (k % w) + a / 2 ^ (w - k % w)) % 2 ^ w
def rotR (w a k : Nat) : Nat := rotL w a (w - k % w)

/-- Quotient and remainder with the edge results of R93. -/
def divS (w a b : Nat) : Nat := if b = 0 then 2 ^ w - 1 else pat w ((sgn w a).tdiv (sgn w b))
def divU (w a b : Nat) : Nat := if b = 0 then 2 ^ w - 1 else a / b
def remS (w a b : Nat) : Nat := if b = 0 then a else pat w ((sgn w a).tmod (sgn w b))
def remU (a b : Nat) : Nat := if b = 0 then a else a % b

/-- s(a) op s(b) saturated to the signed range (R94). -/
def satS (w : Nat) (x : Int) : Nat := pat w (clampInt (smin w) (smax w) x)

def execAdd (sz : Sz32) (d a b : Fin 32) (wa wb : Bool) (s : State) : Out3 :=
  alu s sz d a b wa wb fun w x y => (x + y) % 2 ^ w
def execSub (sz : Sz32) (d a b : Fin 32) (wa wb : Bool) (s : State) : Out3 :=
  alu s sz d a b wa wb fun w x y => (x + (2 ^ w - y)) % 2 ^ w
def execAnd (sz : Sz32) (d a b : Fin 32) (wa wb : Bool) (s : State) : Out3 :=
  alu s sz d a b wa wb fun _ x y => x &&& y
def execOr (sz : Sz32) (d a b : Fin 32) (wa wb : Bool) (s : State) : Out3 :=
  alu s sz d a b wa wb fun _ x y => x ||| y
def execXor (sz : Sz32) (d a b : Fin 32) (wa wb : Bool) (s : State) : Out3 :=
  alu s sz d a b wa wb fun _ x y => x ^^^ y
def execAndn (sz : Sz32) (d a b : Fin 32) (wa wb : Bool) (s : State) : Out3 :=
  alu s sz d a b wa wb fun w x y => x &&& (2 ^ w - 1 - y)
def execOrn (sz : Sz32) (d a b : Fin 32) (wa wb : Bool) (s : State) : Out3 :=
  alu s sz d a b wa wb fun w x y => x ||| (2 ^ w - 1 - y)
def execSll (sz : Sz32) (d a b : Fin 32) (wa wb : Bool) (s : State) : Out3 :=
  alu s sz d a b wa wb fun w x y => x * 2 ^ (y % w) % 2 ^ w
def execSrl (sz : Sz32) (d a b : Fin 32) (wa wb : Bool) (s : State) : Out3 :=
  alu s sz d a b wa wb fun w x y => x / 2 ^ (y % w)
def execSra (sz : Sz32) (d a b : Fin 32) (wa wb : Bool) (s : State) : Out3 :=
  alu s sz d a b wa wb fun w x y => pat w (sgn w x / 2 ^ (y % w))
def execRol (sz : Sz32) (d a b : Fin 32) (wa wb : Bool) (s : State) : Out3 :=
  alu s sz d a b wa wb rotL
def execRor (sz : Sz32) (d a b : Fin 32) (wa wb : Bool) (s : State) : Out3 :=
  alu s sz d a b wa wb rotR
def execMin (sz : Sz32) (d a b : Fin 32) (wa wb : Bool) (s : State) : Out3 :=
  alu s sz d a b wa wb fun w x y => if sgn w x ≤ sgn w y then x else y
def execMax (sz : Sz32) (d a b : Fin 32) (wa wb : Bool) (s : State) : Out3 :=
  alu s sz d a b wa wb fun w x y => if sgn w x ≤ sgn w y then y else x
def execMinn (sz : Sz32) (d a b : Fin 32) (wa wb : Bool) (s : State) : Out3 :=
  alu s sz d a b wa wb fun _ x y => if x ≤ y then x else y
def execMaxn (sz : Sz32) (d a b : Fin 32) (wa wb : Bool) (s : State) : Out3 :=
  alu s sz d a b wa wb fun _ x y => if x ≤ y then y else x
def execMul (sz : Sz32) (d a b : Fin 32) (wa wb : Bool) (s : State) : Out3 :=
  alu s sz d a b wa wb fun w x y => x * y % 2 ^ w
def execMulh (sz : Sz32) (d a b : Fin 32) (wa wb : Bool) (s : State) : Out3 :=
  alu s sz d a b wa wb fun w x y => pat w (sgn w x * sgn w y / 2 ^ w)
def execMulhn (sz : Sz32) (d a b : Fin 32) (wa wb : Bool) (s : State) : Out3 :=
  alu s sz d a b wa wb fun w x y => x * y / 2 ^ w
def execMulhsn (sz : Sz32) (d a b : Fin 32) (wa wb : Bool) (s : State) : Out3 :=
  alu s sz d a b wa wb fun w x y => pat w (sgn w x * (y : Int) / 2 ^ w)
def execDiv (sz : Sz32) (d a b : Fin 32) (wa wb : Bool) (s : State) : Out3 :=
  alu s sz d a b wa wb divS
def execDivn (sz : Sz32) (d a b : Fin 32) (wa wb : Bool) (s : State) : Out3 :=
  alu s sz d a b wa wb divU
def execRem (sz : Sz32) (d a b : Fin 32) (wa wb : Bool) (s : State) : Out3 :=
  alu s sz d a b wa wb remS
def execRemn (sz : Sz32) (d a b : Fin 32) (wa wb : Bool) (s : State) : Out3 :=
  alu s sz d a b wa wb fun _ => remU
def execAddsat (sz : Sz32) (d a b : Fin 32) (wa wb : Bool) (s : State) : Out3 :=
  alu s sz d a b wa wb fun w x y => satS w (sgn w x + sgn w y)
def execSubsat (sz : Sz32) (d a b : Fin 32) (wa wb : Bool) (s : State) : Out3 :=
  alu s sz d a b wa wb fun w x y => satS w (sgn w x - sgn w y)

/-! Immediates (R120 to R122). -/

def execAddi (d a : Fin 32) (wa : Bool) (imm : BitVec 14) (s : State) : Out3 :=
  unary s d a wa fun x => x + imm.signExtend 64
def execAndi (d a : Fin 32) (wa : Bool) (imm : BitVec 14) (s : State) : Out3 :=
  unary s d a wa fun x => x &&& imm.signExtend 64
def execOri (d a : Fin 32) (wa : Bool) (imm : BitVec 14) (s : State) : Out3 :=
  unary s d a wa fun x => x ||| imm.signExtend 64
def execXori (d a : Fin 32) (wa : Bool) (imm : BitVec 14) (s : State) : Out3 :=
  unary s d a wa fun x => x ^^^ imm.signExtend 64
def execSlli (d a : Fin 32) (wa : Bool) (k : BitVec 6) (s : State) : Out3 :=
  unary s d a wa fun x => x <<< k.toNat
def execSrli (d a : Fin 32) (wa : Bool) (k : BitVec 6) (s : State) : Out3 :=
  unary s d a wa fun x => x >>> k.toNat
def execSrai (d a : Fin 32) (wa : Bool) (k : BitVec 6) (s : State) : Out3 :=
  unary s d a wa fun x => x.sshiftRight k.toNat
def execRori (d a : Fin 32) (wa : Bool) (k : BitVec 6) (s : State) : Out3 :=
  unary s d a wa fun x => x.rotateRight k.toNat

def execLi (d : Fin 32) (imm : BitVec 20) (s : State) : Out3 :=
  finish s <| putResult s d (imm.signExtend 64) true
def execLih (d : Fin 32) (imm : BitVec 20) (s : State) : Out3 :=
  finish s <| srcX s d fldD false {} fun x k => commit s k (putResult s d (x <<< 20 ||| imm.setWidth 64) true)

end Sys2Proof.Machine
end

