-- ==== Sys2Proof/Machine/LoadStore.lean ====
section
/-! DEFINITION. Scalar loads and stores, the MEMX members and the atomic instructions (R131 to R134, R285 to R300). -/

namespace Sys2Proof.Machine

def MSz.bytes : MSz → Nat
  | .b => 1 | .h => 2 | .w => 4 | .d => 8

/-- Zero or sign extension of `n` loaded bytes. -/
def extendTo (n : Nat) (sg : Bool) (x : Nat) : W64 := if sg then sext64 (8 * n) x else .ofNat 64 x

/-- A word off the own scratchpad commits its access: destinations become awaiting, and the context leaves the core until
`d` is full, unless it goes on (R17, R132). -/
def leaveFor (s : State) (go : Bool) (d : Nat) : Res := if go then .done s else .park s (.fill d)

/-! ## Scope test (R290, R291) -/

def Scope.num : Scope → Nat
  | .ctx => 0 | .tile => 1 | .clu => 2 | .gang => 3 | .grid => 4 | .mod => 5 | .dom => 6 | .sys => 7

/-- The word retires with its scope clamped: CLAMPS rises, saturating (R290). -/
def clamped (s : State) : State :=
  s.mapVf s.g.vf fun f => { f with clamps := if f.clamps = BitVec.allOnes 32 then f.clamps else f.clamps + 1 }

/-- The scope test (R291); `k` executes the word at the scope that results. -/
def scopeTest (s : State) (sc : Scope) (k : Nat → Res) : Res :=
  if s.vf.scopeCap < Scope.num sc then
    if s.vf.scopeAct then .trap s .scope (.ofNat 64 (Scope.num sc)) (.ofNat 64 s.vf.scopeCap)
    else (k s.vf.scopeCap).onDone clamped
  else k (Scope.num sc)

/-! ## Loads (R132) -/

/-- The effect of a load of `n` bytes at `ea`. `acq`: it is performed before any later access (R285); a later word that
accesses memory waits where it cannot be performed yet. -/
def loadEffect (s : State) (d : Fin 32) (ea : W64) (n : Nat) (sg nw acq : Bool) (away : Option Agent) : Res :=
  (checkAddr s ea n n .load .load).bind fun s ps =>
    if isOwn ea && !nw then
      onCoreRead s ea n fun s bs => .done (writeX s d (extendTo n sg (natOf bs)) true)
    else
      startAcc s { kind := .load d sg, va := ea, size := n, pieces := ps, acq := acq, away := away } fun s =>
        let s := if acq && away.isNone then performOwn (fun _ => true) s else s
        leaveFor (emptyX s d .awaiting) (nw || d.val = 0) d.val

def loadWord (s : State) (sz : MSz) (d b : Fin 32) (wa nw sg : Bool) (off : BitVec 11) : Out3 :=
  let n := MSz.bytes sz
  finish s <| srcX s b fldA wa {} fun base k => commit s k <| dstX s d anyWord <|
    loadEffect s d (base + off.signExtend 64 * .ofNat 64 n) n sg nw false none

def execLd (sz : MSz) (d b : Fin 32) (wa nw : Bool) (off : BitVec 11) (s : State) : Out3 :=
  loadWord s sz d b wa nw false off
def execLds (sz : MSz) (d b : Fin 32) (wa nw : Bool) (off : BitVec 11) (s : State) : Out3 :=
  loadWord s sz d b wa nw true off

/-! ## Stores (R133) -/

/-- The effect of a store of the low `n` bytes of `v` at `ea`; a release has a scope. -/
def storeEffect (s : State) (ea v : W64) (n : Nat) (rel : Option Nat) : Res :=
  (checkAddr s ea n n .store (.store false)).bind fun s ps =>
    let go (s : State) : Res := storeTo s ea [(0, bytesOf n v.toNat)] ps
    match rel with
    | some sc => releaseOver s sc ps go
    | none => go s

def execSt (sz : MSz) (d b : Fin 32) (wa wd : Bool) (off : BitVec 11) (s : State) : Out3 :=
  let n := MSz.bytes sz
  finish s <| srcX s b fldA wa {} fun base k => srcX s d fldD wd k fun v k =>
    commit s k <| storeEffect s (base + off.signExtend 64 * .ofNat 64 n) v n none

/-! ## MEMX (R134) -/

def execLdAcq (sz : MSz) (d a : Fin 32) (sc : Scope) (wa : Bool) (s : State) : Out3 :=
  finish s <| srcX s a fldA wa {} fun ea k => commit s k <| dstX s d anyWord <|
    scopeTest s sc fun sc => loadEffect s d ea (MSz.bytes sz) false false true (s.awayAt sc)

def execStRel (sz : MSz) (d a : Fin 32) (sc : Scope) (wa : Bool) (s : State) : Out3 :=
  finish s <| srcX s a fldA wa {} fun ea k => srcX s d fldD false k fun v k => commit s k <|
    scopeTest s sc fun sc => storeEffect s ea v (MSz.bytes sz) (some sc)

/-- The second register of a pair. -/
def nextReg (d : Fin 32) : Fin 32 := d + 1

def execLdQ (d a : Fin 32) (wa : Bool) (s : State) : Out3 :=
  finish s <| srcX s a fldA wa {} fun ea k => commit s k <| dstX s d anyWord <| dstX s (nextReg d) anyWord <|
    (checkAddr s ea 16 16 .load .load).bind fun s ps =>
      if isOwn ea then onCoreRead s ea 16 fun s bs =>
        .done (writeX (writeX s d (.ofNat 64 (natOf (bs.take 8))) true) (nextReg d) (.ofNat 64 (natOf (bs.drop 8))) true)
      else
        startAcc s { kind := .loadQ d, va := ea, size := 16, pieces := ps } fun s =>
          leaveFor (emptyX (emptyX s d .awaiting) (nextReg d) .awaiting) false d.val

def execStQ (d a : Fin 32) (wa : Bool) (s : State) : Out3 :=
  finish s <| srcX s a fldA wa {} fun ea k => srcX s d fldD false k fun x k => srcX s (nextReg d) fldD false k fun y k =>
    commit s k <| (checkAddr s ea 16 16 .store (.store false)).bind fun s ps =>
      storeTo s ea [(0, bytesOf 8 x.toNat ++ bytesOf 8 y.toNat)] ps

def execTouch (a : Fin 32) (wa : Bool) (s : State) : Out3 :=
  finish s <| srcX s a fldA wa {} fun ea k => commit s k <| (checkAddr s ea 1 1 .load .load).bind fun s _ => .done s

def execSbwait (a : Fin 32) (s : State) : Out3 :=
  finish s <| srcX s a fldA false {} fun _ k => commit s k (.done s)

def execMkempty (d : Fin 32) (s : State) : Out3 :=
  finish s <| dstX s d anyWord <| .done (emptyX s d .cleared)

/-! ## Atomics (R296 to R300) -/

/-- The targets of R300. -/
def amoTarget (s : State) (ea : W64) : Bool :=
  match regionOf ea.toNat with
  | .glob => true
  | .own => true
  | .striped => true
  | .tile => s.g.has (bits ea.toNat 24 24) && bits ea.toNat 0 24 < 0x200000
  | .bad => false

def ordAcq : Ord → Bool
  | .acq => true | .acqRel => true | _ => false
def ordRel : Ord → Bool
  | .rel => true | .acqRel => true | _ => false

/-- An interval of a lashed tile ends early (R387). -/
def lashEarly (s : State) : State :=
  if s.t.lash.role = 0 then s else { s with t := { s.t with lash := { s.t.lash with due := true } } }

/-- The operands of an atomic access, which enter the fingerprint (R389). -/
def AccKind.operands : AccKind → List Byte
  | .amo _ _ b _ => bytesOf 8 b.toNat
  | .casD _ e n => bytesOf 8 e.toNat ++ bytesOf 8 n.toNat
  | .casQ _ e n => bytesOf 16 e.toNat ++ bytesOf 16 n.toNat
  | _ => []

/-- A committed AMO has a dirty page; a CAS, when it writes (R299, R330). -/
def dirtyAtCommit (s : State) (kind : AccKind) (ea : W64) (ps : List Piece) : Chk :=
  match kind with
  | .amo _ _ _ _ => chkDirty s ea ps
  | _ => .ok s ps

/-- The effect of an AMO or CAS: the checks of R298, then the access with its destinations awaiting. DESIGN CHOICE (log 42):
a CAS outside the own scratchpad leaves the core at a switch point as an AMO does, where R299 has no line for it. -/
def atomicEffect (s : State) (kind : AccKind) (ak : AKind) (ea : W64) (n : Nat) (o : Ord) (sc : Scope) (isQ : Bool)
    (d : Fin 32) : Res :=
  let body (sc : Nat) : Res :=
    if ea.toNat % n ≠ 0 then .trap s .misalign ea 0
    else if !amoTarget s ea then .trap s .access ea 0
    else
      (checkRange s ea n ak .amo).bind fun s ps =>
        let go (s : State) : Res :=
          let away := if ordAcq o then s.awayAt sc else none
          let a : Access := { kind := kind, va := ea, size := n, pieces := ps, acq := ordAcq o, away := away }
          accGate s a fun s => (dirtyAtCommit s kind ea ps).bind fun s ps =>
            let s := lashEarly (absorbOut (commitAcc s { a with pieces := ps }) ea.toNat kind.operands)
            let s := if ordAcq o && away.isNone then performOwn (fun _ => true) s else s
            let s := emptyX s d .awaiting
            let s := if isQ then emptyX s (nextReg d) .awaiting else s
            leaveFor s (d.val = 0 || isOwn ea) d.val
        if ordRel o then releaseOver s sc ps go else go s
  if o = .rlx then body 0 else scopeTest s sc body

def amo (s : State) (op : AmoOp) (dw : Bool) (d a b : Fin 32) (o : Ord) (sc : Scope) : Out3 :=
  finish s <| srcX s a fldA false {} fun ea k => srcX s b fldB false k fun v k => commit s k <| dstX s d anyWord <|
    atomicEffect s (.amo d op v dw) .amo ea (if dw then 8 else 4) o sc false d

def execAmoswap (w64 : Bool) (d a b : Fin 32) (o : Ord) (sc : Scope) (s : State) : Out3 := amo s .swap w64 d a b o sc
def execAmoadd (w64 : Bool) (d a b : Fin 32) (o : Ord) (sc : Scope) (s : State) : Out3 := amo s .add w64 d a b o sc
def execAmoand (w64 : Bool) (d a b : Fin 32) (o : Ord) (sc : Scope) (s : State) : Out3 := amo s .and w64 d a b o sc
def execAmoor (w64 : Bool) (d a b : Fin 32) (o : Ord) (sc : Scope) (s : State) : Out3 := amo s .or w64 d a b o sc
def execAmoxor (w64 : Bool) (d a b : Fin 32) (o : Ord) (sc : Scope) (s : State) : Out3 := amo s .xor w64 d a b o sc
def execAmomin (w64 : Bool) (d a b : Fin 32) (o : Ord) (sc : Scope) (s : State) : Out3 := amo s .min w64 d a b o sc
def execAmomax (w64 : Bool) (d a b : Fin 32) (o : Ord) (sc : Scope) (s : State) : Out3 := amo s .max w64 d a b o sc
def execAmominn (w64 : Bool) (d a b : Fin 32) (o : Ord) (sc : Scope) (s : State) : Out3 := amo s .minn w64 d a b o sc
def execAmomaxn (w64 : Bool) (d a b : Fin 32) (o : Ord) (sc : Scope) (s : State) : Out3 := amo s .maxn w64 d a b o sc
def execAmofadd (d a b : Fin 32) (o : Ord) (sc : Scope) (s : State) : Out3 := amo s .fadd false d a b o sc

def execCasD (d a b : Fin 32) (o : Ord) (sc : Scope) (s : State) : Out3 :=
  finish s <| srcX s a fldA false {} fun ea k => srcX s b fldB false k fun new k => srcX s d fldD false k fun exp k =>
    commit s k <| dstX s d anyWord <| atomicEffect s (.casD d exp new) .cas ea 8 o sc false d

def execCasQ (d a b : Fin 32) (o : Ord) (sc : Scope) (s : State) : Out3 :=
  finish s <| srcX s a fldA false {} fun ea k => srcX s b fldB false k fun n0 k => srcX s (nextReg b) fldB false k fun n1 k =>
    srcX s d fldD false k fun e0 k => srcX s (nextReg d) fldD false k fun e1 k =>
      commit s k <| dstX s d anyWord <| dstX s (nextReg d) anyWord <|
        atomicEffect s (.casQ d (e1 ++ e0) (n1 ++ n0)) .cas ea 16 o sc true d

end Sys2Proof.Machine
end

