-- ==== Sys2Proof/Machine/Table.lean ====
section
/-! DEFINITION. Table-coded formats (R95 to R101), the arithmetic of the matrix unit (R102 to R107) and of the splice
folds (R110 to R113). -/

namespace Sys2Proof.Machine

/-! ## Tables -/

/-- An entry is a NaN. -/
def e8nan (x : Nat) : Bool := bits x 10 8 == 255 && bits x 0 10 != 0

def risesFrom : Nat → List Nat → Bool
  | _, [] => true
  | p, x :: r => p ≤ x && risesFrom x r

/-- R98, for a table of half-size `h`. -/
def monotone (h : Nat) (e : List Nat) : Bool :=
  let lo := e.take h
  let hi := (e.drop h).take h
  lo.all (fun x => x < 2 ^ 18 && !e8nan x) && risesFrom 0 lo
    && (lo.zip hi).all fun (x, y) => y == x + 2 ^ 18 || (x == 0 && y == 0)

def Tile.t8 (t : Tile) : List Nat := t.tab8.toList.map (·.toNat)
def Tile.t4 (t : Tile) : List Nat := t.tab4.toList.map (·.toNat)

/-- Decode of a code (R99): the entry, in E8M10. -/
def tabDecode (e : List Nat) (code : Nat) : Fl :=
  match e8m10.decode (e.getD code 0) with
  | .nan _ => .nan false
  | x => x

/-- Decode of a code in F32 (R81, R99). -/
def tabDecodeF32 (e : List Nat) (code : Nat) : Nat :=
  let x := e.getD code 0
  if e8nan x then f32.nan else x * 2 ^ 13

/-- The magnitude in units of 2^-149; none for infinity. -/
def magUnits : Fl → Option Nat
  | .fin _ m e => some (m * 2 ^ (e + 149).toNat)
  | .inf _ => none
  | .nan _ => some 0

/-- dist(m, e) of R100; none is infinity. -/
def tabDist (a b : Option Nat) : Option Nat :=
  match a, b with
  | some x, some y => some (if x ≤ y then y - x else x - y)
  | none, none => some 0
  | _, _ => none

def ltUnits (a b : Option Nat) : Bool :=
  match a, b with
  | some x, some y => x < y
  | some _, none => true
  | none, _ => false

/-- Candidate (distance, index) `a` is chosen over the earlier candidate `b`: nearer, or as near with an even index
against an odd one (R100). -/
def nearer (a b : Option Nat × Nat) : Bool := ltUnits a.1 b.1 || (a.1 == b.1 && a.2 % 2 == 0 && b.2 % 2 == 1)

def nearest (m : Option Nat) : List Nat → Nat → Option Nat × Nat → Nat
  | [], _, best => best.2
  | x :: r, i, best =>
    let c := (tabDist m (magUnits (e8m10.decode x)), i)
    nearest m r (i + 1) (if nearer c best then c else best)

/-- An encoding: the code, saturation, and whether the code decodes to another value. -/
structure Enc where
  code : Nat
  sat  : Bool
  inexact : Bool

/-- Encode an F32 pattern against the monotone table `e` of half-size `h` (R100, R101). -/
def tabEncode (h : Nat) (e : List Nat) (nancode x : Nat) : Enc :=
  match f32.decode x with
  | .nan _ => ⟨nancode, false, false⟩
  | v =>
    let m := magUnits v
    let top := magUnits (e8m10.decode (e.getD (h - 1) 0))
    let sat := ltUnits top m
    let i :=
      if sat then h - 1
      else nearest m (e.take h) 0 (tabDist m (magUnits (e8m10.decode (e.getD 0 0))), 0)
    ⟨i + (if v.sign then h else 0), sat, magUnits (e8m10.decode (e.getD i 0)) != m⟩

/-! ## The matrix unit -/

def Fl.mag (v : Fl) : Int :=
  match v with
  | .fin _ m e => e + (bitlen m : Int) - 1
  | _ => 0

/-- `v * 2^-q` truncated towards zero. -/
def truncAt (v : Fl) (q : Int) : Int :=
  match v with
  | .fin s m e => sInt s (if q ≤ e then m * 2 ^ (e - q).toNat else m / 2 ^ (q - e).toNat)
  | _ => 0

/-- The sum G of one group of operand pairs (R104). -/
def groupSum (l : List (Fl × Fl)) : Fl :=
  let ps := l.map fun (a, b) => mulExact a b
  let infs := ps.filterMap fun p => match p with | some (.inf s) => some s | _ => none
  if l.any (fun (a, b) => a.isNan || b.isNan) || ps.any (·.isNone) then .nan false
  else if infs.contains true && infs.contains false then .nan false
  else
    match infs with
    | s :: _ => .inf s
    | [] =>
      let nz := l.filter fun (a, b) => !a.isZero && !b.isZero
      match nz with
      | [] => .fin false 0 0
      | x :: _ =>
        let E := nz.foldl (fun m (a, b) => max m (a.mag + b.mag)) (x.1.mag + x.2.mag)
        let acc : Int := (nz.map fun (a, b) => match mulExact a b with
          | some p => truncAt p (E - 41)
          | none => 0).sum
        .fin (acc < 0) acc.natAbs (E - 41)

/-- G * sA * sB, an exact zero being +0 (R104). -/
def scaled (g sA sB : Fl) : Fl :=
  match (match mulExact g sA with | some p => mulExact p sB | none => none) with
  | none => .nan false
  | some (.fin s m e) => if m = 0 then .fin false 0 0 else .fin s m e
  | some p => p

/-- A tile element updated, and whether its overflow counter rises (R104, R106). -/
def tileUpdate (t : Nat) (p : Fl) : Nat × Bool :=
  match f32.decode t, p with
  | .fin s m e, .fin u n g =>
    let (v, x) := exactSum [(s, m, e), (u, n, g)]
    let r := roundInt f32 0 v x false
    if r.2 &&& OF ≠ 0 then (f32.maxFin + (if v < 0 then f32.signBit else 0), true) else (r.1, false)
  | a, b => ((addFl f32 0 a b).1, false)

/-- An S32 element updated by a group sum (R107). -/
def tileUpdateInt (t : Nat) (sum : Int) : Nat × Bool :=
  let v := sgn 32 t + sum
  let c := clampInt (smin 32) (smax 32) v
  (pat 32 c, c != v)

/-! ## Splice folds -/

/-- Element type of a class by its ET code (R58). -/
def etFloat (et : Nat) : Option Fmt :=
  match et with
  | 8 => some (fmtOf .f16) | 9 => some (fmtOf .bf16) | 10 => some f32 | 11 => some (fmtOf .f64) | _ => none
def etWidth (et : Nat) : Nat :=
  if et < 8 then 8 * 2 ^ (et / 2) else if et < 10 then 16 else if et = 10 then 32 else 64
def etSigned (et : Nat) : Bool := et < 8 && et % 2 == 1
def etMin (et : Nat) : Int := if etSigned et then smin (etWidth et) else 0
def etMax (et : Nat) : Int := if etSigned et then smax (etWidth et) else 2 ^ etWidth et - 1
/-- The value of an integer element. -/
def etVal (et : Nat) (b : Int) : Int := if etSigned et then sgn (etWidth et) b.toNat else b

/-- `v * 2^k` rounded to nearest-even. -/
def rneScaled (s : Bool) (m : Nat) (e : Int) : Int := (toInt 0 s m e).1

/-- An incoming payload word as the entry holds it: the element's bits, or the converted sum, with OVF (R110, R111). -/
def laneIn (d : ClassD) (w : W64) : Int × Bool :=
  if d.op = 8 then
    match f32.decode (w.toNat % 2 ^ 32) with
    | .nan _ => (0, true)
    | .inf s => (if s then smin 64 else smax 64, true)
    | .fin s m e =>
      let q := rneScaled s m (e + d.scale)
      let c := clampInt (smin 64) (smax 64) q
      (c, c != q)
  else ((w.toNat % 2 ^ etWidth d.et : Nat), false)

/-- The fold of two lanes, with OVF (R110, R112). -/
def laneFold (d : ClassD) (a b : Int) : Int × Bool :=
  let w := etWidth d.et
  let n (x : Int) : Int := (pat w x : Nat)
  match d.op with
  | 1 => (n (a + b), false)
  | 2 =>
    let v := etVal d.et a + etVal d.et b
    let c := clampInt (etMin d.et) (etMax d.et) v
    (n c, c != v)
  | 3 => match etFloat d.et with
    | some f => ((minmaxF f false a.toNat b.toNat).1, false)
    | none => (if etVal d.et a ≤ etVal d.et b then a else b, false)
  | 4 => match etFloat d.et with
    | some f => ((minmaxF f true a.toNat b.toNat).1, false)
    | none => (if etVal d.et a ≤ etVal d.et b then b else a, false)
  | 5 => ((a.toNat ||| b.toNat : Nat), false)
  | 6 => ((a.toNat &&& b.toNat : Nat), false)
  | 7 => ((a.toNat ^^^ b.toNat : Nat), false)
  | 8 =>
    let c := clampInt (smin 72) (smax 72) (a + b)
    (c, c != a + b)
  | _ => (a, false)

/-- The word that dispatch delivers (R110, R113). -/
def laneOut (d : ClassD) (a : Int) : W64 :=
  if d.op = 8 then .ofNat 64 (roundInt f32 0 a (-(d.scale : Int)) false).1
  else if etSigned d.et then sext64 (etWidth d.et) a.toNat
  else .ofNat 64 a.toNat

end Sys2Proof.Machine
end

