-- ==== Sys2Proof/Machine/Lanes.lean ====
section
/-! DEFINITION. Lanes of vector registers and the word-wise and whole-register frames (R148 to R153). -/

namespace Sys2Proof.Machine

def ietWidth : IEt → Nat
  | .n8 => 8 | .s8 => 8 | .n16 => 16 | .s16 => 16 | .n32 => 32 | .s32 => 32 | .n64 => 64 | .s64 => 64
def ietSigned : IEt → Bool
  | .s8 => true | .s16 => true | .s32 => true | .s64 => true | _ => false
def fetWidth (f : FEt) : Nat := (fmtOf f).width
def letWidth : LEt → Nat
  | .int t => ietWidth t
  | .flt f => fetWidth f

/-- A lane as a number by the signedness of its type. -/
def ietVal (e : IEt) (x : Nat) : Int := if ietSigned e then sgn (ietWidth e) x else (x : Int)
def ietMin (e : IEt) : Int := if ietSigned e then smin (ietWidth e) else 0
def ietMax (e : IEt) : Int := if ietSigned e then smax (ietWidth e) else 2 ^ ietWidth e - 1

/-- Lanes of a register at width `w`. -/
def vlanes (w : Nat) (x : W512) : List Nat := lanes w (512 / w) x.toNat

/-- Lane `i` lies in an active word. -/
def laneOn (act : BitVec 8) (w i : Nat) : Bool := act.getLsbD (i * w / 64)

/-- `f` over the lanes of active words, 0 without flags elsewhere; lane `i` comes first. -/
def mapLanes (w : Nat) (act : BitVec 8) (f : Nat → Nat → Nat → FRes) : Nat → List Nat → List Nat → List Nat → List FRes
  | i, a :: as, b :: bs, d :: ds =>
    (if laneOn act w i then f a b d else (0, 0)) :: mapLanes w act f (i + 1) as bs ds
  | _, _, _, _ => []

def orFlags (l : List FRes) : Nat := l.foldl (fun m r => m ||| r.2) 0

/-- The words of `new` where `act` is set, of `old` elsewhere. -/
def mergeWords (act : BitVec 8) (old new : W512) : W512 :=
  .ofNat 512 (ofLanes 64 ((List.range 8).map fun k => lane 64 (if act.getLsbD k then new.toNat else old.toNat) k))

/-- Write of a word-wise result: inactive words keep value and V; a port is sent 0 with V = 0 there (R150, R152). DESIGN CHOICE
(log 42): the words that a register which was cleared keeps are 0 with V = 0 (`emptyV`), where R14 gives them no contents. -/
def writeWords (s : State) (d : Fin 32) (act : BitVec 8) (new : W512) : State :=
  if d.val < 28 then writeV s d (mergeWords act (s.c.v[d]).val new) ((s.c.v[d]).v ||| act)
  else writeV s d (mergeWords act 0 new) act

/-- The result lanes of a word-wise word of width `w`, with their flags. -/
def putLanes (s : State) (d : Fin 32) (act : BitVec 8) (w : Nat) (l : List FRes) : Res :=
  dstV s d <| .done (writeWords (accrue s (orFlags l)) d act (.ofNat 512 (ofLanes w (l.map (·.1)))))

/-- Word-wise with sources VA and VB (R150). -/
def vec2 (s : State) (w : Nat) (d a b : Fin 32) (f : Nat → Nat → FRes) : Out3 :=
  finish s <| srcV s a fldA {} fun x va k => srcV s b fldB k fun y vb k =>
    commit s k <| putLanes s d (va &&& vb) w
      (mapLanes w (va &&& vb) (fun a b _ => f a b) 0 (vlanes w x) (vlanes w y) (vlanes w x))

/-- Word-wise with source VA. -/
def vec1 (s : State) (w : Nat) (d a : Fin 32) (f : Nat → FRes) : Out3 :=
  finish s <| srcV s a fldA {} fun x va k =>
    commit s k <| putLanes s d va w (mapLanes w va (fun a _ _ => f a) 0 (vlanes w x) (vlanes w x) (vlanes w x))

/-- Word-wise with sources VA, VB and VD. -/
def vec3 (s : State) (w : Nat) (d a b : Fin 32) (f : Nat → Nat → Nat → FRes) : Out3 :=
  finish s <| srcV s a fldA {} fun x va k => srcV s b fldB k fun y vb k => srcV s d fldD k fun z vd k =>
    let act := va &&& vb &&& vd
    commit s k <| putLanes s d act w (mapLanes w act f 0 (vlanes w x) (vlanes w y) (vlanes w z))

def allV : BitVec 8 := BitVec.allOnes 8

/-- A whole-register word executes only when every V bit it reads is 1, else it has no effect (R151). -/
def wholeCommit (s : State) (k : Cur) (v : BitVec 8) (r : Res) : Res :=
  if v = allV then commit s k r else .null

/-- Write of a whole register from its lanes. -/
def putWhole (s : State) (d : Fin 32) (w : Nat) (l : List Nat) : Res :=
  dstV s d <| .done (writeV s d (.ofNat 512 (ofLanes w l)) allV)

end Sys2Proof.Machine
end

