-- ==== Sys2Proof/Machine/Matrix.lean ====
section
/-! DEFINITION. The matrix unit and the weight buffer (R174 to R200): MMA, MMAS, MMEM and MCTL. -/

namespace Sys2Proof.Machine

/-! ## Operand formats (R68, R81, R82, R180) -/

inductive OpFmt | bf16 | f16 | t8 | t4 | s8 | s4
  deriving DecidableEq, Repr

def Pair.fmts : Pair → OpFmt × OpFmt
  | .bf16bf16 => (.bf16, .bf16) | .f16f16 => (.f16, .f16) | .bf16t8 => (.bf16, .t8) | .bf16t4 => (.bf16, .t4)
  | .t8t8 => (.t8, .t8) | .t8t4 => (.t8, .t4) | .t4t4 => (.t4, .t4) | .s8s8 => (.s8, .s8) | .s8s4 => (.s8, .s4)
  | .s4s4 => (.s4, .s4) | .t8bf16 => (.t8, .bf16) | .t4bf16 => (.t4, .bf16)

def OpFmt.width : OpFmt → Nat
  | .bf16 => 16 | .f16 => 16 | .t8 => 8 | .t4 => 4 | .s8 => 8 | .s4 => 4

/-- A float element in E8M10 (R81, R99). -/
def OpFmt.fl (t8 t4 : List Nat) : OpFmt → Nat → Fl
  | .bf16, x => (fmtOf .bf16).decode x
  | .f16, x => (fmtOf .f16).decode x
  | .t8, x => tabDecode t8 x
  | .t4, x => tabDecode t4 x
  | _, _ => .fin false 0 0

/-- Elements of an A row, and their count (R183). -/
def rowLen (sp : Bool) : Nat := if sp then 64 else 32
def rowBytes (p : Pair) (sp : Bool) : Nat := rowLen sp * (Pair.fmts p).1.width / 8

/-- Bytes of a slot's values that an operation reads (R180). -/
def slotBytes (p : Pair) : Nat := 1024 * (Pair.fmts p).2.width / 8

/-! ## One pass of the array (R103 to R107, R185, R187) -/

/-- The column of the A row that kept value `r` of a column stands at (R180). -/
def keptAt (meta64 r : Nat) : Nat := 4 * (r / 2) + bits meta64 (4 * (r / 2) + 2 * (r % 2)) 2

/-- The operand pairs of element (i, j): patterns of A and B in the order of their groups. -/
def operands (sp : Bool) (fa fb : OpFmt) (arow vals mta j : Nat) : List (Nat × Nat) :=
  (List.range 32).map fun r =>
    if sp then (lane fa.width arow (keptAt (bits mta (64 * j) 64) r), lane fb.width vals (32 * j + r))
    else (lane fa.width arow r, lane fb.width vals (32 * r + j))

/-- An F32 element after its two groups, and how often it saturated. -/
def floatElem (t8 t4 : List Nat) (fa fb : OpFmt) (sA sB : Fl) (ops : List (Nat × Nat)) (t : Nat) : Nat × Nat :=
  let fl (l : List (Nat × Nat)) : Fl := scaled (groupSum (l.map fun (a, b) => (fa.fl t8 t4 a, fb.fl t8 t4 b))) sA sB
  let x := tileUpdate t (fl (ops.take 16))
  let y := tileUpdate x.1 (fl (ops.drop 16))
  (y.1, x.2.toNat + y.2.toNat)

/-- An S32 element after its two groups. -/
def intElem (fa fb : OpFmt) (ops : List (Nat × Nat)) (t : Nat) : Nat × Nat :=
  let sum (l : List (Nat × Nat)) : Int := (l.map fun (a, b) => sgn fa.width a * sgn fb.width b).sum
  let x := tileUpdateInt t (sum (ops.take 16))
  let y := tileUpdateInt x.1 (sum (ops.drop 16))
  (y.1, x.2.toNat + y.2.toNat)

/-- OVFCNT saturates (R175). -/
def ovfAdd (o : W16) (n : Nat) : W16 := .ofNat 16 (satAdd 0xFFFF o.toNat n)

/-- The elements of a tile register, row by row; zeros when it is not VALID (R175). -/
def TReg.elems (t : TReg) : List Nat := if t.valid then lanes 32 1024 t.data.toNat else List.replicate 1024 0

def TReg.withElems (t : TReg) (l : List (Nat × Nat)) : TReg :=
  { t with data := .ofNat 32768 (ofLanes 32 (l.map (·.1))), ovf := ovfAdd t.ovf ((l.map (·.2)).sum) }

/-- The pass: the tile register after the operation, for the A rows and the slot it reads. -/
def arrayPass (t8 t4 : List Nat) (o : ArrOp) (rows : List Byte) (vals mta : Nat) (t : TReg) : TReg :=
  let (fa, fb) := Pair.fmts o.p
  let n := rowBytes o.p o.sp
  let arow (i : Nat) : Nat := natOf (slice rows (n * i) n)
  let sA := if o.unit then f32.decode 0x3F800000 else f32.decode (o.scale.toNat % 2 ^ 32)
  let sB := if o.unit then f32.decode 0x3F800000 else f32.decode (o.scale.toNat / 2 ^ 32)
  let rowsA := (List.range 32).map arow
  t.withElems <| (rowsA.zip (List.range 32)).flatMap fun (a, i) => (List.range 32).map fun j =>
    let ops := operands o.sp fa fb a vals mta j
    let e := t.elems.getD (32 * i + j) 0
    if Sys2Proof.Pair.isInt o.p then intElem fa fb ops e else floatElem t8 t4 fa fb sA sB ops e

/-! ## Rows in the own scratchpad (R183, R189) -/

def spBase : Nat := 0xFF00000000000000

/-- Addresses of `n` rows. -/
def rowAddrs (ea : W64) (p n : Nat) : List W64 := (List.range n).map fun i => ea + .ofNat 64 (i * p)

/-- The first byte of an `n`-byte range that lies outside the own scratchpad window. -/
def firstOutside (a : W64) (n : Nat) : Option W64 :=
  if n = 0 then none
  else if !isOwn a then some a
  else if a.toNat + n ≤ spBase + spSize then none
  else some (.ofNat 64 (spBase + spSize))

/-- The lowest row with a byte outside, by its position. -/
def rowOutside (n : Nat) : List W64 → Nat → Option (W64 × Nat)
  | [], _ => none
  | a :: r, i => match firstOutside a n with
    | some x => some (x, i)
    | none => rowOutside n r (i + 1)

def ownPieces (s : State) (n : Nat) (l : List W64) : List Piece := l.map fun a => ⟨.tile s.t.vt (a.toNat - spBase), n, 0⟩

/-- Rows that a word reads on-core, after its context's earlier accesses to them; an uncorrectable error traps (R285, R363). -/
def readRows (s : State) (n : Nat) (l : List W64) (k : State → List Byte → Res) : Res :=
  let ps := ownPieces s n l
  onCoreAccess s ps fun s =>
    match l.find? fun a => s.t.badRange srcSp (a.toNat - spBase) n with
    | some a => .trap s .uncorr a (.ofNat 64 srcSp)
    | none =>
      let s := ps.foldl correctPiece s
      k s (l.flatMap fun a => s.t.sp.read (a.toNat - spBase) n)

/-- Rows that a word stores on-core, in ascending order. -/
def storeRows (s : State) (rows : List (W64 × List Byte)) (k : State → Res) : Res :=
  let ps := rows.map fun (a, b) => (⟨.tile s.t.vt (a.toNat - spBase), b.length, 0⟩ : Piece)
  onCoreAccess s ps fun s =>
    k (rows.foldl (fun s (a, b) => spWrite (absorbOut s a.toNat b) s.t.vt (a.toNat - spBase) b) s)

/-! ## MMA and MMAS -/

/-- The kind test and the A-operand check of an MMA (R183, R185), then `k` with the addresses of the rows. -/
def mmaChecks (s : State) (p : Pair) (sp : Bool) (d : Fin 8) (ea : W64) (k : List W64 → Res) : Res :=
  let t := s.c.t[d]
  let n := rowBytes p sp
  let l := rowAddrs ea (s.c.pitch.toNat * 16) 32
  if t.valid && t.s32 != Sys2Proof.Pair.isInt p then .trap s .illegal t.status 0
  else if ea.toNat % 16 ≠ 0 then .trap s .misalign ea 0
  else
    match rowOutside n l 0 with
    | some (a, i) => .trap s .access a (.ofNat 64 i)
    | none => k l

/-- The status that a committed write of kind `s32` gives a tile register (R176). -/
def TReg.claim (t : TReg) (s32 : Bool) : TReg :=
  if t.valid then { t with s32 := s32, dirty := true }
  else { t with data := 0, valid := true, dirty := true, s32 := s32, ovf := 0 }

/-- The commit of an MMA on its tile register: the status of R176, and one more operation in flight (R177). -/
def State.claimT (s : State) (p : Pair) (d : Fin 8) : State :=
  let t := s.c.t[d].claim (Sys2Proof.Pair.isInt p)
  { s with c := s.c.setT d { t with inflight := t.inflight + 1 } }

/-- Values of the slot, or of the tile register or slot, that hold an uncorrectable error at the word (R363). -/
def mmaBad (s : State) (p : Pair) (sp : Bool) (d : Fin 8) (slot : Nat) : Option (W64 × Nat) :=
  if s.t.bad = [] then none
  else if s.t.badRange srcWb (slot * 0x800) (slotBytes p) then
    some (.ofNat 64 (0xFF20000000400000 + s.t.vt * 2 ^ 24 + slot * 0x800), srcWb)
  else if sp && s.t.badRange srcWb (0x40000 + slot * 0x100) 0x100 then
    some (.ofNat 64 (0xFF20000000440000 + s.t.vt * 2 ^ 24 + slot * 0x100), srcWb)
  else if regBad s (0x10000 + 4096 * d.val) 4096 then some (.ofNat 64 (0x10000 + 4096 * d.val), srcReg)
  else none

def mma (s : State) (p : Pair) (sp : Bool) (d : Fin 8) (a b c : Fin 32) : Out3 :=
  finish s <| srcX s a fldA false {} fun ea k => srcX s b fldB false k fun sl k => srcX s c fldC false k fun sc k =>
    commit s k <| mmaChecks s p sp d ea fun l =>
      if 8 ≤ s.t.arrq.length then .wait s .arrayFull
      else
        readRows s (rowBytes p sp) l fun s rows =>
          let slot := sl.toNat % 128
          match mmaBad s p sp d slot with
          | some (x, src) => .trap s .uncorr x (.ofNat 64 src)
          | none =>
            let o : ArrOp := { c := s.c.id, d := d, p := p, sp := sp, aAddr := ea, pitch := s.c.pitch.toNat * 16
                               rows := some rows, slot := slot, need := (s.t.slots.toList.getD slot {}).issued
                               wb := none, scale := sc, unit := c == 0 }
            let s := s.claimT p d
            .done { s with t := { s.t with arrq := s.t.arrq ++ [o] } }

def execMma (p : Pair) (d : Fin 8) (a b c : Fin 32) (s : State) : Out3 := mma s p false d a b c
def execMmas (p : Pair) (d : Fin 8) (a b c : Fin 32) (s : State) : Out3 := mma s p true d a b c

/-! ## Slots (R180, R181, R191) -/

/-- Granules of the weight buffer that an operation reads. -/
def ArrOp.slotGranules (o : ArrOp) : List Nat :=
  unitsOf 8 (o.slot * 0x800) (slotBytes o.p) ++ if o.sp then unitsOf 8 (0x40000 + o.slot * 0x100) 0x100 else []

/-- A granule of the slot that the operation reads is uncorrectable. -/
def ArrOp.badSlot (t : Tile) (o : ArrOp) : Bool := o.slotGranules.any fun u => t.bad.contains (srcWb, u)

/-- Readers that stand before the next slot write keep what they read (R181), each correctable error of it repaired by the first of
them (R381). -/
def captureOps (t : Tile) (k : Nat) (x : Slot) : List ArrOp → List (Nat × Nat) → List ArrOp × List (Nat × Nat)
  | [], soft => ([], soft)
  | o :: r, soft =>
    if o.slot = k ∧ o.need ≤ x.applied ∧ o.wb = none then
      let mine (g : Nat × Nat) : Bool := g.1 == srcWb && o.slotGranules.contains g.2
      let (l, soft') := captureOps t k x r (soft.filter fun g => !mine g)
      ({ o with wb := some (x.vals, x.mta), slotBad := o.rows == none && o.badSlot t, repaired := (soft.filter mine).length } :: l, soft')
    else
      let (l, soft') := captureOps t k x r soft
      (o :: l, soft')

def Tile.capture (t : Tile) (k : Nat) : Tile :=
  let (l, soft) := captureOps t k (t.slots.toList.getD k {}) t.arrq t.soft
  { t with arrq := l, soft := soft }

/-- A slot write takes effect: the copied values and metadata (R190), or the clearing of the slot (R191). -/
def Slot.apply (x : Slot) (w : SlotWrite) : Slot :=
  let x := { x with applied := x.applied + 1, pend := x.pend.drop 1 }
  if w.clear || w.bad then { x with svalid := false, vals := 0, mta := 0 }
  else
    match w.data with
    | none => x
    | some bs =>
      { x with
        svalid := true
        vals := .ofNat 16384 (natOf (overlay (bytesOf 2048 x.vals.toNat) 0 (bs.take w.vlen)))
        mta := if w.sp then .ofNat 2048 (natOf (slice bs w.vlen 256)) else x.mta }

/-- The next write of slot `k` takes effect, and the clears that follow it at once. -/
def Tile.applySlot (belay : Bool) (k : Nat) : Nat → Tile → Tile
  | 0, t => t
  | fuel + 1, t =>
    match (t.slots.toList.getD k {}).pend with
    | [] => t
    | w :: r =>
      let t := ((t.capture k).noteSlot belay k).mapSlot k (·.apply w)
      let t := if w.clear || w.bad then t else (t.heal srcWb (k * 0x800) w.vlen).heal srcWb (0x40000 + k * 0x100) (if w.sp then 256 else 0)
      match r with
      | v :: _ => if v.clear then Tile.applySlot belay k fuel t else t
      | [] => t

/-- A slot write enters the slot's order; a clear with nothing before it takes effect at once. -/
def Tile.slotWrite (t : Tile) (belay : Bool) (k : Nat) (w : SlotWrite) : Tile :=
  let first := (t.slots.toList.getD k {}).pend == []
  let t := t.mapSlot k fun x => { x with issued := x.issued + 1, pend := x.pend ++ [w] }
  if w.clear && first then t.applySlot belay k 1 else t

/-! ## MMEM (R188 to R195) -/

/-- The checks of R189 on address and pitch. -/
def rowChecks (s : State) (ea : W64) (p : W64) (n : Nat) (k : List W64 → Res) : Res :=
  let l := rowAddrs ea p.toNat 32
  if ea.toNat % 16 ≠ 0 then .trap s .misalign ea 0
  else if p.toNat % 16 ≠ 0 then .trap s .misalign p 1
  else
    match rowOutside n l 0 with
    | some (a, i) => .trap s .access a (.ofNat 64 i)
    | none => k l

/-- The tile register holds an uncorrectable error (R363). -/
def onCoreT (s : State) (d : Fin 8) (r : Res) : Res := onCoreReg s (0x10000 + 4096 * d.val) 4096 r

/-- The wait for a tile register in flight is the destination wait of R18, after the validity rule and before the checks of R189
(R23, R114). -/
def execMld (s32 : Bool) (d : Fin 8) (a b : Fin 32) (s : State) : Out3 :=
  finish s <| srcX s a fldA false {} fun ea k => srcX s b fldB false k fun p k => commit s k <|
    waitT s d fun _ => rowChecks s ea (if b = 0 then 128 else p) 128 fun l => readRows s 128 l fun s bs =>
      .done (putT s d { data := .ofNat 32768 (natOf bs), valid := true, dirty := true, s32 := s32 })

/-- The 32 rows of a tile register as bytes (R174). -/
def TReg.rows (t : TReg) : List (List Byte) := (List.range 32).map fun i => slice t.bytes (128 * i) 128

/-- The stored tile register is the data field: one in flight is empty, and is waited for with the sources (R20, R23). -/
def execMst (d : Fin 8) (a b : Fin 32) (s : State) : Out3 :=
  finish s <| srcX s a fldA false {} fun ea k => srcX s b fldB false k fun p k => waitT s d fun t => commit s k <|
    rowChecks s ea (if b = 0 then 128 else p) 128 fun l =>
      onCoreT s d <| storeRows s (l.zip t.rows) .done

def wlenBytes : WLen → Nat
  | .b512 => 512 | .k1 => 1024 | .k2 => 2048

def execWbld (len : WLen) (sp : Bool) (d a : Fin 32) (s : State) : Out3 :=
  let vl := wlenBytes len
  let n := vl + (if sp then 256 else 0)
  finish s <| srcX s a fldA false {} fun ea k => srcX s d fldD false k fun sl k => commit s k <|
    (checkAddr s ea n 64 .load .load).bind fun s ps =>
      let slot := sl.toNat % 128
      let issue (s : State) (data : Option (List Byte)) : State :=
        { s with t := s.t.slotWrite (s.g.belay != 0) slot { data := data, vlen := vl, sp := sp } }
      if isOwn ea then onCoreRead s ea n fun s bs => .done (issue s (some bs))
      else
        startAcc s { kind := .wbld slot ((s.t.slots.toList.getD slot {}).issued), va := ea, size := n, pieces := ps }
          fun s => .done (issue s none)

/-- The slots that a mask names. -/
def maskSlots (lo hi : W64) : List Nat :=
  (List.range 128).filter fun i => if i < 64 then lo.getLsbD i else hi.getLsbD (i - 64)

def execWbinv (a b : Fin 32) (s : State) : Out3 :=
  finish s <| srcX s a fldA false {} fun lo k => srcX s b fldB false k fun hi k => commit s k <|
    .done { s with t := (maskSlots lo hi).foldl (fun t i => t.slotWrite (s.g.belay != 0) i { clear := true }) s.t }

/-! ## The fused epilogue (R192 to R195) -/

/-- The control word of `mepi`. -/
structure MepiCtl where
  dpitch : Nat
  clro   : Bool
  ovfw   : Bool
  bias   : Bool
  scl    : Bool
  et     : Nat
  act    : Nat

def mepiCtl (x : Nat) : Option MepiCtl :=
  let et := bits x 4 4
  if bits x 48 16 ≠ 0 ∨ bits x 13 19 ≠ 0 ∨ bits x 8 1 ≠ 0 ∨ bits x 2 2 ≠ 0 ∨ bits x 0 2 = 3
      ∨ !(et == 9 || et == 8 || et == 12 || et == 13 || et == 1) then none
  else some { dpitch := bits x 32 16, clro := bits x 12 1 == 1, ovfw := bits x 11 1 == 1, bias := bits x 10 1 == 1
              scl := bits x 9 1 == 1, et := et, act := bits x 0 2 }

/-- Width in bits of a destination element. -/
def MepiCtl.width (m : MepiCtl) : Nat := if m.et = 8 ∨ m.et = 9 then 16 else if m.et = 13 then 4 else 8

/-- A rounded F32 result; one that overflows from finite operands becomes the largest finite value and counts (R194). -/
def satStep (r : FRes) : Nat × Nat := if r.2 &&& OF ≠ 0 then (r.1 - 1, 1) else (r.1, 0)

def reluF (x : Nat) : Nat :=
  match f32.decode x with
  | .nan _ => x
  | v => if v.sign then 0 else x

/-- clamp of R194; a NaN bound is ignored. -/
def clampF (lo hi x : Nat) : Nat :=
  let a := f32.decode lo
  let b := f32.decode hi
  let v := f32.decode x
  if v.isNan then x
  else if !a.isNan && !b.isNan && ltFl false b a then hi
  else if !a.isNan && ltFl false v a then lo
  else if !b.isNan && ltFl false b v then hi
  else x

/-- The conversion of R195: the destination pattern and whether it counts. -/
def mepiConv (t : Tile) (et x : Nat) : Nat × Nat :=
  match et with
  | 12 => let e := tabEncode 128 t.t8 t.nan8.toNat x; (e.code, e.sat.toNat)
  | 13 => let e := tabEncode 8 t.t4 t.nan4.toNat x; (e.code, e.sat.toNat)
  | 1 =>
    match f32.decode x with
    | .nan _ => (0, 1)
    | .inf sg => (if sg then 0x80 else 0x7F, 1)
    | .fin sg m e =>
      let v := (toInt 0 sg m e).1
      let c := clampInt (-128) 127 v
      (pat 8 c, (decide (c ≠ v)).toNat)
  | et =>
    let f := fmtOf (if et = 8 then .f16 else .bf16)
    let r := fConv f f32 0 x
    if (f32.decode x).isFin && r.2 &&& OF != 0 then (r.1 - 1, 1) else (r.1, 0)

/-- Element of column `j` through the epilogue; `par` is the parameter block. -/
def mepiElem (t : Tile) (m : MepiCtl) (s32 : Bool) (par : List Byte) (j x : Nat) : Nat × Nat :=
  let w (o : Nat) : Nat := natOf (slice par o 4)
  let x := if s32 then (fOfInt f32 0 (sgn 32 x)).1 else x
  let a := if m.scl then satStep (Machine.fmul f32 0 x (w (4 * j))) else (x, 0)
  let b := if m.bias then satStep (Machine.fadd f32 0 a.1 (w (0x80 + 4 * j))) else (a.1, 0)
  let y := if m.act = 1 then reluF b.1 else if m.act = 2 then clampF (w 0x100) (w 0x104) b.1 else b.1
  let c := mepiConv t m.et y
  (c.1, a.2 + b.2 + c.2)

/-- The parts of the parameter block in use, as offset and length (R193). -/
def MepiCtl.parts (m : MepiCtl) : List (Nat × Nat) :=
  (if m.scl then [(0, 128)] else []) ++ (if m.bias then [(128, 128)] else []) ++ (if m.act = 2 then [(256, 8)] else [])

def partOutside (b : W64) : List (Nat × Nat) → Option W64
  | [] => none
  | (o, n) :: r => match firstOutside (b + .ofNat 64 o) n with
    | some x => some x
    | none => partOutside b r

/-- The table of a destination type is not monotone: the width that ENCODE reports (R100, R194). -/
def encodeFault (t : Tile) (et : Nat) : Option Nat :=
  if et = 12 ∧ !monotone 128 t.t8 then some 8 else if et = 13 ∧ !monotone 8 t.t4 then some 4 else none

/-- Read the parts of the parameter block that are in use; the other bytes of the image are zero and unused. -/
def readParts (s : State) (b : W64) : List (Nat × Nat) → List Byte → (State → List Byte → Res) → Res
  | [], im, k => k s im
  | (o, n) :: r, im, k => onCoreRead s (b + .ofNat 64 o) n fun s bs => readParts s b r (overlay im o bs) k

/-- The fused epilogue once its tile register is there. DESIGN CHOICE (log 42): the parameter block is read once, before any store,
also where it overlaps the destination. -/
def mepiBody (s : State) (d : Fin 8) (ea b x : W64) (t : TReg) : Res :=
  match mepiCtl x.toNat with
  | none => .trap s .illegal x 0
  | some m =>
    match encodeFault s.t m.et with
    | some w => .trap s .encode (.ofNat 64 w) 0
    | none =>
      let n := m.width * 4
      let p := if m.dpitch = 0 then n else m.dpitch
      let l := rowAddrs ea p 32
      let oa := ea + .ofNat 64 (32 * p)
      if m.parts ≠ [] ∧ b.toNat % 64 ≠ 0 then .trap s .misalign b 0
      else if ea.toNat % 16 ≠ 0 then .trap s .misalign ea 0
      else
        match rowOutside n l 0, (if m.ovfw then firstOutside oa 4 else none), partOutside b m.parts with
        | some (a, i), _, _ => .trap s .access a (.ofNat 64 i)
        | none, some a, _ => .trap s .access a 32
        | none, none, some a => .trap s .access a 0
        | none, none, none =>
          readParts s b m.parts (List.replicate 0x108 0) fun s par => onCoreT s d <|
            let es := (t.elems.zip (List.range 1024)).map fun (e, i) => mepiElem s.t m (t.valid && t.s32) par (i % 32) e
            let ovf := ovfAdd t.ovf ((es.map (·.2)).sum)
            let row (i : Nat) : List Byte := bytesOf n (ofLanes m.width ((slice32 es i).map (·.1)))
            let stores := (l.zip (List.range 32)).map fun (a, i) => (a, row i)
            storeRows s (stores ++ (if m.ovfw then [(oa, bytesOf 4 ovf.toNat)] else [])) fun s =>
              let new := if m.clro then 0 else ovf
              .done (if new = t.ovf then s else markT s d { t with ovf := new })
where
  slice32 (l : List (Nat × Nat)) (i : Nat) : List (Nat × Nat) := (l.drop (32 * i)).take 32

def execMepi (d : Fin 8) (a b c : Fin 32) (s : State) : Out3 :=
  finish s <| srcX s a fldA false {} fun ea k => srcX s b fldB false k fun b k => srcX s c fldC false k fun x k =>
    waitT s d fun t => commit s k <| mepiBody s d ea b x t

/-! ## MCTL (R196, R197) -/

def execMz (s32 : Bool) (d : Fin 8) (s : State) : Out3 :=
  finish s <| waitT s d fun _ => .done (putT s d { valid := true, dirty := true, s32 := s32 })

def execMstat (d : Fin 32) (a : Fin 8) (s : State) : Out3 := finish s <| putResult s d (s.c.t[a].status) true

def execMcpy (d a : Fin 8) (s : State) : Out3 :=
  finish s <| waitT s a fun x => waitT s d fun _ => onCoreT s a <| .done (putT s d { x with dirty := true })

/-- The element-wise sum of `madd`. -/
def maddElems (s32 : Bool) (x y : TReg) : List (Nat × Nat) :=
  (x.elems.zip y.elems).map fun (a, b) =>
    let r := if s32 then tileUpdateInt a (sgn 32 b) else tileUpdate a (f32.decode b)
    (r.1, r.2.toNat)

def execMadd (d a : Fin 8) (s : State) : Out3 :=
  finish s <| waitT s a fun y => waitT s d fun x =>
    if x.valid && y.valid && x.s32 != y.s32 then .trap s .illegal x.status 0
    else
      let s32 := if x.valid then x.s32 else y.valid && y.s32
      onCoreT s a <| onCoreT s d <| .done (putT s d ((x.claim s32).withElems (maddElems s32 (x.claim s32) y)))

def execMscale (d : Fin 8) (a : Fin 32) (s : State) : Out3 :=
  finish s <| srcX s a fldA false {} fun v k => waitT s d fun x => commit s k <|
    if x.valid && x.s32 then .trap s .illegal x.status 0
    else
      let y := x.claim false
      onCoreT s d <| .done (putT s d (y.withElems (y.elems.map fun e => satStep (Machine.fmul f32 0 e (v.toNat % 2 ^ 32)))))

def execMrow (d : Fin 32) (a : Fin 8) (b : Fin 32) (s : State) : Out3 :=
  finish s <| waitT s a fun x => srcX s b fldB false {} fun r k => commit s k <| onCoreT s a <|
    putWhole s d 32 ((x.elems.drop (32 * bits r.toNat 1 5 + 16 * bits r.toNat 0 1)).take 16)

def execMwait (d : Fin 8) (s : State) : Out3 := finish s <| waitT s d fun _ => .done s

def execMovf (clr : Bool) (d : Fin 32) (a : Fin 8) (s : State) : Out3 :=
  finish s <| waitT s a fun x => dstX s d anyWord <|
    let s' := writeX s d (.ofNat 64 x.ovf.toNat) true
    .done (if clr then markT s' a { x with ovf := 0, dirty := true } else s')

/-! ## The array and the slots in the background -/

/-- What a follow-on finds uncorrectable when it leaves the array queue: the address and SRC code (R350, R362). -/
def followBad (t : Tile) (o : ArrOp) : Option (W64 × Nat) :=
  if (t.bad = [] ∧ !o.slotBad) ∨ o.rows ≠ none then none
  else
    match (rowAddrs o.aAddr o.pitch 32).find? fun a => t.badRange srcSp (a.toNat - spBase) (rowBytes o.p o.sp) with
    | some a => some (a, srcSp)
    | none => if o.slotBad || (o.wb == none && o.badSlot t) then
        some (.ofNat 64 (0xFF20000000400000 + t.vt * 2 ^ 24 + o.slot * 0x800), srcWb) else none

/-- The correctable errors that the pass has read are repaired (R381): of its tile register, of its slot, and of a follow-on's A
rows; those of a slot that it read before a write of it count now. -/
def repairPass (s : State) (o : ArrOp) : State :=
  let s : State := { s with m := { s.m with corrErr := s.m.corrErr + .ofNat 64 o.repaired } }
  if s.t.soft = [] then s
  else
    let s := repairMarks s s.t.vt srcReg (unitsOf 8 (o.c * 0x20000 + 0x10000 + 4096 * o.d.val) 4096)
    let s := if o.wb = none then repairMarks s s.t.vt srcWb o.slotGranules else s
    if o.rows = none then repairMarks s s.t.vt srcSp ((rowAddrs o.aAddr o.pitch 32).flatMap fun a =>
        unitsOf 8 (a.toNat - spBase) (rowBytes o.p o.sp)) else s

/-- The array performs the operation at the head of its queue (R185, R200); none begins once a halt of the gang has begun (R369). An
uncorrectable error of the tile register stays with the sum. -/
def execArrayPass (vt : Nat) (s : State) : Out3 :=
  match s.tile? vt with
  | none => off "ARRAY_PASS"
  | some t =>
    match t.arrq with
    | [] => off "ARRAY_PASS"
    | o :: r =>
      let x := t.slots.toList.getD o.slot {}
      if s.g.still vt || s.g.parks vt || (o.wb = none ∧ x.applied < o.need) then off "ARRAY_PASS"
      else
        let s := s.focus vt o.c
        let s := { s with t := { s.t with arrq := r } }
        match followBad t o with
        | some (a, src) =>
          let u := s.c.t[o.d]
          .next (raiseDeferred { s with c := s.c.setT o.d { u with inflight := u.inflight - 1 } }
            ⟨.uncorr, a, .ofNat 64 (src + 16)⟩)
        | none =>
          let n := rowBytes o.p o.sp
          let rows := match o.rows with
            | some b => b
            | none => (rowAddrs o.aAddr o.pitch 32).flatMap fun a => t.sp.read (a.toNat - spBase) n
          let (vals, mta) := match o.wb with
            | some w => w
            | none => (x.vals, x.mta)
          let tr := arrayPass t.t8 t.t4 o rows vals.toNat mta.toNat (s.c.t[o.d])
          .next (repairPass (markT s o.d { tr with inflight := tr.inflight - 1 }) o)

/-- The position of the access that fetches write `seq` of a slot. -/
def Ctx.wbldAcc (c : Ctx) (slot seq : Nat) : Option (Nat × Access) :=
  findNth (fun a => a.kind == .wbld slot seq) c.accs 0

/-- The bytes of the oldest `wbld` of a slot land (R181, R190); an error in them clears the slot and is delivered as a
deferred fault (R364). -/
def execWbldLanded (vt slot : Nat) (s : State) : Out3 :=
  match s.tile? vt with
  | none => off "WBLD_LANDED"
  | some t =>
    let x := t.slots.toList.getD slot {}
    match x.pend with
    | [] => off "WBLD_LANDED"
    | w :: r =>
      let belay := s.g.belay != 0
      if s.g.still vt then off "WBLD_LANDED"
      else if w.data ≠ none ∨ w.clear then .next (s.mapTile vt fun t => t.applySlot belay slot 130)
      else
        match (s.ctxsOf t).filterMap fun c => (c.wbldAcc slot x.applied).map fun p => (c.id, p) with
        | [] => off "WBLD_LANDED"
        | (c, i, a) :: _ =>
          if a.reissue || a.page.isSome || a.pieces.any (pieceAbsent s) then off "WBLD_LANDED"
          else
            let s := s.focus vt c
            let (s, a) := perform s vt a
            let s := { s with c := { s.c with accs := dropNth s.c.accs i } }
            let w := match a.fault with
              | some _ => { w with bad := true }
              | none => { w with data := a.data }
            let s := match a.fault with
              | some f => raiseDeferred s f
              | none => s
            .next { s with t := (s.t.mapSlot slot fun x => { x with pend := w :: r }).applySlot belay slot 130 }

end Sys2Proof.Machine
end

