-- ==== Sys2Proof/Machine/Schedule.lean ====
section
/-! DEFINITION. Interrupts (R31, R34), readiness and the choice of the running context (R229 to R232), and the end of a
context (R40). -/

namespace Sys2Proof.Machine

/-! ## Interrupts -/

/-- `ip` (R31): DEBUG, ENGINE, SOFT, TIMER, PREEMPT. -/
def Ctx.ip (c : Ctx) (time : Nat) : BitVec 5 :=
  .ofNat 5 (c.ipPre.toNat + 2 * (decide (c.tmatch.toNat ≤ time)).toNat + 4 * c.ipSoft.toNat
    + 8 * (decide (c.frecs ≠ [])).toNat + 16 * c.ipDebug.toNat)

/-- The pending interrupts that `ie` enables. -/
def Ctx.armed (c : Ctx) (time : Nat) : BitVec 5 := c.ip time &&& c.ie

/-- Interrupts may be taken in the context's mode (R31). -/
def Ctx.maskOpen (c : Ctx) : Bool := !c.status.mode || c.status.ie

/-- The interrupt to take, in the order DEBUG, PREEMPT, ENGINE, TIMER, SOFT (R34). -/
def Ctx.irq (c : Ctx) (time : Nat) : Option Cause :=
  if !c.maskOpen then none
  else
    let p := c.armed time
    if p.getLsbD 4 then some .debug
    else if p.getLsbD 0 then some .preempt
    else if p.getLsbD 3 then some .engine
    else if p.getLsbD 1 then some .timer
    else if p.getLsbD 2 then some .soft
    else none

/-- `efault` as a word, of the record shown first (R357). -/
def FaultRec.word (r : FaultRec) : W64 :=
  .ofNat 64 (2 ^ 63 + r.status.toNat * 2 ^ 48 + r.seq.toNat * 2 ^ 32 + r.queue * 2 ^ 28 + r.op.toNat * 2 ^ 24 + r.base.toNat)
def efaultWord : List FaultRec → W64
  | [] => 0
  | r :: _ => r.word

/-- Take an interrupt of the focused context (R34, R361). -/
def takeIrq (s : State) (z : Cause) : State :=
  match z with
  | .timer => trapEntry s z (.ofNat 64 s.time) 0
  | .engine => trapEntry s z (efaultWord s.c.frecs) 0
  | .debug => trapEntry { s with c := { s.c with ipDebug := false } } z s.c.dbg.msg 0
  | z => trapEntry s z 0 0

/-! ## Readiness -/

def Tile.queue (t : Tile) (q : Nat) : EQueue := t.eq.toList.getD q {}

def Out.cmd? : Out → Option (Nat × Cmd)
  | .cmd q c => some (q, c)
  | _ => none

/-- Commands of queue `q` that are pushed and have not completed: in the queue, entering it, or gated (R344, R387). -/
def Tile.cmdsOf (t : Tile) (q : Nat) : List Cmd :=
  (t.queue q).cmds ++ ((t.pushed ++ t.lash.gated.filterMap Out.cmd?).filter (·.1 == q)).map (·.2)

/-- Free beat slots of an engine queue (R344). -/
def Tile.freeSlots (t : Tile) (q : Nat) : Nat := 16 - ((t.cmdsOf q).map (·.beats.length)).sum

/-- Queues with an incomplete command, as a mask (R259). -/
def Tile.busyMask (t : Tile) : Nat :=
  ((List.range 7).map fun q => (decide (t.cmdsOf q ≠ [])).toNat * 2 ^ q).sum

def levelIdx : Level → Nat
  | .ctx => 6 | .tile => 0 | .gang => 1 | .grid => 2 | .dom => 3
def wlevelIdx : WLevel → Nat
  | .gang => 4 | .grid => 5

def Ctx.bar (c : Ctx) (i : Nat) : BarPos := c.bars.toList.getD i {}

/-- Units that each of q0 to q3 and q11 holds (R257). -/
def streamCap : Nat := 128

/-- A pair reads the T8 or the T4 table. -/
def Pair.t8 : Pair → Bool
  | .bf16t8 => true | .t8t8 => true | .t8t4 => true | .t8bf16 => true | _ => false
def Pair.t4 : Pair → Bool
  | .bf16t4 => true | .t8t4 => true | .t4t4 => true | .t4bf16 => true | _ => false

/-- Committed matrix operations that have not finished: queued, or waiting for their copy (R185, R350). -/
def Tile.pendingOps (t : Tile) : List ArrOp :=
  t.arrq ++ ((List.range 7).flatMap fun q => (t.cmdsOf q).filterMap (·.follow)) ++ t.asm.filterMap (·.follow)

/-- A committed user of a decode table has not finished reading it (R97). -/
def Tile.tableBusy (t : Tile) (t8 t4 : Bool) : Bool :=
  t.pendingOps.any fun o => (t8 && Pair.t8 o.p) || (t4 && Pair.t4 o.p)

/-- Every message that context `c` of a tile has sent up to place `lim` of the order of sends is delivered (R240). -/
def ownDelivered (s : State) (t : Tile) (c lim : Nat) : Bool :=
  (s.undelivered t.vt c).all (fun m => lim < m.seq)
    && (t.ni ++ t.lash.gated.filterMap Out.rec?).all fun n => n.c != c || lim < n.seq

/-- A context waiting at a block would be examined with success, as far as can be told before (R230, R231). A word that is
examined too early blocks again and changes nothing else. -/
def condHolds (s : State) (t : Tile) (c : Ctx) : Block → Bool
  | .xreg r => (c.x[r]).tag.isFull
  | .vreg r => (c.v[r]).tag != .awaiting
  | .hreg r => (c.h[r]).tag.isFull
  | .fill r =>
    if r < 32 then (c.regX r).tag != .awaiting
    else if r < 64 then (c.regV (r - 32)).tag != .awaiting
    else (c.regH (r - 64)).tag != .awaiting
  | .portEmpty d n => n < c.inq[d].length
  | .credit d =>
    match neighbour s.g t.vt c.portcfg d with
    | some vt => s.credit vt c.id (opposite d) (.word 0 true)
    | none => true
  | .streamIn q n => n ≤ (c.qin.toList.getD q []).length
  | .streamOut n => c.qout.length + n ≤ streamCap
  | .engine q n => n ≤ t.freeSlots q
  | .efence mask => t.busyMask &&& mask == 0
  | .ni => niCount t < 8
  | .inflight r => (c.t[r]).inflight == 0
  | .arrayFull => t.arrq.length < 8
  | .outstanding => c.accs.length < 16
  | .home => !(t.gatesGlob c.id || t.belay.held.any (fun x => x.agent == c.id) || s.storesOf t.vt c.id != [])
  | .ordered rd wr =>
    !(wr && (s.storesOf t.vt c.id != [] || (s.g.belay == 0 && t.gatesGlob c.id))) && c.accs.all fun a =>
      !(rd || (wr && a.kind.acts)) || a.performed || !(a.absent s || a.gatedBy t)
  | .bar lv =>
    match (c.bar (levelIdx lv)).arr with
    | .waiting => false
    | _ => lv != .ctx || ownDelivered s t c.id (c.bar 6).seq
  | .wire lv => match (c.bar (wlevelIdx lv)).arr with
    | .waiting => false
    | _ => true
  | .wfe => c.evt
  | .wfi => c.armed s.time != 0
  | .record => c.recv.isSome
  | .page tag => !((s.m.vfs.toList.getD s.g.vf {}).reqs.any fun r => r.tag.toNat == tag)
  | .pull l => !(s.m.vfs.toList.getD s.g.vf {}).mig.pulling.contains l
  | .prqFull => (s.m.vfs.toList.getD s.g.vf {}).prqUsed < 255
  | .parkFull gr gc => !(s.g.gangs.any fun g => g.gr == gr && g.gc == gc && (!g.resident || g.halting || g.halted))
      || ((s.g.bound (gr, gc)).map (·.body.parkBytes)).sum + 32 ≤ s.g.parkCap
  | .tables t8 t4 => !t.tableBusy t8 t4
  | .service => false

/-- The runtime answers a trap of the context (R448). -/
def Ctx.inHandler (c : Ctx) : Bool :=
  c.status.mode && (inRuntime c.pc.toNat && c.pc == Config.runtimeVector)

/-- The context takes an interrupt, a deferred fault or a denial at the word it is blocked at (R34, R364, R332), or a debugger's
step examines the word again (R379). -/
def Ctx.roused (c : Ctx) (s : State) (b : Block) : Bool :=
  b != .service && (c.dfaults != [] || (b != .wfi && (c.irq s.time).isSome)
    || (c.dbg.step && (match b with | .fill _ => false | _ => true)))

/-- A squall halt holds the context at its blocked word: it is in S mode with `status.IE` = 0, so it does not take PREEMPT
(R369). A `wfi` is not held, since PREEMPT, which is pending then, ends it (R144). -/
def Ctx.held (c : Ctx) (s : State) (vt : Nat) : Bool :=
  c.status.mode && !c.status.ie && s.g.halts vt

/-- What the context waits for at its word has come, so the word goes on before anything else is taken (R365): a barrier or
vote generation that has completed or been abandoned, unless a halt of the gang had begun before, or a record that the dispatch event
has delivered. -/
def Ctx.released (s : State) (t : Tile) (c : Ctx) : Bool :=
  match c.run with
  | .blocked (.bar lv) => condHolds s t c (.bar lv) && !((c.bar (levelIdx lv)).after && s.g.halts t.vt)
  | .blocked (.wire lv) => condHolds s t c (.wire lv) && !((c.bar (wlevelIdx lv)).after && s.g.halts t.vt)
  | .blocked .record => c.recv.isSome
  | _ => false

/-- Bytes that an entry of the gated buffer holds: its data, and an 8-byte address (log 15). -/
def Out.size : Out → Nat
  | .msg m => m.body.parkBytes
  | .store _ _ bs _ => 8 + bs.length
  | .record r => 8 * (r.r.payload.length + 2)
  | .cmd _ c => 16 * c.beats.length
  | .arrive _ _ _ _ => 16

/-- The gated buffer or the undo log is full (R387). -/
def Lash.full (l : Lash) : Bool := 512 ≤ l.undo.length || 0x10000 ≤ (l.gated.map Out.size).sum

/-- The interval ends early. -/
def Lash.early? (l : Lash) : Bool := l.due || l.full

/-- The lashed interval of the tile has ended, so the tile issues nothing until the exchange (R387). -/
def Tile.lashStop (t : Tile) : Bool :=
  t.lash.role != 0 && (t.lash.waiting || t.lash.early? || 4096 ≤ t.lash.count)

/-- R229. -/
def Ctx.ready (c : Ctx) (s : State) (t : Tile) : Bool :=
  !c.dbg.halted && !s.g.stopped t.vt && !t.lashStop &&
  match c.run with
  | .ready => true
  | .blocked b => (b == .wfi || c.released s t || !c.held s t.vt) && (condHolds s t c b || c.roused s b)
  | _ => false

/-- The contexts of a tile that are ready, by number. -/
def readyIds (s : State) (t : Tile) : List Nat := ((s.ctxsOf t).filter fun c => c.ready s t).map (·.id)

/-- The context that issues next on a tile core: the running one unless it stands at a switch point or is not ready,
else the next ready one of the ring (R231). -/
def nextCtx (s : State) (t : Tile) : Option Nat :=
  let ids := readyIds s t
  if !t.switch && ids.contains t.cur then some t.cur
  else ([1, 2, 3, 4].map fun k => (t.cur + k) % 4).find? ids.contains

/-- A role of the focused grid is halted by the debugger, so no cycle is counted against a `runcap` (R378). -/
def State.frozenRole (s : State) : Bool :=
  s.allCtxs.any (·.2.dbg.halted) || s.allTiles.any fun t => t.ldr.dbg.halted || t.str.dbg.halted

/-- A turn of context `c` begins on the focused tile with this cycle, or goes on (R232). One that begins at an A word reads it
again (R231). -/
def beginTurn (s : State) (c : Nat) : State :=
  if !s.t.switch && s.t.cur == c then s
  else { s with t := { s.t with cur := c, switch := false }, c := { s.c with turn := if s.frozenRole then 0 else 1, fetched := none } }

/-- The running context's turn ends when its count reaches CAP and another context is ready; with none the count
restarts (R232). -/
def endTurn (s : State) : State :=
  if s.c.runcap = 0 ∨ s.c.turn < s.c.runcap.toNat ∨ s.frozenRole then s
  else if (readyIds s s.t).any (· != s.c.id) then atSwitch s
  else { s with c := { s.c with turn := 0 } }

/-! ## The end of a context (R40, R241, R344) -/

/-- The queues that fault records name resume (R356, R357). -/
def Tile.resume (t : Tile) (rs : List FaultRec) : Tile :=
  { t with eq := Vector.ofFn fun (i : Fin 7) =>
      if rs.any fun r => r.queue == i.val + 4 then { t.eq[i] with halted := false } else t.eq[i] }

/-- A follow-on MMA is not issued: its contribution to INFLIGHT ends (R350). -/
def Ctx.unflight (c : Ctx) (o : ArrOp) : Ctx :=
  if c.id = o.c then c.setT o.d { c.t[o.d] with inflight := (c.t[o.d]).inflight - 1 } else c

end Sys2Proof.Machine
end

