-- ==== Sys2Proof/Machine/Engine.lean ====
section
/-! DEFINITION. The asynchronous engines (R344 to R359): submission of commands, their checks, their accesses, and their
completion or failure. Queue `q` of a tile is 0 to 6, for the ports q4 to q10. -/

namespace Sys2Proof.Machine

/-! ## Beats and headers (R344 to R346) -/

def beatsNeeded (hdr : Nat) : Nat := if bits hdr 56 4 = 0 ∨ 4 < bits hdr 56 4 then 1 else bits hdr 56 4

def Cmd.lo (c : Cmd) (i : Nat) : Nat := (c.beats.getD i (0, 0)).1.toNat
def Cmd.hi (c : Cmd) (i : Nat) : Nat := (c.beats.getD i (0, 0)).2.toNat
def Cmd.op (c : Cmd) : Nat := bits (c.lo 0) 60 4
def Cmd.crcchk (c : Cmd) : Bool := bits (c.lo 0) 52 1 == 1
def Cmd.notify (c : Cmd) : Bool := bits (c.lo 0) 51 1 == 1
def Cmd.stream (c : Cmd) : Bool := bits (c.lo 0) 50 1 == 1
def Cmd.rel (c : Cmd) : Bool := bits (c.lo 0) 48 1 == 1
def Cmd.rop (c : Cmd) : Nat := bits (c.lo 0) 44 4
def Cmd.et (c : Cmd) : Nat := bits (c.lo 0) 40 4
def Cmd.sctx (c : Cmd) : Nat := bits (c.lo 0) 38 2
def Cmd.sdir (c : Cmd) : Bool := bits (c.lo 0) 37 1 == 1
def Cmd.sport (c : Cmd) : Nat := bits (c.lo 0) 35 2
def Cmd.csel (c : Cmd) : Nat := bits (c.lo 0) 32 3
def Cmd.len (c : Cmd) : Nat := bits (c.lo 0) 0 32
/-- Selected elements of a GATHER or SCATTER, one bit each. -/
def Cmd.elemMask (c : Cmd) : Nat := bits (c.hi 0) 32 32 + 2 ^ 32 * bits (c.hi 2) 32 32
def hdrFollow (hdr : Nat) : Bool := bits hdr 49 1 == 1

/-- The operation belongs to the queue's engine (R344). -/
def opOfQueue (q op : Nat) : Bool :=
  if q < 4 then op == 1 || op == 2 || op == 5 || op == 10
  else if q < 6 then op == 3 || op == 4 || op == 5
  else op == 6 || op == 7 || op == 8 || op == 9 || op == 5 || op == 10

/-- The reduction applies to the element type (R346). -/
def ropFits (rop et : Nat) : Bool := (rop < 3 && et < 12) || (rop < 6 && et < 8)

/-- An element of 4 or 8 bytes. -/
def et48 (et : Nat) : Bool := et == 4 || et == 5 || et == 10 || et == 6 || et == 7 || et == 11

/-- The command checks of R347 step 1 against R345 and R346: true where the command is BADCMD. DESIGN CHOICE (log 42): so is a
STREAM copy whose LEN is not a multiple of 8 or whose unused VA is not 0, where R349 names no status. -/
def badCmd (q : Nat) (c : Cmd) : Bool :=
  let h := c.lo 0
  let x := c.hi 0
  let op := c.op
  let fol := hdrFollow h
  let nb : Nat := match op with
    | 1 => if c.crcchk then 3 else 2
    | 2 => 4 | 3 => 3 | 4 => 3 | 5 => 1 | 6 => 3 | 7 => 3 | 8 => 3 | 9 => 2 | _ => 2
  let used48 := op == 3 || op == 4 || op == 9
  let lvl := bits (c.lo 2) 0 3
  !opOfQueue q op || bits h 56 4 != nb || bits h 53 3 != 0
    || (c.crcchk && !(op == 1 || op == 2)) || (c.stream && op != 1)
    || (fol && (!(op == 1 || op == 2) || 4 ≤ c.agent))
    || (if op == 6 || op == 9 then 5 < c.rop else c.rop != 0)
    || (if used48 then !et48 c.et else if op == 6 then 11 < c.et else c.et != 0)
    || ((op == 6 || op == 9) && !ropFits c.rop c.et)
    || (!c.stream && bits h 35 5 != 0)
    || (if fol then false else bits x 0 32 != (if op == 5 then bits x 0 7 else 0))
    || (if op == 3 || op == 4 then false else bits x 32 32 != 0)
    || (match op with
        | 1 => (c.crcchk && (bits (c.lo 2) 32 32 != 0 || c.hi 2 != 0))
            || (c.stream && (c.len % 8 != 0 || (if c.sdir then c.lo 1 else c.hi 1) != 0))
        | 2 => c.lo 3 == 0 || 2 ^ 32 ≤ c.lo 3 || bits (c.hi 3) 32 32 != 0 || (!c.crcchk && c.hi 3 != 0)
        | 3 => c.len == 0 || 64 < c.len || 6 < bits (c.hi 2) 0 4 || bits (c.hi 2) 4 28 != 0
        | 4 => c.len == 0 || 64 < c.len || 6 < bits (c.hi 2) 0 4 || bits (c.hi 2) 4 28 != 0
        | 5 => c.len != 0
        | 6 => c.lo 2 != lvl || !(lvl == 3 || lvl == 4 || lvl == 6) || c.hi 2 != 0
        | 7 => c.lo 2 != lvl || !(lvl == 3 || lvl == 4 || lvl == 6) || 2 ^ 24 ≤ c.hi 2
        | 8 => c.hi 1 != 0 || c.hi 2 == 0 || 64 < c.hi 2
        | 10 => c.lo 1 != 0
        | _ => false)

/-! ## Submission (R344, R350, R391) -/

def isGlob (a : Nat) : Bool := a < 2 ^ 56

/-- The command writes global or host memory, as far as its beats tell; SIGNAL and RED_ST always count (R391). -/
def Cmd.writesGlob (c : Cmd) : Bool :=
  match c.op with
  | 1 => !(c.stream && !c.sdir) && isGlob (c.hi 1)
  | 2 => isGlob (c.hi 1)
  | 3 => isGlob (c.hi 1)
  | 4 => isGlob (c.lo 1)
  | 9 => true
  | 10 => true
  | _ => false
def Cmd.readsGlob (c : Cmd) : Bool :=
  match c.op with
  | 1 => !(c.stream && c.sdir) && isGlob (c.lo 1)
  | 2 => isGlob (c.lo 1)
  | 3 => isGlob (c.lo 1)
  | 4 => isGlob (c.hi 1)
  | 8 => isGlob (c.lo 1)
  | 9 => isGlob (c.lo 1)
  | _ => false

def Tile.asmOf (t : Tile) (agent q : Nat) : Option Asm := t.asm.find? fun a => a.agent == agent && a.q == q

/-- The command whose last beat a push would be: the number of its beats. -/
def Tile.lastBeat (t : Tile) (agent q : Nat) (lo : W64) : Option Nat :=
  let (n, k) := match t.asmOf agent q with
    | some a => (beatsNeeded (a.beats.headD (0, 0)).1.toNat, a.beats.length + 1)
    | none => (beatsNeeded lo.toNat, 1)
  if n ≤ k then some n else none

/-- The header of the command that a push belongs to. -/
def Tile.hdrOf (t : Tile) (agent q : Nat) (lo : W64) : Nat :=
  match t.asmOf agent q with
  | some a => (a.beats.headD (0, 0)).1.toNat
  | none => lo.toNat

def Tile.mapQueue (t : Tile) (q : Nat) (f : EQueue → EQueue) : Tile :=
  if h : q < 7 then { t with eq := t.eq.set q (f t.eq[q]) } else t

/-- The commands that a JOIN of the focused tile waits for: those that stand in the queues of its mask at its commit, as
queue and sequence (R294). -/
def joinSet (t : Tile) (mask : Nat) : List (Nat × W16) :=
  (List.range 7).flatMap fun q => if mask / 2 ^ q % 2 = 1 then (t.cmdsOf q).map fun c => (q, c.seq) else []

/-- Under belay a command that writes global memory, or reads it after a release, comes after the stores that its tile holds, and
makes the superstep unrepeatable (R391). -/
def belayCmd (s : State) (vt : Nat) (c : Cmd) : State :=
  if s.g.belay ≠ 0 ∧ (c.writesGlob || (c.rel && c.readsGlob)) then unrepeatable (performHeld s vt) vt else s

/-- A command takes its place in its queue's order; a lashed tile gates it (R387), and under belay the held stores of its
tile are performed first where R391 says so. -/
def submit (s : State) (q : Nat) (c : Cmd) : State :=
  let c := { c with seq := (s.t.queue q).next, join := if c.op = 5 then joinSet s.t (bits (c.hi 0) 0 7) else [] }
  let s := { s with t := s.t.mapQueue q fun e => { e with next := e.next + 1 } }
  let s := belayCmd s s.t.vt c
  if s.t.lash.role = 0 then { s with t := { s.t with pushed := s.t.pushed ++ [(q, c)] } }
  else { s with t := { s.t with lash := { s.t.lash with gated := s.t.lash.gated ++ [.cmd q c] } } }

/-- A beat enters its agent's assembly buffer, or completes a command (R344). `mk` says who submits it. -/
def pushBeat (s : State) (agent q : Nat) (lo hi : W64) (follow : Option ArrOp) (mk : Cmd) : State :=
  let a : Asm := (s.t.asmOf agent q).getD ⟨agent, q, [], none⟩
  let a := { a with beats := a.beats ++ [(lo, hi)], follow := if a.beats = [] then follow else a.follow }
  let rest := s.t.asm.filter fun a => !(a.agent == agent && a.q == q)
  if beatsNeeded (a.beats.headD (0, 0)).1.toNat ≤ a.beats.length then
    submit { s with t := { s.t with asm := rest } } q { mk with beats := a.beats, agent := agent, follow := a.follow }
  else { s with t := { s.t with asm := rest ++ [a] } }

/-! ## Accesses of engines and helper cores (R312, R347, R355) -/

/-- A checked range, or its fault status (R356) and address. -/
inductive EChk
  | ok (s : State) (ps : List Piece)
  | err (s : State) (status : Nat) (addr : W64)

def stAccess : Nat := 2
def stMisalign : Nat := 3
def stXlate1 : Nat := 4
def stXlate2 : Nat := 5
def stDenied : Nat := 6
def stPoison : Nat := 7
def stUncorr : Nat := 8
def stAborted : Nat := 9
def stTimeout : Nat := 10
def stCrc : Nat := 11

def engGlob (vt : Nat) (b : Tlb) (sp : Space) (k : AKind) : List (Nat × Nat) → State → List Piece → EChk
  | [], s, ps => .ok s ps
  | (a, n) :: r, s, ps =>
    match translate s vt b sp k a with
    | .ok s pa key => if s.m.paExists pa then engGlob vt b sp k r s (ps ++ [⟨.glob pa, n, key⟩]) else .err s stAccess (.ofNat 64 a)
    | .fault s => .err s stXlate1 (.ofNat 64 a)
    | .poison s => .err s stPoison (.ofNat 64 a)
    | .access s => .err s stAccess (.ofNat 64 a)
    | .miss s gpa _ =>
      match pullLeaf s.m sp.vf gpa with
      | some l => .err { s with m := { startPull s.m sp.vf l.pa with pullWait := true } } stXlate2 (.ofNat 64 a)
      | none => .err s stXlate2 (.ofNat 64 a)

/-- The first of `n` bytes that fails a test, as an address (R355). -/
def firstByte (ea : W64) (n : Nat) (ok : Nat → Bool) : W64 :=
  ea + .ofNat 64 (((List.range n).find? fun i => !ok i).getD 0)

/-- A byte of the window at offset `o` lies in the row of offset `base`, which allows the access. -/
def sameRow (w : WKind) (base o : Nat) : Bool :=
  match winRow base, winRow o with
  | some (a, rd, wr), some (b, _, _) => a == b && (match w with | .load => rd | .store _ => wr | .amo => a == 0)
  | _, _ => false

/-- The range checks of R312 to R320 for an agent of tile `vt` that is no context. `ins` allows the insert window. A failure
names the lowest byte that fails (R355). -/
def engRange (s : State) (vt : Nat) (b : Tlb) (sp : Space) (k : AKind) (w : WKind) (ins : Bool) (ea : W64) (n : Nat) : EChk :=
  let a := ea.toNat
  let r := regionOf a
  if n = 0 then .ok s []
  else if r = .bad ∨ regionOf (a + n - 1) ≠ r then .err s stAccess (firstByte ea n fun i => r != .bad && regionOf (a + i) == r)
  else
    match r with
    | .glob => engGlob vt b sp k (cutRange 65536 (n + 1) a n) s []
    | .own => .ok s [⟨.tile vt (a - spBase), n, 0⟩]
    | .striped =>
      let ps := stripes (clusterOf vt) (a - 0xFF10000000000000) n
      if ps.all fun p => match p.place with | .tile v _ => s.g.has v | .glob _ => true then .ok s ps
      else .err s stAccess (firstByte ea n fun i => s.g.has (stripe (clusterOf vt) (a - 0xFF10000000000000 + i)).1)
    | .tile =>
      let v := bits a 24 24
      let o := bits a 0 24
      if !s.g.has v || (0xC10000 ≤ o && !ins) then .err s stAccess ea
      else if !winAllowed w o n then .err s stAccess (firstByte ea n fun i => sameRow w o (o + i))
      else .ok s [⟨.tile v o, n, 0⟩]
    | .bad => .err s stAccess ea

/-- The check of several ranges, each with its position in the stream; the fault of the lowest position. -/
inductive EChks
  | ok (s : State) (ps : List Piece)
  | err (s : State) (pos status : Nat) (addr : W64)

def engRanges (vt : Nat) (b : Tlb) (sp : Space) (k : AKind) (w : WKind) (ins : Bool) :
    List (Nat × W64 × Nat) → State → List Piece → EChks
  | [], s, ps => .ok s ps
  | (pos, a, n) :: r, s, ps =>
    match engRange s vt b sp k w ins a n with
    | .ok s qs => engRanges vt b sp k w ins r s (ps ++ qs)
    | .err s st x => .err s (pos + (x - a).toNat) st x

/-- The tile of a piece whose messages are parked, for an agent of tile `vt`; its own tile takes none from it. -/
def farParked (s : State) (vt : Nat) (ps : List Piece) : Option Nat :=
  absentTile s (ps.filter fun p => match p.place with | .tile u _ => u != vt | .glob _ => true)

/-- A message of the agent has not arrived at one of the pieces, a piece is a tile register in flight, or a piece lies in
a tile whose messages are parked or that is within a lashed interval: the access must wait. -/
def engHeld (s : State) (vt c : Nat) (ps : List Piece) : Bool :=
  (s.msgsOf vt c).any (·.touches ps) || ps.any (pieceAbsent s) || (farParked s vt ps).isSome || (lashInbound s vt ps).isSome

/-- Ask for an absent gang by a parked request, once (R248, R314), or for the end of the interval of another lashed tile that the
access reaches (R387). -/
def engSummon (s : State) (vt c : Nat) (ps : List Piece) : Option State :=
  match farParked s vt ps with
  | none => (lashInbound s vt ps).filter (· != s)
  | some u =>
    if (s.msgsOf vt c).any fun m => m.body == .loadReq && s.g.gangOf m.dst == s.g.gangOf u then none
    else if parkRoom s.g u .loadReq then
      some (post s vt c u .loadReq)
    else none

/-- What the pieces read for an agent that sees what tile `t` holds back; none when the data is uncorrectable. -/
def agentRead (s : State) (t : Tile) (ps : List Piece) : Option (State × List Byte) :=
  if (ps.filterMap (pieceFault s)) ≠ [] then none
  else
    let s := ps.foldl correctPiece s
    some (s, readPieces s t ps)

/-- What the pieces read for an engine, which sees no store that a tile holds back (R391). -/
def engRead (s : State) (ps : List Piece) : Option (State × List Byte) := agentRead s {} ps

/-- A work record enters the NI of tile `vt` for an agent that is no context (R262, R320). -/
def niPush (s : State) (vt c dst : Nat) (r : Rec) : State :=
  let n := s.g.sendNext
  (stampNext s).mapTile vt fun t =>
    { t with niNext := t.niNext + 1, ni := t.ni ++ [{ id := t.niNext, c := c, dst := dst, r := r, loaded := true, seq := n }] }

/-- Write bytes to one piece for agent `c` of tile `vt`: global memory at once, ending the repeatability of a superstep
(R391), a present tile at once, an absent tile or a stream port by a message. -/
def engPut (s : State) (vt c : Nat) (p : Piece) (bs : List Byte) : State :=
  match p.place with
  | .glob pa =>
    let s := if s.g.belay ≠ 0 then unrepeatable (performHeld s vt) vt else s
    { s with m := s.m.writeBy vt p.key pa bs }
  | .tile u o =>
    if 0xC10000 ≤ o then niPush s vt c u (imageRec s.g bs)
    else if 0xC00000 ≤ o || (u != vt && s.g.parks u) then
      post s vt c u (storeBody o bs)
    else winWrite s u o bs

def engWrite (s : State) (vt c : Nat) : List Piece → List Byte → State
  | [], _ => s
  | p :: r, bs => engWrite (engPut s vt c p (bs.take p.len)) vt c r (bs.drop p.len)

/-- The NI and the parked queues take what the pieces send. -/
def engRoom (s : State) (vt : Nat) (ps : List Piece) : Bool :=
  ps.all fun p => match p.place with
    | .glob _ => true
    | .tile u o =>
      if 0xC10000 ≤ o then niCount ((s.tile? vt).getD {}) < 8
      else u == vt || parkRoom s.g u (storeBody o (List.replicate p.len 0))

def cmdSpace (s : State) (c : Cmd) : Space := ⟨s.g.vf, c.ptroot, c.asid, c.smode⟩

/-! ## Failure and completion (R356 to R359) -/

def Helper.gone (h : Helper) : Bool := !h.started || h.stopped

/-- The command that a fault record is about has failed: its follow-on is not issued, and the record goes to its submitter, whose queue
halts; a submitter that has ended holds none (R350, R356). -/
def deliverRec (s : State) (vt agent : Nat) (r : FaultRec) (follow : Option ArrOp) : State :=
  let s := match follow with
    | some o => s.mapCtxs vt fun x => x.unflight o
    | none => s
  let s := s.mapTile vt fun t =>
    if t.lash.role = 0 then t else { t with lash := { t.lash with recs := t.lash.recs ++ [(agent, r, follow)] } }
  let drop (s : State) : State := s.tally vt { recDrop := 1 }
  let halt (s : State) : State := s.mapTile vt fun t => t.mapQueue (r.queue - 4) fun e => { e with halted := true }
  if agent < 4 then
    match s.ctx? vt agent with
    | some c => if c.run = .ended then drop s else halt (s.mapCtx vt agent fun c => { c with frecs := c.frecs ++ [r] })
    | none => drop s
  else
    match s.tile? vt with
    | none => s
    | some t =>
      if agent = 4 then
        if t.ldr.gone then drop s else halt (s.mapTile vt fun t => { t with ldr := { t.ldr with frecs := t.ldr.frecs ++ [r] } })
      else
        if t.str.gone then drop s else halt (s.mapTile vt fun t => { t with str := { t.str with frecs := t.str.frecs ++ [r] } })

/-- Index of a collective level in `Tile.collGen`. -/
def collIdx (lvl : Nat) : Nat := if lvl = 3 then 0 else if lvl = 4 then 1 else 2

def Cmd.isColl (c : Cmd) : Bool := c.op == 6 || c.op == 7
def Cmd.level (c : Cmd) : Nat := bits (c.lo 2) 0 3
def isCollLevel (l : Nat) : Bool := l == 3 || l == 4 || l == 6

/-- The head command leaves its queue; a collective of a level uses up its generation there (R351). -/
def popCmd (s : State) (vt q : Nat) (c : Cmd) : State :=
  s.mapTile vt fun t =>
    let t := t.mapQueue q fun e => { e with cmds := e.cmds.drop 1 }
    if c.isColl && q == 6 && isCollLevel c.level then { t with collGen := Vector.ofFn fun (i : Fin 3) =>
        (if i.val == collIdx c.level then t.collGen[i] + 1 else t.collGen[i]) } else t

/-- The superstep of tile `vt` can be repeated, as for `State.repeatable`, and the request of its rollback. -/
def repeatableAt (s : State) (vt : Nat) : Bool :=
  match s.tile? vt with
  | some t => s.g.belay != 0 && !t.belay.unrep && !t.belay.again
  | none => false
def askRollbackAt (s : State) (vt : Nat) : State :=
  let ask (s' : State) : State := { s' with g := { s'.g with rollReq := s'.g.rollReq ++ [vt] } }
  if s.g.belay = 6 then forGroup ask s else ask s

/-- The head command of queue `q` fails (R356); an uncorrectable error in a repeatable superstep starts the rollback instead
(R392). -/
def failCmd (s : State) (vt q : Nat) (c : Cmd) (status : Nat) (fva mask : W64) (base : Nat) : State :=
  if status = stUncorr && repeatableAt s vt then askRollbackAt s vt else
  deliverRec (popCmd s vt q c) vt c.agent ⟨.ofNat 8 status, c.seq, q + 4, .ofNat 4 c.op, .ofNat 24 base, fva, mask⟩ c.follow

def setHead (s : State) (vt q : Nat) (c : Cmd) : State :=
  s.mapTile vt fun t => t.mapQueue q fun e => { e with cmds := c :: e.cmds.drop 1 }

/-- The tile's engines are stopped. -/
def engStopped (s : State) (vt : Nat) : Bool := s.g.still vt

/-- A halt of the tile's gang has begun: an engine goes on to its next chunk or element boundary (R369). -/
def engHalting (s : State) (vt : Nat) : Bool :=
  match s.g.gang? (s.g.gangOf vt) with
  | some x => x.halting
  | none => false

/-- A copy as rows: addresses, strides, bytes per row and rows. -/
structure CopyV where
  src : W64
  dst : W64
  ss  : W64
  ds  : W64
  len : Nat
  n   : Nat

def Cmd.copyV (c : Cmd) : CopyV :=
  let w (x : Nat) : W64 := .ofNat 64 x
  if c.op = 2 then ⟨w (c.lo 1), w (c.hi 1), w (c.lo 2), w (c.hi 2), c.len, c.lo 3⟩
  else ⟨w (c.lo 1), w (c.hi 1), 0, 0, c.len, 1⟩

def CopyV.total (v : CopyV) : Nat := v.len * v.n

/-- A copy whose destination is an insert window is one unit (R320, R347). -/
def Cmd.toInsert (c : Cmd) : Bool := c.op == 1 && !(c.stream && !c.sdir) && regionOf (c.hi 1) == .tile && bits (c.hi 1) 0 24 == 0xC10000
def Cmd.unit (c : Cmd) : Nat := if c.toInsert then max 1 c.len else 128

/-- A copy stands inside a chunk of 4 KiB (R355). -/
def Cmd.midChunk (c : Cmd) : Bool :=
  c.started && !c.finished && (c.op == 1 || c.op == 2) && !c.toInsert && c.done * c.unit % 4096 != 0

/-- The event that handles the head command: its operation, or for one that its queue rejects a fixed event of the queue. -/
def Cmd.event (c : Cmd) (q : Nat) : Nat := if opOfQueue q c.op then c.op else if q < 4 then 1 else if q < 6 then 3 else 8

/-- An engine event whose walk met a page that a migration pulls has done nothing but start the pull (R435). -/
def pullGuard (s : State) : Out3 → Out3
  | .next s' =>
    if s'.m.pullWait then .next (s.mapVf s.g.vf fun f => { f with mig := s'.vf.mig }) else .next s'
  | r => r

/-- Run an event of the head command of a queue that is not halted, BADCMD first (R347). -/
def withHead (s : State) (vt q op : Nat) (row : String) (k : Cmd → Out3) : Out3 :=
  match s.tile? vt with
  | none => off row
  | some t =>
    if engStopped s vt || (t.queue q).halted then off row
    else
      match (t.queue q).cmds with
      | [] => off row
      | c :: _ =>
        if c.finished || c.event q != op || (engHalting s vt && !c.midChunk) then off row
        else if !c.started && !(c.isColl && q == 6) && badCmd q c then .next (failCmd s vt q c 1 0 0 0)
        else pullGuard s (k { c with started := true })

/-- A command that entered its order takes its queue slots (R344). -/
def execEngineCommandEnqueue (vt r q : Nat) (s : State) : Out3 :=
  match s.tile? vt with
  | none => off "ENGINE_COMMAND_ENQUEUE"
  | some t =>
    match findNth (fun x => x.1 == q) t.pushed 0 with
    | some (i, _, c) =>
      if c.agent ≠ r ∨ engStopped s vt then off "ENGINE_COMMAND_ENQUEUE"
      else .next (s.mapTile vt fun t =>
        { t.mapQueue q fun e => { e with cmds := e.cmds ++ [c] } with pushed := dropNth t.pushed i })
    | none => off "ENGINE_COMMAND_ENQUEUE"

/-- A counter of a submitter rises and NOTIFY sets its event flag (R348, R359). -/
def countDone (s : State) (vt : Nat) (c : Cmd) : State :=
  let up (v : Vector W64 7) : Vector W64 7 := if h : c.csel < 7 then v.set c.csel (v[c.csel] + 1) else v
  if c.agent < 4 then s.mapCtx vt c.agent fun x => { x with cnt := up x.cnt, evt := x.evt || c.notify }
  else if c.agent = 4 then s.mapTile vt fun t => { t with ldr := { t.ldr with cnt := up t.ldr.cnt, evt := t.ldr.evt || c.notify } }
  else s.mapTile vt fun t => { t with str := { t.str with cnt := up t.str.cnt, evt := t.str.evt || c.notify } }

/-- Retired count of a role (R395). -/
def rolePos (s : State) (vt r : Nat) : Nat :=
  match s.tile? vt with
  | none => 0
  | some t => if r = 4 then t.ldr.retired else if r = 5 then t.str.retired
              else match s.ctx? vt r with | some c => c.instret.toNat | none => 0

/-- What the completion of a command brings: its counter, and its follow-on in the array queue (R348, R350). -/
def finishCmd (s : State) (vt : Nat) (c : Cmd) : State :=
  let s := countDone s vt c
  match c.follow with
  | none => s
  | some o => s.mapTile vt fun t =>
      { t with arrq := t.arrq ++ [{ o with need := (t.slots.toList.getD o.slot {}).issued }] }

/-- A finished command whose messages have arrived completes; its follow-on enters the array queue (R348, R350). -/
def execEngineCompletion (vt q : Nat) (s : State) : Out3 :=
  match s.tile? vt with
  | none => off "ENGINE_COMPLETION"
  | some t =>
    match (t.queue q).cmds with
    | [] => off "ENGINE_COMPLETION"
    | c :: _ =>
      if !c.finished || engStopped s vt || s.heldBack vt || s.msgsOf vt (8 + q) != [] || (t.ni.any fun n => n.c == 8 + q)
          || (c.follow.isSome && 8 ≤ t.arrq.length) then off "ENGINE_COMPLETION"
      else
        let s := (finishCmd (popCmd s vt q c) vt c).mapTile vt fun t =>
          if t.lash.role = 0 then t else { t with lash := { t.lash with fin := t.lash.fin ++ [(q, c)] } }
        .next (logEvent s vt 7 c.agent (rolePos s vt c.agent) (.ofNat 64 (q + 4 + 2 ^ 16 * c.seq.toNat)))

/-- Writing 1 to VALID drops the record shown, and its queue resumes (R357). -/
def dropRecord (s : State) (vt r : Nat) : State :=
  if r < 4 then
    match s.ctx? vt r with
    | some c => (s.mapCtx vt r fun x => { x with frecs := x.frecs.drop 1 }).mapTile vt fun t => t.resume (c.frecs.take 1)
    | none => s
  else
    s.mapTile vt fun t =>
      if r = 4 then { t.resume (t.ldr.frecs.take 1) with ldr := { t.ldr with frecs := t.ldr.frecs.drop 1 } }
      else { t.resume (t.str.frecs.take 1) with str := { t.str with frecs := t.str.frecs.drop 1 } }

def hasRecord (s : State) (vt r : Nat) : Bool :=
  match s.tile? vt with
  | none => false
  | some t =>
    if r < 4 then (match s.ctx? vt r with | some c => c.frecs != [] | none => false)
    else if r = 4 then t.ldr.frecs != [] else if r = 5 then t.str.frecs != [] else false

def execEngineFaultDrop (vt r : Nat) (s : State) : Out3 :=
  if hasRecord s vt r then .next (dropRecord s vt r) else off "ENGINE_FAULT_DROP"

/-! ## COPY and COPY2D (R348, R349, R355) -/

/-- The runs of stream bytes `b` to `b + m - 1` along rows: position, source and destination addresses, length. -/
def CopyV.runs (v : CopyV) : Nat → Nat → Nat → List (Nat × W64 × W64 × Nat)
  | 0, _, _ => []
  | fuel + 1, b, m =>
    if m = 0 ∨ v.len = 0 then []
    else
      let row : W64 := .ofNat 64 (b / v.len)
      let col : W64 := .ofNat 64 (b % v.len)
      let k := min m (v.len - b % v.len)
      (b, v.src + row * v.ss + col, v.dst + row * v.ds + col, k) :: v.runs fuel (b + k) (m - k)

/-- Cut a run at multiples of 64 KiB of its address; each part keeps its stream position. -/
def cutRun (pos : Nat) (a : W64) (n : Nat) : List (Nat × W64 × Nat) :=
  (cutRange 65536 (n + 1) a.toNat n).map fun (x, k) => (pos + (x - a.toNat), .ofNat 64 x, k)

/-- What one unit of a copy comes to. -/
inductive Unit128
  | moved (s : State) (bytes : List Byte)
  | fault (s : State) (status : Nat) (addr : W64)
  | stall
  | summon (s : State)

def unitsBytes (l : List W64) : List Byte := l.flatMap fun x => bytesOf 8 x.toNat
def bytesUnits (l : List Byte) : List W64 := (List.range (l.length / 8)).map fun i => .ofNat 64 (natOf (slice l (8 * i) 8))

def Ctx.mapQin (c : Ctx) (q : Nat) (f : List W64 → List W64) : Ctx := if h : q < 4 then { c with qin := c.qin.set q (f c.qin[q]) } else c

/-- Bytes of the pieces up to the first that is uncorrectable, or fails its carry code. -/
def faultOff (s : State) : List Piece → Option Nat
  | [] => none
  | p :: r =>
    match (List.range p.len).find? fun i => (pieceFault s { p with
        place := (match p.place with | .glob a => .glob (a + i) | .tile v o => .tile v (o + i)), len := 1 }).isSome with
    | some i => some i
    | none => (faultOff s r).map (p.len + ·)

/-- The first byte of source ranges whose data cannot be read, before the first that fails its check: its position in the stream and
its address (R355). -/
def dataFault (s : State) (vt : Nat) (sp : Space) : List (Nat × W64 × Nat) → Option (Nat × W64)
  | [] => none
  | (pos, a, n) :: r =>
    let at_ (s' : State) (ps : List Piece) : Option (Nat × W64) := (faultOff s' ps).map fun i => (pos + i, a + .ofNat 64 i)
    match engRange s vt .e sp .load .load false a n with
    | .ok s' ps => match at_ s' ps with | some x => some x | none => dataFault s vt sp r
    | .err _ _ x =>
      match engRange s vt .e sp .load .load false a (x - a).toNat with
      | .ok s' ps => at_ s' ps
      | .err _ _ _ => none

/-- The check of source ranges: where it fails, the fault is that of the first byte in stream order, a byte that cannot be read
among them (R355). -/
def sourceCheck (s : State) (vt : Nat) (c : Cmd) (srcs : List (Nat × W64 × Nat)) : EChks :=
  match engRanges vt .e (cmdSpace s c) .load .load false srcs s [] with
  | .err s p st a =>
    match dataFault s vt (cmdSpace s c) srcs with
    | some (p', a') => .err s p' stUncorr a'
    | none => .err s p st a
  | .ok s ps => .ok s ps

/-- Units of q11 of a context that engines may take: in a lashed interval those that the checkpoint holds, since what the interval
has pushed has not been agreed on (R387). -/
def agreedUnits (s : State) (vt : Nat) (x : Ctx) : Nat :=
  match (s.tile? vt).map (·.lash), s.g.lashChk.find? (·.vt == vt) with
  | some l, some k =>
    if l.role = 0 then x.qout.length
    else match k.others.find? (·.id == x.id) with
      | some y => y.qout.length - lookupNat l.taken x.id
      | none => 0
  | _, _ => x.qout.length

/-- An engine takes `n` units of q11 of context `c`; a lashed tile notes it for a repeat of the interval (R388). -/
def takeUnits11 (s : State) (vt c n : Nat) : State :=
  (s.mapCtx vt c fun x => { x with qout := x.qout.drop n }).mapTile vt fun t =>
    if t.lash.role = 0 then t
    else { t with lash := { t.lash with taken := setNat t.lash.taken c (lookupNat t.lash.taken c + n) } }

/-- The data of a unit: read whole from its source ranges, or taken from q11. -/
def copyRead (s : State) (vt q : Nat) (c : Cmd) (srcs : List (Nat × W64 × Nat)) (n : Nat) : EChks × Option (List Byte) :=
  if c.stream && c.sdir then
    match s.ctx? vt c.sctx with
    | some x => (.ok s [], if 8 * agreedUnits s vt x < n then none else some (unitsBytes (x.qout.take (n / 8))))
    | none => (.ok s [], none)
  else
    match sourceCheck s vt c srcs with
    | .err s p st a => (.err s p st a, none)
    | .ok s ps =>
      if engHeld s vt (8 + q) ps then (.ok s ps, none)
      else
        match (if ps.any fun p => (pieceFault s p).isSome then dataFault s vt (cmdSpace s c) srcs else none) with
        | some (p, a) => (.err s p stUncorr a, none)
        | none =>
          match engRead s ps with
          | some (s, bs) => (.ok s ps, some bs)
          | none => (.ok s ps, none)

/-- One unit of a copy: stream bytes from `b`, `n` of them. -/
def copyUnit (s : State) (vt q : Nat) (c : Cmd) (b n : Nat) : Unit128 :=
  let rs := c.copyV.runs (n + 1) b n
  let srcs := rs.flatMap fun (p, a, _, k) => cutRun p a k
  let dsts := rs.flatMap fun (p, _, a, k) => cutRun p a k
  let rd := copyRead s vt q c srcs n
  if c.stream && !c.sdir then
    match rd.1, rd.2 with
    | .err s _ st a, _ => .fault s st a
    | .ok s ps, none => match engSummon s vt (8 + q) ps with | some s => .summon s | none => .stall
    | .ok s _, some bs =>
      match s.ctx? vt c.sctx with
      | some x =>
        if streamCap < (x.qin.toList.getD c.sport []).length + n / 8 then .stall
        else .moved ((s.mapCtx vt c.sctx fun x => x.mapQin c.sport (· ++ bytesUnits bs)).mapTile vt fun t =>
          t.keep (.stream c.sctx c.sport (bytesUnits bs))) bs
      | none => .stall
  else
    let s1 := match rd.1 with | .ok s _ => s | .err s _ _ _ => s
    match rd.1, engRanges vt .e (cmdSpace s1 c) .store (.store false) c.toInsert dsts s1 [] with
    | .err _ p st a, .err s p' st' a' => if p ≤ p' then .fault s st a else .fault s st' a'
    | .err _ _ st a, .ok s _ => .fault s st a
    | .ok _ _, .err s _ st a => .fault s st a
    | .ok _ ps, .ok s qs =>
      match rd.2 with
      | none => match engSummon s vt (8 + q) ps with | some s => .summon s | none => .stall
      | some bs =>
        if c.toInsert && !(s.g.classes.toList.getD (imageRec s.g bs).cls {}).decl then .fault s stAccess (.ofNat 64 (c.hi 1))
        else if !engRoom s vt qs || (s.msgsOf vt (8 + q)).any (·.touches qs)
            || qs.any (fun p => match p.place with | .tile u o => winBusy s u o p.len | .glob _ => false) then .stall
        else
          match engRanges vt .e (cmdSpace s c) .dirty (.store false) c.toInsert dsts s [] with
          | .err s _ st a => .fault s st a
          | .ok s qs =>
            let s := if c.stream then takeUnits11 s vt c.sctx (n / 8) else s
            .moved (engWrite s vt (8 + q) qs bs) bs

/-- Bits `lo` to `hi` of a 64-bit mask. -/
def maskFrom (lo hi : Nat) : W64 := .ofNat 64 (((List.range 64).filter fun i => lo ≤ i && i ≤ hi).map fun i => 2 ^ i).sum

/-- The copy has no unit left to try, or it goes on. -/
def copyNext (s : State) (vt q : Nat) (c : Cmd) : State :=
  let b := c.done * c.unit
  let span := c.copyV.total ≤ b
    || (match c.win with | some w => b / 4096 / 64 != w | none => false)
  if !span then setHead s vt q c
  else
    match c.status with
    | some st => failCmd s vt q c st.toNat (c.fva.getD 0) c.mask (64 * c.win.getD 0)
    | none =>
      if c.crcchk && (c.crc ^^^ 0xFFFFFFFF).toNat != bits (if c.op = 2 then c.hi 3 else c.lo 2) 0 32 then
        failCmd s vt q c stCrc 0 0 0
      else setHead s vt q { c with finished := true }

/-- Chunks of a copy that are not done when a unit of chunk `k` has faulted: that one; all of one that is a single unit (R355). -/
def Cmd.undone (c : Cmd) (k : Nat) : W64 := if c.toInsert then maskFrom 0 (min 63 ((c.len - 1) / 4096)) else .ofNat 64 (2 ^ (k % 64))

/-- A unit of chunk `k` faulted: the chunk is not done, and the first fault is kept (R355). A copy out of q11 takes the unit's
stream units all the same (log 17). -/
def copyFault (c : Cmd) (k st : Nat) (a : W64) : Cmd :=
  { c with
    status := some (c.status.getD (.ofNat 8 st)), fva := some (c.fva.getD a), win := some (c.win.getD (k / 64))
    mask := c.mask ||| c.undone k, skip := some k, done := if c.stream && c.sdir then c.done else c.done + 1 }

/-- A unit of a chunk that has faulted is passed over; none while its stream units are not there. -/
def skipUnit (s : State) (vt : Nat) (c : Cmd) (n : Nat) : Option State :=
  if c.stream && c.sdir then
    match s.ctx? vt c.sctx with
    | some x => if 8 * agreedUnits s vt x < n then none else some (takeUnits11 s vt c.sctx (n / 8))
    | none => none
  else some s

def copyEvent (row : String) (op vt q : Nat) (s : State) : Out3 :=
  withHead s vt q op row fun c =>
    let b := c.done * c.unit
    let k := b / 4096
    if c.copyV.total ≤ b then .next (copyNext s vt q c)
    else if c.skip = some k then
      match skipUnit s vt c (min c.unit (c.copyV.total - b)) with
      | some s => .next (copyNext s vt q { c with done := c.done + 1 })
      | none => off row
    else
      match copyUnit s vt q c b (min c.unit (c.copyV.total - b)) with
      | .moved s bs => .next (copyNext s vt q { c with done := c.done + 1, crc := .ofNat 32 (crc32c c.crc.toNat bs) })
      | .fault s st a => .next (copyNext s vt q (copyFault c k st a))
      | .summon s => .next (setHead s vt q c)
      | .stall => off row

def execCopyUnit (vt q : Nat) (s : State) : Out3 := copyEvent "COPY" 1 vt q s
def execCopy2d (vt q : Nat) (s : State) : Out3 := copyEvent "COPY2D" 2 vt q s

/-! ## GATHER and SCATTER -/

def etBytes (et : Nat) : Nat := etWidth et / 8

/-- Elements of a GATHER or SCATTER that are selected. -/
def Cmd.selected (c : Cmd) : List Nat := (List.range c.len).filter fun i => c.elemMask / 2 ^ i % 2 = 1
def selMask (l : List Nat) : W64 := .ofNat 64 ((l.map fun i => 2 ^ i).sum)

/-- An index vector or destination list of `n` bytes must lie in the own scratchpad, aligned (R347). -/
def listPlaced (a : W64) (n align : Nat) : Bool := a.toNat % align == 0 && (n == 0 || firstOutside a n == none)

/-- What one element comes to. -/
inductive Elem
  | moved (s : State)
  | fault (s : State) (status : Nat) (addr : W64)
  | stall
  | summon (s : State)

def moveElem (s : State) (vt q : Nat) (c : Cmd) (src dst : W64) (n : Nat) : Elem :=
  let sp := cmdSpace s c
  if src.toNat % n ≠ 0 then .fault s stMisalign src
  else
    match engRange s vt .e sp .load .load false src n with
    | .err s st a => .fault s st a
    | .ok s ps =>
      if engHeld s vt (8 + q) ps then (match engSummon s vt (8 + q) ps with | some s => .summon s | none => .stall)
      else
        match engRead s ps with
        | none => .fault s stUncorr (src + .ofNat 64 ((faultOff s ps).getD 0))
        | some (s, bs) =>
          if dst.toNat % n ≠ 0 then .fault s stMisalign dst
          else
            match engRange s vt .e sp .store (.store false) false dst n with
            | .err s st a => .fault s st a
            | .ok s qs =>
              if !engRoom s vt qs || (s.msgsOf vt (8 + q)).any (·.touches qs)
                  || qs.any (fun p => match p.place with | .tile u o => winBusy s u o p.len | .glob _ => false) then .stall
              else
                match engRange s vt .e sp .dirty (.store false) false dst n with
                | .err s st a => .fault s st a
                | .ok s qs => .moved (engWrite s vt (8 + q) qs bs)

def gatherNext (s : State) (vt q : Nat) (c : Cmd) : State :=
  if c.done < c.len then setHead s vt q c
  else
    match c.status with
    | some st => failCmd s vt q c st.toNat (c.fva.getD 0) c.mask 0
    | none => setHead s vt q { c with finished := true }

def gatherEvent (row : String) (op vt q : Nat) (s : State) : Out3 :=
  withHead s vt q op row fun c =>
    let iv : W64 := .ofNat 64 (c.lo 2)
    let n := etBytes c.et
    if !listPlaced iv (4 * c.len) 4 then .next (failCmd s vt q c stAccess iv (selMask c.selected) 0)
    else
      let i := c.done
      let next (s : State) (c : Cmd) : Out3 := .next (gatherNext s vt q { c with done := i + 1 })
      let bad (s : State) (st : Nat) (a : W64) : Out3 :=
        next s { c with status := some (c.status.getD (.ofNat 8 st)), fva := some (c.fva.getD a), mask := c.mask ||| .ofNat 64 (2 ^ i) }
      if !c.selected.contains i then next s c
      else
        let ia := iv + .ofNat 64 (4 * i)
        let ip : List Piece := [⟨.tile vt (ia.toNat - spBase), 4, 0⟩]
        match engRead s ip with
        | none => bad s stUncorr (ia + .ofNat 64 ((faultOff s ip).getD 0))
        | some (s, bs) =>
          let ea : W64 := .ofNat 64 (c.lo 1) + sext64 32 (natOf bs) <<< bits (c.hi 2) 0 4
          let pk : W64 := .ofNat 64 (c.hi 1) + .ofNat 64 (i * n)
          match moveElem s vt q c (if op = 3 then ea else pk) (if op = 3 then pk else ea) n with
          | .moved s => next s c
          | .fault s st a => bad s st a
          | .summon s => .next (setHead s vt q c)
          | .stall => off row

def execGather (vt q : Nat) (s : State) : Out3 := gatherEvent "GATHER" 3 vt q s
def execScatter (vt q : Nat) (s : State) : Out3 := gatherEvent "SCATTER" 4 vt q s

/-! ## JOIN and SIGNAL -/

/-- JOIN completes when every command that stood in its queues at its commit has left them (R294). -/
def execJoinCmd (vt q : Nat) (s : State) : Out3 :=
  withHead s vt q 5 "JOIN" fun c =>
    let t := (s.tile? vt).getD {}
    if c.join.any fun (p, n) => (t.cmdsOf p).any fun d => d.seq == n && !(p == q && d.seq == c.seq) then off "JOIN"
    else .next (setHead s vt q { c with finished := true })

/-- The reduction of R346 on element patterns. -/
def ropApply (rop et a b : Nat) : Nat :=
  let w := etWidth et
  match rop with
  | 0 => match etFloat et with
    | some f => (Machine.fadd f 0 a b).1
    | none => (a + b) % 2 ^ w
  | 1 => match etFloat et with
    | some f => (minmaxF f false a b).1
    | none => if etVal et a ≤ etVal et b then a else b
  | 2 => match etFloat et with
    | some f => (minmaxF f true a b).1
    | none => if etVal et a ≤ etVal et b then b else a
  | 3 => a ||| b
  | 4 => a &&& b
  | _ => a ^^^ b

/-- Atomic read-modify-writes of consecutive elements at checked pieces, under belay after the held stores (R391); none
when the old data is uncorrectable. -/
def engModify (s : State) (vt : Nat) (ps : List Piece) (f : List Byte → List Byte) : Option State :=
  let s := belayAtomic s vt ps
  match engRead s ps with
  | none => none
  | some (s, old) => some (writePieces vt s ps (f old))

/-- SIGNAL. DESIGN CHOICE (log 42): a destination that is not 8-aligned is MISALIGN (R356), though R346 lists the alignment among
the fields that R347 step 1 tests. -/
def execSignal (vt q : Nat) (s : State) : Out3 :=
  withHead s vt q 10 "SIGNAL" fun c =>
    let a : W64 := .ofNat 64 (c.hi 1)
    if a.toNat % 8 ≠ 0 then .next (failCmd s vt q c stMisalign a 0 0)
    else
      match engRange s vt .e (cmdSpace s c) .amo .amo false a 8 with
      | .err s st x => .next (failCmd s vt q c st x 0 0)
      | .ok s ps =>
        if engHeld s vt (8 + q) ps then
          (match engSummon s vt (8 + q) ps with | some s => .next (setHead s vt q c) | none => off "SIGNAL")
        else
          let s := if s.g.belay ≠ 0 then unrepeatable (performHeld s vt) vt else s
          if (faultOff s ps).isSome then .next (failCmd s vt q c stUncorr (a + .ofNat 64 ((faultOff s ps).getD 0)) 0 0)
          else
            match engRange s vt .e (cmdSpace s c) .dirty .amo false a 8 with
            | .err s st x => .next (failCmd s vt q c st x 0 0)
            | .ok s ps =>
              match engModify s vt ps fun old => bytesOf 8 (natOf old + c.len) with
              | none => .next (failCmd s vt q c stUncorr a 0 0)
              | some s => .next (setHead s vt q { c with finished := true })

/-! ## MCAST_ST and RED_ST (R354) -/

/-- The writes of a multicast from position `off` of destination `k`, cut at 64 KiB of destination address: address,
offset in the source and length. -/
def mcastParts (dests : List W64) (len : Nat) : Nat → Nat → Nat → List (W64 × Nat × Nat)
  | 0, _, _ => []
  | fuel + 1, k, off =>
    match dests[k]? with
    | none => []
    | some d =>
      if len ≤ off then mcastParts dests len fuel (k + 1) 0
      else
        let a := d + .ofNat 64 off
        let n := min (len - off) (65536 - a.toNat % 65536)
        (a, off, n) :: mcastParts dests len fuel k (off + n)

/-- The longest run of parts that touches at most 64 distinct pages. -/
def takePages {α : Type} (page : α → Nat) : List Nat → List α → List α
  | _, [] => []
  | seen, x :: r =>
    if seen.contains (page x) then x :: takePages page seen r
    else if seen.length < 64 then x :: takePages page (page x :: seen) r
    else []

def execMcastSt (vt : Nat) (s : State) : Out3 :=
  withHead s vt 6 8 "MCAST_ST" fun c =>
    let la : W64 := .ofNat 64 (c.lo 2)
    let nd := c.hi 2
    let src : W64 := .ofNat 64 (c.lo 1)
    let fail (s : State) (st : Nat) (a : W64) : Out3 := .next (failCmd s vt 6 c st a 0 c.base)
    if !listPlaced la (8 * nd) 8 then .next (failCmd s vt 6 c stAccess la 0 0)
    else
      let lp : List Piece := [⟨.tile vt (la.toNat - spBase), 8 * nd, 0⟩]
      match engRead s lp with
      | none => fail s stUncorr (la + .ofNat 64 ((faultOff s lp).getD 0))
      | some (s, bs) =>
        let all := mcastParts (bytesUnits bs) c.len (nd * (c.len / 65536 + 3)) 0 0
        let parts := takePages (fun (x : W64 × Nat × Nat) => x.1.toNat / 65536) [] (all.drop c.done)
        if parts = [] then .next (setHead s vt 6 { c with finished := true })
        else
          match engRanges vt .e (cmdSpace s c) .store (.store false) false (parts.map fun (a, o, n) => (o, a, n)) s [] with
          | .err s _ _ a => fail s stDenied a
          | .ok s qs =>
            let lo := (parts.map fun x => x.2.1).foldl min c.len
            let hi := (parts.map fun x => x.2.1 + x.2.2).foldl max 0
            match sourceCheck s vt c (cutRun 0 (src + .ofNat 64 lo) (hi - lo)) with
            | .err s _ st a => fail s st a
            | .ok s ps =>
              if engHeld s vt 14 ps then
                (match engSummon s vt 14 ps with | some s => .next (setHead s vt 6 c) | none => off "MCAST_ST")
              else if !engRoom s vt qs || (s.msgsOf vt 14).any (·.touches qs)
                  || qs.any (fun p => match p.place with | .tile u o => winBusy s u o p.len | .glob _ => false) then off "MCAST_ST"
              else
                match engRead s ps with
                | none => fail s stUncorr (src + .ofNat 64 (lo + (faultOff s ps).getD 0))
                | some (s, data) =>
                  match engRanges vt .e (cmdSpace s c) .dirty (.store false) false (parts.map fun (a, o, n) => (o, a, n)) s [] with
                  | .err s _ _ a => fail s stDenied a
                  | .ok s qs =>
                    let s := engWrite s vt 14 qs (parts.flatMap fun (_, o, n) => slice data (o - lo) n)
                    let c := { c with done := c.done + parts.length, base := c.base + 1 }
                    .next (setHead s vt 6 { c with finished := all.length ≤ c.done })

/-- Elements reduced one by one into old contents. -/
def reduceBytes (rop et n : Nat) : Nat → List Byte → List Byte → List Byte
  | 0, _, _ => []
  | fuel + 1, old, src =>
    if old = [] then []
    else bytesOf n (ropApply rop et (natOf (old.take n)) (natOf (src.take n))) ++ reduceBytes rop et n fuel (old.drop n) (src.drop n)

/-- The part of a list of pieces that lies `n` bytes from position `off` on. -/
def subPieces : List Piece → Nat → Nat → List Piece
  | [], _, _ => []
  | p :: r, off, n =>
    let k := min (p.len - off) n
    let here := if off < p.len ∧ 0 < n then [{ p with
        place := (match p.place with | .glob a => .glob (a + off) | .tile v o => .tile v (o + off)), len := k }] else []
    here ++ subPieces r (off - p.len) (n - k)

/-- Element after element: the source is read, and reduced into the destination (R348). -/
def redElems (vt rop et : Nat) (ps qs : List Piece) : Nat → Nat → State → Option State
  | 0, _, s => some s
  | k + 1, i, s =>
    let n := etBytes et
    match engRead s (subPieces ps (n * i) n) with
    | none => none
    | some (s, x) =>
      match engModify s vt (subPieces qs (n * i) n) fun old => bytesOf n (ropApply rop et (natOf old) (natOf x)) with
      | none => none
      | some s => redElems vt rop et ps qs k (i + 1) s

def execRedSt (vt : Nat) (s : State) : Out3 :=
  withHead s vt 6 9 "RED_ST" fun c =>
    let n := etBytes c.et
    let src : W64 := .ofNat 64 (c.lo 1)
    let dst : W64 := .ofNat 64 (c.hi 1)
    let fail (s : State) (st : Nat) (a : W64) : Out3 := .next (failCmd s vt 6 c st a 0 c.base)
    if src.toNat % n ≠ 0 then fail s stMisalign src
    else if dst.toNat % n ≠ 0 then fail s stMisalign dst
    else if c.len ≤ c.done then .next (setHead s vt 6 { c with finished := true })
    else
      let d := dst + .ofNat 64 (c.done * n)
      let a := src + .ofNat 64 (c.done * n)
      let k := min (c.len - c.done) ((64 * 65536 - d.toNat % 65536) / n)
      match engRanges vt .e (cmdSpace s c) .amo .amo false (cutRun 0 d (k * n)) s [] with
      | .err s _ _ x => fail s stDenied x
      | .ok s qs =>
        match sourceCheck s vt c (cutRun 0 a (k * n)) with
        | .err s _ st x => fail s st x
        | .ok s ps =>
          if engHeld s vt 14 (ps ++ qs) then
            (match engSummon s vt 14 (ps ++ qs) with | some s => .next (setHead s vt 6 c) | none => off "RED_ST")
          else
            match engRead s ps with
            | none => fail s stUncorr (a + .ofNat 64 ((faultOff s ps).getD 0))
            | some (s, data) =>
              let s := if s.g.belay ≠ 0 then unrepeatable (performHeld s vt) vt else s
              match engRanges vt .e (cmdSpace s c) .dirty .amo false (cutRun 0 d (k * n)) s [] with
              | .err s _ _ x => fail s stDenied x
              | .ok s qs =>
                match (if anyOverlap ps qs then redElems vt c.rop c.et ps qs k 0 s
                    else engModify s vt qs fun old => reduceBytes c.rop c.et n k old data) with
                | none => fail s stUncorr (d + .ofNat 64 ((faultOff s qs).getD 0))
                | some s =>
                  let c := { c with done := c.done + k, base := c.base + 1 }
                  .next (setHead s vt 6 { c with finished := c.len ≤ c.done })

/-! ## Collectives (R351 to R353) -/

def collId (g : Grid) (lvl vt : Nat) : Nat := if lvl = 3 then (g.gangOf vt).1 * 4096 + (g.gangOf vt).2 else 0

def Grid.coll (g : Grid) (lvl id : Nat) : Coll := (g.colls.find? fun c => c.lv == lvl && c.id == id).getD { lv := lvl, id := id }
def Grid.setColl (g : Grid) (c : Coll) : Grid :=
  { g with colls := c :: g.colls.filter fun x => !(x.lv == c.lv && x.id == c.id) }

/-- Bytes that a collective moves. -/
def Cmd.collBytes (c : Cmd) : Nat := if c.op = 6 then c.len * etBytes c.et else c.len

/-- The own checks of a participant: the address that fails, or none (R347). A source that is uncorrectable counts as one, so the
generation is ABORTED (log 27). -/
def collBad (t : Tile) (c : Cmd) : Option W64 :=
  let n := c.collBytes
  let al := if c.op = 6 then etBytes c.et else 8
  let root := c.op = 6 || c.hi 2 % 2 ^ 24 = t.vt
  let src : W64 := .ofNat 64 (c.lo 1)
  let dst : W64 := .ofNat 64 (c.hi 1)
  if root && (65536 < n || !listPlaced src n al || t.badRange srcSp (src.toNat - spBase) n) then some src
  else if 65536 < n || !listPlaced dst n al then some dst
  else none

/-- Its source holds an uncorrectable error, which starts the rollback of a repeatable superstep (R392). -/
def collUncorr (t : Tile) (c : Cmd) : Bool :=
  let src : W64 := .ofNat 64 (c.lo 1)
  (c.op = 6 || c.hi 2 % 2 ^ 24 = t.vt) && c.collBytes ≤ 65536 && listPlaced src c.collBytes 1
    && t.badRange srcSp (src.toNat - spBase) c.collBytes

/-- The tiles of an instance on this module, in row-major order. -/
def collTiles (s : State) (lvl id : Nat) : List Tile :=
  (s.allTiles.foldl (fun l t => insertTile l t) []).filter fun t => collId s.g lvl t.vt == id

/-- Participants of the focused grid: tile, head command, own checks, source. -/
def collParts (s : State) (lvl id : Nat) : List (Nat × Cmd × Bool × List Byte) :=
  let k := s.g.coll lvl id
  (collTiles s lvl id).filterMap fun t =>
    match (t.queue 6).cmds, k.arrived.find? (·.1 == t.vt) with
    | c :: _, some (_, ok, b) => some (t.vt, c, ok, b)
    | _, _ => none

/-- Every tile of the focused grid that belongs to the instance has arrived. -/
def collReady (lvl id : Nat) (s : State) : Bool := (collParts s lvl id).length == (collTiles s lvl id).length

/-- A generation that is late: a deadline of its participants has passed, and some participant has not arrived (R353); whether
those on other modules have is not in this state. -/
def collLate (lvl id : Nat) (s : State) : Bool :=
  let passed (s : State) : Bool :=
    (collParts s lvl id).any fun x => match x.2.1.deadline with | some d => d ≤ s.m.cycle | none => false
  if lvl = 6 then 0 < sumGroup (fun s => (passed s).toNat) s && !(allGroup (collReady lvl id) s && groupHere s)
  else passed s && !collReady lvl id s

/-- The generation is abandoned for the participants of the focused grid. -/
def collAbandon (lvl id : Nat) (s : State) : State :=
  let k := s.g.coll lvl id
  let s := (collParts s lvl id).foldl (fun s (vt, c, _, _) => failCmd s vt 6 c stTimeout 0 0 0) s
  { s with g := s.g.setColl { k with gen := k.gen + 1, arrived := [], abandoned := k.gen :: k.abandoned } }

def collAbandonAll (lvl id : Nat) (s : State) : State := if lvl = 6 then forGroup (collAbandon lvl id) s else collAbandon lvl id s

/-- A collective reaches its queue head and stands for its generation (R351, R353); a generation that is late by now is abandoned
before. -/
def collArrive (row : String) (op vt : Nat) (s : State) : Out3 :=
  withHead s vt 6 op row fun c =>
    let t := (s.tile? vt).getD {}
    let lvl := c.level
    if !isCollLevel lvl then .next (failCmd s vt 6 c 1 0 0 0)
    else
      let id := collId s.g lvl vt
      let s := if collLate lvl id s then collAbandonAll lvl id s else s
      let k := s.g.coll lvl id
      if k.abandoned.contains (t.collGen.toList.getD (collIdx lvl) 0) then .next (failCmd s vt 6 c stTimeout 0 0 0)
      else if k.arrived.any (·.1 == vt) then off row
      else if repeatableAt s vt && !badCmd 6 c && collUncorr t c then .next (askRollbackAt s vt)
      else
        let bad := if badCmd 6 c then some 0 else collBad t c
        let data := if c.op = 6 ∨ c.hi 2 % 2 ^ 24 = vt then
          (if bad = none then t.sp.read (c.lo 1 - spBase) c.collBytes else []) else []
        let c := { c with fva := bad, deadline := c.deadline <|> if c.bto = 0 then none else some (s.m.cycle + c.bto) }
        let s := setHead s vt 6 c
        .next { s with g := s.g.setColl { k with arrived := k.arrived ++ [(vt, bad.isNone, data)] } }

def execAllred (vt : Nat) (s : State) : Out3 := collArrive "ALLRED" 6 vt s
def execBcast (vt : Nat) (s : State) : Out3 := collArrive "BCAST" 7 vt s

/-- One level of the combining tree, and the tree (R352). -/
def collLevel (f : Nat → Nat → Nat) : List Nat → List Nat
  | a :: b :: r => f a b :: collLevel f r
  | l => l
def collFold (f : Nat → Nat → Nat) : Nat → List Nat → Nat
  | 0, l => l.headD 0
  | fuel + 1, l => if l.length ≤ 1 then l.headD 0 else collFold f fuel (collLevel f l)

/-- Element-wise tree of the participants' sources. -/
def combine (rop et len : Nat) (srcs : List (List Byte)) : List Byte :=
  let n := etBytes et
  (List.range len).flatMap fun i =>
    bytesOf n (collFold (ropApply rop et) (srcs.length + 1) (srcs.map fun b => natOf (slice b (n * i) n)))

def Cmd.agrees (a b : Cmd) : Bool :=
  a.op == b.op && a.et == b.et && a.rop == b.rop && a.len == b.len && (a.op != 7 || a.hi 2 == b.hi 2)

/-- The generation ends for the participants of the focused grid: aborted, or with the result written. -/
def collEnd (lvl id : Nat) (res : Option (List Byte)) (s : State) : State :=
  let k := s.g.coll lvl id
  let s := (collParts s lvl id).foldl (fun s (vt, c, _, _) =>
    match res with
    | none => failCmd s vt 6 c stAborted (c.fva.getD 0) 0 0
    | some b => setHead (winWrite s vt (c.hi 1 - spBase) b) vt 6 { c with finished := true }) s
  { s with g := s.g.setColl { k with gen := k.gen + 1, arrived := [] } }

def levelCode : Level → Nat
  | .ctx => 0 | .tile => 1 | .gang => 3 | .grid => 4 | .dom => 6

/-- The participants of an instance over the grids of its launch group, by their index in the group (R352). -/
def collAll (s : State) (lvl id : Nat) : List (Nat × Cmd × Bool × List Byte) :=
  if lvl = 6 then
    let gs := (s.g.grpIdx, collParts s lvl id) :: (groupIdx s).map fun k => ((swapGrid s k).g.grpIdx, collParts (swapGrid s k) lvl id)
    (List.range 4096).flatMap fun i => (gs.filter (·.1 == i)).flatMap (·.2)
  else collParts s lvl id

/-- Every participant's collective has reached its queue head, and the generation completes (R351, R352). Sources on other
modules are not in this state: a result that depends on them is a free value (log 13). DESIGN CHOICE (log 42): at the domain level
a BCAST root names a tile of every grid of the group, and the source is that of the grid with the lowest group index. -/
def execCollectiveGeneration (lv : Level) (id : Nat) (s : State) : Out3 :=
  let lvl := levelCode lv
  let onAll (f : State → State) (s : State) : State := if lvl = 6 then forGroup f s else f s
  let ready := if lvl = 6 then allGroup (collReady lvl id) s else collReady lvl id s
  match collAll s lvl id with
  | [] => off "COLLECTIVE_GENERATION"
  | (vt, c, ok, b) :: r =>
    if !ready || collLate lvl id s then off "COLLECTIVE_GENERATION"
    else
      let ps := (vt, c, ok, b) :: r
      let root := c.hi 2 % 2 ^ 24
      let srcs := ps.map fun x => x.2.2.2
      let here := lvl ≠ 6 || groupHere s
      let good := ps.all (fun x => x.2.2.1 && c.agrees x.2.1) && (c.op = 6 || !here || ps.any (·.1 == root))
      let free : List Byte := (List.range c.collBytes).map fun i => (Config.freeWord (s.free + i)).setWidth 8
      let res := if c.op = 6 then (if here then combine c.rop c.et c.len srcs else free)
                 else match ps.find? (·.1 == root) with
                   | some x => x.2.2.2
                   | none => free
      .next (onAll (collEnd lvl id (if good then some res else none)) { s with free := s.free + c.collBytes })

def execCollectiveTimeout (lv : Level) (id : Nat) (s : State) : Out3 :=
  let lvl := levelCode lv
  if collLate lvl id s then .next (collAbandonAll lvl id s) else off "COLLECTIVE_TIMEOUT"

/-- The collectives of the tiles of a gang that wait for their generations return to their queue heads (R369). -/
def collWithdraw (p : Nat → Bool) (s : State) : State :=
  { s with g := { s.g with colls := s.g.colls.map fun k => { k with arrived := k.arrived.filter fun a => !p a.1 } } }

/-- A collective of the tiles is being combined: its generation is complete. -/
def collCombining (p : Nat → Bool) (s : State) : Bool :=
  s.g.colls.any fun k => (k.arrived.any fun a => p a.1)
    && (if k.lv = 6 then allGroup (collReady k.lv k.id) s else collReady k.lv k.id s)

end Sys2Proof.Machine
end

