-- ==== Sys2Proof/Machine/Barrier.lean ====
section
/-! DEFINITION. Barrier and vote generations (R237 to R246, R271 to R273): opening, arrival, completion with its belay
point and soft yield (R368, R390), and abandonment. Levels are numbered as in `Ctx.bars`. -/

namespace Sys2Proof.Machine

/-! ## Instances and members (R237 to R239) -/

/-- The number of the instance of level `lv` that holds a tile. -/
def instOf (g : Grid) (lv vt : Nat) : Nat :=
  if lv = 0 then vt else if lv = 1 ∨ lv = 4 then (g.gangOf vt).1 * 4096 + (g.gangOf vt).2 else 0

def noBar (lv id : Nat) : Bar := { lv := lv, id := id, held := true, members := [] }
def Grid.bar (g : Grid) (lv id : Nat) : Bar := (g.bars.find? fun b => b.lv == lv && b.id == id).getD (noBar lv id)
def Grid.setBar (g : Grid) (b : Bar) : Grid :=
  { g with bars :=
      if g.bars.any fun x => x.lv == b.lv && x.id == b.id then
        g.bars.map fun x => if x.lv == b.lv && x.id == b.id then b else x
      else g.bars ++ [b] }

def Ctx.setBar (c : Ctx) (i : Nat) (p : BarPos) : Ctx := if h : i < 7 then { c with bars := c.bars.set i p } else c
def Ctx.clearArr (c : Ctx) (i : Nat) : Ctx := c.setBar i { c.bar i with arr := .none }

/-- The `memb` bit of a level, the wires as their level (R245). -/
def Ctx.memb (c : Ctx) (lv : Nat) : Bool :=
  match lv with
  | 0 => c.mTile | 1 => c.mGang | 4 => c.mGang | 2 => c.mGrid | 5 => c.mGrid | 3 => c.mDom | _ => true

def Ctx.started (c : Ctx) : Bool := c.run != .notStarted
/-- A started context that has not ended. -/
def Ctx.active (c : Ctx) : Bool := c.run != .notStarted && c.run != .ended

/-- The contexts that a generation which opens now has as members. -/
def membersAt (s : State) (lv id : Nat) : List (Nat × Nat) :=
  (s.allCtxs.filter fun x => x.2.active && x.2.memb lv && instOf s.g lv x.1 == id).map fun x => (x.1, x.2.id)

def setBarOpen (lv id gen : Nat) (held : Bool) (s : State) : State :=
  { s with g := s.g.setBar { s.g.bar lv id with
      gen := gen, held := held, members := if held then [] else membersAt s lv id, kind := none, arrivals := [] } }

/-- Generation `gen` opens, or is held while it would have no member (R239). Members on other modules are not in this
state, so a launch group that reaches other modules is never held. -/
def openBar (s : State) (lv id gen : Nat) : State :=
  if lv = 3 then
    forGroup (setBarOpen lv id gen (groupHere s && sumGroup (fun s => (membersAt s lv id).length) s == 0)) s
  else setBarOpen lv id gen (membersAt s lv id).isEmpty s

/-- The context has ended; in a lashed tile its interval has agreed on that (R388). -/
def hasEnded (s : State) (vt c : Nat) : Bool :=
  let ended (l : List Ctx) : Bool := match l.find? (·.id == c) with | some x => x.run == .ended | none => true
  match s.tile? vt with
  | none => true
  | some t => ended (s.ctxsOf t) && (t.lash.role == 0 || (match s.g.lashChk.find? (·.vt == vt) with
    | some k => ended k.others
    | none => true))

/-- The member has arrived, or has ended, which counts as arriving (R241). -/
def memberArrived (s : State) (b : Bar) (m : Nat × Nat) : Bool :=
  b.arrivals.any (fun a => a.vt == m.1 && a.c == m.2) || hasEnded s m.1 m.2

def arrivedCount (lv id : Nat) (s : State) : Nat :=
  let b := s.g.bar lv id
  (b.members.filter (memberArrived s b)).length

/-- A function of the instance, over the launch group for the domain level. -/
def sumInst (lv : Nat) (f : State → Nat) (s : State) : Nat := if lv = 3 then sumGroup f s else f s
def allInst (lv : Nat) (p : State → Bool) (s : State) : Bool := if lv = 3 then allGroup p s else p s
def forInst (lv : Nat) (f : State → State) (s : State) : State := if lv = 3 then forGroup f s else f s

/-- The kind that the first arrival has fixed (R243). -/
def kindOf (s : State) (lv id : Nat) : Option BarKind :=
  if lv = 3 then (s.g.bar lv id).kind <|> (groupIdx s).findSome? fun k => ((swapGrid s k).g.bar lv id).kind
  else (s.g.bar lv id).kind

/-! ## Time-outs (R242) -/

/-- A deadline of the open generation has passed in the focused grid. -/
def barPassed (lv id : Nat) (s : State) : Bool :=
  let b := s.g.bar lv id
  !b.held && b.arrivals.any fun a => match a.deadline with | some d => d ≤ s.m.cycle | none => false

/-- Every member of the focused grid has arrived. -/
def barAll (lv id : Nat) (s : State) : Bool := (s.g.bar lv id).members.all (memberArrived s (s.g.bar lv id))

/-- The open generation is to be abandoned: a deadline has passed, and some member has not arrived; whether members on other
modules have is not in this state. -/
def anyLate (lv id : Nat) (s : State) : Bool :=
  0 < sumInst lv (fun s => (barPassed lv id s).toNat) s && !(allInst lv (barAll lv id) s && (lv != 3 || groupHere s))

/-- Generation `gen` of a level is abandoned for a context of its instance, with `n` contexts arrived. -/
def Ctx.lateBar (vt lv gen n : Nat) (members : List (Nat × Nat)) (after : Bool) (c : Ctx) : Ctx :=
  let p := c.bar lv
  if p.gen ≠ gen then c
  else if p.arr = .waiting then c.setBar lv { p with arr := .late n gen, after := after }
  else if members.contains (vt, c.id) then c
  else c.setBar lv { p with gen := gen + 1 }

/-- Lashed tiles note the end of a generation for a repeat of the interval (R388). -/
def noteBar (here : Nat → Bool) (n : BarNote) (s : State) : State :=
  s.mapTiles fun t => if here t.vt && t.lash.role != 0 then { t with lash := { t.lash with passed := t.lash.passed ++ [n] } } else t

/-- The open generation is abandoned in the focused grid, with `n` contexts arrived. -/
def abandonHere (lv id n : Nat) (s : State) : State :=
  let b := s.g.bar lv id
  let here (vt : Nat) : Bool := instOf s.g lv vt == id
  let s := s.mapAllCtxs fun vt c => if here vt then c.lateBar vt lv b.gen n b.members (s.g.halts vt) else c
  let s := noteBar here (.late lv b.gen n b.members) s
  { s with g := s.g.setBar { b with abandoned := b.abandoned ++ [(b.gen, n)] } }

def abandonBar (lv id : Nat) (s : State) : State :=
  let n := sumInst lv (arrivedCount lv id) s
  openBar (forInst lv (abandonHere lv id n) s) lv id ((s.g.bar lv id).gen + 1)

/-- The open generation of the instance that holds tile `vt`, once it is late. -/
def abandonAt (vt : Nat) (s : State) (lv : Nat) : State :=
  if anyLate lv (instOf s.g lv vt) s then abandonBar lv (instOf s.g lv vt) s else s

/-- The late generations that the focused context is concerned with are abandoned. -/
def abandonLate (s : State) : State := [0, 1, 2, 3, 4, 5].foldl (abandonAt s.t.vt) s

/-! ## Arrival -/

/-- BAR_TIMEOUT for generation `gen`; the context's number moves to the open generation (R242). -/
def barTimeout (s : State) (lv n gen : Nat) : Res :=
  let p : BarPos := { gen := (s.g.bar lv (instOf s.g lv s.t.vt)).gen }
  .trap { s with c := s.c.setBar lv p } .barTimeout (.ofNat 64 n) (.ofNat 64 gen)

/-- The checks of R272 on an arrival of the focused context, then `k`; a generation that is late by now is abandoned before. -/
def barChecks (s : State) (lv code : Nat) (kind : BarKind) (k : State → Bar → Res) : Res :=
  let s := abandonAt s.t.vt s lv
  let id := instOf s.g lv s.t.vt
  let b := s.g.bar lv id
  let gen := (s.c.bar lv).gen
  match b.abandoned.find? (·.1 == gen) with
  | some (_, n) => barTimeout s lv n gen
  | none =>
    if b.held || !b.members.contains (s.t.vt, s.c.id)
        || (match kindOf s lv id with | some k => k != kind | none => false) then
      .trap s .barExcess (.ofNat 64 code) (.ofNat 64 b.gen)
    else k s b

/-- The generation takes an arrival; the first one fixes its kind (R243). -/
def Bar.take (b : Bar) (kind : BarKind) (a : ArrRec) : Bar :=
  { b with kind := some (b.kind.getD kind), arrivals := b.arrivals ++ [a] }

/-- Scope of an arrival at a level (R288). -/
def barScope (lv : Nat) : Nat := if lv = 0 then 1 else if lv = 1 then 3 else if lv = 3 then 6 else 4

/-- The arrival is recorded with its deadline and its place in the order of sends (R240, R242); that of a lashed tile waits in
the gated buffer, and ends the interval (R387, R388). -/
def recordArrival (s : State) (lv : Nat) (kind : BarKind) (val : W64) (b : Bar) : State :=
  let dl := if s.c.bto = 0 then none else some (s.m.cycle + s.c.bto.toNat)
  let a : ArrRec := ⟨s.t.vt, s.c.id, val, dl, s.g.sendNext, s.awayAt (barScope lv)⟩
  let s := stampNext { s with c := s.c.setBar lv { s.c.bar lv with arr := .waiting } }
  if s.t.lash.role = 0 then { s with g := s.g.setBar (b.take kind a) }
  else lashEarly { s with t := { s.t with lash := { s.t.lash with gated := s.t.lash.gated ++ [.arrive lv kind b.gen a] } } }

/-- An arrival of a lashed tile leaves the gated buffer (R388). Where its generation has been abandoned meanwhile it is too late,
and where another kind has been fixed the context's word makes its arrival again (log 15). -/
def landArrival (s : State) (lv : Nat) (kind : BarKind) (gen : Nat) (a : ArrRec) : State :=
  let s := abandonAt a.vt s lv
  let b := s.g.bar lv (instOf s.g lv a.vt)
  if b.gen ≠ gen then s
  else if (kindOf s lv b.id).all (· == kind) then { s with g := s.g.setBar (b.take kind a) }
  else s.mapCtx a.vt a.c fun c => c.clearArr lv

/-! ## Completion (R240, R244, R246) -/

/-- The accesses of context `c` of tile `vt` are performed, as a release performs them: towards an agent outside its scope, those
that the agent does not access (R289, log 7). -/
def performCtx (s : State) (away : Option Agent) (vt c : Nat) : State :=
  if (s.ctx? vt c).isSome then
    let s1 := settlePosts (fun p => !s.drops away [p.piece]) (s.focus vt c)
    (performOwn (fun a => !s.drops away a.pieces) s1).focus s.t.vt s.c.id
  else s

/-- Members of the focused grid. -/
def barMembers (lv id : Nat) (s : State) : List (Nat × Nat) := (s.g.bar lv id).members

/-- The arrival of a member; one that has ended has none. -/
def Bar.arrivalOf (b : Bar) (m : Nat × Nat) : Option ArrRec := b.arrivals.find? fun a => a.vt == m.1 && a.c == m.2

/-- The agent towards which a member's release is dropped, if there is one (R289). -/
def Bar.looseOf (b : Bar) (m : Nat × Nat) : Option Agent := (b.arrivalOf m).bind (·.loose)

/-- The members' accesses are performed, but for those for which its release is dropped (R289). -/
def releaseAll (lv id : Nat) (s : State) : State :=
  (barMembers lv id s).foldl (fun s m => performCtx s ((s.g.bar lv id).looseOf m) m.1 m.2) s

/-- Place in the order of sends up to which a member's messages count: that of its arrival, or all for one that has ended. -/
def Bar.limit (g : Grid) (b : Bar) (m : Nat × Nat) : Nat := match b.arrivalOf m with | some a => a.seq | none => g.sendNext

/-- Every member has arrived, its accesses before that are performed and its messages before that are delivered (R240, R293). -/
def barFull (msgs : Bool) (lv id : Nat) (s : State) : Bool :=
  let b := s.g.bar lv id
  !b.held && b.members.all fun m => memberArrived s b m && (!msgs ||
    (match s.tile? m.1, s.ctx? m.1 m.2 with
     | some t, some c => c.accs.all (fun a => a.performed || b.limit s.g m < a.seq
           || (s.drops (b.looseOf m) a.pieces && (match a.kind with | .ldk _ => false | _ => true)))
         && ownDelivered s t m.2 (b.limit s.g m)
     | _, _ => true))

/-- The value of a vote over the arrivals of the focused grid (R244). -/
def combineVotes (k : BarKind) (l : List W64) : W64 :=
  match k with
  | .voteAnd => l.foldl (· &&& ·) (BitVec.allOnes 64)
  | .voteOr => l.foldl (· ||| ·) 0
  | .voteAdd => l.foldl (· + ·) 0
  | .sync => 0

def voteValues (lv id : Nat) (s : State) : List W64 := (s.g.bar lv id).arrivals.map (·.val)

/-- Values of every grid of the instance on this module. -/
def instVotes (lv id : Nat) (s : State) : List W64 :=
  voteValues lv id s ++ (if lv = 3 then (groupIdx s).flatMap fun k => voteValues lv id (swapGrid s k) else [])

/-- A context of the instance moves on with the generation; one that still owes an abandoned generation does not. -/
def Ctx.passBar (lv gen : Nat) (v : W64) (after : Bool) (c : Ctx) : Ctx :=
  let p := c.bar lv
  if p.gen ≠ gen then c
  else c.setBar lv { gen := gen + 1, arr := if p.arr = .waiting then .done v else p.arr, after := after }

def passAll (lv id gen : Nat) (v : W64) (s : State) : State :=
  let here (vt : Nat) : Bool := instOf s.g lv vt == id
  noteBar here (.passed lv gen v) (s.mapAllCtxs fun vt c => if here vt then c.passBar lv gen v (s.g.halts vt) else c)

/-- Every tile of the generation's instance, or of the collective's, satisfies `p`. -/
def barWithin (s : State) (p : Nat → Bool) (b : Bar) : Bool :=
  s.allTiles.all fun t => instOf s.g b.lv t.vt != b.id || p t.vt
def collWithin (s : State) (p : Nat → Bool) (k : Coll) : Bool :=
  s.allTiles.all fun t => collId s.g k.lv t.vt != k.id || p t.vt

/-- A belay point of the tiles that satisfy `p`: held stores are performed, everything is clean, and a checkpoint is
saved (R390). -/
def belayPoint (p : Nat → Bool) (s : State) : State :=
  let s := s.allTiles.foldl (fun s t => if p t.vt then performHeld s t.vt else s) s
  let s := s.mapTiles fun t =>
    if p t.vt then { t with belay := { t.belay with
      unrep := false, again := false, seq := s.g.sendNext, lines := [], slots := [], rmem := [] } } else t
  { s with g := { s.g with
      belayChk := (s.allTiles.filter fun t => p t.vt).map (wholeTile s)
        ++ s.g.belayChk.filter fun t => !p t.vt
      chkBars := s.g.bars.filter (barWithin s p) ++ s.g.chkBars.filter fun b => !barWithin s p b
      chkColls := s.g.colls.filter (collWithin s p) ++ s.g.chkColls.filter fun k => !collWithin s p k } }

/-- The index of the level that the grid's belay level names. -/
def belayLv (g : Grid) : Option Nat := if g.belay = 3 then some 1 else if g.belay = 4 then some 2 else if g.belay = 6 then some 3 else none

/-- The gang takes a soft yield at the completion of generation `b` (R368): the generation is at the gang level of this gang or at
the grid level, every active context of the gang is a member, and the request stands. While the command processors restart there
is none (R394). -/
def softYields (s : State) (b : Bar) (x : Gang) : Bool :=
  x.resident && x.yieldReq && !x.halting && !s.m.restart
    && (b.lv == 2 || (b.lv == 1 && b.id == x.gr * 4096 + x.gc)) && s.allCtxs.all fun (vt, c) =>
      s.g.gangOf vt != (x.gr, x.gc) || !c.active || b.members.contains (vt, c.id)

/-- Yielding gangs freeze with the completion recorded, and their halt begins (R368): a member stands at its word until the
gang resumes. -/
def freezeYields (gs : List (Nat × Nat)) (s : State) : State :=
  { s with g := { s.g with gangs := s.g.gangs.map fun x =>
      (if gs.contains (x.gr, x.gc) then { x with yieldReq := false, grace := none, halting := true, soft := true } else x) } }

/-- The completion in the focused grid: its members are released or frozen, with the belay point first (R390). -/
def completeHere (lv id : Nat) (v : W64) (s : State) : State :=
  let b := s.g.bar lv id
  let gs := (s.g.gangs.filter (softYields s b)).map fun x => (x.gr, x.gc)
  freezeYields gs (passAll lv id b.gen v s)

def belayHere (lv id : Nat) (s : State) : State :=
  if belayLv s.g = some lv then belayPoint (fun vt => instOf s.g lv vt == id) s else s

/-- A generation of level `lv` completes. -/
def completeBar (lv id : Nat) (v : W64) (s : State) : State :=
  let gen := (s.g.bar lv id).gen
  forInst lv (belayHere lv id) (openBar (forInst lv (completeHere lv id v) s) lv id (gen + 1))

/-- Lashed tiles of the instance that are within an interval: it ends before a belay point (R388, R390). -/
def lashOpen (lv id : Nat) (s : State) : List Nat :=
  if belayLv s.g = some lv then
    (s.allTiles.filter fun t => instOf s.g lv t.vt == id && t.lash.role != 0
      && (t.lash.count != 0 || t.lash.early? || t.lash.waiting || t.lash.gated != [])).map (·.vt)
  else []

def endIntervals (lv id : Nat) (s : State) : State :=
  (lashOpen lv id s).foldl (fun s vt => s.mapTile vt fun t => { t with lash := { t.lash with due := true } }) s

/-- Completion of a barrier or vote (R240). `remote` is the combined contribution of members on other modules. Once a deadline
has passed, members on other modules can no longer complete it (R242). -/
def execBarrierCompletion (lv : Level) (id : Nat) (remote : W64) (s : State) : Out3 :=
  if lv = .ctx then off "BARRIER_COMPLETION"
  else
    let i := levelIdx lv
    let s1 := forInst i (releaseAll i id) s
    if !allInst i (barFull true i id) s1 || anyLate i id s1 then off "BARRIER_COMPLETION"
    else if !allInst i (fun s => (lashOpen i id s).isEmpty) s1 then .next (forInst i (endIntervals i id) s1)
    else
      let k := (kindOf s1 i id).getD .sync
      let l := instVotes i id s1 ++ (if i = 3 ∧ !groupHere s1 then [remote] else [])
      .next (completeBar i id (combineVotes k l) s1)

/-- Index of the wires of a level. -/
def execWireBarrierCompletion (lv : WLevel) (id : Nat) (s : State) : Out3 :=
  let i := wlevelIdx lv
  if barFull false i id s && !anyLate i id s then .next (openBar (passAll i id (s.g.bar i id).gen 0 s) i id ((s.g.bar i id).gen + 1))
  else off "WIRE_BARRIER_COMPLETION"

/-! ## Time-outs (R242) -/

/-- Levels of R272 and of the wires that stand for a level code. -/
def barLevels (lv : Level) : List Nat :=
  match lv with
  | .ctx => [] | .tile => [0] | .gang => [1, 4] | .grid => [2, 5] | .dom => [3]

/-- The open generations of the instance whose first deadline has passed are abandoned, on the wires too. -/
def execBarrierTimeout (lv : Level) (id : Nat) (s : State) : Out3 :=
  match (barLevels lv).filter fun i => anyLate i id s with
  | [] => off "BARRIER_TIMEOUT"
  | l => .next (l.foldl (fun s i => abandonBar i id s) s)

/-! ## The end of a context (R40, R241, R344) -/

/-- The focused context ends: it issues nothing more, its fault records and its partly assembled commands are dropped. Its
stores are performed here at the latest (log 7); a generation whose deadline has passed does not count it as arrived (R242). -/
def endContext (s : State) : State :=
  let s := settleAll (abandonLate s)
  let mine (a : Asm) := a.agent == s.c.id
  let gone := s.t.asm.filter mine
  let s := s.tally s.t.vt { cmdDrop := gone.length, recDrop := s.c.frecs.length }
  atSwitch { s with
    c := gone.foldl (fun c a => match a.follow with | some o => c.unflight o | none => c)
      { s.c with
        run := .ended, contBar := none, contEng := none, frecs := [], denial := none, kept := none, frame := none }
    t := { s.t.resume s.c.frecs with asm := s.t.asm.filter fun a => !mine a } }

/-- The runtime ends the context, and the completion record counts it with the first cause (R448, R415). -/
def runtimeEnd (s : State) : State :=
  let s := { s with g := { s.g with trapWhy := if s.g.trapEnd = 0 then s.c.cause.toNat else s.g.trapWhy } }
  endContext (s.tally s.t.vt { trapEnd := 1 })

/-! ## Membership (R238, R239) -/

/-- A held generation of the instance opens if it would now have a member. A grid outside every domain launch group has no
instance of the domain level (R237, log 19). -/
def openHeld (s : State) (lv : Nat) : State :=
  let id := instOf s.g lv s.t.vt
  let b := s.g.bar lv id
  if lv = 3 ∧ !s.g.domgrp then s
  else if b.held && 0 < sumInst lv (fun s => (membersAt s lv id).length) s then openBar s lv id b.gen else s

/-- A write to `memb` of the focused context. -/
def writeMemb (s : State) (v : W64) : State :=
  let s := { s with c := { s.c with
    mTile := v.getLsbD 1, mGang := v.getLsbD 3, mGrid := v.getLsbD 4, mDom := v.getLsbD 6 } }
  [0, 1, 2, 3, 4, 5].foldl openHeld s

end Sys2Proof.Machine
end

