-- ==== Sys2Proof/Machine/Port.lean ====
section
/-! DEFINITION. The PORT members: stream ports, and the submission of engine commands by contexts (R257 to R259, R350). -/

namespace Sys2Proof.Machine

/-- A port index outside the member's column traps ILLEGAL before any source is examined (R258). -/
def portIndex (s : State) (i : Instr) (q : Fin 16) (lo hi : Nat) (k : Res) : Res :=
  if lo ≤ q.val ∧ q.val ≤ hi then k else .trap s .illegal (wordOf s i) 3

/-- Inbound stream port `q` of a context. -/
def Ctx.stream (c : Ctx) (q : Nat) : List W64 := c.qin.toList.getD q []
def Ctx.setStream (c : Ctx) (q : Nat) (l : List W64) : Ctx := if h : q < 4 then { c with qin := c.qin.set q l } else c

/-- Remove the first `n` units of an inbound stream port. -/
def dropStream (s : State) (q n : Nat) : State :=
  { s with c := { s.c.setStream q ((s.c.stream q).drop n) with
      qbad := s.c.qbad.filterMap fun x => if x.1 ≠ q then some x else if x.2 < n then none else some (q, x.2 - n) } }

/-- The first `n` units of a stream port are consumed by the word: one whose carry code has failed traps UNCORR (R384). -/
def takeStream (s : State) (q n : Nat) (k : Res) : Res :=
  if s.c.qbad.any fun x => x.1 == q && x.2 < n then
    .trap s .uncorr (.ofNat 64 (0xFF20000000000000 + s.t.vt * 2 ^ 24 + 0xC00000 + 0x400 * s.c.id + 0x40 * q)) (.ofNat 64 srcCarry)
  else k

/-- The units of a vector, an invalid word as zero. -/
def unitsOfV (x : W512) (v : BitVec 8) : List W64 :=
  (List.range 8).map fun k => if v.getLsbD k then .ofNat 64 (lane 64 x.toNat k) else 0

/-- Append units to q11: a release at tile scope (R288). -/
def pushOut (s : State) (l : List W64) : Res :=
  if s.c.qout.length + l.length ≤ streamCap then
    releaseOver s 1 [] fun s => .done { s with c := { s.c with qout := s.c.qout ++ l } }
  else .wait s (.streamOut l.length)

def execQget (q : Fin 16) (a : Fin 32) (s : State) : Out3 :=
  finish s <| portIndex s (.qget q a) q 0 3 <| dstX s a anyWord <|
    match s.c.stream q.val with
    | [] => .wait s (.streamIn q.val 1)
    | x :: _ => takeStream s q.val 1 (.done (writeX (dropStream s q.val 1) a x true))

def execVqget (q : Fin 16) (a : Fin 32) (s : State) : Out3 :=
  finish s <| portIndex s (.vqget q a) q 0 3 <| dstV s a <|
    let l := s.c.stream q.val
    if l.length < 8 then .wait s (.streamIn q.val 8)
    else takeStream s q.val 8 <| .done (writeV (dropStream s q.val 8) a (.ofNat 512 (ofLanes 64 ((l.take 8).map (·.toNat)))) allV)

def execQput (q : Fin 16) (a : Fin 32) (wa : Bool) (s : State) : Out3 :=
  finish s <| portIndex s (.qput q a wa) q 11 11 <| srcX s a fldA wa {} fun x k => commit s k <| pushOut s [x]

def execVqput (q : Fin 16) (a : Fin 32) (s : State) : Out3 :=
  finish s <| portIndex s (.vqput q a) q 11 11 <| srcV s a fldA {} fun x v k => accept s k <| pushOut s (unitsOfV x v)

/-! ## Engine commands -/

/-- The follow-on image of a header: an MMA or MMAS word with any bit 31 (R350). -/
def followImage (w : Nat) : Option (Pair × Bool × Fin 8 × Fin 32 × Fin 32 × Fin 32) :=
  let u := bits w 0 31
  match (if fld u 25 6 = 56 then decMma u else if fld u 25 6 = 58 then decMmas u else .error .reservedMajor) with
  | .ok (.mma p d a b c) => if (Instr.mma p d a b c).wf then some (p, false, d, a, b, c) else none
  | .ok (.mmas p d a b c) => if (Instr.mmas p d a b c).wf then some (p, true, d, a, b, c) else none
  | _ => none

/-- Who submits a command (R324, R353). -/
def Ctx.submitter (c : Ctx) : Cmd :=
  { beats := [], agent := c.id, seq := 0, ptroot := c.ptroot, asid := c.asid, smode := c.status.mode, bto := c.bto.toNat }

/-- The wait for the queue's free slots, the release of a header with REL (R294), and the push (R259, R344). -/
def pushCmd (s : State) (q : Nat) (lo hi : W64) (follow : Option ArrOp) (claim : State → State) : Res :=
  let push (s : State) : Res := .done (claim (pushBeat s s.c.id q lo hi follow s.c.submitter))
  match s.t.lastBeat s.c.id q lo with
  | none => push s
  | some n =>
    if s.t.freeSlots q < n then .wait s (.engine q n)
    else if bits (s.t.hdrOf s.c.id q lo) 48 1 = 1 then allPerformed s true true push
    else push s

/-- A header with FOLLOW: the image's registers and checks, and its commit (R350). -/
def followOn (s : State) (k : Cur) (q : Nat) (lo hi : W64) : Res :=
  let im := bits hi.toNat 0 32
  match followImage im with
  | none => .trap s .illegal (.ofNat 64 im) 1
  | some (p, sp, d, a, b, c) =>
    srcX s a fldA false k fun ea k => srcX s b fldB false k fun sl k => srcX s c fldC false k fun sc k =>
      commit s k <| mmaChecks s p sp d ea fun _ =>
        let o : ArrOp := { c := s.c.id, d := d, p := p, sp := sp, aAddr := ea, pitch := s.c.pitch.toNat * 16, rows := none
                           slot := sl.toNat % 128, need := 0, wb := none, scale := sc, unit := c == 0 }
        pushCmd s q lo hi (some o) fun s => s.claimT p d

def execEcmd (q : Fin 16) (a b : Fin 32) (wa wb : Bool) (s : State) : Out3 :=
  finish s <| portIndex s (.ecmd q a b wa wb) q 4 10 <| srcX s a fldA wa {} fun lo k => srcX s b fldB wb k fun hi k =>
    let e := q.val - 4
    if (s.t.asmOf s.c.id e).isNone && hdrFollow lo.toNat then
      (if k.valid then followOn s k e lo hi else .null)
    else commit s k <| pushCmd s e lo hi none id

def execEbusy (q : Fin 16) (a : Fin 32) (s : State) : Out3 :=
  finish s <| portIndex s (.ebusy q a) q 4 10 <| putResult s a (.ofNat 64 (bits s.t.busyMask (q.val - 4) 1)) true

def execEfence (lo : BitVec 5) (hi : BitVec 2) (s : State) : Out3 :=
  let m := lo.toNat + 32 * hi.toNat
  finish s <| if s.t.busyMask &&& m = 0 then .done s else .wait s (.efence m)

/-- What `qlen` counts (R259). -/
def queueLen (s : State) (q : Nat) : Nat :=
  if q < 4 then (s.c.stream q).length
  else if q < 11 then s.t.freeSlots (q - 4)
  else streamCap - s.c.qout.length

def execQlen (q : Fin 16) (a : Fin 32) (s : State) : Out3 :=
  finish s <| portIndex s (.qlen q a) q 0 11 <| putResult s a (.ofNat 64 (queueLen s q.val)) true

end Sys2Proof.Machine
end

