-- ==== Sys2Proof/Machine/Mesh.lean ====
section
/-! DEFINITION. The arrival of messages (R234, R247, R248, R314, R318, R319, R375), with their order (R285, R288, R293),
their log entries (R395), and the tile fault of a parked message (R376). -/

namespace Sys2Proof.Machine

def event (row : String) : Option State → Out3
  | some s => .next s
  | none => off row

/-- A log entry of something that reaches a tile and no role of it: the role is the running context's (log 15). -/
def logAt (s : State) (vt kind : Nat) (arg : Nat) : State :=
  match s.tile? vt with
  | some t => logEvent s vt kind t.cur (rolePos s vt t.cur) (.ofNat 64 arg)
  | none => s

/-! ## Taking a message from where it waits -/

/-- Messages of the gang are delivered. -/
def Gang.open_ (x : Gang) : Bool := x.resident && !x.halting && !x.halted

/-- The parked messages of resident gangs, which come first (R375), numbered on from `k`. -/
def takeParked : List Gang → Nat → Option (Msg × List Gang)
  | [], _ => none
  | x :: r, k =>
    let n := if x.open_ then x.parked.length else 0
    if k < n then
      match x.parked[k]? with
      | some m => some (m, { x with parked := dropNth x.parked k } :: r)
      | none => none
    else match takeParked r (k - n) with
      | some (m, r') => some (m, x :: r')
      | none => none

/-- Message `k` under way: first those parked for resident gangs, then the mesh. -/
def takeMsg (s : State) (k : Nat) : Option (Msg × State) :=
  match takeParked s.g.gangs k with
  | some (m, gs) => some (m, { s with g := { s.g with gangs := gs } })
  | none =>
    let k := k - ((s.g.gangs.filter (·.open_)).map (·.parked.length)).sum
    match s.g.mesh[k]? with
    | some m => some (m, { s with g := { s.g with mesh := dropNth s.g.mesh k } })
    | none => none

/-- Every message under way to a resident tile or parked for one. -/
def underWay (s : State) : List Msg := (s.g.gangs.filter (·.open_)).flatMap (·.parked) ++ s.g.mesh

/-- Messages under way that the sender of `m` sent before it. -/
def before (s : State) (m : Msg) : List Msg := (underWay s).filter fun x => x.src == m.src && x.c == m.c && x.seq < m.seq

def Msg.isStore (m : Msg) : Bool := m.body.writes != []

/-- The pieces that a window store writes. -/
def Msg.pieces (m : Msg) : List Piece := m.body.writes.map fun w => ⟨.tile m.dst w.1, w.2.length, 0⟩

/-- A window store that the sender of `m` sent before it, and for which its release is not dropped, is not performed. While the
sender's gang halts, its messages drain past stores that are parked (R369). -/
def storesBefore (s : State) (m : Msg) : Bool :=
  let want (y : Msg) : Bool := y.isStore && !s.drops m.loose y.pieces
  (before s m).any want || (!s.g.parks m.src && s.g.gangs.any fun x => x.parked.any fun y =>
    want y && y.src == m.src && y.c == m.c && y.seq < m.seq)

/-- What the sender did before the message is performed, as a release needs it (R288), but for what its release is dropped for
(R289). While the sender's gang halts, its messages drain without an access that the halt will abandon (R369). -/
def released (s : State) (m : Msg) : Option State :=
  if storesBefore s m then none
  else if 4 ≤ m.c then some (if m.c < 6 then settleHelpers s m.loose m.src else s)
  else
    let s := performCtx s m.loose m.src m.c
    match s.ctx? m.src m.c with
    | none => some s
    | some x =>
      if x.accs.all fun a => a.performed || m.seq < a.seq || s.drops m.loose a.pieces || (s.g.parks m.src && a.absent s) then some s
      else none

/-! ## Port entries -/

def Entry.isVec : Entry → Bool
  | .word _ _ => false
  | .vec _ _ => true
  | .bad w => w

def Msg.samePort (a b : Msg) : Bool :=
  match a.body, b.body with
  | .port c d _, .port c' d' _ => a.dst == b.dst && c == c' && d == d'
  | _, _ => false

/-- The entry enters its queue. -/
def portLand (s : State) (m : Msg) (c : Nat) (dir : Fin 4) (e : Entry) : State :=
  let e := if m.sound then e else e.fail
  let s := s.mapCtx m.dst c fun x => { x with inq := x.inq.set dir (x.inq[dir] ++ [e]) }
  let s := s.mapTile m.dst fun t => t.keepMsg m
  logAt s m.dst 2 (dir.val + 4 * e.isVec.toNat)

def portArrive (s : State) (k : Nat) : Option State :=
  match takeMsg s k with
  | none => none
  | some (m, s1) =>
    match m.body with
    | .port c dir e =>
      if s.g.parks m.dst || (before s m).any (·.samePort m) then none
      else
        -- one that was parked counts as sent then
        match (if s.g.gangs.any (·.parked.contains m) then some s1 else released s1 m) with
        | none => none
        | some s2 =>
          match s2.ctx? m.dst c with
          | none => none
          | some x =>
            if 16 ≤ (x.inq[dir]).length then none
            else
              some (portLand s2 m c dir e)
    | _ => none

def execPortEntryArrival (k : Nat) (s : State) : Out3 :=
  event "PORT_ENTRY_ARRIVAL" <|
    if (match takeMsg s k with | some (m, _) => s.heldBack m.dst | none => false) then none else portArrive s k

/-! ## Window stores -/

/-- The register of a register block that an offset falls in: its code for DREG, or none (R362, R384). -/
def regAt (o : Nat) : Option Nat :=
  let r := o % 0x20000
  if r < 0x100 then some (r / 8)
  else if 0x1000 ≤ r ∧ r < 0x1800 then some (32 + (r - 0x1000) / 64)
  else if 0x4000 ≤ r ∧ r < 0x6000 then some (64 + (r - 0x4000) / 1024)
  else none

/-- Register `code` of a context becomes cleared. -/
def Ctx.clearReg (c : Ctx) (code : Nat) : Ctx :=
  if code < 32 then c.putXi code ⟨0, .cleared, false⟩
  else if code < 64 then c.putVi (code - 32) ⟨0, .cleared, 0⟩
  else c.putHi (code - 64) ⟨0, .cleared⟩

/-- The offset of a register in its register block (R316). -/
def regOffset (code : Nat) : Nat :=
  if code < 32 then 8 * code else if code < 64 then 0x1000 + 64 * (code - 32) else 0x4000 + 1024 * (code - 64)

/-- A register of context `c` whose window write failed its carry code is cleared, with a deferred UNCORR of its owner. -/
def carryReg (vt c : Nat) (s : State) (r : Nat) : State :=
  let s := s.mapCtx vt c fun x => x.clearReg r
  if (s.ctx? vt c).isSome then
    (raiseDeferred (s.focus vt c) ⟨.uncorr, .ofNat 64 (regOffset r), .ofNat 64 (srcCarry + 16 + 256 * r)⟩).focus s.t.vt s.c.id
  else s

/-- A write whose carry code failed: the granules it covers become uncorrectable, or its registers cleared with a deferred
UNCORR of their owner; the log names the writer (R384). -/
def carryBad (src vt : Nat) (s : State) (w : Nat × List Byte) : State :=
  let s := { s with m := s.m.logErr errCarry (.ofNat 64 src) }
  let (st, off) := winSrc w.1
  let us := unitsOf 8 w.1 w.2.length
  match (if 0x800000 ≤ w.1 then (us.filterMap fun u => regAt (8 * u)).eraseDups else []) with
  | [] => s.mapTile vt fun t =>
      { t with bad := t.bad ++ ((unitsOf 8 off w.2.length).map fun u => (st, u)).filter fun x => !t.bad.contains x }
  | rs => rs.foldl (carryReg vt ((w.1 - 0x800000) / 0x20000)) s

/-- The parts of a window store are written, and their carry codes checked (R318, R384). -/
def storeLand (s : State) (m : Msg) (ws : List (Nat × List Byte)) : State :=
  let s := ws.foldl (fun s w => winWrite s m.dst w.1 w.2) s
  if m.sound then s else ws.foldl (carryBad m.src m.dst) s

def storeArrive (s : State) (k : Nat) : Option State :=
  match takeMsg s k with
  | none => none
  | some (m, s1) =>
    match m.body.writes with
    | [] => none
    | (o, bs) :: r =>
      let ws := (o, bs) :: r
      if s.g.parks m.dst || ws.any (fun w => winBusy s m.dst w.1 w.2.length)
          || (before s m).any (·.touches (ws.map fun w => ⟨.tile m.dst w.1, w.2.length, 0⟩)) then none
      else some (logAt (storeLand s1 m ws) m.dst 6 (m.src + 2 ^ 24 * o))

def execWindowStoreArrival (k : Nat) (s : State) : Out3 :=
  event "WINDOW_STORE_ARRIVAL" <|
    if (match takeMsg s k with | some (m, _) => s.heldBack m.dst | none => false) then none else storeArrive s k

/-! ## Stream-port writes (R319) -/

def Msg.sameStream (a b : Msg) : Bool :=
  match a.body, b.body with
  | .stream c q _, .stream c' q' _ => a.dst == b.dst && c == c' && q == q'
  | _, _ => false

/-- Units enter a stream port; those whose carry code failed are marked (R384). -/
def Ctx.takeUnits (x : Ctx) (q : Nat) (us : List W64) (ok : Bool) : Ctx :=
  { x.setStream q (x.stream q ++ us) with
    qbad := if ok then x.qbad else x.qbad ++ (List.range us.length).map fun k => (q, (x.stream q).length + k) }

def streamArrive (s : State) (k : Nat) : Option State :=
  match takeMsg s k with
  | none => none
  | some (m, s1) =>
    match m.body with
    | .stream c q us =>
      if s.g.parks m.dst || (before s m).any (·.sameStream m) then none
      else
        match s1.ctx? m.dst c with
        | none => some s1
        | some x =>
          if streamCap < (x.stream q).length + us.length then none
          else some ((s1.mapCtx m.dst c (·.takeUnits q us m.sound)).mapTile m.dst fun t => t.keepMsg m)
    | _ => none

def execStreamWindowWrite (k : Nat) (s : State) : Out3 := event "STREAM_WINDOW_WRITE" (streamArrive s k)

/-! ## Window loads (R314) -/

/-- The accesses of a context that have not been performed and lie in an absent gang, or in one that halts, but for those that a
lashed tile gates; the requests that are parked there for them. -/
def farAccesses (s : State) (x : Ctx) (t : Tile) (k : Nat × Nat) : Nat :=
  (x.accs.filter fun a => !a.performed && !isOwn a.va && !a.gatedBy t && (match absentTile s a.pieces with
    | some u => s.g.gangOf u == k
    | none => false)).length
def farRequests (s : State) (vt c : Nat) (k : Nat × Nat) : Nat :=
  ((s.msgsOf vt c).filter fun m => m.body == .loadReq && s.g.gangOf m.dst == k).length

/-- A load that meets a gang whose halt has begun since it was issued is parked with it, as a request (R314, R369, R375). -/
def parkLoad (s : State) (vt c : Nat) (x : Ctx) (a : Access) : Option State :=
  match (if isOwn a.va then none else absentTile s a.pieces), s.tile? vt with
  | some u, some t =>
    if farRequests s vt c (s.g.gangOf u) < farAccesses s x t (s.g.gangOf u) && parkRoom s.g u .loadReq then
      some (post s vt c u .loadReq)
    else none
  | _, _ => none

/-- Access `n` of a context reads its tile: its value is fixed there, after the context's earlier accesses to the same
bytes. -/
def windowArrive (s : State) (vt c n : Nat) : Option State :=
  let k := n % 16
  match s.ctx? vt c with
  | none => none
  | some x =>
    match x.accs[k]? with
    | none => none
    | some a =>
      let win := a.pieces.all fun p => match p.place with | .tile _ _ => true | .glob _ => false
      if a.performed || a.reissue || !win || a.pieces == [] || s.g.still vt || storesAhead s vt c a
          || ((x.accs.take k).any fun b => !b.performed && anyOverlap a.pieces b.pieces) then none
      else if a.absent s then (if (match s.tile? vt with | some t => a.gatedBy t | none => true) then none else parkLoad s vt c x a)
      else
        match lashInbound s vt a.pieces with
        | some s' => some s'
        | none =>
          match s.tile? vt with
          | none => none
          | some t =>
            if a.gatedBy t then none
            else
              -- part j of an access that the striped window cuts stands for k + 16 * (j + 1) (R313)
              let (s', a') := if n < 16 then perform s vt a else performPart s vt a (n / 16 - 1)
              some ((noteReply s' vt c a').mapCtx vt c fun x => { x with accs := setNth x.accs k a' })

def execWindowLoadArrival (vt c k : Nat) (s : State) : Out3 := event "WINDOW_LOAD_ARRIVAL" (windowArrive s vt c k)

/-! ## Parking (R248, R375, R376) -/

/-- The first message parked for a gang after its swap-out raises one tile fault, which becomes a summon request made at that
time (R248, R376, R416); a gang that has not been placed yet is absent too (log 20). One that is parked while the gang still
halts raises none. DEDUCED (log 20): the request that the gang has made before, at its launch or swap-out, stands beside it, as the
order of the recorded run has it (R401). -/
def Gang.park (x : Gang) (cycle : Nat) (m : Msg) : Gang :=
  if x.resident || x.faulted then { x with parked := x.parked ++ [m] }
  else { x with parked := x.parked ++ [m], faulted := true, summon := true, faults := x.faults + 1
                summonAt := if x.summon then x.summonAt else cycle }

def parkMsg (s : State) (m : Msg) : State := { s with g := s.g.mapGang (s.g.gangOf m.dst) (·.park s.m.cycle m) }

/-- A loaded record of an NI with its tile, where it is the next of its tile for its destination (R262). -/
def niHeads (s : State) : List (Nat × NiRec) :=
  ((s.allTiles.foldl (fun l t => insertTile l t) []).flatMap fun t => t.ni.map fun n => (t.vt, n))

def NiRec.msg (n : NiRec) (vt : Nat) : Msg := { src := vt, c := n.c, dst := n.dst, body := .record n.r, code := (Body.record n.r).codes, seq := n.seq, loose := n.loose, ldk := n.ldk }

/-- No earlier record of the tile waits for the same destination. -/
def niFirst (t : Tile) (n : NiRec) : Bool := t.ni.all fun x => x.dst != n.dst || n.seq ≤ x.seq

def dropNi (s : State) (vt id : Nat) : State := s.mapTile vt fun t => { t with ni := t.ni.filter fun n => n.id != id }

/-- Messages of the sender to the same gang that it sent before. -/
def parkOrder (s : State) (m : Msg) : Bool :=
  (s.g.mesh.any fun x => x.src == m.src && x.c == m.c && x.seq < m.seq && s.g.gangOf x.dst == s.g.gangOf m.dst)
    || (niHeads s).any fun (vt, n) => vt == m.src && n.c == m.c && n.seq < m.seq && s.g.gangOf n.dst == s.g.gangOf m.dst

/-- Message `k` of the mesh, or beyond it record `k` of the NIs, enters the parked queue of a gang that is absent or halts. -/
def execParkedMessage (k : Nat) (s : State) : Out3 :=
  event "PARKED_MESSAGE" <|
    match s.g.mesh[k]? with
    | some m =>
      if !s.g.parks m.dst || parkOrder s m then none
      else
        let s1 : State := { s with g := { s.g with mesh := dropNth s.g.mesh k } }
        match m.body with
        | .port _ _ _ =>
          -- an entry counts as sent once its sender's earlier accesses are performed (R288, R293)
          (released s1 m).map fun s2 => parkMsg s2 m
        | _ => some (parkMsg s1 m)
    | none =>
      match (niHeads s)[k - s.g.mesh.length]? with
      | none => none
      | some (vt, n) =>
        let m := n.msg vt
        match s.tile? vt with
        | none => none
        | some t =>
          if !s.g.parks n.dst || !n.loaded || !niFirst t n || parkOrder s m || !parkRoom s.g n.dst m.body then none
          else
            (released s m).map fun s' => parkMsg (dropNi s' vt n.id) m

end Sys2Proof.Machine
end

