-- ==== Sys2Proof/Machine/Clock.lean ====
section
/-! DEFINITION. The passing of cycles (R33): the module clock, the turns of running contexts (R232), and the deadlines and
timers that pause (R242, R353, R367, R378). -/

namespace Sys2Proof.Machine

/-- Cycles among `n` from cycle `from_` on in which a tile core of a function with fraction `k` may issue (R417). -/
def openCycles (k from_ : Nat) : Nat → Nat
  | 0 => 0
  | n + 1 => (if from_ % 8 < k then 1 else 0) + openCycles k (from_ + 1) n

/-- The same for any number of cycles: each 8 of them hold `k` that are open. -/
def issueCycles (k from_ n : Nat) : Nat := n / 8 * min k 8 + openCycles k from_ (n % 8)

/-- What the pauses of a grid depend on: the grid, its contexts with their tiles, and its helper cores with theirs. -/
structure View where
  g  : Grid
  cs : List (Nat × Ctx)
  hs : List (Nat × Helper)

def tileHelpers (t : Tile) : List (Nat × Helper) := [(t.vt, t.ldr), (t.vt, t.str)]

def State.view (s : State) : View := ⟨s.g, s.allCtxs, s.allTiles.flatMap tileHelpers⟩
def GridBox.view (b : GridBox) : View :=
  ⟨b.g, b.tiles.flatMap fun t => t.others.map fun c => (t.vt, c), b.tiles.flatMap tileHelpers⟩

/-- Roles that the debugger halts: their tiles. -/
def View.haltedAt (v : View) : List Nat :=
  ((v.cs.filter fun x => x.2.dbg.halted).map (·.1)) ++ ((v.hs.filter fun x => x.2.dbg.halted).map (·.1))

/-- A member of the view's grid has not arrived at the generation and its gang is absent (R242). -/
def View.memberAway (v : View) (lv id : Nat) : Bool :=
  match v.g.bars.find? fun b => b.lv == lv && b.id == id with
  | none => false
  | some b => b.members.any fun m => v.g.absent m.1
      && !(b.arrivals.any fun a => a.vt == m.1 && a.c == m.2)
      && !(v.cs.any fun x => x.1 == m.1 && x.2.id == m.2 && x.2.run == .ended)

/-- A tile of the collective's instance has not arrived and its gang is absent. -/
def View.tileAway (v : View) (lvl : Nat) (k : Coll) : Bool :=
  v.hs.any fun x => v.g.absent x.1 && !(k.arrived.any (·.1 == x.1))
    && (lvl != 3 || (v.g.gangOf x.1).1 * 4096 + (v.g.gangOf x.1).2 == k.id)

/-- The views of an instance: those of the launch group for the domain level. -/
def groupViews (vs : List View) (v : View) (dom : Bool) : List View :=
  if dom then v :: vs.filter fun u => sameGroup v.g u.g else [v]

def Bar.pass (vs : List View) (v : View) (n : Nat) (b : Bar) : Bar :=
  if b.arrivals = [] then b
  else
    let gs := groupViews vs v (b.lv == 3)
    let away := v.haltedAt != [] || gs.any fun u => u.memberAway b.lv b.id
    { b with arrivals := b.arrivals.map fun a =>
        match a.deadline with
        | some d => if away || v.g.absent a.vt then { a with deadline := some (d + n) } else a
        | none => a }

/-- The head command of a collective queue keeps its deadline where it pauses. -/
def Tile.passColl (vs : List View) (v : View) (n : Nat) (t : Tile) : Tile :=
  match t.eq[6].cmds with
  | c :: r =>
    match c.deadline with
    | some d =>
      let lvl := bits (c.beats.getD 2 (0, 0)).1.toNat 0 3
      let id := if lvl = 3 then (v.g.gangOf t.vt).1 * 4096 + (v.g.gangOf t.vt).2 else 0
      let k := (v.g.colls.find? fun x => x.lv == lvl && x.id == id).getD { lv := lvl, id := id }
      let gs := groupViews vs v (lvl == 6)
      if v.g.absent t.vt || v.haltedAt != [] || gs.any fun u => u.tileAway lvl { k with arrived :=
            ((u.g.colls.find? fun x => x.lv == lvl && x.id == id).getD { lv := lvl, id := id }).arrived } then
        { t with eq := t.eq.set 6 { t.eq[6] with cmds := { c with deadline := some (d + n) } :: r } }
      else t
    | none => t
  | [] => t

/-- Timers of a gang with a halted role stop (R367, R378). -/
def Gang.pass (v : View) (n : Nat) (x : Gang) : Gang :=
  if v.haltedAt.any fun vt => v.g.gangOf vt == (x.gr, x.gc) then
    { x with grace := x.grace.map (· + n), quantum := x.quantum + n }
  else x

def Grid.pass (vs : List View) (v : View) (n : Nat) (g : Grid) : Grid :=
  { g with bars := g.bars.map (Bar.pass vs v n), gangs := g.gangs.map (Gang.pass v n) }

/-- The running context of a tile has used `k` more counted cycles. -/
def Ctx.pass (t : Tile) (k : Nat) (c : Ctx) : Ctx :=
  if !t.switch && c.id == t.cur then { c with turn := c.turn + k } else c

/-- The issue fraction of a function: at most 4 under a thermal warning (R417, R447). -/
def Module.kOf (m : Module) (v : Nat) : Nat := if m.warn then min 4 (m.vfs.toList.getD v {}).k else (m.vfs.toList.getD v {}).k

/-- Counted cycles for a grid: none while a role of it is halted (R378). -/
def counted (m : Module) (v : View) (n : Nat) : Nat :=
  if v.haltedAt != [] then 0 else issueCycles (m.kOf v.g.vf) m.cycle n

def GridBox.pass (m : Module) (vs : List View) (n : Nat) (b : GridBox) : GridBox :=
  let v := b.view
  let k := counted m v n
  { g := b.g.pass vs v n
    tiles := b.tiles.map fun t => { t.passColl vs v n with others := t.others.map (Ctx.pass t k) } }

def cyclesPerMs : Nat := 1900000

/-- A meter counter rises; it never falls (R421). -/
def Vf.addMeter (f : Vf) (i : Fin 7) (x : Nat) : Vf :=
  { f with meters := f.meters.set i (.ofNat 64 (satAdd (2 ^ 64 - 1) (f.meters[i]).toNat x)) }

/-- Counters 0 and 2 of every function advance by its assigned clusters, and by the memory that its stage 2 maps, over the
milliseconds that have ended since the last time (R421). -/
def accrueMeters (s : State) : State :=
  let ms := s.m.cycle / cyclesPerMs - s.m.meterT / cyclesPerMs
  if ms = 0 then s
  else
    let f := Vector.ofFn fun (v : Fin 64) => (s.m.vfs[v].addMeter 0 (s.m.vfs[v].owned.length * ms)).addMeter 2 (mappedMib s.m v.val * ms)
    { s with m := { s.m with meterT := s.m.cycle, vfs := f } }

/-- `n` cycles pass for everything that they concern. -/
def pass (n : Nat) (s : State) : State :=
  let v := s.view
  let bv := s.bg.map GridBox.view
  let k := counted s.m v n
  let each (t : Tile) : Tile := { t.passColl bv v n with others := t.others.map (Ctx.pass t k) }
  { s with
    m := { s.m with cycle := s.m.cycle + n }
    bg := s.bg.map (GridBox.pass s.m (v :: bv) n)
    g := s.g.pass bv v n
    c := Ctx.pass s.t k s.c
    t := each s.t
    tiles := s.tiles.map each }

/-- `n` cycles pass, for the module once bring-up has started its clock (R442), and for the BMC at all times (R447). -/
def advance (n : Nat) (s : State) : State :=
  let s := if s.m.power.isReady then accrueMeters (pass n s) else s
  { s with m := { s.m with bmc := s.m.bmc + n } }

end Sys2Proof.Machine
end

