-- ==== Sys2Proof/Machine/Runtime.lean ====
section
/-! DEFINITION. The tile runtime's response to a trap (R448, R404, R439), as one step of a context that stands at the
runtime vector in S mode, and the end stub (R38). The words and cycles it spends are free values (log 3). -/

namespace Sys2Proof.Machine

/-- The runtime's words count in `instret` and its cycles in `cycle`; how many is not architectural (R448). -/
def runtimeSpent (s : State) : State :=
  advance (Config.runtimeCycles s.free)
    { s with c := { s.c with instret := s.c.instret + Config.freeWord s.free }, free := s.free + 1 }

/-- Return with `sret` to `epc` (R35). -/
def runtimeReturn (s : State) : State := trapReturn (runtimeSpent { s with c := { s.c with run := .ready } })

/-- The trap CSRs as the runtime saves them before it waits (R36). -/
def Ctx.toFrame (c : Ctx) (req : Option Nat) : WaitFrame := ⟨c.epc, c.cause, c.tval, c.tval2, c.xtarget, c.status, req, none⟩

/-- Wait at a blocking point with `status.IE` = 1, the trap CSRs saved (R36, R448): an interrupt or a deferred fault is taken
at the wait like at any other (R34). -/
def runtimeWait (s : State) (b : Block) : State :=
  let req := match b with | .page tag => some tag | _ => none
  blockAt { s with c := { s.c with frame := some (s.c.toFrame req), status := { s.c.status with ie := true } } } b

/-- The wait ends: the trap CSRs are again those of the trap that the runtime serves. -/
def Ctx.fromFrame (c : Ctx) (f : WaitFrame) : Ctx :=
  { c with frame := none, epc := f.epc, cause := f.cause, tval := f.tval, tval2 := f.tval2, xtarget := f.xtarget, status := f.status }

/-- Continue after the word of a `syscall` (R140, R448). -/
def runtimeAfter (s : State) : State :=
  runtimeReturn { s with c := { s.c with
    epc := s.c.epc + 4, status := { s.c.status with half := s.c.status.half || s.c.tval2 == 1 } } }

/-- Return to U mode at a continuation, with HALF = 0 (R404, R439). -/
def runtimeGo (s : State) (a : W64) : State :=
  runtimeReturn { s with c := { s.c with epc := a, status := { s.c.status with half := false, xfer := false } } }

/-- A continuation address, or its withdrawal: 0 or not 4-aligned (R404, R439). -/
def contAddr (a : W64) : Option W64 := if a = 0 ∨ a.toNat % 4 ≠ 0 then none else some a

/-- A register that a service reads or writes still awaits its fill, so the service waits (R18, R37). -/
def fillWait (c : Ctx) : List (Fin 32) → Option Block
  | [] => none
  | r :: l => if (c.x[r]).tag == .awaiting then some (.fill r.val) else fillWait c l

/-- The response to EMPTY: wait until the register that `tval` names is full, or its port queue has an entry. -/
def emptyWait (c : Ctx) : Option Block :=
  let r := bits c.tval.toNat 0 5
  match bits c.tval.toNat 5 3 with
  | 0 =>
    if isPortReg r then
      let d := dirOf (Fin.ofNat 32 r)
      if c.inq[d] = [] then some (.portEmpty d 0) else none
    else if (c.regX r).tag.isFull then none else some (.xreg (Fin.ofNat 32 r))
  | 1 =>
    if isPortReg r then
      let d := dirOf (Fin.ofNat 32 r)
      if c.inq[d] = [] then some (.portEmpty d 0) else none
    else if (c.regV r).tag.isFull then none else some (.vreg (Fin.ofNat 32 r))
  | _ => if (c.regH r).tag.isFull then none else some (.hreg (Fin.ofNat 8 r))

/-- The fault is a stage-1 fault of a global address outside the runtime region, not deferred (R448). -/
def stage1Fault (c : Ctx) : Option (BitVec 2) :=
  if c.tval2 ≠ 0 ∨ c.tval.toNat / 2 ^ 56 ≠ 0 ∨ inRuntime c.tval.toNat then none
  else
    match c.cause with
    | 0x04 => some 0
    | 0x05 => some 1
    | 0x06 => some 2
    | _ => none

/-- The runtime answers the trap whose cause the trap CSRs hold (R448, R404, R439). DESIGN CHOICE (log 24): at service 0x21 or 0x22 an
x8 that is cleared reads as 0 and so withdraws the continuation, and its V is ignored (R404 names no case). -/
def runtimeServe (s : State) : State :=
  let c := s.c
  match c.cause with
  | 0x08 =>
    match emptyWait c with
    | some b => runtimeWait s b
    | none => runtimeReturn s
  | 0x0C =>
    match (if c.tval = 0x21 ∨ c.tval = 0x22 then fillWait c [8] else none) with
    | some b => runtimeWait s b
    | none =>
      if c.tval = 0x21 then runtimeAfter { s with c := { c with contBar := contAddr (c.regX 8).val } }
      else if c.tval = 0x22 then
        match contAddr (c.regX 8).val with
        | some a => runtimeAfter { s with c := { c with contEng := some a, ie := c.ie ||| 8 } }
        | none => runtimeAfter { s with c := { c with contEng := none } }
      else runtimeEnd (runtimeSpent s)
  | 0x0E =>
    match c.contBar with
    | some a =>
      match fillWait c [5, 6] with
      | some b => runtimeWait s b
      | none => runtimeGo (writeX (writeX s 5 c.tval true) 6 c.tval2 true) a
    | none => runtimeEnd (runtimeSpent s)
  | 0x80 => runtimeReturn s
  | 0x81 => runtimeReturn { s with c := { c with ie := c.ie &&& 0b11101 } }
  | 0x82 => runtimeReturn { s with c := { c with ie := c.ie &&& 0b11011 } }
  | 0x83 =>
    match (if c.status.pmode then none else c.contEng) with
    | some a => runtimeGo { s with c := { c with contEng := none, ie := c.ie &&& 0b10111 } } a
    | none => runtimeReturn { s with c := { c with ie := c.ie &&& 0b10111 } }
  | 0x84 => runtimeReturn s
  | _ =>
    match stage1Fault c with
    | some k =>
      let (m, b) := placeReq s.m s.g.vf
        { tag := 0, kind := k, s1walk := false, stage1 := true, va := c.tval, gpa := 0
          vt := s.t.vt, role := c.id, asid := c.asid }
      runtimeWait { s with m := m } b
    | none => runtimeEnd (runtimeSpent s)

/-- The reply to a request that the runtime waits on for the focused context, its trap CSRs restored: a grant returns to the
word, a denial ends the context (R448). -/
def runtimeReply (s : State) (grant : Bool) : State :=
  if grant then runtimeReturn s else runtimeEnd (runtimeSpent s)

/-- What the runtime does when the context goes on at its vector: back at a wait it acts on the reply that has come, waits on
for one that has not, or examines what it waits for again; else it serves the trap that brought the context there. -/
def runtimeStep (s : State) : State :=
  match s.c.frame with
  | none => runtimeServe s
  | some f =>
    if !s.c.status.ie then runtimeServe s
    else
      let t := { s with c := s.c.fromFrame f }
      match f.req, f.reply with
      | some _, some g => runtimeReply t g
      | some tag, none => runtimeWait t (.page tag)
      | none, _ => runtimeServe t

/-- The context stands at the end stub, whose page U mode may execute (R38, R449). -/
def Ctx.atEndStub (c : Ctx) : Bool := !c.status.mode && (inRuntime c.pc.toNat && c.pc == Config.endStub)

end Sys2Proof.Machine
end

