-- ==== Sys2Proof/Machine/Boundary.lean ====
section
/-! DEFINITION. What happens to a context at a boundary before its next word: the debugger's freeze (R378), deferred faults
(R364, R365), interrupts (R34), the change of the running context (R231, R232), and what replay holds of these (R396). -/

namespace Sys2Proof.Machine

/-! ## Standing at a boundary -/

/-- The focused context freezes in place for the debugger (R378). -/
def freezeDbg (s : State) : State :=
  { s with c := { s.c with dbg := { s.c.dbg with halted := true, pending := false, step := false } } }

/-- The context stands where it may be stopped: at a bundle boundary, or blocked at a word (R25, R34). -/
def Ctx.atBoundary (c : Ctx) : Bool := c.pos == .unit || (match c.run with | .blocked _ => true | _ => false)

/-- After a unit, a debugger's single step ends at the boundary that follows, and a halt request freezes a context that has
blocked; one of a gang whose halt has begun waits for the swap-in (R365, R378, R379). -/
def endStep (s : State) : State :=
  if (s.c.dbg.step && s.c.atBoundary)
      || (s.c.dbg.pending && (match s.c.run with | .blocked _ => true | _ => false) && !s.g.parks s.t.vt) then freezeDbg s
  else s

/-! ## Deferred faults and interrupts -/

/-- The deferred fault that the focused context takes before it goes on. -/
def dueFault (s : State) : Option DFault :=
  if s.c.dbg.halted || s.c.released s s.t || s.c.run == .frozen then none
  else s.c.dfaults.head?

/-- The interrupt that the focused context takes before it goes on (R34, R144). -/
def dueIrq (s : State) : Option Cause :=
  if s.c.dbg.halted || !s.c.atBoundary || s.c.released s s.t || s.c.run == .blocked .wfi
      || s.c.run == .frozen then none
  else s.c.irq s.time

/-- A deferred fault is taken (R364). -/
def enterFault (s : State) (d : DFault) : State :=
  trapWord { s with c := { s.c with dfaults := s.c.dfaults.drop 1 } } d.cause d.tval d.tval2

/-- An interrupt is taken; a context that takes PREEMPT freezes at `tvec` (R369). The log names it (R395). -/
def enterIrq (s : State) (z : Cause) : State :=
  let s := logEvent s s.t.vt 9 s.c.id s.c.instret.toNat (z.code.setWidth 64)
  let t := takeIrq s z
  if z = .preempt then
    -- a page request that the word waits for is kept, with its reply when that comes (R369)
    atSwitch { t with c := { t.c with
      run := .frozen
      kept := match s.c.run, s.c.denial with | .blocked (.page k), some d => some (k, d) | _, _ => none } }
  else t

/-- The denial of its page request that the focused context takes at its word (R332). -/
def dueDenial (s : State) : Option Denial :=
  match s.c.denial with
  | some d => if d.denied then some d else none
  | none =>
    match s.c.kept with
    | some (_, d) => if d.denied && d.at_ == s.c.pc && d.smode == s.c.status.mode then some d else none
    | none => none

/-- A denial is taken at the word (R332). -/
def enterDenial (s : State) (d : Denial) : State :=
  trapWord { s with c := { s.c with kept := none } } d.cause d.va (denialTval2 d.gpa d.s1walk)

/-! ## Replay (R396) -/

/-- The next event of the log of tile `vt` reaches role `r` where the role stands, so the role does not go on before it. -/
def replayStop (s : State) (vt r : Nat) : Bool :=
  s.heldBack vt && (match s.tile? vt with
    | some t => (match t.log with
      | e :: _ => e.role.toNat == r && e.at_.toNat ≤ rolePos s vt r
      | [] => false)
    | none => false)

/-! ## The running context -/

/-- Context `c` of the focused tile becomes the running one (R231); a change is logged (R395). -/
def switchTo (s : State) (c : Nat) : State :=
  let s := if s.t.cur = c then s
    else logEvent s s.t.vt 1 s.t.cur (rolePos s s.t.vt s.t.cur) (.ofNat 64 c)
  beginTurn s c

/-- The running context of tile `vt` has used up its turn before this cycle (R232): it switches if it may. -/
def expireTurn (s : State) (vt : Nat) : State :=
  match s.tile? vt with
  | none => s
  | some t =>
    match s.ctx? vt t.cur with
    | none => s
    | some c =>
      if t.switch || c.runcap == 0 || c.turn ≤ c.runcap.toNat || !c.atBoundary || s.frozenRole then s
      else if (readyIds s t).any (· != c.id) then s.mapTile vt fun t => { t with switch := true }
      else s.mapCtx vt c.id fun c => { c with turn := 1 }

/-- The context of tile `vt` that goes on next; in replay the running one stays until the log says otherwise. -/
def nextTurn (s : State) (t : Tile) : Option Nat :=
  if s.heldBack t.vt then
    (if (readyIds s t).contains t.cur && !replayStop s t.vt t.cur then some t.cur else none)
  else nextCtx s t

end Sys2Proof.Machine
end

