-- ==== Sys2Proof/Machine/Message.lean ====
section
/-! DEFINITION. Work records: the MSG members (R260 to R268) and the splice queue (R249, R264 to R266). -/

namespace Sys2Proof.Machine

/-! ## Sending (R262, R263) -/

def routeCls (x : W64) : Nat := bits x.toNat 24 4
def routeDst (x : W64) : Nat := bits x.toNat 0 24
def Grid.cls (g : Grid) (k : Nat) : ClassD := g.classes.toList.getD k {}

/-- The NI takes the record: it holds fewer than 8, and the parked queue of an absent gang has room (R248, R262). -/
def niRoom (s : State) (dst : Nat) (r : Rec) (k : Res) : Res :=
  if 8 ≤ niCount s.t then .wait s .ni
  else if !parkRoom s.g dst (.record r) then .wait s (.parkFull (s.g.gangOf dst).1 (s.g.gangOf dst).2)
  else k

/-- Examine `n` payload registers from x`r` up, each with W = 0. -/
def examPayload (s : State) (field : Nat) : Nat → Nat → Cur → List W64 → (List W64 → Cur → Res) → Res
  | 0, _, cur, l, k => k l cur
  | n + 1, r, cur, l, k => srcX s (Fin.ofNat 32 r) field false cur fun x cur => examPayload s field n (r + 1) cur (l ++ [x]) k

/-- Class and destination of a route (R262). -/
def routeChecks (s : State) (rt : W64) (needWords : Bool) (k : Res) : Res :=
  let d := s.g.cls (routeCls rt)
  if !d.decl || (needWords && d.words == 0) then .trap s .access rt 2
  else if !s.g.has (routeDst rt) then .trap s .access rt 1
  else k

def execWput (d b : Fin 32) (wb : Bool) (s : State) : Out3 :=
  finish s <| srcX s b fldB wb {} fun key k => srcX s d fldD false k fun rt k =>
    examPayload s fldC ((s.g.cls (routeCls rt)).words) 8 k [] fun l k => commit s k <|
      routeChecks s rt false <|
        niRoom s (routeDst rt) ⟨routeCls rt, key, l⟩ (.done (niTake s (routeDst rt) ⟨routeCls rt, key, l⟩))

/-- The record of an `ldk` takes its place in the NI before its load is performed (R263). -/
def niReserve (s : State) (ea : W64) (dst : Nat) (r : Rec) : State :=
  let n : NiRec := { id := s.t.niNext, c := s.c.id, dst := dst, r := r, loaded := false, ldk := true, seq := s.g.sendNext
                     loose := s.awayAt (s.msgScope dst) }
  let s : State := { s with t := { s.t with niNext := s.t.niNext + 1, ni := s.t.ni ++ [n] } }
  stampNext (lashEarly (absorbOut s ea.toNat (bytesOf 8 (dst + 2 ^ 24 * r.cls) ++ recBytes r)))

def execLdk (sz : MSz) (d a b : Fin 32) (wa wb : Bool) (s : State) : Out3 :=
  let n := MSz.bytes sz
  finish s <| srcX s a fldA wa {} fun ea k => srcX s b fldB wb k fun key k => srcX s d fldD false k fun rt k =>
    examPayload s fldC ((s.g.cls (routeCls rt)).words - 1) 9 k [] fun l k => commit s k <|
      routeChecks s rt true <| (checkAddr s ea n n .load .load).bind fun s ps =>
        niRoom s (routeDst rt) ⟨routeCls rt, key, 0 :: l⟩ <|
          startAcc s { kind := .ldk s.t.niNext, va := ea, size := n, pieces := ps } fun s =>
            .done (niReserve s ea (routeDst rt) ⟨routeCls rt, key, 0 :: l⟩)

/-! ## Taking (R267, R268) -/

/-- The destination registers of `wwait`, and x1 for `wdisp`, are not awaiting (R18). -/
def dstAll (s : State) : List Nat → Res → Res
  | [], k => k
  | r :: l, k => dstX s (Fin.ofNat 32 r) anyWord (dstAll s l k)

/-- Write the lanes of a record into x8 up. -/
def writeLanes (s : State) : Nat → List W64 → State
  | _, [] => s
  | r, x :: l => writeLanes (writeX s (Fin.ofNat 32 r) x true) (r + 1) l

/-- The word that takes a record into which one with a failed carry code has gone takes UNCORR (R384). The manual gives `tval` of
no record; it is the address of the tile's insert window (DESIGN CHOICE, log 42). -/
def soundRecord (s : State) (k : Res) : Res :=
  if s.c.recvBad then .trap s .uncorr (.ofNat 64 (0xFF20000000000000 + s.t.vt * 2 ^ 24 + 0xC10000)) (.ofNat 64 srcCarry) else k

/-- The record that the dispatch event has delivered is taken (R267, R268). -/
def takeRecord (s : State) (key meta64 : W64) (l : List W64) : State :=
  let s := { s with c := { s.c with recv := none, recvBad := false }
                    t := { s.t with inhand := if s.t.inhand = 0xFFFF then 0xFFFF else s.t.inhand + 1 } }
  writeLanes (writeX (writeX s 6 meta64 true) 7 key true) 8 l

/-- The context begins to wait for a record, behind those that wait already (R249). -/
def awaitRecord (s : State) : Res :=
  .stay (blockAt { s with t := { s.t with
    recWait := if s.t.recWait.contains s.c.id then s.t.recWait else s.t.recWait ++ [s.c.id] } } .record)

def execWwait (s : State) : Out3 :=
  finish s <| dstAll s ([6, 7] ++ (List.range 16).map (· + 8)) <|
    match s.c.recv with
    | none => awaitRecord s
    | some (_, key, l, m) => soundRecord s (.done (takeRecord s key m l))

def execWdisp (s : State) : Out3 :=
  finish s <| dstAll s ([6, 7] ++ (List.range 16).map (· + 8) ++ [1]) <|
    match s.c.recv with
    | none => awaitRecord s
    | some (cls, key, l, m) => soundRecord s (.jump (writeX (takeRecord s key m l) 1 s.c.link true) (s.g.cls cls).handler)

def execWdone (s : State) : Out3 :=
  finish s <| .done { s with t := { s.t with inhand := if s.t.inhand = 0 then 0 else s.t.inhand - 1 } }

/-! ## The splice queue (R264 to R266) -/

/-- Set of a class and key. -/
def spliceSet (cls : Nat) (key : W64) : Nat :=
  ((List.range 8).foldl (fun x i => x ^^^ bits key.toNat (8 * i) 8) (cls * 16)) % 256

def SEntry.set (e : SEntry) : Nat := spliceSet e.cls e.key

def satInc32 (x : W32) : W32 := if x = BitVec.allOnes 32 then x else x + 1

/-- A record whose acceptance or fold set OVF is counted once (R270). -/
def Tile.countOvf (t : Tile) (o : Bool) : Tile := if o then { t with ovfn := satInc32 t.ovfn } else t

/-- Fold converted lanes into an entry: step 1 of R264. -/
def SEntry.fold (d : ClassD) (e : SEntry) (l : List Int) (ovf spilled bad : Bool) : SEntry × Bool :=
  let r := (e.lanes.zip l).map fun (a, b) => laneFold d a b
  let o := r.any (·.2)
  ({ e with lanes := r.map (·.1), folds := satAdd 255 e.folds 1, ovf := e.ovf || ovf || o, spilled := e.spilled || spilled,
             bad := e.bad || bad }, o)

/-- Steps 1 and 2 of R264 for converted lanes: the tile that has taken the record. `was` says that its OVF has been counted. -/
def Tile.insert (t : Tile) (d : ClassD) (x : Spill) (spilled was : Bool) : Option Tile :=
  match (if d.op = 0 then none else findNth (fun e => e.cls == x.cls && e.key == x.key) t.sq 0) with
  | some (i, e) =>
    let (e', o) := e.fold d x.lanes x.ovf spilled x.bad
    some (({ t with sq := setNth t.sq i e', folds := satInc32 t.folds }).countOvf (!was && (o || x.ovf)
      || was && o && !x.ovf))
  | none =>
    if 4 ≤ (t.sq.filter fun e => e.set == spliceSet x.cls x.key).length then none
    else
      let e : SEntry := { cls := x.cls, key := x.key, lanes := x.lanes, folds := 1, ovf := x.ovf, spilled := spilled,
                          bad := x.bad, seq := t.seqNext }
      some (({ t with sq := t.sq ++ [e], seqNext := t.seqNext + 1 }).countOvf (!was && x.ovf))

/-- The converted lanes of an arriving record (R111); `bad` says that its carry code has failed (R384). -/
def convert (d : ClassD) (r : Rec) (bad : Bool) : Spill :=
  let l := r.payload.map (laneIn d)
  ⟨r.cls, r.key, l.map (·.1), l.any (·.2), bad⟩

/-- Insert an arriving record (R264); none is a refusal. -/
def Tile.accept (t : Tile) (g : Grid) (r : Rec) (bad : Bool) : Option Tile :=
  let d := g.cls r.cls
  let x := convert d r bad
  match t.insert d x false false with
  | some t => some t
  | none => if t.spill.length < g.spillCap then some ({ t with spill := t.spill ++ [x] }.countOvf x.ovf) else none

/-! ### The port of the queue (R266) -/

def Msg.isRec (m : Msg) : Bool := match m.body with | .record _ => true | _ => false

/-- No record that the same tile sent to the same destination before is parked still (R262). -/
def parkedFirst (s : State) (m : Msg) : Bool :=
  s.g.gangs.all fun x => x.parked.all fun y => !(y.isRec && y.src == m.src && y.dst == m.dst && y.seq < m.seq)

/-- A record that tile `u` has refused, or that was left parked for it, would be accepted now: it is the oldest one (R264). -/
def retryReady (s : State) (u : Tile) : Bool :=
  (s.allTiles.any fun t => t.ni.any fun n => n.dst == u.vt && n.refused && n.loaded && niFirst t n && parkedFirst s (n.msg t.vt)
      && (u.accept s.g n.r false).isSome)
    || ((s.g.gangs.filter (·.open_)).flatMap (·.parked)).any fun m => m.dst == u.vt && parkedFirst s m
      && (match m.body with | .record r => (u.accept s.g r false).isSome | _ => false)

/-- The entry that goes before another: priority, then creation sequence (R266). -/
def sooner (g : Grid) (a b : SEntry) : Bool :=
  let p (e : SEntry) := (g.cls e.cls).prio
  if p a != p b then p a else a.seq < b.seq

def chosen (g : Grid) : List SEntry → Option SEntry
  | [] => none
  | e :: r => some (r.foldl (fun b x => if sooner g x b then x else b) e)

def Ctx.awaitsRecord (c : Ctx) : Bool := c.run == .blocked .record && c.recv.isNone && !c.dbg.halted

/-- The context that began waiting for a record first (R249). -/
def firstWaiting (s : State) (t : Tile) : Option Nat :=
  t.recWait.find? fun i => (match s.ctx? t.vt i with | some c => c.awaitsRecord | none => false)

/-- A dispatch is ready; once a halt of the gang has begun none is (R369). -/
def dispatchReady (s : State) (t : Tile) : Bool :=
  !s.g.stopped t.vt && !s.g.parks t.vt && !t.sq.isEmpty && (firstWaiting s t).isSome

/-- The port of tile `t` has performed its event of this cycle; a replay follows the log instead. -/
def Tile.portUsed (t : Tile) (s : State) : Bool := s.g.rr != 2 && t.sqCycle == some s.m.cycle

/-- The port is free for the insert of a new record, of an old one, or for a refill: a ready dispatch goes before each of them,
and an old record before the other two. -/
def portFree (s : State) (t : Tile) (old : Bool) : Bool :=
  s.g.rr == 2 || (t.sqCycle != some s.m.cycle && !dispatchReady s t && (old || !retryReady s t))

def usePort (vt : Nat) (s : State) : State := s.mapTile vt fun t => { t with sqCycle := some s.m.cycle }

/-- Log entry of an insert or refill (R395). -/
def logInsert (s : State) (vt src cls : Nat) (key : W64) (ldk : Bool) : State :=
  if ldk then logAt s vt 5 (src + 2 ^ 24 * cls) else logAt s vt 3 (src + 2 ^ 24 * cls + 2 ^ 28 * spliceSet cls key)

/-- Record `k` of the NI of tile `vt`, offered to its destination: accepted there, or refused and kept (R262, R264). -/
def offer (s : State) (vt k : Nat) (again : Bool) : Option State :=
  match s.tile? vt with
  | none => none
  | some t =>
    match t.ni[k]? with
    | none => none
    | some n =>
      let m := n.msg vt
      if n.refused != again || !n.loaded || !niFirst t n || !parkedFirst s m || s.g.parks n.dst || s.heldBack n.dst then none
      else
        match released s m, s.tile? n.dst with
        | some s1, some u =>
          if !portFree s u again then none
          else
          match u.accept s.g n.r false with
          | some _ =>
            let s2 := dropNi s1 vt n.id
            let s3 := s2.mapTile n.dst fun u => ((u.accept s.g n.r false).getD u).keepMsg m
            some (usePort n.dst (logInsert s3 n.dst vt n.r.cls n.r.key n.ldk))
          | none =>
            if again then none
            else some (usePort n.dst (s1.mapTile vt fun t =>
              { t with ni := t.ni.map fun x => if x.id = n.id then { x with refused := true } else x }))
        | _, _ => none

/-- Record `k` among the messages under way, which was parked for tile `vt`, is accepted there (R264, R375); at the swap-in of its
gang, outside the cycles of the port. -/
def insertParked (s : State) (vt k : Nat) (swap : Bool) : Option State :=
  match takeMsg s k with
  | none => none
  | some (m, s1) =>
    match m.body with
    | .record r =>
      if m.dst ≠ vt ∨ s.g.parks vt ∨ !parkedFirst s m then none
      else
        match s1.tile? vt with
        | none => none
        | some u =>
          if !swap && !portFree s u true then none
          else
          match u.accept s1.g r (!m.sound) with
          | none => none
          | some u' =>
            let s2 := logInsert (s1.mapTile vt fun _ => u'.keepMsg m) vt m.src r.cls r.key m.ldk
            some (if swap then s2 else usePort vt s2)
    | _ => none

/-- Record `k` of the NI of tile `vt`, or beyond those a parked record for tile `vt`. -/
def execSpliceInsert (vt k : Nat) (s : State) : Out3 :=
  let n := match s.tile? vt with | some t => t.ni.length | none => 0
  event "SPLICE_INSERT" (if k < n then offer s vt k false else if s.heldBack vt then none else insertParked s vt (k - n) false)
def execRecordRetry (vt k : Nat) (s : State) : Out3 := event "RECORD_RETRY" (offer s vt k true)

/-- The head of the spill ring comes back into the queue (R265), as a port event or at a swap-in (R373). -/
def refill (s : State) (vt : Nat) (swap : Bool) : Option State :=
  match s.tile? vt with
  | none => none
  | some t =>
    match t.spill with
    | [] => none
    | x :: r =>
      if 512 ≤ t.sq.length || s.g.still vt || (!swap && !portFree s t false) then none
      else
        match { t with spill := r, ringAt := t.ringAt + 1 }.insert (s.g.cls x.cls) x true true with
        | none => none
        | some t' =>
          let s2 := logInsert (s.mapTile vt fun _ => t') vt vt x.cls x.key false
          some (if swap then s2 else usePort vt s2)

def execSpliceRefill (vt : Nat) (s : State) : Out3 := event "SPLICE_REFILL" (if s.heldBack vt then none else refill s vt false)

/-- The meta word (R267). -/
def SEntry.metaWord (e : SEntry) (d : ClassD) : W64 :=
  .ofNat 64 (e.cls + 2 ^ 8 * e.folds + 2 ^ 16 * d.prio.toNat + 2 ^ 17 * e.ovf.toNat + 2 ^ 18 * e.spilled.toNat)

/-- The dispatch event delivers the chosen entry to the context that began waiting first (R249, R266). -/
def dispatch (s : State) (vt : Nat) : Option State :=
  match s.tile? vt with
  | none => none
  | some t =>
    if s.g.stopped vt || s.g.parks vt || t.portUsed s then none
    else
      match chosen s.g t.sq, firstWaiting s t with
      | some e, some i =>
        let d := s.g.cls e.cls
        let s1 := s.mapTile vt fun t => { t with sq := t.sq.filter (fun x => x.seq != e.seq), recWait := t.recWait.filter (· != i) }
        let s2 := s1.mapCtx vt i fun c => { c with recv := some (e.cls, e.key, e.lanes.map (laneOut d), e.metaWord d), recvBad := e.bad }
        some (usePort vt (logEvent s2 vt 4 i (rolePos s vt i) (.ofNat 64 e.seq)))
      | _, _ => none

def execSpliceDispatch (vt : Nat) (s : State) : Out3 := event "SPLICE_DISPATCH" (if s.heldBack vt then none else dispatch s vt)

end Sys2Proof.Machine
end

