-- ==== Sys2Proof/Machine/Sync.lean ====
section
/-! DEFINITION. The SYNC members: barriers, votes, fences, wire barriers, watches and events (R271 to R277, R292). -/

namespace Sys2Proof.Machine

def syncCode : Level → Nat
  | .ctx => 0 | .tile => 1 | .gang => 3 | .grid => 4 | .dom => 6

/-! ## Barriers and votes (R272) -/

/-- The word resumes an arrival that the context has made, or takes its `fresh` course. -/
def resumeBar (s : State) (lv : Level) (fin : W64 → State → Res) (fresh : Res) : Res :=
  let i := levelIdx lv
  match (s.c.bar i).arr with
  | .none => fresh
  | .waiting => .wait s (.bar lv)
  | .done v =>
    if lv = .ctx ∧ !ownDelivered s s.t s.c.id (s.c.bar i).seq then .wait s (.bar lv)
    else fin v { s with c := s.c.clearArr i }
  | .late n gen => barTimeout s i n gen

/-- A first arrival: the port sources are popped and the context waits. A context-level barrier with nothing under way
completes at once. -/
def arriveWord (s : State) (k : Cur) (lv : Level) (kind : BarKind) (val : W64) (fin : State → Res) : Res :=
  let i := levelIdx lv
  if lv = .ctx then
    if ownDelivered s s.t s.c.id s.g.sendNext then commit s k (fin s)
    else
      let s' := stampNext (lashEarly { s with c := s.c.setBar i { s.c.bar i with arr := .done val, seq := s.g.sendNext } })
      commit s k (.stay (blockAt (popAll s' k) (.bar lv)))
  else
    commit s k <| barChecks s i (syncCode lv) kind fun s b => .stay (blockAt (popAll (recordArrival s i kind val b) k) (.bar lv))

def execSync (lv : Level) (s : State) : Out3 :=
  finish s <| resumeBar s lv (fun _ s => .done s) (arriveWord s {} lv .sync 0 .done)

/-- The destination wait before the arrival: a port destination has only its edge tested there (R255, R272). -/
def dstArrive (s : State) (d : Fin 32) (k : Res) : Res :=
  if d.val < 28 then dstX s d anyWord k
  else
    match neighbour s.g s.t.vt s.c.portcfg (dirOf d) with
    | none => .trap s .portEdge (.ofNat 64 (dirOf d).val) 1
    | some _ => k

def vote (s : State) (kind : BarKind) (lv : Level) (d a : Fin 32) (wa : Bool) : Out3 :=
  finish s <| resumeBar s lv (fun v s' => dstX s d anyWord (.done (writeX s' d v true))) <|
    srcX s a fldA wa {} fun v k =>
      if k.valid then dstArrive s d <| arriveWord s k lv kind v fun s => putResult s d v true else .null

def execVoteAnd (lv : Level) (d a : Fin 32) (wa : Bool) (s : State) : Out3 := vote s .voteAnd lv d a wa
def execVoteOr (lv : Level) (d a : Fin 32) (wa : Bool) (s : State) : Out3 := vote s .voteOr lv d a wa
def execVoteAdd (lv : Level) (d a : Fin 32) (wa : Bool) (s : State) : Out3 := vote s .voteAdd lv d a wa

/-! ## Fence (R292) -/

/-- A fence is passed while the schedule names an agent outside its scope: each later access decides what it comes after. -/
def passFence (s : State) (x : Agent) (pr pw : Bool) : State :=
  stampNext { s with c := { s.c with passed := s.c.passed ++ [⟨x, pr, pw, s.g.sendNext, s.c.posted⟩] } }

/-- `fence`: an empty set orders nothing; otherwise the predecessors are performed. Towards an agent outside the scope that the
schedule names, the orderings of what that agent accesses are dropped, which the later accesses show (R289, log 7). -/
def execFence (sc : Scope) (pr pw sr sw : Bool) (s : State) : Out3 :=
  finish s <| scopeTest s sc fun sc =>
    if (pr || pw) && (sr || sw) then
      match s.awayAt sc with
      | none => allPerformed s pr pw .done
      | some x => .done (passFence s x pr pw)
    else .done s

/-! ## Wire barriers (R273) -/

def wireCode : WLevel → Nat
  | .gang => 3 | .grid => 4

def execHwbarArrive (lv : WLevel) (s : State) : Out3 :=
  let i := wlevelIdx lv
  finish s <|
    match (s.c.bar i).arr with
    | .waiting => .wait s (.wire lv)
    | .late n gen => barTimeout s i n gen
    | _ => barChecks s i (wireCode lv) .sync fun s b => .done (recordArrival s i .sync 0 b)

def execHwbarWait (lv : WLevel) (s : State) : Out3 :=
  let i := wlevelIdx lv
  finish s <|
    match (s.c.bar i).arr with
    | .waiting => .wait s (.wire lv)
    | .late n gen => barTimeout s i n gen
    | _ => .done { s with c := s.c.clearArr i }

/-! ## Watching memory (R276, R277) -/

def execWatch (a : Fin 32) (wa : Bool) (s : State) : Out3 :=
  finish s <| srcX s a fldA wa {} fun x k => commit s k <|
    if isOwn x then .done { s with c := { s.c with watch := some ((x.toNat - spBase) / 64) } }
    else .trap s .access x 0

def execWfe (s : State) : Out3 :=
  finish s <| if s.c.evt then .done { s with c := { s.c with evt := false } } else .wait s .wfe

/-- The event flags of the tile's four contexts and of both helper cores. -/
def setEvents (s : State) : State :=
  { s with
    c := { s.c with evt := true }
    t := { s.t with
      others := s.t.others.map fun c => { c with evt := true }
      ldr := { s.t.ldr with evt := true }, str := { s.t.str with evt := true } } }

def execSev (s : State) : Out3 := finish s <| .done (setEvents s)

end Sys2Proof.Machine
end

