-- ==== Sys2Proof/Machine/Csr.lean ====
section
/-! DEFINITION. The control and status registers of a context (R27 to R33 and the chapters R28 names), the CSR words (R137,
R138), and the events that are writes to them. -/

namespace Sys2Proof.Machine

/-! ## Access (R27, R28) -/

/-- The CSRs of R28. -/
def csrListed (n : Nat) : Bool :=
  n < 0x00A || n == 0x010 || (0x020 ≤ n && n < 0x028) || n == 0x030 || n == 0x040 || n == 0x050 || n == 0x051
    || (0x060 ≤ n && n < 0x06A) || n == 0x070 || n == 0x071 || n == 0x080 || n == 0x081
    || (0x0C0 ≤ n && n < 0x0C4) || n == 0x100 || n == 0x101

/-- The CSRs that U mode may not access. -/
def csrS (n : Nat) : Bool :=
  (0x001 ≤ n && n < 0x00A) || n == 0x025 || n == 0x080 || n == 0x081 || n == 0x100 || n == 0x101

/-! ## Contents -/

def Grid.sizeWord (g : Grid) : Nat := g.w + 2 ^ 16 * g.h + 2 ^ 32 * g.gw + 2 ^ 38 * g.gh + 2 ^ 44 * g.nctx

/-- `wqstat` (R269) and `wqfold` (R270). -/
def Tile.wqstat (t : Tile) : Nat := t.sq.length + 2 ^ 21 * t.inhand.toNat + 2 ^ 37 * t.spill.length
def Tile.wqfold (t : Tile) : Nat := t.folds.toNat + 2 ^ 32 * t.ovfn.toNat

def Tile.mono8 (t : Tile) : Bool := monotone 128 t.t8
def Tile.mono4 (t : Tile) : Bool := monotone 8 t.t4

/-- `dtstat` (R96). -/
def Tile.dtstat (t : Tile) : Nat :=
  t.nan8.toNat + 2 ^ 8 * t.nan4.toNat + 2 ^ 16 * t.mono4.toNat + 2 ^ 17 * t.mono8.toNat + 2 ^ 32 * t.toff.toNat

/-- `belaycfg` (R393) and `lashcfg` (R386). -/
def State.belaycfg (s : State) : Nat :=
  let b := s.t.belay
  s.g.belay + 2 ^ 16 * (b.lines.length + b.slots.length + b.rmem.length) + 2 ^ 32 * s.t.sbuf + 2 ^ 47 * b.unrep.toNat
    + 2 ^ 48 * b.rollbk.toNat
def State.lashcfg (s : State) : Nat :=
  s.t.lash.role.toNat + 2 ^ 32 * s.t.lash.early.toNat + 2 ^ 48 * s.t.lash.disag.toNat

/-- `barstat` (R275). -/
def Ctx.barstat (c : Ctx) : Nat := ((List.range 6).map fun i => (c.bar i).gen % 1024 * 2 ^ (4 + 10 * i)).sum

def Ctx.membWord (c : Ctx) : Nat := 1 + 2 * c.mTile.toNat + 8 * c.mGang.toNat + 16 * c.mGrid.toNat + 64 * c.mDom.toNat

/-- Valid recall entries of the tile (R204). -/
def Tile.vcnt (t : Tile) : Nat := (t.rmem.toList.filter (·.valid)).length

/-- `csr_read` of the focused context. -/
def csrRead (s : State) (n : Nat) : W64 :=
  let c := s.c
  let w (x : Nat) : W64 := .ofNat 64 x
  match n with
  | 0x000 => w c.status.toNat
  | 0x001 => c.epc
  | 0x002 => c.cause.setWidth 64
  | 0x003 => c.tval
  | 0x004 => c.tval2
  | 0x005 => c.tvec
  | 0x006 => c.scratch
  | 0x007 => c.ie.setWidth 64
  | 0x008 => (c.ip s.time).setWidth 64
  | 0x009 => c.xtarget
  | 0x010 => c.fflags.setWidth 64
  | 0x020 => w s.t.vt
  | 0x021 => w s.g.sizeWord
  | 0x022 => w c.id
  | 0x023 => w ((s.g.gangOf s.t.vt).2 + 4096 * (s.g.gangOf s.t.vt).1)
  | 0x024 => w c.membWord
  | 0x025 => c.runcap.setWidth 64
  | 0x026 => c.portcfg.setWidth 64
  | 0x027 => w (c.pitch.toNat * 16)
  | 0x030 => w s.t.dtstat
  | 0x040 => w (c.sat.toNat + 2 ^ 32 * s.t.vcnt)
  | 0x050 => w s.t.wqstat
  | 0x051 => w s.t.wqfold
  | 0x060 => efaultWord c.frecs
  | 0x061 => match c.frecs with | r :: _ => r.fva | [] => 0
  | 0x062 => match c.frecs with | r :: _ => r.fmask | [] => 0
  | 0x070 => c.bto.setWidth 64
  | 0x071 => w c.barstat
  | 0x080 => w s.belaycfg
  | 0x081 => w s.lashcfg
  | 0x0C0 => w s.m.cycle
  | 0x0C1 => c.instret
  | 0x0C2 => w s.time
  | 0x0C3 => c.tmatch
  | 0x100 => w (c.ptroot.toNat * 2 ^ 11)
  | 0x101 => c.asid.setWidth 64
  | n => c.cnt.toList.getD (n - 0x063) 0

/-! ## Writes with effects of their own -/

/-- `runcap`: a write restarts the count (R232). -/
def Ctx.setRuncap (c : Ctx) (v : W64) : Ctx := { c with runcap := v.setWidth 32, turn := 0 }

def Lash.clear (l : Lash) : Lash := { l with disag := 0, early := 0 }
def Belay.clear (b : Belay) : Belay := { b with rollbk := 0 }

/-- Entries of a table image (R97). -/
def imageEntry (bs : List Byte) (i : Nat) : BitVec 19 := .ofNat 19 (natOf (slice bs (4 * i) 4))
def Tile.load8 (t : Tile) (bs : List Byte) : Tile := { t with tab8 := Vector.ofFn fun (i : Fin 256) => imageEntry bs i.val }
def Tile.load4 (t : Tile) (bs : List Byte) : Tile := { t with tab4 := Vector.ofFn fun (i : Fin 16) => imageEntry bs i.val }

/-- TOFF of a written word: its bits 33:32 read 0. -/
def toffOf (v : W64) : Nat := bits v.toNat 34 19 * 4

/-- Read a table image if it is asked for. -/
def readImage (s : State) (on : Bool) (off n : Nat) (k : State → List Byte → Res) : Res :=
  if on then onCoreRead s (.ofNat 64 (spBase + off)) n k else k s []

/-- A `dtstat` write in S mode (R96, R97). -/
def writeDtstat (s : State) (v : W64) (k : State → Res) : Res :=
  let ld8 := v.getLsbD 13
  let ld4 := v.getLsbD 12
  let off := toffOf v
  if (ld8 || ld4) && s.t.tableBusy ld8 ld4 then .wait s (.tables ld8 ld4)
  else if (ld8 && spSize < off + 1024) || (ld4 && spSize < off + 64) then .trap s .access (.ofNat 64 (spBase + off)) 0
  else
    readImage s ld8 off 1024 fun s b8 => readImage s ld4 off 64 fun s b4 =>
      let t := if ld8 then s.t.load8 b8 else s.t
      let t := if ld4 then t.load4 b4 else t
      k { s with t := { t with toff := .ofNat 21 off, nan4 := .ofNat 4 (bits v.toNat 8 4), nan8 := .ofNat 8 (bits v.toNat 0 8) } }

/-- `status` by software (R28, R29). -/
def Status.write (x : Status) (u : Bool) (v : W64) : Status :=
  let x := { x with rm := .ofNat 2 (bits v.toNat 5 2) }
  if u then x
  else { x with xfer := v.getLsbD 9, half := v.getLsbD 4, pmode := v.getLsbD 3, pie := v.getLsbD 2, ie := v.getLsbD 1 }

/-- `csr_write` of the focused context; `w1c` says whether the write reaches a W1C bit that it gives as 1. -/
def csrWrite (s : State) (n : Nat) (v : W64) (w1c : Bool) (k : State → Res) : Res :=
  let u := !s.c.status.mode
  let put (f : Ctx → Ctx) : Res := k { s with c := f s.c }
  match n with
  | 0x000 => put fun c => { c with status := c.status.write u v }
  | 0x001 => put fun c => { c with epc := v &&& ~~~3 }
  | 0x002 => put fun c => { c with cause := v.setWidth 8 }
  | 0x003 => put fun c => { c with tval := v }
  | 0x004 => put fun c => { c with tval2 := v }
  | 0x005 => put fun c => { c with tvec := v &&& ~~~7 }
  | 0x006 => put fun c => { c with scratch := v }
  | 0x007 => put fun c => { c with ie := (c.ie &&& 0b10001) ||| (v.setWidth 5 &&& 0b01110) }
  | 0x008 => put fun c => { c with ipSoft := v.getLsbD 2 }
  | 0x009 => put fun c => { c with xtarget := v &&& ~~~3 }
  | 0x010 => put fun c => { c with fflags := v.setWidth 5 }
  | 0x024 => k (writeMemb s v)
  | 0x025 => put fun c => c.setRuncap v
  | 0x026 => put fun c => { c with portcfg := v.setWidth 4 }
  | 0x027 => put fun c => { c with pitch := .ofNat 18 (bits v.toNat 4 18) }
  | 0x030 => if u then k s else writeDtstat s v k
  | 0x040 => put fun c => { c with sat := v.setWidth 2 }
  | 0x060 => if w1c && v.getLsbD 63 then k (dropRecord s s.t.vt s.c.id) else k s
  | 0x070 => put fun c => { c with bto := v.setWidth 32 }
  | 0x080 => k { s with t := { s.t with belay := s.t.belay.clear } }
  | 0x081 => k { s with t := { s.t with lash := s.t.lash.clear } }
  | 0x0C3 => if u then k s else put fun c => { c with tmatch := v }
  | 0x100 => put fun c => { c with ptroot := .ofNat 41 (bits v.toNat 11 41) }
  | 0x101 => put fun c => { c with asid := v.setWidth 16 }
  | n => if h : 0x063 ≤ n ∧ n < 0x06A then put fun c => { c with cnt := c.cnt.set (n - 0x063) v } else k s

/-! ## The CSR words (R137) -/

/-- The access checks of R27. -/
def csrAccess (s : State) (i : Instr) (n : Nat) (k : Res) : Res :=
  if !csrListed n then .trap s .illegal (wordOf s i) 0
  else if !s.c.status.mode && csrS n then .trap s .priv (wordOf s i) (.ofNat 64 (0x1000 + n))
  else k

/-- What the partner tile has written in place of `s'`, where it has read a ROLE of its own (R385, R386). -/
def pairRead (s s' : State) (n : Nat) (d : Fin 32) (v : W64) : State :=
  if n = 0x081 ∧ s.t.lash.role = 1 then
    let p := writeX { s with t := { s.t with lash := { s.t.lash with fp := s.t.lash.pfp } } } d (v ^^^ 3) true
    { s' with t := { s'.t with lash := { s'.t.lash with pfp := p.t.lash.fp } } }
  else s'

def execCsrr (d : Fin 32) (n : BitVec 12) (s : State) : Out3 :=
  finish s <| csrAccess s (.csrr d n) n.toNat <|
    (putResult s d (csrRead s n.toNat) true).onDone fun s' => pairRead s s' n.toNat d (csrRead s n.toNat)

/-- `s'`, in which a CSR has been written, with the old value in D. The word still goes by the CSRs that it found (R138), so a send
finds the neighbour that the destination wait has found. -/
def writeOld (s s' : State) (d : Fin 32) (old : W64) : State :=
  let u := writeX { s' with c := { s'.c with portcfg := s.c.portcfg } } d old true
  { u with c := { u.c with portcfg := s'.c.portcfg } }

/-- The write forms: `f old x` is what is written. -/
def csrUpdate (s : State) (i : Instr) (d a : Fin 32) (wa : Bool) (n : Nat) (f : W64 → W64 → W64) (w1c : W64 → Bool) : Out3 :=
  finish s <| csrAccess s i n <| srcX s a fldA wa {} fun x k => commit s k <| dstX s d anyWord <|
    let old := csrRead s n
    csrWrite s n (f old x) (w1c x) fun s' =>
      let s' := absorbCsr s' n (csrRead s' n).toNat
      .done (pairRead s' (writeOld s s' d old) n d old)

def execCsrw (d a : Fin 32) (wa : Bool) (n : BitVec 12) (s : State) : Out3 :=
  csrUpdate s (.csrw d a wa n) d a wa n.toNat (fun _ x => x) fun _ => true
def execCsrs (d a : Fin 32) (wa : Bool) (n : BitVec 12) (s : State) : Out3 :=
  csrUpdate s (.csrs d a wa n) d a wa n.toNat (fun o x => o ||| x) fun x => x.getLsbD 63
def execCsrc (d a : Fin 32) (wa : Bool) (n : BitVec 12) (s : State) : Out3 :=
  csrUpdate s (.csrc d a wa n) d a wa n.toNat (fun o x => o &&& ~~~x) fun _ => false

/-! ## Events that are CSR writes -/

def execRuncapWrite (vt c : Nat) (v : W64) (s : State) : Out3 :=
  if (s.ctx? vt c).isSome then .next (s.mapCtx vt c fun x => x.setRuncap v) else off "RUNCAP_WRITE"

def execMembWrite (vt c : Nat) (v : W64) (s : State) : Out3 :=
  if (s.ctx? vt c).isSome then .next ((writeMemb (s.focus vt c) v).focus s.t.vt s.c.id) else off "MEMB_WRITE"

/-- A table of tile `vt` is loaded from its scratchpad when no committed user of it is still reading. -/
def tableEvent (row : String) (vt off n : Nat) (busy : Tile → Bool) (load : Tile → List Byte → Tile) (s : State) : Out3 :=
  match s.tile? vt with
  | none => Machine.off row
  | some t =>
    let o := off / 4 * 4
    if busy t || spSize < o + n || t.badRange srcSp o n then Machine.off row
    else .next (s.mapTile vt fun t => { load t (t.sp.read o n) with toff := .ofNat 21 o })

def execTableLoadT8 (vt : Nat) (toff : BitVec 21) (s : State) : Out3 :=
  tableEvent "TABLE_LOAD_T8" vt toff.toNat 1024 (·.tableBusy true false) Tile.load8 s
def execTableLoadT4 (vt : Nat) (toff : BitVec 21) (s : State) : Out3 :=
  tableEvent "TABLE_LOAD_T4" vt toff.toNat 64 (·.tableBusy false true) Tile.load4 s

def execLashcfgWrite (vt : Nat) (s : State) : Out3 :=
  if (s.tile? vt).isSome then .next (s.mapTile vt fun t => { t with lash := t.lash.clear }) else off "LASHCFG_WRITE"
def execBelaycfgWrite (vt : Nat) (s : State) : Out3 :=
  if (s.tile? vt).isSome then .next (s.mapTile vt fun t => { t with belay := t.belay.clear }) else off "BELAYCFG_WRITE"

end Sys2Proof.Machine
end

