-- ==== Sys2Proof/Machine/Image.lean ====
section
/-! DEFINITION. The image of a gang that a swap-out writes to its shadow region: its parts in their order, and which of them an
incremental save writes again (R371, R372). The bytes that a part takes are left to firmware. -/

namespace Sys2Proof.Machine

/-! ## Items -/

/-- The item of an image that block `n` of tile `vt`, or tile register `i` of a context, has. -/
def oldBlock (im : List ImgItem) (vt n : Nat) : List ImgItem :=
  im.filter fun x => match x with | .block v k _ => v == vt && k == n | _ => false
def oldTileReg (im : List ImgItem) (vt c i : Nat) : List ImgItem :=
  im.filter fun x => match x with | .tileReg v d k _ => v == vt && d == c && k == i | _ => false

/-- Scratchpad blocks of 4 KiB: those written since the last save, the others as they were saved. -/
def imgBlocks (old : List ImgItem) (t : Tile) : List ImgItem :=
  (List.range 512).flatMap fun n =>
    if t.written.contains n then [.block t.vt n (t.sp.cells.filter fun x => x.1 / 4096 == n)] else oldBlock old t.vt n

def imgSlots (t : Tile) : List ImgItem :=
  ((List.range 128).zip t.slots.toList).filterMap fun (k, x) => if x.svalid then some (.slot t.vt k x.vals x.mta) else none

def imgRecall (t : Tile) : List ImgItem :=
  (((List.range 256).zip t.rmem.toList).filterMap fun (k, x) => if x.valid then some (ImgItem.recall t.vt k x.data) else none)
    ++ [.recallBits t.vt (t.rmem.toList.map (·.valid))]

/-- The splice queue with its counters; spilled records stay in their ring, of which the image holds the head and tail. -/
def imgSplice (t : Tile) : List ImgItem :=
  t.sq.map (ImgItem.entry t.vt) ++ [.splice t.vt t.seqNext t.inhand t.folds t.ovfn t.ringAt (t.ringAt + t.spill.length)]

/-- The two bits of a tag: cleared, awaiting, full with V = 0, full with V = 1 (R372). -/
def XReg.tagBits (x : XReg) : BitVec 2 :=
  match x.tag with
  | .cleared => 0
  | .awaiting => 1
  | .full => if x.v then 3 else 2

/-- Every CSR of the focused context, `ip` without PREEMPT. -/
def csrImage (s : State) : List (Nat × W64) :=
  ((List.range 0x102).filter csrListed).map fun n => (n, if n = 8 then csrRead s n &&& ~~~1 else csrRead s n)

/-- The tile registers: of those that are VALID, the DIRTY ones where the gang has been saved before, else the saved ones. -/
def imgTileRegs (old : List ImgItem) (again : Bool) (vt : Nat) (c : Ctx) : List ImgItem :=
  ((List.range 8).flatMap fun i =>
    let r := c.regT i
    if !r.valid then [] else if !again || r.dirty then [ImgItem.tileReg vt c.id i r.data] else oldTileReg old vt c.id i)
  ++ [.tileStatus vt c.id (c.t.toList.map TReg.status)]

/-- The part of one context (R372). -/
def imgCtx (old : List ImgItem) (again : Bool) (s : State) (vt : Nat) (c : Ctx) : List ImgItem :=
  [ .place vt c.id c.pc (c.pos == .aWord) c.xfer c.run
  , .csrs vt c.id (csrImage (s.focus vt c.id)) c.frecs
  , .xregs vt c.id (((c.x.toList.drop 1).take 27).map fun x => (x.val, x.tagBits))
  , .vregs vt c.id (c.v.toList.take 28) c.h.toList c.b.toList ]
  ++ imgTileRegs old again vt c ++
  [ .reissue vt c.id (c.accs.filter (·.reissue)) c.dfaults
  , .queues vt c.id c.inq.toList c.qin.toList c.qout
  , .barriers vt c.id c.bars.toList c.evt c.watch c.recv ]

/-- Credits that the tile's NI holds, of each context in each direction: the places free in the inbound queue of the neighbour that the
context sends to (R234, R236). -/
def niCredits (s : State) (t : Tile) : List Nat :=
  (s.ctxsOf t).flatMap fun c => ([0, 1, 2, 3] : List (Fin 4)).map fun d =>
    match neighbour s.g t.vt c.portcfg d with
    | some vt => 16 - s.queued vt c.id (opposite d)
    | none => 0

/-- The parts of one tile, in the order of R371. -/
def imgTile (old : List ImgItem) (again : Bool) (s : State) (t : Tile) : List ImgItem :=
  imgBlocks old t ++ imgSlots t ++ imgRecall t
    ++ [.tables t.vt t.tab8.toList t.tab4.toList t.nan8 t.nan4]
    ++ imgSplice t ++ (s.ctxsOf t).flatMap (imgCtx old again s t.vt)
    ++ [.helper t.vt false t.ldr, .helper t.vt true t.str, .engines t.vt t.eq.toList t.asm t.pushed t.collGen.toList t.arrq
      , .ni t.vt t.ni (niCredits s t)]

/-- The image of gang `x` of the focused grid. -/
def gangImage (s : State) (x : Gang) : List ImgItem :=
  ((s.allTiles.foldl (fun l t => insertTile l t) []).filter fun t => s.g.gangOf t.vt == (x.gr, x.gc)).flatMap
    (imgTile x.image x.swapped s)

end Sys2Proof.Machine
end

