-- ==== Sys2Proof/Machine/Gang.lean ====
section
/-! DEFINITION. Gangs: demand and placement (R226, R416), yield requests, squall halts, swap-out and swap-in (R367 to
R376). A gang's tiles and contexts stay in the state of
their grid while it is swapped out; the image beside them is what a swap-out writes (R371, R372). -/

namespace Sys2Proof.Machine

/-! ## Gangs of a function -/

/-- Every grid on the module, with its tiles whole, the focused one first. -/
def boxes (s : State) : List GridBox := ⟨s.g, s.allTiles.map (wholeTile s)⟩ :: s.bg

def Gang.key (x : Gang) : Nat × Nat := (x.gr, x.gc)

def GridBox.tilesOf (b : GridBox) (x : Gang) : List Tile := b.tiles.filter fun t => b.g.gangOf t.vt == x.key

/-- A tile has a started context that has not ended, or work that grid completion waits for (R416). -/
def Tile.working (t : Tile) : Bool :=
  t.others.any (fun c => c.active || c.accs != []) || t.arrq != [] || t.ni != []
    || (List.range 7).any fun q => t.cmdsOf q != []

/-- An absent gang has demand (R416). -/
def GridBox.demand (b : GridBox) (x : Gang) : Bool := b.g.live && !x.resident && (b.tilesOf x).any Tile.working

/-- Rows and columns of virtual clusters that a gang holds (R225). -/
def gangSpan (g : Grid) (x : Gang) : Nat × Nat :=
  (min g.gh (ceilDiv g.h 4 - x.gr * g.gh), min g.gw (ceilDiv g.w 4 - x.gc * g.gw))

/-- Physical clusters that one virtual cluster takes (R385). -/
def perCluster (f : Vf) : Nat := if f.lash then 2 else 1

def gangSize (g : Grid) (x : Gang) : Nat := (gangSpan g x).1 * (gangSpan g x).2

/-- Clusters of a function that no resident gang holds. -/
def freeClusters (s : State) (v : Nat) : List Nat :=
  let used := ((boxes s).filter fun b => b.g.live && b.g.vf == v).flatMap fun b => b.g.gangs.flatMap (·.clusters)
  ((s.m.vfs.toList.getD v {}).owned).filter fun k => !used.contains k

/-- Columns of the physical cluster grid (28 rows of 32). -/
def physCols : Nat := 32

/-- The free sites for one virtual cluster, by their first physical cluster; a lashed site is an even column with the next. -/
def freeSites (f : Vf) (l : List Nat) : List Nat :=
  if f.lash then l.filter fun k => k % 2 = 0 ∧ l.contains (k + 1) else l

/-- A rectangle of sites at site `k`, in row-major order. -/
def rectAt (w n m k : Nat) : List Nat :=
  (List.range n).flatMap fun i => (List.range m).map fun j => k + i * physCols + j * w

/-- The sites that a gang takes: the first free rectangle, else the first free sites (R226). -/
def chooseSites (f : Vf) (l : List Nat) (n m : Nat) : Option (List Nat) :=
  let w := perCluster f
  let fs := freeSites f l
  match fs.find? fun k => k % physCols + m * w ≤ physCols && (rectAt w n m k).all fs.contains with
  | some k => some (rectAt w n m k)
  | none => if n * m ≤ fs.length then some (fs.take (n * m)) else none

/-- Physical clusters of the sites. -/
def sitesClusters (f : Vf) (l : List Nat) : List Nat := if f.lash then l.flatMap fun k => [k, k + 1] else l

/-- Resident gangs of a function. -/
def residents (s : State) (v : Nat) : Nat :=
  (((boxes s).filter fun b => b.g.live && b.g.vf == v).flatMap fun b => b.g.gangs.filter (·.resident)).length

/-- The function summons at once (R376). -/
def Vf.atOnce (f : Vf) : Bool := f.summon == 1

/-- The clusters that a gang of the function can be given now. -/
def roomFor (s : State) (g : Grid) (x : Gang) : Option (List Nat) :=
  let f := s.m.vfs.toList.getD g.vf {}
  if f.maxRes ≠ 0 ∧ f.maxRes.toNat ≤ residents s g.vf then none
  else (chooseSites f (freeClusters s g.vf) (gangSpan g x).1 (gangSpan g x).2).map (sitesClusters f)

/-- Absent gangs of a function with demand, each with its grid. -/
def asking (s : State) (v : Nat) : List (Grid × Gang) :=
  ((boxes s).filter fun b => b.g.live && b.g.vf == v).flatMap fun b => (b.g.gangs.filter b.demand).map fun x => (b.g, x)

/-- A request goes before another: higher PRIO, then under the immediate policy (`now`) the earlier summons, then the earlier request,
then the older launch, then (gr, gc) (R376, R416; log 20). -/
def asksBefore (now : Bool) (a b : Grid × Gang) : Bool :=
  if a.1.prio != b.1.prio then b.1.prio < a.1.prio
  else if now && a.2.summon != b.2.summon then a.2.summon
  else if now && a.2.summon && a.2.summonAt != b.2.summonAt then a.2.summonAt < b.2.summonAt
  else if a.2.asked != b.2.asked then a.2.asked < b.2.asked
  else if a.1.startT != b.1.startT then a.1.startT < b.1.startT
  else if a.2.gr != b.2.gr then a.2.gr < b.2.gr
  else a.2.gc < b.2.gc

/-- The gang that the function places next. -/
def nextAsking (s : State) (v : Nat) : Option (Grid × Gang) :=
  match asking s v with
  | [] => none
  | a :: r => some (r.foldl (fun b x => if asksBefore (s.m.vfs.toList.getD v {}).atOnce x b then x else b) a)

/-- The function has a swap that can be made. -/
def swapWork (s : State) (v : Nat) : Bool :=
  match nextAsking s v with
  | some (g, x) => (roomFor s g x).isSome
  | none => false

/-- Functions after `v`, in ascending order and round, `v` last. -/
def afterVf (v : Nat) : List Nat := (List.range 64).map fun k => (v + 1 + k) % 64

/-- The function that the round robin serves (R416). -/
def servedVf (s : State) : Option Nat :=
  if 0 < s.m.rrLeft ∧ swapWork s s.m.rrTurn then some s.m.rrTurn else (afterVf s.m.rrTurn).find? (swapWork s)

/-- One swap of the visit is used. -/
def grantSwap (s : State) (v : Nat) : State :=
  let w := max 1 (s.m.vfs.toList.getD v {}).weight.toNat
  let left := if s.m.rrTurn = v ∧ 0 < s.m.rrLeft then s.m.rrLeft - 1 else w - 1
  { s with m := { s.m with rrTurn := v, rrLeft := left } }

/-- A 16-bit count that saturates. -/
def satInc16 (x : W16) : W16 := if x = BitVec.allOnes 16 then x else x + 1

/-! ## Yield requests (R367, R416) -/

/-- Cycles in `n` microseconds at 1.9 GHz. -/
def usCycles (n : Nat) : Nat := 1900 * n

def Vf.quantumCycles (f : Vf) : Nat := usCycles (max 1 f.quantum.toNat)

/-- A role of the gang is halted by the debugger. -/
def gangHalted (s : State) (k : Nat × Nat) : Bool := s.view.haltedAt.any fun vt => s.g.gangOf vt == k

/-- The gang receives a yield request, and its grace timer starts. -/
def requestYield (s : State) (k : Nat × Nat) : State :=
  { s with g := s.g.mapGang k fun x => { x with yieldReq := true, grace := some (s.m.cycle + usCycles s.vf.grace.toNat) } }

/-- Resident gangs of a function that may be asked to yield, each with its grid: no summon pending, no halted role, and not
yielding already. -/
def yielders (s : State) (v : Nat) : List (Grid × Gang) :=
  ((boxes s).filter fun b => b.g.live && b.g.vf == v).flatMap fun b =>
    (b.g.gangs.filter fun x => x.resident && !x.summon && !x.yieldReq && !x.halting && !x.halted
      && !(b.tilesOf x).any fun t => t.others.any (·.dbg.halted) || t.ldr.dbg.halted || t.str.dbg.halted).map fun x => (b.g, x)

/-- Resident longest since its last placement, then the older launch, then the lower (gr, gc) (R416). -/
def yieldsBefore (a b : Grid × Gang) : Bool :=
  if a.2.placedAt != b.2.placedAt then a.2.placedAt < b.2.placedAt
  else if a.1.startT != b.1.startT then a.1.startT < b.1.startT
  else if a.2.gr != b.2.gr then a.2.gr < b.2.gr
  else a.2.gc < b.2.gc

def victim (s : State) (v : Nat) : Option (Grid × Gang) :=
  match yielders s v with
  | [] => none
  | a :: r => some (r.foldl (fun b x => if yieldsBefore x b then x else b) a)

/-- A gang that leaves its clusters: it has been asked to yield, or its halt has begun. -/
def Gang.leaves (x : Gang) : Bool := x.resident && (x.yieldReq || x.halting || x.halted)

/-- The gangs find sites among the clusters `l`, one after the other, at most `n` of them. -/
def allFit (f : Vf) : List (Grid × Gang) → List Nat → Nat → Bool
  | [], _, _ => true
  | _, _, 0 => false
  | (g, x) :: r, l, n + 1 =>
    match chooseSites f l (gangSpan g x).1 (gangSpan g x).2 with
    | none => false
    | some sites => allFit f r (l.filter fun k => !(sitesClusters f sites).contains k) n

/-- A summoned gang of the function finds no clusters under the immediate policy, those that others leave already counted: one yield
request serves one summon (R376). -/
def summonWaits (s : State) (v : Nat) : Bool :=
  let f := s.m.vfs.toList.getD v {}
  let gone := ((boxes s).filter fun b => b.g.live && b.g.vf == v).flatMap fun b => b.g.gangs.filter Gang.leaves
  let asks := (asking s v).filter (·.2.summon)
  let room := if f.maxRes = 0 then asks.length else f.maxRes.toNat - (residents s v - gone.length)
  f.atOnce && !allFit f asks (freeClusters s v ++ gone.flatMap (·.clusters)) room

/-- The quantum of a resident gang ends while another gang has demand for its clusters, or the immediate summon policy
chooses it. -/
def execQuantumExpiry (gr gc : Nat) (s : State) : Out3 :=
  event "QUANTUM_EXPIRY" <|
    match s.g.gang? (gr, gc) with
    | none => none
    | some x =>
      if !s.g.live || s.m.restart || !x.resident || x.yieldReq || x.halting || x.halted || gangHalted s (gr, gc) then none
      else
        let ends := x.quantum ≤ s.m.cycle && asking s s.g.vf != []
        let chosen := summonWaits s s.g.vf && (match victim s s.g.vf with
          | some (g, y) => g == s.g && y.key == (gr, gc)
          | none => false)
        if ends || chosen then some (requestYield s (gr, gc)) else none

/-! ## Squall halt (R369) -/

def Ctx.pend (c : Ctx) : Ctx := { c with ipPre := true }

/-- The halt of a gang begins: `ip.PREEMPT` on its contexts, its messages are parked, and a lashed tile ends its
interval (R387). -/
def squallHalt (s : State) (k : Nat × Nat) : State :=
  let s := s.mapAllCtxs fun vt c => if s.g.gangOf vt = k then c.pend else c
  let s := s.mapTiles fun t =>
    if s.g.gangOf t.vt = k ∧ t.lash.role ≠ 0 then { t with lash := { t.lash with due := true } } else t
  { s with g := s.g.mapGang k fun x => { x with yieldReq := false, grace := none, halting := true, soft := false } }

/-- A barrier or vote completion at which the gang takes its soft yield is due in this cycle (R365, R368). -/
def softReady (s : State) (x : Gang) : Bool :=
  [(1, x.gr * 4096 + x.gc), (2, 0)].any fun (lv, id) =>
    let s1 := releaseAll lv id s
    softYields s (s.g.bar lv id) x && barFull true lv id s1 && !anyLate lv id s1

/-- The grace time expires. While the command processors restart no halt begins (R394). -/
def execGraceExpiry (gr gc : Nat) (s : State) : Out3 :=
  event "GRACE_EXPIRY" <|
    match s.g.gang? (gr, gc) with
    | none => none
    | some x =>
      match x.grace with
      | none => none
      | some d =>
        if !x.resident || !x.yieldReq || s.m.cycle < d || s.m.restart || gangHalted s (gr, gc) || softReady s x then none
        else some (squallHalt s (gr, gc))

/-- The context has reached its state of R369: frozen, blocked with interrupts closed at a word that nothing has released, or not
running. -/
def Ctx.atRest (s : State) (vt : Nat) (c : Ctx) (soft : Bool) : Bool :=
  match c.run with
  | .ready => soft || c.dbg.halted
  | .blocked b => soft || c.dbg.halted
      || (c.status.mode && !c.status.ie && b != .wfi && !c.released s ((s.tile? vt).getD {}))
  | _ => true

/-- The sending side of a tile has drained (R369): no message of it is under way, and its NI holds only refused records
and records whose load is not done. -/
def niDrained (s : State) (t : Tile) : Bool :=
  !(s.g.mesh.any fun m => m.src == t.vt && m.body != .loadReq) && t.lash.gated == [] && t.ni.all fun n => n.refused || !n.loaded

/-- A copy of the tile stands inside a chunk and can go on (R355, R369); one that waits for stream units is stopped there. -/
def copyMoves (s : State) (t : Tile) : Bool :=
  (List.range 4).any fun q => (match (t.queue q).cmds with | c :: _ => c.midChunk | [] => false)
    && ((match execCopyUnit t.vt q s with | .next _ => true | _ => false)
      || (match execCopy2d t.vt q s with | .next _ => true | _ => false))

/-- The posted stores of the tile's contexts and helper cores are performed. -/
def settleTile (s : State) (vt : Nat) : State :=
  settleHelpers (((s.allCtxs.filter fun x => x.1 == vt).map (·.2.id)).foldl
    (fun s c => (settleAll (s.focus vt c)).focus s.t.vt s.c.id) s) none vt

/-- An access that has not been performed is abandoned into the reissue list, whatever parts of it have been; a completion that came
after the halt had begun releases its member at resumption (R365). -/
def Ctx.abandon (c : Ctx) : Ctx :=
  { c with ipPre := false, accs := c.accs.map fun a => if a.performed then a else { a with reissue := true, got := [] }
           bars := c.bars.map fun b => { b with after := false } }

/-- Every agent of the gang has reached its state: the halt is complete. -/
def execHaltComplete (gr gc : Nat) (s : State) : Out3 :=
  event "HALT_COMPLETE" <|
    match s.g.gang? (gr, gc) with
    | none => none
    | some x =>
      let k := (gr, gc)
      let mine (vt : Nat) : Bool := s.g.gangOf vt == k
      if !x.resident || !x.halting then none
      else if s.allCtxs.all (fun (vt, c) => !mine vt || (c.atRest s vt x.soft && c.accs.all fun a => !a.performed))
          && s.allTiles.all (fun t => !mine t.vt || (niDrained s t && !copyMoves s t)) && !collCombining mine s then
        let s := (s.allTiles.filter fun t => mine t.vt).foldl (fun s t => settleTile s t.vt) s
        let s := collWithdraw mine s
        let s := s.mapAllCtxs fun vt c => if mine vt then c.abandon else c
        some { s with g := s.g.mapGang k fun x => { x with halting := false, soft := false, halted := true } }
      else none

/-! ## Swap-out (R371, R372, R335) -/

/-- What the save of a tile clears, and what the tile's place kept for it. -/
def Tile.saved (t : Tile) : Tile :=
  { t with
    written := [], itlb := [], dtlb := [], etlb := [], icache := []
    ldr := { t.ldr with tlb := [] }, str := { t.str with tlb := [] } }
def Ctx.saved (c : Ctx) : Ctx := { c with t := c.t.map fun r => { r with dirty := false } }

/-- Swap traffic enters the meters; how many bytes an image takes is a free value (log 13). -/
def meterSwap (s : State) : State :=
  { s.mapVf s.g.vf fun f => f.addMeter 6 (Config.freeWord s.free).toNat with free := s.free + 1 }

/-- The gang leaves its clusters, its image written (R371). -/
def swapOut (s : State) (k : Nat × Nat) : State :=
  let mine (vt : Nat) : Bool := s.g.gangOf vt == k
  let im := match s.g.gang? k with | some x => gangImage s x | none => []
  let keys := ((s.allTiles.filter fun t => mine t.vt).map fun t => clusterKey t.vt)
  let s := s.mapAllCtxs fun vt c => if mine vt then c.saved else c
  let s := s.mapTiles fun t => if mine t.vt then t.saved else t
  meterSwap { s with g := { s.g with
    ctlb := s.g.ctlb.filter fun x => !keys.contains x.1
    gangs := s.g.gangs.map fun x =>
      (if x.key = k then { x with
        resident := false, halted := false, clusters := [], swapped := true, faulted := false, summon := false
        asked := s.m.cycle, image := im } else x) } }

def execSwapOut (gr gc : Nat) (s : State) : Out3 :=
  event "SWAP_OUT" <|
    match s.g.gang? (gr, gc) with
    | none => none
    | some x => if x.resident && x.halted && !s.m.restart && !gangHalted s (gr, gc) then some (swapOut s (gr, gc)) else none

/-! ## Swap-in (R373) -/

/-- The fault that an access would have raised at its word. -/
def AccKind.xlate (k : AccKind) : AKind :=
  match k with
  | .amo _ _ _ _ => .amo
  | .casD _ _ _ => .cas
  | .casQ _ _ _ => .cas
  | _ => .load
def AccKind.window (k : AccKind) : WKind :=
  match k with
  | .ldk _ => .load
  | k => if k.acts then .amo else .load

/-- The translation of a reissued access; an AMO writes, so its page becomes dirty (R328, R330). -/
def transReissue (s : State) (vt : Nat) (sp : Space) (k : AKind) (va : Nat) : Trans :=
  match translate s vt .d sp k va with
  | .ok s pa key => if k = .amo then translate s vt .d sp .dirty va else .ok s pa key
  | r => r

/-- What a reissued access comes to: its pieces, a fault, or the wait for a page request. -/
def retranslate (s : State) (vt : Nat) (c : Ctx) (a : Access) : List (Nat × Nat) → List Piece → State × Access
  | [], ps => (s, { a with pieces := ps, reissue := false, page := none })
  | (x, n) :: r, ps =>
    match transReissue s vt ⟨s.g.vf, c.ptroot, c.asid, a.smode⟩ a.kind.xlate x with
    | .ok s' pa key =>
      if s'.m.paExists pa then
        match r with
        | [] => (s', { a with pieces := ps ++ [⟨.glob pa, n, key⟩], reissue := false, page := none })
        | y :: r' => retranslate s' vt c a (y :: r') (ps ++ [⟨.glob pa, n, key⟩])
      else (s', { a with reissue := false, page := none, fault := some (xlateFault .access (.ofNat 64 x)) })
    | .fault s' => (s', { a with reissue := false, page := none, fault := some (xlateFault a.kind.xlate.cause (.ofNat 64 x)) })
    | .poison s' => (s', { a with reissue := false, page := none, fault := some (xlateFault .poison (.ofNat 64 x)) })
    | .access s' => (s', { a with reissue := false, page := none, fault := some (xlateFault .access (.ofNat 64 x)) })
    | .miss s' gpa w => waitPage s' vt c.id c.asid a.kind.xlate x gpa w { a with pieces := [], reissue := false }

/-- One entry of a reissue list is issued again: translated, or its window checked. -/
def reissueOne (s : State) (vt : Nat) (c : Ctx) (a : Access) : State × Access :=
  if a.va.toNat < 2 ^ 56 then retranslate s vt c a (cutRange 65536 (a.size + 1) a.va.toNat a.size) []
  else
    match engRange s vt .d ⟨s.g.vf, c.ptroot, c.asid, a.smode⟩ a.kind.xlate a.kind.window false a.va a.size with
    | .ok s' ps =>
      let gated := match s'.tile? vt with | some t => a.gatedBy t | none => false
      let s' := match (if gated then none else absentTile s' ps) with | some u => post s' vt c.id u .loadReq | none => s'
      (s', { a with pieces := ps, reissue := false })
    | .err s' _ x => (s', { a with reissue := false, fault := some (xlateFault .access x) })

/-- The accesses of a context that satisfy `p` are issued again, in commit order. -/
def reissueCtx (p : Access → Bool) (s : State) (vt i : Nat) : State :=
  match s.ctx? vt i with
  | none => s
  | some c =>
    let (s', l) := c.accs.foldl (fun (sa : State × List Access) a =>
      if p a then
        let (s1, a1) := reissueOne sa.1 vt c a
        (s1, sa.2 ++ [a1])
      else (sa.1, sa.2 ++ [a])) (s, [])
    s'.mapCtx vt i fun c => { c with accs := l }

/-- Position of the first parked message of the gang among the messages under way. -/
def parkedFrom : List Gang → Nat × Nat → Nat
  | [], _ => 0
  | x :: r, k => if x.key = k then 0 else (if x.open_ then x.parked.length else 0) + parkedFrom r k

/-- The first access of a context that waits for the gang of tile `u` is performed there; a halt of the context's own gang
does not undo it (R373, R375; log 20). -/
def loadDeliver (s : State) (m : Msg) : State :=
  let far (a : Access) : Bool := !a.performed && a.page.isNone && (a.pieces.any fun p => match p.place with
    | .tile v _ => s.g.gangOf v == s.g.gangOf m.dst
    | .glob _ => false)
  match s.ctx? m.src m.c with
  | none => s
  | some x =>
    match findNth far x.accs 0 with
    | none => s
    | some (k, a) =>
      if a.absent s || storesAhead s m.src m.c a || a.behind s (x.accs.take k) then s
      else
        let (s', a') := perform s m.src a
        s'.mapCtx m.src m.c fun x => { x with accs := setNth x.accs k { a' with reissue := false } }

/-- A parked read of engine queue `q` lets the head command take its next unit, wherever its own gang is (R375; log 20). -/
def engineDeliver (s : State) (vt q : Nat) : State :=
  match s.g.gang? (s.g.gangOf vt) with
  | none => s
  | some x =>
    let s1 : State := { s with g := s.g.mapGang x.key fun y => { y with resident := true, halting := false, halted := false } }
    let try1 (f : State → Out3) (r : Option State) : Option State :=
      match r with
      | some s2 => some s2
      | none => match f s1 with | .next s2 => some s2 | _ => none
    let r := try1 (execCopyUnit vt q) <| try1 (execCopy2d vt q) <| try1 (execGather vt q) <| try1 (execScatter vt q) <|
      try1 (execSignal vt q) <| try1 (execMcastSt vt) <| try1 (execRedSt vt) none
    match r with
    | none => s
    | some s2 => { s2 with g := s2.g.mapGang x.key fun y =>
        { y with resident := x.resident, halting := x.halting, halted := x.halted } }

/-- A delivery of the message has an entry of its own in a replay's log, which releases it (R395, R396). -/
def Body.logged : Body → Bool
  | .port _ _ _ => true
  | .store _ _ => true
  | .parts _ => true
  | .record _ => true
  | .stream _ _ _ => false
  | .loadReq => false

/-- Deliver message `k` under way, whatever it is; in a replay its release does (R396). -/
def deliver (s : State) (k : Nat) : Option State :=
  match takeMsg s k with
  | none => none
  | some (m, s1) =>
    if m.body.logged && s.heldBack m.dst then none
    else
    match m.body with
    | .loadReq => some (if m.c < 4 then loadDeliver s1 m else if 8 ≤ m.c then engineDeliver s1 m.src (m.c - 8) else s1)
    | .record _ => insertParked s m.dst k true
    | .port _ _ _ => portArrive s k
    | .store _ _ => storeArrive s k
    | .parts _ => storeArrive s k
    | .stream _ _ _ => streamArrive s k

/-- Parked messages are delivered in parked order; one that its queue cannot hold stays (R373). DESIGN CHOICE (log 20): a later one of
the same sender for another queue or for memory is delivered all the same. -/
def deliverParked (k : Nat × Nat) : Nat → Nat → State → State
  | 0, _, s => s
  | fuel + 1, i, s =>
    match deliver s (parkedFrom s.g.gangs k + i) with
    | some s' => deliverParked k fuel i s'
    | none => deliverParked k fuel (i + 1) s

/-- The splice queue refills until the ring is empty or the refill stops. -/
def refillAll (vt : Nat) : Nat → State → State
  | 0, s => s
  | fuel + 1, s =>
    match (if s.heldBack vt then none else refill s vt true) with
    | some s' => refillAll vt fuel s'
    | none => s

/-- A context takes up again: one frozen at `tvec` goes on there, and a requested debug halt takes effect (R373, R378). -/
def Ctx.resumed (c : Ctx) : Ctx :=
  let c := if c.run = .frozen then { c with run := .ready } else c
  if c.dbg.pending then { c with dbg := { c.dbg with pending := false, halted := true } } else c
def Helper.resumed (h : Helper) : Helper :=
  if h.dbg.pending then { h with dbg := { h.dbg with pending := false, halted := true } } else h

/-- The gang is placed in `cl` and its image restored, in the order of R373. -/
def swapIn (s : State) (k : Nat × Nat) (cl : List Nat) : State :=
  let mine (vt : Nat) : Bool := s.g.gangOf vt == k
  let again := match s.g.gang? k with | some x => x.swapped | none => false
  let s := { s with g := s.g.mapGang k fun x => { x with
    resident := true, clusters := cl, placedAt := s.m.cycle, quantum := s.m.cycle + s.vf.quantumCycles
    faulted := false, summon := false, yieldReq := false, grace := none, halting := false, halted := false } }
  let s := { s with g := { s.g with mesh := s.g.mesh.filter fun m => !(mine m.dst && m.body == Body.loadReq) } }
  let s := (s.allCtxs.filter fun x => mine x.1).foldl (fun s x => reissueCtx (·.reissue) s x.1 x.2.id) s
  let n := match s.g.gang? k with | some x => x.parked.length | none => 0
  let s := deliverParked k n 0 s
  let s := (s.allTiles.filter fun t => mine t.vt).foldl (fun s t => refillAll t.vt t.spill.length s) s
  let s := s.mapTiles fun t => if mine t.vt then { t with ldr := t.ldr.resumed, str := t.str.resumed } else t
  let s := s.mapAllCtxs fun vt c => if mine vt then c.resumed else c
  if again then meterSwap s else s

def execSwapIn (gr gc : Nat) (s : State) : Out3 :=
  event "SWAP_IN" <|
    match s.g.gang? (gr, gc), nextAsking s s.g.vf with
    | some x, some (g, y) =>
      if !s.g.live || s.m.restart || x.resident || y.key != (gr, gc) || g != s.g || servedVf s != some s.g.vf then none
      else (roomFor s s.g x).map fun cl => grantSwap (swapIn s (gr, gc) cl) s.g.vf
    | _, _ => none

end Sys2Proof.Machine
end

