-- ==== Sys2Proof/Machine/Rv64.lean ====
section
/-! DEFINITION. The arithmetic of RV64I and M, which the helper cores implement (R337). The manual names the standard and does
not restate it: what follows is the standard's (PRESUMED, log 11). -/

namespace Sys2Proof.Machine

/-! ## Immediates -/

def rvI (w : Nat) : W64 := sext64 12 (bits w 20 12)
def rvS (w : Nat) : W64 := sext64 12 (bits w 7 5 + 32 * bits w 25 7)
def rvB (w : Nat) : W64 :=
  sext64 13 (2 * bits w 8 4 + 2 ^ 5 * bits w 25 6 + 2 ^ 11 * bits w 7 1 + 2 ^ 12 * bits w 31 1)
def rvU (w : Nat) : W64 := sext64 32 (bits w 12 20 * 2 ^ 12)
def rvJ (w : Nat) : W64 :=
  sext64 21 (2 * bits w 21 10 + 2 ^ 11 * bits w 20 1 + 2 ^ 12 * bits w 12 8 + 2 ^ 20 * bits w 31 1)

/-! ## Operations -/

/-- OP and OP-IMM of funct3, with `alt` for subtraction and the arithmetic shift. -/
def rvAlu (f3 : Nat) (alt : Bool) (a b : W64) : W64 :=
  match f3 with
  | 0 => if alt then a - b else a + b
  | 1 => a <<< (b.toNat % 64)
  | 2 => if a.toInt < b.toInt then 1 else 0
  | 3 => if a.toNat < b.toNat then 1 else 0
  | 4 => a ^^^ b
  | 5 => if alt then a.sshiftRight (b.toNat % 64) else a >>> (b.toNat % 64)
  | 6 => a ||| b
  | _ => a &&& b

/-- OP-32 and OP-IMM-32: the 32-bit result, sign-extended. -/
def rvAluW (f3 : Nat) (alt : Bool) (a b : W64) : W64 :=
  let x : W32 := a.setWidth 32
  let y : W32 := b.setWidth 32
  let r : W32 := match f3 with
    | 0 => if alt then x - y else x + y
    | 1 => x <<< (y.toNat % 32)
    | _ => if alt then x.sshiftRight (y.toNat % 32) else x >>> (y.toNat % 32)
  r.signExtend 64

/-- Division and remainder of `w`-bit patterns: by zero, all ones and the dividend; the overflowing quotient wraps. -/
def rvDiv (w : Nat) (signed : Bool) (a b : Nat) : Int :=
  let x := if signed then sgn w a else (a % 2 ^ w : Nat)
  let y := if signed then sgn w b else (b % 2 ^ w : Nat)
  if y = 0 then -1 else Int.tdiv x y
def rvRem (w : Nat) (signed : Bool) (a b : Nat) : Int :=
  let x := if signed then sgn w a else (a % 2 ^ w : Nat)
  let y := if signed then sgn w b else (b % 2 ^ w : Nat)
  if y = 0 then x else Int.tmod x y

/-- The M extension. -/
def rvMul (f3 : Nat) (a b : W64) : W64 :=
  match f3 with
  | 0 => a * b
  | 1 => .ofInt 64 (a.toInt * b.toInt / 2 ^ 64)
  | 2 => .ofInt 64 (a.toInt * (b.toNat : Int) / 2 ^ 64)
  | 3 => .ofNat 64 (a.toNat * b.toNat / 2 ^ 64)
  | 4 => .ofInt 64 (rvDiv 64 true a.toNat b.toNat)
  | 5 => .ofInt 64 (rvDiv 64 false a.toNat b.toNat)
  | 6 => .ofInt 64 (rvRem 64 true a.toNat b.toNat)
  | _ => .ofInt 64 (rvRem 64 false a.toNat b.toNat)

/-- The M extension on 32-bit words. -/
def rvMulW (f3 : Nat) (a b : W64) : W64 :=
  match f3 with
  | 0 => sext64 32 (a.toNat * b.toNat)
  | 4 => sext64 32 (pat 32 (rvDiv 32 true a.toNat b.toNat))
  | 5 => sext64 32 (pat 32 (rvDiv 32 false a.toNat b.toNat))
  | 6 => sext64 32 (pat 32 (rvRem 32 true a.toNat b.toNat))
  | _ => sext64 32 (pat 32 (rvRem 32 false a.toNat b.toNat))

/-- Branch conditions; none for a funct3 that names no branch. -/
def rvCond (f3 : Nat) (a b : W64) : Option Bool :=
  match f3 with
  | 0 => some (a == b)
  | 1 => some (a != b)
  | 4 => some (a.toInt < b.toInt)
  | 5 => some (b.toInt ≤ a.toInt)
  | 6 => some (a.toNat < b.toNat)
  | 7 => some (b.toNat ≤ a.toNat)
  | _ => none

end Sys2Proof.Machine
end

