-- ==== Sys2Proof/Machine/Helper.lean ====
section
/-! DEFINITION. The helper cores of a tile (R337 to R343): RV64IM and Zicsr in M and U mode, the Xdk members, their accesses
and their traps. The core in focus is the loader or the storer of the tile in focus. What R337 takes from the RISC-V
standard is PRESUMED (log 11, log 12). -/

namespace Sys2Proof.Machine

/-! ## The core in focus -/

def State.helper (s : State) : Helper := if s.storer then s.t.str else s.t.ldr
def State.setHelper (s : State) (h : Helper) : State :=
  if s.storer then { s with t := { s.t with str := h } } else { s with t := { s.t with ldr := h } }

/-- Its role, and its number as a sender and submitter: 4 loader, 5 storer. -/
def State.hrole (s : State) : Nat := if s.storer then 5 else 4

def Helper.get (h : Helper) (r : Fin 32) : W64 := if r = 0 then 0 else h.x[r]

/-- Write an x register, which enters the fingerprint; x0 discards (R341, R387). -/
def putR (s : State) (r : Fin 32) (v : W64) : State :=
  if r = 0 then s
  else
    let h := s.helper
    absorb (s.setHelper { h with x := h.x.set r v }) s.hrole (6 * 8192 + r.val) (bytesOf 8 v.toNat) 0

/-- A CSR of the core enters the fingerprint (R387). -/
def absorbH (s : State) (n : Nat) (v : W64) : State := absorb s s.hrole (7 * 8192 + n) (bytesOf 8 v.toNat) 0

/-! ## Traps -/

/-- The core's ENGINE interrupt is pending and enabled (R340). -/
def Helper.irq (h : Helper) : Bool :=
  h.frecs != [] && h.csr.mie.getLsbD 16 && (!h.mmode || h.csr.mstatus.getLsbD 3)

/-- `mstatus` at trap entry: MPIE, MIE and MPP. -/
def trapStatus (x : W64) (mmode : Bool) : W64 :=
  (x &&& ~~~0x1888) ||| (if x.getLsbD 3 then 0x80 else 0) ||| (if mmode then 0x1800 else 0)

def trapTarget (mtvec : W64) (irq : Bool) (code : Nat) : W64 :=
  (mtvec &&& ~~~3) + (if irq ∧ mtvec.getLsbD 0 then .ofNat 64 (4 * code) else 0)

/-- Trap entry of the core in focus: into M mode at `mtvec`. -/
def hTrap (s : State) (irq : Bool) (code : Nat) (tval : W64) : State :=
  let h := s.helper
  let cs := { h.csr with
    mepc := h.pc, mtval := tval, mstatus := trapStatus h.csr.mstatus h.mmode
    mcause := .ofNat 64 (code + (if irq then 2 ^ 63 else 0)) }
  let s := s.setHelper { h with csr := cs, mmode := true, waiting := false, stall := none, denial := none
                                pc := trapTarget cs.mtvec irq code }
  absorbH (absorbH (absorbH (absorbH s 0x300 cs.mstatus) 0x341 cs.mepc) 0x342 cs.mcause) 0x343 cs.mtval

/-- Exception codes of the RISC-V standard, as R338 and R381 name them. -/
def exFetch : Nat := 1
def exIllegal : Nat := 2
def exBreak : Nat := 3
def exLoadMis : Nat := 4
def exLoad : Nat := 5
def exStoreMis : Nat := 6
def exStore : Nat := 7
def exLoadPage : Nat := 13
def exStorePage : Nat := 15
def exHard : Nat := 19

/-- What an instruction of a helper core comes to. -/
inductive HRes
  | go (s : State) (pc : W64)
  | trap (s : State) (code : Nat) (tval : W64)
  | wait (s : State)
  | stay (s : State)

/-- The core freezes for the debugger (R378). -/
def hFreeze (s : State) (hit : Bool) : State :=
  let h := s.helper
  s.setHelper { h with dbg := { h.dbg with halted := true, pending := false, step := false, brkHit := hit } }

/-- A single step ends (R379). -/
def hStep (s : State) : State := if s.helper.dbg.step then hFreeze s false else s

/-- The instruction retires (R387, R395). -/
def hRetire (s : State) (pc : W64) : State :=
  let h := s.helper
  let s := s.setHelper { h with
    pc := pc, retired := h.retired + 1, waiting := false, stall := none, denial := none, slow := false, outside := none
    csr := { h.csr with minstret := h.csr.minstret + 1 } }
  countBundle s s.hrole (h.retired + 1)

def hFinish (r : HRes) : Out3 :=
  match r with
  | .go s pc => .next (hStep (hRetire s pc))
  | .trap s code tval => .next (hStep (hTrap s false code tval))
  | .wait s => .next (hStep (s.setHelper { s.helper with waiting := true }))
  | .stay s => .next s

/-- The next instruction follows. -/
def hNext (s : State) : HRes := .go s (s.helper.pc + 4)

/-- Write `rd` and go on. -/
def hPut (s : State) (rd : Fin 32) (v : W64) : HRes := hNext (putR s rd v)

/-! ## Accesses (R338) -/

def iBase : Nat := 0xFFF0000000000000
def dBase : Nat := 0xFFF1000000000000

/-- Where an access of a helper core goes. -/
inductive HChk
  | istore (off : Nat)
  | dstore (off : Nat)
  | mem (s : State) (ps : List Piece)
  | trap (s : State) (code : Nat)
  | stall (s : State)

/-- The space of the core's accesses: the U test applies its own privilege mode, M mode as S mode, whatever MPRV holds (R328). -/
def State.hspace (s : State) : Space :=
  match s.ctx? s.t.vt 0 with
  | some c => ⟨s.g.vf, c.ptroot, c.asid, s.helper.mmode⟩
  | none => ⟨s.g.vf, 0, 0, s.helper.mmode⟩

def hTlb (s : State) : Tlb := if s.storer then .str else .ldr

def pageCode (st : Bool) : Nat := if st then exStorePage else exLoadPage
def accCode (st : Bool) : Nat := if st then exStore else exLoad

/-- A global access, which lies in one page: a stage-2 fault places a page request and stalls the core, which takes the denial
when it comes (R332, R338). -/
def hGlob (s : State) (a n : Nat) (k : AKind) (st : Bool) : HChk :=
  match translate s s.t.vt (hTlb s) s.hspace k a with
  | .ok s pa key => if s.m.paExists pa then .mem s [⟨.glob pa, n, key⟩] else .trap s (accCode st)
  | .fault s => .trap s (pageCode st)
  | .poison s => .trap s exHard
  | .access s => .trap s (accCode st)
  | .miss s gpa w =>
    let h := s.helper
    let asid := match s.ctx? s.t.vt 0 with | some c => c.asid | none => 0
    let (m, b) := placeReq s.m s.g.vf
      { tag := 0, kind := k.reqCode, s1walk := w, stage1 := false, va := .ofNat 64 a, gpa := gpa
        vt := s.t.vt, role := s.hrole, asid := asid }
    let s := { s with m := m }
    .stall (s.setHelper { h with
      stall := match b with | .page t => some t | _ => none
      denial := some ⟨.ofNat 64 a, gpa, w, k.cause, h.pc, s.hspace.smode, false⟩ })

/-- The checks of an access of `n` bytes. -/
def hCheck (s : State) (ea : W64) (n : Nat) (st : Bool) : HChk :=
  let a := ea.toNat
  let k : AKind := if st then .store else .load
  let w : WKind := if st then .store false else .load
  if a % n ≠ 0 then .trap s (if st then exStoreMis else exLoadMis)
  else if iBase ≤ a ∧ a < iBase + 0x8000 then (if st then .trap s exStore else .istore (a - iBase))
  else if dBase ≤ a ∧ a < dBase + 0x4000 then .dstore (a - dBase)
  else
    match regionOf a with
    | .glob => hGlob s a n k st
    | .bad => .trap s (accCode st)
    | _ =>
      match engRange s s.t.vt (hTlb s) s.hspace k w true ea n with
      | .ok s ps => .mem s ps
      | .err s _ _ => .trap s (accCode st)

/-- Numbers of the error marks of the four helper stores in `Tile.bad`, beside the SRC codes of R362. -/
def srcHelper (storer data : Bool) : Nat := 8 + 2 * storer.toNat + data.toNat

/-- The denial of its page request that the core in focus takes at its instruction (R332, R338). -/
def hDenial (s : State) : Option (Nat × W64) :=
  match s.helper.denial with
  | some d => if d.denied then some (pageCode (d.cause == .storeFault), d.va) else none
  | none => none

/-- The core's posted stores that an access overlaps come first (R285, R295). -/
def hSettle (s : State) (ps : List Piece) : State :=
  let (now, later) := splitPosts (fun p => ps.any p.piece.overlaps) s.helper.posted
  if now = [] then s else now.foldl (performPost s.t.vt) (s.setHelper { s.helper with posted := later })

/-- A hardware error at `a`; in a repeatable superstep it starts the rollback instead (R381, R392). -/
def hHard (s : State) (a : W64) : HRes :=
  if repeatableAt s s.t.vt then .wait (askRollbackAt s s.t.vt) else .trap s exHard a

/-- Load `n` bytes at `ea` and go on with them. -/
def hLoad (s : State) (ea : W64) (n : Nat) (k : State → Nat → HRes) : HRes :=
  let h := s.helper
  let own (m : Memory) (data : Bool) (off : Nat) : HRes :=
    if s.t.badRange (srcHelper s.storer data) off n then hHard s ea
    else k (repairMarks s s.t.vt (srcHelper s.storer data) (unitsOf 8 off n)) (natOf (m.read off n))
  match hCheck s ea n false with
  | .istore off => own h.istore false off
  | .dstore off => own h.dstore true off
  | .trap s c => .trap s c ea
  | .stall s => .wait s
  | .mem s ps =>
    match lashInbound s s.t.vt ps with
    | some s => .wait s
    | none =>
      if engHeld s s.t.vt s.hrole ps then
        match engSummon s s.t.vt s.hrole ps with
        | some s => .wait s
        | none => .wait s
      else
        let s := hSettle s ps
        match agentRead s s.t ps with
        | none => hHard s ea
        | some (s, bs) => k s (natOf bs)

/-- The core in focus stands in for the focused context as a sender, with its own posted stores, and the context comes back. -/
def asSender (s : State) : State :=
  let h := s.helper
  { s with c := { s.c with id := s.hrole, posted := h.posted, slow := h.slow, outside := h.outside } }
def asBefore (s : State) (c : Ctx) : State :=
  let s' := s.setHelper { s.helper with posted := s.c.posted }
  { s' with c := { s'.c with id := c.id, posted := c.posted, slow := c.slow, outside := c.outside } }

/-- The write commits: its page becomes dirty, by a walk where the cached entry has D = 0 (R328, R330). -/
def hDirty (s : State) (ea : W64) (n : Nat) (ps : List Piece) : HChk :=
  if 2 ^ 56 ≤ ea.toNat then .mem s ps else hGlob s ea.toNat n .dirty true

/-- Store bytes at `ea` (R338, R391): a held-store buffer or a class that does not take it is a store access fault. -/
def hStore (s : State) (ea : W64) (bs : List Byte) (k : State → HRes) : HRes :=
  let n := bs.length
  match hCheck s ea n true with
  | .istore _ => .trap s exStore ea
  | .dstore off =>
    let h := s.helper
    k (absorbOut ((s.setHelper { h with dstore := h.dstore.write off bs }).mapTile s.t.vt fun t =>
      t.heal (srcHelper s.storer true) off n) (dBase + off) bs)
  | .trap s c => .trap s c ea
  | .stall s => .wait s
  | .mem s ps =>
    let own := isOwn ea
    let c := s.c
    match storeGate (asSender (hSettle s ps)) ea own [(0, bs)] ps .done with
    | .done s =>
      match hDirty (asBefore s c) ea n ps with
      | .mem s ps => k (asBefore (storePieces (asSender s) own [(0, bs)] ps 0) c)
      | .trap s z => .trap s z ea
      | .stall s => .wait s
      | _ => .wait s
    | .trap s _ _ _ => .trap (asBefore s c) exStore ea
    | .wait s _ => .wait (asBefore s c)
    | _ => .wait s

/-- The agent outside scope `sc` that the schedule names for the core's next ordering (R289, log 7). -/
def hAway (s : State) (sc : Nat) : Option Agent := s.helper.outside.filter fun x => !inScope s.g s.t.vt s.hrole sc x

/-- The core's earlier stores are performed, or it waits, as a release of scope `sc` or a FENCE needs it (R288, R292, R295); those that
a named agent outside the scope accesses are left out (R289, log 7). -/
def hRelease (s : State) (sc : Nat) (k : State → HRes) : HRes :=
  let away := hAway s sc
  let l := splitPosts (fun p => !s.drops away [p.piece]) s.helper.posted
  let s := l.1.foldl (performPost s.t.vt) (s.setHelper { s.helper with posted := l.2 })
  let free (m : Msg) : Bool := s.drops away (m.body.writes.map fun w => ⟨.tile m.dst w.1, w.2.length, 0⟩)
  if (s.storesOf s.t.vt s.hrole).all free && (s.g.belay != 0 || away.isSome || !s.t.gatesGlob s.hrole) then k s
  else .wait (if s.t.lash.gated = [] then s else { s with t := { s.t with lash := { s.t.lash with due := true } } })

/-! ## CSRs (R340) -/

/-- `mstatus` as read: UXL is 64. -/
def hStatus (x : W64) : W64 := x ||| 0x200000000

def hMisa : W64 := 0x8000000000901100

/-- The CSRs of a core, and what they read; none for a number that names none. -/
def hCsr (s : State) (n : Nat) : Option W64 :=
  let h := s.helper
  match n with
  | 0x300 => some (hStatus h.csr.mstatus)
  | 0x301 => some hMisa
  | 0x304 => some h.csr.mie
  | 0x305 => some h.csr.mtvec
  | 0x306 => some 0
  | 0x30A => some 0
  | 0x320 => some 0
  | 0x340 => some h.csr.mscratch
  | 0x341 => some h.csr.mepc
  | 0x342 => some h.csr.mcause
  | 0x343 => some h.csr.mtval
  | 0x344 => some (if h.frecs = [] then 0 else 0x10000)
  | 0x860 => some (efaultWord h.frecs)
  | 0x861 => some (match h.frecs with | r :: _ => r.fva | [] => 0)
  | 0x862 => some (match h.frecs with | r :: _ => r.fmask | [] => 0)
  | 0xB00 => some (h.csr.mcycle + .ofNat 64 s.m.cycle)
  | 0xB02 => some h.csr.minstret
  | n =>
    if 0x863 ≤ n ∧ n < 0x86A then some (h.cnt.toList.getD (n - 0x863) 0)
    else if (0x323 ≤ n ∧ n < 0x340) ∨ (0xB03 ≤ n ∧ n < 0xB20) then some 0
    else if 0xF11 ≤ n ∧ n < 0xF16 then some (Config.helperCsr n)
    else none

/-- Write a CSR; `w1c` says whether the write gives a W1C bit as 1. -/
def hCsrWrite (s : State) (n : Nat) (v : W64) (w1c : Bool) : State :=
  let h := s.helper
  let put (f : MCsr → MCsr) : State := s.setHelper { h with csr := f h.csr }
  match n with
  | 0x300 =>
    put fun c => { c with mstatus := (v &&& 0x220088) ||| (if bits v.toNat 11 2 = 3 then 0x1800
      else if bits v.toNat 11 2 = 0 then 0 else c.mstatus &&& 0x1800) }
  | 0x304 => put fun c => { c with mie := v &&& 0x10000 }
  | 0x305 => put fun c => { c with mtvec := v &&& ~~~2 }
  | 0x340 => put fun c => { c with mscratch := v }
  | 0x341 => put fun c => { c with mepc := v &&& ~~~3 }
  | 0x342 => put fun c => { c with mcause := v }
  | 0x343 => put fun c => { c with mtval := v }
  | 0x860 => if w1c && v.getLsbD 63 then dropRecord s s.t.vt s.hrole else s
  | 0xB00 => put fun c => { c with mcycle := v - .ofNat 64 s.m.cycle }
  | 0xB02 => put fun c => { c with minstret := v }
  | n => if hn : 0x863 ≤ n ∧ n < 0x86A then s.setHelper { h with cnt := h.cnt.set (n - 0x863) v } else s

/-- A CSR instruction: `wr` says whether it writes, `f` what, from the old value. -/
def hCsrOp (s : State) (w : Nat) (n : Nat) (rd : Fin 32) (wr w1c : Bool) (f : W64 → W64) : HRes :=
  let bad : HRes := .trap s exIllegal (.ofNat 64 w)
  match hCsr s n with
  | none => bad
  | some old =>
    if (wr ∧ n / 1024 = 3) ∨ (n / 256 % 4 ≠ 0 ∧ !s.helper.mmode) then bad
    else
      let pc := s.helper.pc + 4
      let s := hRetire s pc
      let s := if wr then
          let s := hCsrWrite s n (f old) w1c
          absorbH s n ((hCsr s n).getD 0)
        else s
      .stay (hStep (putR s rd old))

/-! ## The base instruction set (R337) -/

/-- Bring a taken transfer to its target; one that is not 4-aligned is an exception. -/
def hJump (s : State) (target : W64) (k : State → State) : HRes :=
  if target.toNat % 4 ≠ 0 then .trap s 0 target else .go (k s) target

/-- MRET. -/
def hMret (s : State) : HRes :=
  let h := s.helper
  let x := h.csr.mstatus
  let m := bits x.toNat 11 2 == 3
  let x' := ((x &&& ~~~0x1888) ||| 0x80 ||| (if x.getLsbD 7 then 8 else 0)) &&& (if m then ~~~0 else ~~~0x20000)
  let s' := s.setHelper { h with mmode := m, csr := { h.csr with mstatus := x' } }
  .go (absorbH s' 0x300 (hStatus x')) h.csr.mepc

/-- SYSTEM words other than `ecall` and `ebreak`. -/
def hSystem (s : State) (w : Nat) (f3 : Nat) (rd r1 : Fin 32) : HRes :=
  let n := bits w 20 12
  let x := s.helper.get r1
  let im : W64 := .ofNat 64 r1.val
  let m := s.helper.mmode
  match f3 with
  | 0 =>
    if w = 0x30200073 ∧ m then hMret s
    else if w = 0x10500073 ∧ (m ∨ !s.helper.csr.mstatus.getLsbD 21) then hNext s
    else .trap s exIllegal (.ofNat 64 w)
  | 1 => hCsrOp s w n rd true true fun _ => x
  | 2 => hCsrOp s w n rd (r1 != 0) (x.getLsbD 63) fun o => o ||| x
  | 3 => hCsrOp s w n rd (r1 != 0) false fun o => o &&& ~~~x
  | 5 => hCsrOp s w n rd true true fun _ => im
  | 6 => hCsrOp s w n rd (r1 != 0) false fun o => o ||| im
  | 7 => hCsrOp s w n rd (r1 != 0) false fun o => o &&& ~~~im
  | _ => .trap s exIllegal (.ofNat 64 w)

/-- One RV64IM or Zicsr instruction of the core in focus; any other word is an illegal instruction. -/
def rvExec (s : State) (w : Nat) : HRes :=
  let h := s.helper
  let rd := Fin.ofNat 32 (bits w 7 5)
  let r1 := Fin.ofNat 32 (bits w 15 5)
  let a := h.get r1
  let b := h.get (Fin.ofNat 32 (bits w 20 5))
  let f3 := bits w 12 3
  let f7 := bits w 25 7
  let ill : HRes := .trap s exIllegal (.ofNat 64 w)
  match bits w 0 7 with
  | 0x37 => hPut s rd (rvU w)
  | 0x17 => hPut s rd (h.pc + rvU w)
  | 0x6F => hJump s (h.pc + rvJ w) fun s => putR s rd (h.pc + 4)
  | 0x67 => if f3 = 0 then hJump s ((a + rvI w) &&& ~~~1) fun s => putR s rd (h.pc + 4) else ill
  | 0x63 =>
    match rvCond f3 a b with
    | some true => hJump s (h.pc + rvB w) id
    | some false => hNext s
    | none => ill
  | 0x03 =>
    if f3 = 7 then ill
    else hLoad s (a + rvI w) (2 ^ (f3 % 4)) fun s x =>
      hPut s rd (if f3 < 4 then sext64 (8 * 2 ^ f3) x else .ofNat 64 x)
  | 0x23 => if 3 < f3 then ill else hStore s (a + rvS w) (bytesOf (2 ^ f3) b.toNat) hNext
  | 0x13 =>
    if f3 = 1 ∧ f7 / 2 ≠ 0 then ill
    else if f3 = 5 ∧ f7 / 2 ≠ 0 ∧ f7 / 2 ≠ 0x10 then ill
    else hPut s rd (rvAlu f3 (f3 == 5 && f7 / 2 == 0x10) a (rvI w))
  | 0x1B =>
    if f3 = 0 ∨ (f3 = 1 ∧ f7 = 0) ∨ (f3 = 5 ∧ (f7 = 0 ∨ f7 = 0x20)) then
      hPut s rd (rvAluW f3 (f3 == 5 && f7 == 0x20) a (rvI w))
    else ill
  | 0x33 =>
    if f7 = 1 then hPut s rd (rvMul f3 a b)
    else if f7 = 0 ∨ (f7 = 0x20 ∧ (f3 = 0 ∨ f3 = 5)) then hPut s rd (rvAlu f3 (f7 == 0x20) a b)
    else ill
  | 0x3B =>
    if f7 = 1 ∧ (f3 = 0 ∨ 4 ≤ f3) then hPut s rd (rvMulW f3 a b)
    else if (f7 = 0 ∧ (f3 = 0 ∨ f3 = 1 ∨ f3 = 5)) ∨ (f7 = 0x20 ∧ (f3 = 0 ∨ f3 = 5)) then
      hPut s rd (rvAluW f3 (f7 == 0x20) a b)
    else ill
  | 0x0F =>
    -- FENCE, at scope SCOPECAP (R295): its loads are performed in order, its stores where its predecessors hold writes
    if f3 ≠ 0 then ill
    else if bits w 24 1 + bits w 26 1 ≠ 0 ∧ bits w 20 4 ≠ 0 then hRelease s s.vf.scopeCap hNext else hNext s
  | 0x73 => hSystem s w f3 rd r1
  | _ => ill

def execRv64imInstruction (w : BitVec 32) (s : State) : Out3 := hFinish (rvExec s w.toNat)

/-! ## Stopping (R339, R344, R356) -/

/-- The core in focus stops: its partly assembled commands and its fault records are dropped. -/
def stopHelper (s : State) : State :=
  let h := s.helper
  let mine (a : Asm) := a.agent == s.hrole
  let n := (s.t.asm.filter mine).length
  let s := State.tally { s with t := { s.t.resume h.frecs with asm := s.t.asm.filter fun a => !mine a } } s.t.vt
    { cmdDrop := n, recDrop := h.frecs.length }
  let s := s.setHelper { s.helper with stopped := true, waiting := false, frecs := [], posted := [] }
  h.posted.foldl (performPost s.t.vt) s

def execEcall (s : State) : Out3 :=
  hFinish <|
    let h := s.helper
    if !h.mmode ∧ h.x[(17 : Fin 32)] = 0 then .stay (stopHelper (hRetire s (h.pc + 4)))
    else .trap s (if h.mmode then 11 else 8) 0

/-- A breakpoint: under BRKHALT the core freezes at it (R380). -/
def execEbreak (s : State) : Out3 :=
  hFinish <| if s.helper.dbg.brkHalt then .stay (hFreeze s true) else .trap s exBreak s.helper.pc

/-! ## The Xdk members (R341 to R343) -/

/-- Who submits the commands of the core in focus (R324, R353). -/
def hSubmitter (s : State) : Cmd :=
  let sp := s.hspace
  { beats := [], agent := s.hrole, seq := 0, ptroot := sp.root, asid := sp.asid, smode := s.helper.mmode }

def execDkEcmd (q : Fin 7) (r1 r2 : Fin 32) (s : State) : Out3 :=
  hFinish <|
    let lo := s.helper.get r1
    let push (s : State) : HRes := hNext (pushBeat s s.hrole q.val lo (s.helper.get r2) none (hSubmitter s))
    match s.t.lastBeat s.hrole q.val lo with
    | none => push s
    | some n =>
      if s.t.freeSlots q.val < n then .wait s
      else if bits (s.t.hdrOf s.hrole q.val lo) 48 1 = 1 then hRelease s 7 push
      else push s

def execDkQput (c p : Fin 4) (r1 : Fin 32) (s : State) : Out3 :=
  hFinish <|
    match s.ctx? s.t.vt c.val with
    | none => .wait s
    | some x =>
      if streamCap ≤ (x.stream p.val).length then .wait s
      else
        let v := s.helper.get r1
        hRelease s 1 fun s => hNext (s.mapCtx s.t.vt c.val fun x => x.setStream p.val (x.stream p.val ++ [v]))

def execDkQget (c : Fin 4) (rd : Fin 32) (s : State) : Out3 :=
  hFinish <|
    match s.ctx? s.t.vt c.val with
    | none => .wait s
    | some x =>
      match x.qout with
      | [] => .wait s
      | v :: _ => hPut (s.mapCtx s.t.vt c.val fun x => { x with qout := x.qout.drop 1 }) rd v

def execDkWcnt (n : Fin 7) (r1 rd : Fin 32) (s : State) : Out3 :=
  hFinish <|
    let v := s.helper.cnt[n]
    if v.toNat < (s.helper.get r1).toNat then .wait s else hPut s rd v

def execDkSev (s : State) : Out3 := hFinish (hNext (setEvents s))

def execDkWfe (s : State) : Out3 :=
  hFinish <| if s.helper.evt then hNext (s.setHelper { s.helper with evt := false }) else .wait s

def execDkWfeWatch (r1 : Fin 32) (s : State) : Out3 :=
  hFinish <|
    let a := s.helper.get r1
    if isOwn a then hNext (s.setHelper { s.helper with watch := some ((a.toNat - spBase) / 64) })
    else .trap s exLoad a

/-- Context `c` of the focused tile, as R343 reports it. -/
def tagBits (s : State) (p : Ctx → Bool) : Nat :=
  ((List.range 4).map fun i => (match s.ctx? s.t.vt i with | some c => (p c).toNat | none => 0) * 2 ^ i).sum

def Ctx.blocked (c : Ctx) : Bool := match c.run with | .blocked _ => true | _ => false

def ctxUnits (s : State) (i : Nat) : Nat :=
  match s.ctx? s.t.vt i with
  | none => 0
  | some c => ((List.range 4).map fun q => (c.stream q).length * 2 ^ (8 * q)).sum + (streamCap - c.qout.length) * 2 ^ 32

/-- The status words of R343. -/
def statusWordOf (s : State) (n : RdSel) : Nat :=
  match n with
  | .tags => tagBits s Ctx.started + 2 ^ 4 * tagBits s (fun c => c.run == .ended) + 2 ^ 8 * tagBits s Ctx.blocked
  | .wq => s.t.wqstat
  | .slots => ((List.range 7).map fun q => s.t.freeSlots q * 2 ^ (8 * q)).sum
  | .ctx0 => ctxUnits s 0
  | .ctx1 => ctxUnits s 1
  | .ctx2 => ctxUnits s 2
  | .ctx3 => ctxUnits s 3

def execDkRdst (n : RdSel) (rd : Fin 32) (s : State) : Out3 := hFinish (hPut s rd (.ofNat 64 (statusWordOf s n)))

/-- The dwords of a record image: in the data store, or in the own scratchpad. -/
def hImage (s : State) (a : W64) (n : Nat) (k : State → List W64 → HRes) : HRes :=
  let i := a.toNat
  if i % 8 ≠ 0 then .trap s exLoad a
  else if dBase ≤ i ∧ i + 8 * n ≤ dBase + 0x4000 then
    if s.t.badRange (srcHelper s.storer true) (i - dBase) (8 * n) then hHard s a
    else
      k (repairMarks s s.t.vt (srcHelper s.storer true) (unitsOf 8 (i - dBase) (8 * n)))
        (bytesUnits (s.helper.dstore.read (i - dBase) (8 * n)))
  else if spBase ≤ i ∧ i + 8 * n ≤ spBase + spSize then
    let p : Piece := ⟨.tile s.t.vt (i - spBase), 8 * n, 0⟩
    if (s.msgsOf s.t.vt s.hrole).any (·.touches [p]) then .wait s
    else if s.t.badRange srcSp (i - spBase) (8 * n) then hHard s a
    else
      let s := correctPiece (hSettle s [p]) p
      k s (bytesUnits (s.t.sp.read (i - spBase) (8 * n)))
  else .trap s exLoad a

def execDkWput (r1 r2 : Fin 32) (s : State) : Out3 :=
  hFinish <|
    let rt := s.helper.get r1
    let d := s.g.cls (routeCls rt)
    if !d.decl || !s.g.has (routeDst rt) then .trap s exStore rt
    else
      hImage s (s.helper.get r2) (d.words + 1) fun s l =>
        if 8 ≤ niCount s.t || !parkRoom s.g (routeDst rt) (.record ⟨routeCls rt, l.headD 0, l.drop 1⟩) then .wait s
        else
          let c := s.c
          hNext (asBefore (niTake (asSender s) (routeDst rt) ⟨routeCls rt, l.headD 0, l.drop 1⟩) c)

/-! ## Interrupts and the core's turn -/

/-- The helper core `storer` of tile `vt` comes into focus. -/
def focusHelper (s : State) (vt : Nat) (storer : Bool) : State :=
  let s := match s.tile? vt with
    | none => s
    | some t => match (s.ctxsOf t).head? with
      | some c => if s.t.vt = vt then s else s.focus vt c.id
      | none => s
  { s with storer := storer }

/-- The core may execute: it runs, its tile goes on, and no page request holds it (R338, R339, R369, R378). -/
def Helper.runs (h : Helper) (s : State) (t : Tile) : Bool :=
  h.started && !h.stopped && !h.dbg.halted && !s.g.parks t.vt && !s.g.still t.vt && !t.lashStop
    && (match h.stall with
        | some tag => !(s.vf.reqs.any fun r => r.tag.toNat == tag)
        | none => true)

/-- Take the ENGINE interrupt of the core in focus (R340); the log names it (R395). -/
def hInterrupt (s : State) : State :=
  let s := logEvent s s.t.vt 9 s.hrole s.helper.retired 0x8000000000000010
  hStep (hTrap s true 16 0)

/-- A request that a waiting core has placed does not hold its interrupt. -/
def execHelperEngineInterrupt (vt r : Nat) (s : State) : Out3 :=
  event "HELPER_ENGINE_INTERRUPT" <|
    match s.tile? vt with
    | none => none
    | some t =>
      let h := if r = 5 then t.str else t.ldr
      if (r ≠ 4 ∧ r ≠ 5) || s.heldBack vt || !({ h with stall := none }.runs s t) || !h.irq then none
      else some (hInterrupt (focusHelper s vt (r == 5)))

end Sys2Proof.Machine
end

