-- ==== Sys2Proof/Machine/Debug.lean ====
section
/-! DEFINITION. The debugger's hold on a role (R377 to R380, R418). A role is 0 to 3 for a context, 4 for the loader core, 5
for the storer core. -/

namespace Sys2Proof.Machine

/-- The debug page can select the role: it is started, and its function is not protected (R418, R420). -/
def selectable (s : State) (vt r : Nat) : Bool :=
  !s.vf.prot && (match s.tile? vt with
    | none => false
    | some t =>
      if r < 4 then (match s.ctx? vt r with | some c => c.started | none => false)
      else if r = 4 then t.ldr.started else if r = 5 then t.str.started else false)

/-- The debug control of a role. -/
def State.dbg? (s : State) (vt r : Nat) : Option Dbg :=
  match s.tile? vt with
  | none => none
  | some t => if r < 4 then (s.ctx? vt r).map (·.dbg) else if r = 4 then some t.ldr.dbg else if r = 5 then some t.str.dbg else none

def State.mapDbg (s : State) (vt r : Nat) (f : Dbg → Dbg) : State :=
  if r < 4 then s.mapCtx vt r fun c => { c with dbg := f c.dbg }
  else s.mapTile vt fun t =>
    if r = 4 then { t with ldr := { t.ldr with dbg := f t.ldr.dbg } } else { t with str := { t.str with dbg := f t.str.dbg } }

/-- Run `f` with context `r` of tile `vt` in focus. -/
def withFocus (s : State) (vt r : Nat) (f : State → State) : State := (f (s.focus vt r)).focus s.t.vt s.c.id

/-- The role stands where it freezes at once (R378). -/
def standsStill (s : State) (vt r : Nat) : Bool :=
  !s.g.parks vt && (if r < 4 then (match s.ctx? vt r with | some c => c.atBoundary | none => false) else true)

/-- A halt is requested (R378): the role freezes, or stays PENDING until its boundary or its gang's swap-in. -/
def haltRole (s : State) (vt r : Nat) : Option State :=
  match s.dbg? vt r with
  | none => none
  | some d =>
    if !selectable s vt r || d.halted then none
    else
      let s := s.mapTile vt fun t => if t.lash.role = 0 then t else { t with lash := { t.lash with due := true } }
      let now := standsStill s vt r
      some (s.mapDbg vt r fun d =>
        if now then { d with halted := true, pending := false, step := false } else { d with pending := true })

def execDebugHalt (vt r : Nat) (s : State) : Out3 := event "DEBUG_HALT" (haltRole s vt r)

/-- The word that a `brk` froze at is behind (R380). -/
def passBreak (s : State) (vt r : Nat) : State :=
  if r < 4 then withFocus s vt r retire
  else
    let s' := focusHelper s vt (r == 5)
    hRetire s' (s'.helper.pc + 4)

/-- A halted role goes on, for one unit or for good (R379): after its `brk` word if it stands at one, and with DEBUG
pending if NOTIFY asks for it. -/
def resumeRole (s : State) (vt r : Nat) (step : Bool) : Option State :=
  match s.dbg? vt r with
  | none => none
  | some d =>
    if !selectable s vt r || !d.halted then none
    else
      let s := if d.brkHit then passBreak s vt r else s
      let s := s.mapDbg vt r fun d => { d with halted := false, brkHit := false, step := step, notify := if r < 4 then false else d.notify }
      some (if r < 4 ∧ d.notify then s.mapCtx vt r fun c => { c with ipDebug := true } else s)

def execDebugResume (vt r : Nat) (s : State) : Out3 := event "DEBUG_RESUME" (resumeRole s vt r false)
def execDebugStep (vt r : Nat) (s : State) : Out3 := event "DEBUG_STEP" (resumeRole s vt r true)

/-- A write of the pc with the resume flag in bit 0. DESIGN CHOICE (log 37): a pending transfer of the context stays, where R418 is
silent, so it is applied after the next A word that the context runs, and dropped by a lone word that runs first (R49). -/
def Ctx.putPc (c : Ctx) (x : W64) : Ctx :=
  { c with pc := x &&& ~~~3, pos := if x.getLsbD 0 then .aWord else .unit, inPair := false
           run := if c.run = .ended then c.run else .ready }

/-- A debug-page write of a CSR of the focused context, with the rights of S mode. -/
def debugCsr (s : State) (n : Nat) (x : W64) : Option State :=
  let m := s.c.status.mode
  if !csrListed n then none
  else
    match csrWrite { s with c := { s.c with status := { s.c.status with mode := true } } } n x true .done with
    | .done s' => some { s' with c := { s'.c with status := { s'.c.status with mode := m } } }
    | _ => none

/-- A write of the debug page to a halted role (R418). -/
def writeRole (s : State) (vt r : Nat) (w : RoleWrite) : Option State :=
    match s.dbg? vt r with
    | none => none
    | some d =>
      if !selectable s vt r || !d.halted then none
      else if r < 4 then
        match w with
        | .pc x => some (s.mapCtx vt r fun c => c.putPc x)
        | .csr n x => (debugCsr (s.focus vt r) n.toNat x).map fun s' => s'.focus s.t.vt s.c.id
      else
        let s := focusHelper s vt (r == 5)
        match w with
        | .pc x => some (s.setHelper { s.helper with pc := x &&& ~~~3 })
        | .csr n x => if (hCsr s n.toNat).isSome then some (hCsrWrite s n.toNat x true) else none

def execDebugRoleWrite (vt r : Nat) (w : RoleWrite) (s : State) : Out3 := event "DEBUG_ROLE_WRITE" (writeRole s vt r w)

/-! ## The debug page's words of a role (R377, R418) -/

/-- DBGCTL as it reads. -/
def Dbg.word (d : Dbg) : W64 :=
  .ofNat 64 (d.brkHit.toNat + 2 * d.halted.toNat + 4 * d.pending.toNat + 64 * d.brkHalt.toNat + 128 * d.notify.toNat)

/-- A write of DBGCTL: BRKHALT and NOTIFY, then HALT, or RESUME, or STEP, each where it is given as 1. With HALT also 1, RESUME and
STEP are ignored; with RESUME also 1, so is STEP (log 37). -/
def writeCtl (s : State) (vt r : Nat) (x : W64) : State :=
  let s := s.mapDbg vt r fun d => { d with brkHalt := x.getLsbD 6, notify := x.getLsbD 7 }
  (if x.getLsbD 3 then haltRole s vt r
   else if x.getLsbD 4 then resumeRole s vt r false
   else if x.getLsbD 5 then resumeRole s vt r true
   else none).getD s

/-- pc and resume flag of a role. DESIGN CHOICE (log 37): of one that is not halted, as they stand (R418). -/
def pcWord (s : State) (vt r : Nat) : W64 :=
  if r < 4 then (match s.ctx? vt r with | some c => c.pc + (if c.pos = .aWord then 1 else 0) | none => 0)
  else (focusHelper s vt (r == 5)).helper.pc

/-- CSR `n` of a role; one that the role does not have reads 0 (log 37). DESIGN CHOICE (log 37): of a role that is not halted, as it
stands (R418). -/
def csrWord (s : State) (vt r n : Nat) : W64 :=
  if r < 4 then (if csrListed n then csrRead (s.focus vt r) n else 0)
  else (hCsr (focusHelper s vt (r == 5)) n).getD 0

/-- An entry of a reissue list as two words: the address, and the register code of its destination, its size and its state
(log 37). -/
def Access.words (a : Access) : W64 × W64 :=
  (a.va, .ofNat 64 (1 + 2 * a.performed.toNat + 16 * a.size + 2 ^ 16 * a.kind.dests.headD 0))

/-- Word `i` of the 16 entries of the reissue list of a role. -/
def reissueWord (s : State) (vt r i : Nat) : W64 :=
  match s.ctx? vt r with
  | some c => if r < 4 then ((c.accs.flatMap fun a => [a.words.1, a.words.2]).getD i 0) else 0
  | none => 0

end Sys2Proof.Machine
end

