-- ==== Sys2Proof/Machine/Guest.lean ====
section
/-! DEFINITION. Memory as the host's side of the module reaches it: guest-physical addresses of a function (R406, R409,
R415), and virtual addresses of a launch (R412); what applies to every grid of a function. -/

namespace Sys2Proof.Machine

/-- The parts of a range, each in one 64 KiB page. -/
def pageParts (a n : Nat) : List (Nat × Nat) := cutRange 65536 (n + 1) a n

def S2.keyOf (x : S2) : Nat := match x.key with | some q => x.m.keyId q | none => 0

/-! ### Pages that a migration has still to pull (R435) -/

/-- The page of a leaf is copied into the next pool page, decrypted at its source and encrypted under the leaf's key, and the
leaf names the copy. -/
def pullPage (m : Module) (v : Nat) (l : Leaf) : Module :=
  let g := (m.vfs.toList.getD v {}).mig
  let src := pteAddr l.pte
  let dst := g.poolBase.toNat
  let key := m.keyId (pteKey l.pte)
  let bad := m.badMem.filterMap fun k => if src ≤ 64 * k ∧ 64 * k < src + 65536 then some (k - src / 64 + dst / 64) else none
  let m := m.writeGlob key dst (m.mem.read src 65536)
  let m := { m with badMem := bad ++ m.badMem }
  let m := m.writeGlob 0 l.pa (bytesOf 8 (l.pte - bits l.pte 16 36 * 2 ^ 16 + dst / 65536 % 2 ^ 36 * 2 ^ 16))
  m.mapVf v fun f => { f with mig := { f.mig with poolBase := f.mig.poolBase + 65536, poolN := f.mig.poolN - 1 } }

/-- The leaf names the slot that the function's migration pulls from. -/
def Leaf2.from_ (l : Leaf2) (g : Mig) : Bool := paModule (pteAddr l.leaf.pte) == some g.src.toNat

/-- Leaves that still name the source slot. -/
def leavesLeft (m : Module) (v : Nat) : List Leaf2 :=
  let g := (m.vfs.toList.getD v {}).mig
  (leavesOf m v).filter fun l => l.from_ g

/-- The migration is done when no leaf names its source (R435). -/
def Module.settleMig (m : Module) (v : Nat) : Module :=
  if (m.vfs.toList.getD v {}).mig.st = 1 ∧ (leavesLeft m v).isEmpty then m.mapVf v fun f => { f with mig := { f.mig with st := 2 } }
  else m

/-- The module after the pull, if one is needed, of the page that `gpa` lies in: a walk that reaches it waits for the pull. Where the
pool is exhausted `pullWait` marks it: what makes the access has not happened yet, and waits for a write of POOLPAGES. -/
def pulled (m : Module) (v gpa : Nat) : Module :=
  match pullLeaf m v gpa with
  | some l => if (m.vfs.toList.getD v {}).mig.poolN = 0 then { m with pullWait := true } else (pullPage m v l).settleMig v
  | none => m

/-- What has been done without a page that the pool lacks. -/
def ifPulled (s : State) : Option State := if s.m.pullWait then none else some s

/-- A stage-1 walk whose pages are pulled as it reaches them. -/
def walkPulled (sp : Space) (k : AKind) (va : Nat) : Nat → Module → Tl
  | 0, m => walk1 sp k va levels (sp.root.toNat * 2 ^ 11) m
  | n + 1, m =>
    match walk1 sp k va levels (sp.root.toNat * 2 ^ 11) m with
    | .miss m g w => if (pullLeaf m sp.vf g).isSome then walkPulled sp k va n (pulled m sp.vf g) else .miss m g w
    | r => r

/-! ### Accesses -/

/-- Stands for `n` bytes of a page that the pool lacks: what reads them has not happened (R435). -/
def waitBytes (n : Nat) : List Byte := List.replicate n 0

/-- Read guest-physical memory of function `v`; none when a part cannot be read. -/
def gpaRead (v : Nat) : List (Nat × Nat) → Module → List Byte → Option (Module × List Byte)
  | [], m, bs => some (m, bs)
  | (a, n) :: r, m, bs =>
    if (pulled m v a).pullWait then gpaRead v r (pulled m v a) (bs ++ waitBytes n)
    else
      match stage2 (pulled m v a) v a true false false false with
      | .fault => none
      | .access => none
      | .ok x =>
        if x.poison || !x.m.paExists x.pa || x.m.badRange x.pa n then none
        else gpaRead v r (x.m.correctRange x.pa n) (bs ++ x.m.readGlob x.keyOf x.pa n)

/-- Write guest-physical memory of function `v`; a part that is not mapped for writing is left out (log 13). -/
def gpaWrite (v : Nat) : List (Nat × Nat) → Module → List Byte → Module
  | [], m, _ => m
  | (a, n) :: r, m, bs =>
    let m := pulled m v a
    let m := match stage2 m v a false true false true with
      | .fault => m
      | .access => m
      | .ok x => if x.poison || !x.m.paExists x.pa then x.m else x.m.writeGlob x.keyOf x.pa (bs.take n)
    gpaWrite v r m (bs.drop n)

/-- The module after a walk. -/
def Tl.mod : Tl → Module
  | .ok m _ => m
  | .fault m => m
  | .poison m => m
  | .access m => m
  | .miss m _ _ => m

/-- Read memory of a launch's stage-1 space, with the rights of S mode; none when a part cannot be read (log 13). -/
def vaRead (sp : Space) : List (Nat × Nat) → Module → List Byte → Option (Module × List Byte)
  | [], m, bs => some (m, bs)
  | (a, n) :: r, m, bs =>
    let x := walkPulled sp .load a 8 m
    if m.pullWait then some (m, bs ++ waitBytes (n + (r.map (·.2)).sum))
    else if 2 ^ 56 ≤ a ∨ inRuntime a then none
    else if x.mod.pullWait then vaRead sp r x.mod (bs ++ waitBytes n)
    else
      match x with
      | .ok m e =>
        let pa := e.pa + (a - e.base)
        if !m.paExists pa || m.badRange pa n then none
        else vaRead sp r (m.correctRange pa n) (bs ++ m.readGlob (m.keyId e.key.toNat) pa n)
      | _ => none

/-- Write memory of a launch's stage-1 space, whose pages become dirty (R330); a part that is not mapped is left out. -/
def vaWrite (sp : Space) : List (Nat × Nat) → Module → List Byte → Module
  | [], m, _ => m
  | (a, n) :: r, m, bs =>
    let m := if 2 ^ 56 ≤ a ∨ inRuntime a then m
      else
        match walkPulled sp .dirty a 8 m with
        | .ok m e =>
          let pa := e.pa + (a - e.base)
          if m.paExists pa then m.writeGlob (m.keyId e.key.toNat) pa (bs.take n) else m
        | .fault m => m
        | .poison m => m
        | .access m => m
        | .miss m _ _ => m
    vaWrite sp r m (bs.drop n)

/-- Dwords of a byte image. -/
def dwordsOf (bs : List Byte) : List W64 := bytesUnits bs
def dwordBytes (l : List W64) : List Byte := l.flatMap fun x => bytesOf 8 x.toNat

/-! ## Grids of a function -/

/-- Apply `f` with each live grid of function `v` in focus. -/
def forVf (v : Nat) (f : State → State) (s : State) : State :=
  let t := if s.g.live ∧ s.g.vf = v then f s else s
  ((List.range t.bg.length).foldl (fun s k =>
    match s.bg[k]? with
    | some b => if b.g.live && b.g.vf == v then swapGrid (mirrored f (swapGrid s k) (f (swapGrid s k))) k else s
    | none => s) t).focus s.t.vt s.c.id

/-- Grids that have ended leave the state; when the one in focus has, another comes into focus. -/
def dropDead (s : State) : State :=
  let s := { s with bg := s.bg.filter fun b => b.g.live }
  if s.g.live then s
  else
    match s.bg with
    | [] => { s with g := {}, t := {}, tiles := [], c := {}, storer := false }
    | b :: r =>
      match b.tiles with
      | t :: ts =>
        match t.others with
        | c :: cs => { s with bg := r, g := b.g, t := { t with others := cs }, tiles := ts, c := c, storer := false }
        | [] => { s with bg := r }
      | [] => { s with bg := r }

/-- Cached translations of function `v` that satisfy `p` leave every cache of the focused grid. -/
def flushTlbs (p : TlbE → Bool) (s : State) : State :=
  let keep (l : List TlbE) := l.filter fun e => !p e
  let s := s.mapTiles fun t =>
    { t with itlb := keep t.itlb, dtlb := keep t.dtlb, etlb := keep t.etlb
             ldr := { t.ldr with tlb := keep t.ldr.tlb }, str := { t.str with tlb := keep t.str.tlb } }
  { s with g := { s.g with ctlb := s.g.ctlb.filter fun x => !p x.2 } }

/-- Accesses that wait at a block are issued again. -/
def retryAccs (b : Block) (s : State) : State :=
  s.allCtxs.foldl (fun s x => if x.2.accs.any (·.page == some b) then reissueCtx (·.page == some b) s x.1 x.2.id else s) s

end Sys2Proof.Machine
end

