-- ==== Sys2Proof/Machine/Attach.lean ====
section
/-! DEFINITION. Launch queues, notifies and slots (R409 to R411), and fence
counters (R414). -/

namespace Sys2Proof.Machine

/-- Virtual function `v` exists and the host sees the device, which takes a CXL port that is up (R406, R442, R445). -/
def State.hasVf (s : State) (v : Nat) : Bool := v < 64 && s.m.power.isReady && s.m.cxlUp != 0

def State.vfAt (s : State) (v : Nat) : Vf := s.m.vfs.toList.getD v {}

/-! ## Launch queues -/

/-- The descriptor of queue `q`. -/
def Vf.queue (f : Vf) (q : Nat) : LQueue := (f.queues.find? (·.q == q)).getD { q := q }
def Vf.setQueue (f : Vf) (x : LQueue) : Vf := { f with queues := x :: f.queues.filter (·.q != x.q) }

/-- The queue is enabled: EN = 1, and LOG2 from 4 to 16 (R409). -/
def LQueue.on (x : LQueue) : Bool := x.en && 4 ≤ x.log2 && x.log2 ≤ 16
def LQueue.empty (x : LQueue) : Bool := x.head == x.tail

/-- The function takes launches: it is READY, and the home member of a joined set (R422, R433). -/
def State.takesLaunches (s : State) (v : Nat) : Bool :=
  let f := s.vfAt v
  f.st == .ready && (!f.joined || f.home == s.m.modId)

/-- The queue holds a slot. -/
def State.mapped (s : State) (v q : Nat) : Bool := s.m.slots.any fun x => x.v == v && x.q == q

/-- Pending enabled queues that hold no slot: function, queue, notify time. -/
def pendingQueues (s : State) : List (Nat × Nat × Nat) :=
  (List.range 64).flatMap fun v =>
    if s.takesLaunches v then
      (s.vfAt v).queues.filterMap fun x =>
        match x.notify with
        | some c => if x.on && !s.mapped v x.q then some (v, x.q, c) else none
        | none => none
    else []

/-- Before in notify order; at the same time the lower function, then the lower queue (log 17). -/
def notifiedBefore (a b : Nat × Nat × Nat) : Bool :=
  if a.2.2 != b.2.2 then a.2.2 < b.2.2 else if a.1 != b.1 then a.1 < b.1 else a.2.1 < b.2.1

def oldestPending (s : State) : Option (Nat × Nat × Nat) :=
  match pendingQueues s with
  | [] => none
  | a :: r => some (r.foldl (fun b x => if notifiedBefore x b then x else b) a)

/-- How long a slot is kept: the smallest QUANTUM among its own function and those with a pending enabled queue (R411). -/
def slotTime (s : State) (v : Nat) : Nat :=
  ((pendingQueues s).map fun x => (s.vfAt x.1).quantumCycles).foldl min (s.vfAt v).quantumCycles

def freeSlot (s : State) (n : Nat) : State := { s with m := { s.m with slots := s.m.slots.filter (·.n != n) } }

/-- Slots whose queue is empty and not pinned are released (R411). -/
def settleSlots (s : State) : State :=
  { s with m := { s.m with slots := s.m.slots.filter fun x =>
      let q := (s.vfAt x.v).queue x.q
      !q.empty || q.pin } }

def State.mapQueue (s : State) (v q : Nat) (f : LQueue → LQueue) : State :=
  s.mapVf v fun x => x.setQueue (f (x.queue q))

/-- A write of any value to the notify word of a queue (R410). -/
def execNotifyWrite (v q : Nat) (s : State) : Out3 :=
  if s.hasVf v && q < 64 then
    .next (s.mapQueue v q fun x => { x with notify := some (x.notify.getD s.m.cycle) })
  else off "NOTIFY_WRITE"

/-- Free slot `k` takes the pending queue with the oldest notify (R411). -/
def execSlotMapping (k : Nat) (s : State) : Out3 :=
  event "SLOT_MAPPING" <|
    if s.m.restart || !s.m.power.isReady || 256 ≤ k || s.m.slots.any (·.n == k) then none
    else
      match oldestPending s with
      | none => none
      | some (v, q, c) =>
        let late := (s.vfAt v).quantumCycles < s.m.cycle - c
        let s := s.mapVf v fun f => { f with starve := if late then satInc16 f.starve else f.starve }
        let s := s.mapQueue v q fun x => { x with notify := none }
        some (settleSlots { s with m := { s.m with slots := s.m.slots ++ [⟨k, v, q, s.m.cycle⟩] } })

/-- The slot has been held for the time of R411 while another queue is pending. -/
def slotOver (s : State) (x : LSlot) : Bool :=
  !s.m.restart && pendingQueues s != [] && x.since + slotTime s x.v ≤ s.m.cycle

/-- A pinned empty queue gives up slot `k` (R411). -/
def execPinExpiry (k : Nat) (s : State) : Out3 :=
  event "PIN_EXPIRY" <|
    match s.m.slots.find? (·.n == k) with
    | none => none
    | some x =>
      let q := (s.vfAt x.v).queue x.q
      if q.empty && q.pin && slotOver s x then some (freeSlot s k) else none

/-- The queue's record waits for its launch group (R434). -/
def State.inGroup (s : State) (v q : Nat) : Bool := s.m.groups.any fun x => x.v == v && x.q == q

/-- A queue that is not empty gives up slot `k`, and is pending from now on (R411). -/
def execSlotRotation (k : Nat) (s : State) : Out3 :=
  event "SLOT_ROTATION" <|
    match s.m.slots.find? (·.n == k) with
    | none => none
    | some x =>
      if (s.vfAt x.v).queue x.q |>.empty then none
      else if s.inGroup x.v x.q || !slotOver s x then none
      else some ((freeSlot s k).mapQueue x.v x.q fun y => { y with notify := some s.m.cycle })

/-! ## Fence counters (R414) -/

def Vf.setFence (f : Vf) (i : Nat) (x : W64) : Vf := if h : i < 256 then { f with fences := f.fences.set i x } else f
def Vf.fence (f : Vf) (i : Nat) : W64 := f.fences.toList.getD i 0

/-- The host writes a counter; launches that wait on it are examined again at their dispatch (R413, R414). -/
def execFenceCounterWrite (v i : Nat) (x : W64) (s : State) : Out3 :=
  if s.hasVf v && i < 256 then .next (s.mapVf v fun f => f.setFence i x) else off "FENCE_COUNTER_WRITE"

end Sys2Proof.Machine
end

