-- ==== Sys2Proof/Machine/Branch.lean ====
section
/-! DEFINITION. Branches and jumps (R135, R136, R49). -/

namespace Sys2Proof.Machine

/-- Target of a branch: the address of the branch word plus OFF18 words (R135). -/
def branchTarget (s : State) (off : BitVec 18) : W64 := s.c.pc + off.signExtend 64 * 4

def execBr (off : BitVec 18) (s : State) : Out3 :=
  finish s (.jump s (branchTarget s off))

def execCall (a : Fin 32) (off : BitVec 18) (s : State) : Out3 :=
  finish s <| dstX s a anyWord <| .jump (writeX s a s.c.link true) (branchTarget s off)

/-- A branch is taken or not. -/
def branchIf (s : State) (t : Bool) (off : BitVec 18) : Res := if t then .jump s (branchTarget s off) else .done s

def execBv (a : Fin 32) (off : BitVec 18) (s : State) : Out3 :=
  finish s <| examX s a fldA false {} fun _ v k => accept s k (branchIf s v off)
def execBnv (a : Fin 32) (off : BitVec 18) (s : State) : Out3 :=
  finish s <| examX s a fldA false {} fun _ v k => accept s k (branchIf s (!v) off)
def execBnz (a : Fin 32) (off : BitVec 18) (s : State) : Out3 :=
  finish s <| srcX s a fldA false {} fun x k => commit s k (branchIf s (x != 0) off)
def execBz (a : Fin 32) (off : BitVec 18) (s : State) : Out3 :=
  finish s <| srcX s a fldA false {} fun x k => commit s k (branchIf s (x == 0) off)

def execJr (d a : Fin 32) (wa : Bool) (imm : BitVec 14) (s : State) : Out3 :=
  finish s <| srcX s a fldA wa {} fun x k => commit s k <| dstX s d anyWord <|
    let t := x + imm.signExtend 64 * 4
    if t.toNat % 4 ≠ 0 then .trap s .misalign t 0 else .jump (writeX s d s.c.link true) t

end Sys2Proof.Machine
end

