-- ==== Sys2Proof/Machine/Launch.lean ====
section
/-! DEFINITION. Launch: the record (R412), its dispatch and checks (R413), the state of a new grid (R38, R339), domain launch
groups (R434), grid completion (R250) and completion records (R415). -/

namespace Sys2Proof.Machine

/-! ## The launch record (R412) -/

/-- Dword `i` of a record. -/
def dwN (r : List W64) (i : Nat) : Nat := (r.getD i 0).toNat

/-- A record at its dispatch point: the queue it came from, its dwords, and the grid size. -/
structure Launch where
  v  : Nat
  q  : Nat
  dw : List W64
  w  : Nat
  h  : Nat

def Launch.f (l : Launch) (i lo n : Nat) : Nat := bits (dwN l.dw i) lo n

def Launch.gw (l : Launch) : Nat := l.f 0 32 6
def Launch.gh (l : Launch) : Nat := l.f 0 38 6
def Launch.nctx (l : Launch) : Nat := l.f 0 44 3
def Launch.belay (l : Launch) : Nat := l.f 0 51 3
def Launch.rr (l : Launch) : Nat := l.f 0 54 2
def Launch.domgrp (l : Launch) : Bool := l.f 0 56 1 == 1
def Launch.root (l : Launch) : BitVec 41 := .ofNat 41 (l.f 10 0 41)
def Launch.asid (l : Launch) : W16 := .ofNat 16 (l.f 10 41 16)
def Launch.tag (l : Launch) : W64 := l.dw.getD 15 0
def Launch.space (l : Launch) : Space := ⟨l.v, l.root, l.asid, true⟩
def Launch.logKb (l : Launch) : Nat := l.f 14 32 32
def Launch.parkUnits (l : Launch) : Nat := l.f 14 16 16
def Launch.spillUnits (l : Launch) : Nat := l.f 14 0 16
def Launch.gid (l : Launch) : Nat := l.f 15 48 16
def Launch.count (l : Launch) : Nat := l.f 15 44 4 + 1
def Launch.idx (l : Launch) : Nat := l.f 15 40 4

/-- A bit that must be 0 is set. -/
def recordReserved (r : List W64) : Bool :=
  bits (dwN r 0) 57 7 != 0 || bits (dwN r 0) 47 1 != 0 || bits (dwN r 0) 29 2 != 0 || bits (dwN r 0) 13 3 != 0
    || bits (dwN r 10) 57 7 != 0 || bits (dwN r 12) 9 7 != 0 || bits (dwN r 12) 25 7 != 0

/-- A field lies outside its limits, or a must-be-0 bit is set: status BADREC (R225, R412). -/
def Launch.badRec (l : Launch) : Bool :=
  recordReserved l.dw || 4096 < l.w || 4096 < l.h
    || l.gw == 0 || 32 < l.gw || l.gh == 0 || 28 < l.gh || 64 < l.gw * l.gh || ceilDiv l.w 4 < l.gw || ceilDiv l.h 4 < l.gh
    || l.nctx == 0 || 4 < l.nctx || !(l.belay == 0 || l.belay == 3 || l.belay == 4 || l.belay == 6) || l.rr == 3
    || 256 < l.parkUnits || (l.f 0 31 1 == 1 && dwN l.dw 1 % 8 != 0)

/-! ## The class table (R260) -/

/-- The operator accepts the element type (R110). -/
def opTakes (op et : Nat) : Bool :=
  match op with
  | 0 => et < 12
  | 3 => et < 12
  | 4 => et < 12
  | 8 => et == 10
  | _ => et < 8

/-- A descriptor, or none when it fails the launch. -/
def readClass (bs : List Byte) (i : Nat) : Option ClassD :=
  let pc := natOf (slice bs (16 * i) 8)
  let k := natOf (slice bs (16 * i + 8) 8)
  let decl := bits k 31 1 == 1
  let op := bits k 12 4
  let d : ClassD := { decl := decl, handler := .ofNat 64 pc, scale := bits k 18 6, prio := bits k 16 1 == 1, op := op
                      et := bits k 8 4, words := bits k 0 5 }
  if !decl then (if k = 0 ∧ pc = 0 then some d else none)
  else if pc % 4 ≠ 0 ∨ bits k 32 32 ≠ 0 ∨ bits k 24 7 ≠ 0 ∨ bits k 17 1 ≠ 0 ∨ bits k 5 3 ≠ 0 then none
  else if 8 < op ∨ !opTakes op d.et ∨ 16 < d.words ∨ (op ≠ 8 ∧ d.scale ≠ 0) then none
  else some d

def readClasses (bs : List Byte) : Option (Vector ClassD 16) :=
  if (List.range 16).all fun i => (readClass bs i).isSome then
    some (Vector.ofFn fun (i : Fin 16) => (readClass bs i.val).getD {})
  else none

/-! ## Images -/

/-- Text and data of the two helper cores. -/
structure HImages where
  ltext : List Byte := []
  ldata : List Byte := []
  stext : List Byte := []
  sdata : List Byte := []

/-- What a launch reads from memory: the class table, the two decode tables and the helper image. -/
structure Images where
  m       : Module
  classes : List Byte
  tabs    : List Byte
  helper  : HImages

def readVa (l : Launch) (m : Module) (a n : Nat) : Option (Module × List Byte) :=
  if n = 0 then some (m, []) else vaRead l.space (pageParts a n) m []

def pad64 (n : Nat) : Nat := ceilDiv n 64 * 64

/-- A helper core starts when its entry is given. -/
def entryGiven (e : Nat) : Bool := e != 0xFFFFFFFF

/-- The helper image: four lengths, then the four parts; one that its store cannot hold counts as not readable (log 13). -/
def readHelper (l : Launch) (m : Module) : Option (Module × HImages) :=
  if !entryGiven (l.f 6 0 32) && !entryGiven (l.f 6 32 32) then some (m, {})
  else
    let a := dwN l.dw 5
    match readVa l m a 32 with
    | none => none
    | some (m, hd) =>
      let n (i : Nat) : Nat := natOf (slice hd (8 * i) 8)
      if 0x8000 < n 0 ∨ 0x4000 < n 1 ∨ 0x8000 < n 2 ∨ 0x4000 < n 3 then none
      else
        let o1 := a + 32
        let o2 := o1 + pad64 (n 0)
        let o3 := o2 + pad64 (n 1)
        let o4 := o3 + pad64 (n 2)
        match readVa l m o1 (n 0) with
        | none => none
        | some (m, b1) =>
          match readVa l m o2 (n 1) with
          | none => none
          | some (m, b2) =>
            match readVa l m o3 (n 2) with
            | none => none
            | some (m, b3) =>
              match readVa l m o4 (n 3) with
              | none => none
              | some (m, b4) => some (m, ⟨b1, b2, b3, b4⟩)

/-- Everything that the launch reads; none when a part of it cannot be read. -/
def readImages (l : Launch) (m : Module) : Option Images :=
  match (if dwN l.dw 8 = 0 then some (m, List.replicate 256 0) else readVa l m (dwN l.dw 8) 256) with
  | none => none
  | some (m, cl) =>
    match (if dwN l.dw 9 = 0 then some (m, List.replicate 1088 0) else readVa l m (dwN l.dw 9) 1088) with
    | none => none
    | some (m, tb) =>
      match readHelper l m with
      | none => none
      | some (m, h) => some ⟨m, cl, tb, h⟩

/-! ## Checks (R413) -/

def csOk : Nat := 0
def csEmpty : Nat := 1
def csBadRec : Nat := 2
def csBadClass : Nat := 3
def csScope : Nat := 4
def csLashGw : Nat := 5
def csFault : Nat := 6
def csAborted : Nat := 7
def csNoFit : Nat := 8

/-- What the checks of a record with a grid come to: a status that ends the launch, or its images. Where several checks fail,
the lowest status names the failure (log 17). -/
inductive Checked
  | fails (status : Nat)
  | ok (im : Images) (cl : Vector ClassD 16)

/-- Virtual clusters that the largest gang of the function may hold (R225). -/
def Vf.gangLimit (f : Vf) (v : Nat) : Nat := if f.joined then max f.clusters.toNat (Config.joinedMax v) else f.clusters.toNat

def checkLaunch (s : State) (l : Launch) : Checked :=
  let f := s.vfAt l.v
  if l.badRec then .fails csBadRec
  else
    let im := readImages l s.m
    match im, im.bind fun x => readClasses x.classes with
    | some _, none => .fails csBadClass
    | im, cl =>
      if l.domgrp && f.scopeCap < 6 then .fails csScope
      else if f.lash && 16 < l.gw then .fails csLashGw
      else
        match im, cl with
        | some im, some cl =>
          if !Config.regionsFit s.free then .fails csFault
          else if f.gangLimit l.v < l.gw * l.gh then .fails csNoFit
          else .ok im cl
        | _, _ => .fails csFault

/-! ## Completion records (R415) -/

/-- The completion ring takes a record: it is set up and not full. -/
def Vf.complRoom (f : Vf) : Bool :=
  4 ≤ f.clog2 && f.clog2 ≤ 16 && (f.ctail - f.chead).toNat < 2 ^ f.clog2

/-- Write a record at the ring's tail. -/
def writeCompl (m : Module) (v : Nat) (c : Compl) : Module :=
  let f := m.vfs.toList.getD v {}
  let m := gpaWrite v (pageParts (f.cbase.toNat + 64 * (f.ctail.toNat % 2 ^ f.clog2)) 64) m (dwordBytes c.dw)
  m.mapVf v fun f => { f with ctail := f.ctail + 1 }

/-- A launch or grid of function `v` completes: its record is written, or waits for room in the ring (R415). -/
def pushCompl (s : State) (v : Nat) (c : Compl) : State :=
  let f := s.vfAt v
  let wait := s.mapVf v fun f => { f with cwait := f.cwait ++ [c] }
  if f.cwait = [] ∧ f.complRoom then (ifPulled { s with m := writeCompl s.m v c }).getD wait else wait

/-- The host has freed the ring: the first waiting record is written. -/
def execCompletionRecordRelease (v : Nat) (s : State) : Out3 :=
  event "COMPLETION_RECORD_RELEASE" <|
    let f := s.vfAt v
    match f.cwait with
    | c :: r =>
      if v < 64 && f.complRoom then ifPulled { s with m := writeCompl (s.m.mapVf v fun f => { f with cwait := r }) v c } else none
    | [] => none

/-- Add a signal to its counter (R414). -/
def signalFence (s : State) (v id : Nat) (inc : W32) (en : Bool) : State :=
  if en then s.mapVf v fun f => f.setFence id (f.fence id + inc.setWidth 64) else s

/-- `time` in microseconds, 32 bits (R415). -/
def usOf (cycle : Nat) : Nat := cycle / 1900 % 2 ^ 32

/-- The record's launch ends at its dispatch point: signal, completion record, and HEAD goes on (R413, R414). -/
def endLaunch (s : State) (l : Launch) (status : Nat) : State :=
  let s := signalFence s l.v (l.f 12 16 8) (.ofNat 32 (l.f 12 32 32)) (l.f 12 24 1 == 1)
  let now := usOf s.m.cycle
  let s := pushCompl s l.v ⟨[l.tag, .ofNat 64 status, .ofNat 64 (now + 2 ^ 32 * now), 0, 0, 0, 0, 0]⟩
  settleSlots (s.mapQueue l.v l.q fun x => { x with head := x.head + 1 })

/-! ## The state of a new grid (R38, R95, R339) -/

/-- Context `i` of a tile at launch (R38); one beyond the launch's count never starts. -/
def startCtx (i : Nat) (started : Bool) (pc args : W64) (root : BitVec 41) (asid : W16) (belay lashed dom : Bool) : Ctx :=
  let x : Vector XReg 32 := Vector.replicate 32 {}
  let x := x.set 1 { val := Config.endStub }
  let x := x.set 2 { val := .ofNat 64 (0xFF00000000200000 - i * 0x4000) }
  let x := x.set 3 { val := args }
  let x := x.set 4 { val := Config.runtimePtr }
  { id := i, run := if started then .ready else .notStarted, x := x, pc := pc, tvec := Config.runtimeVector
    status := { belay := belay, lashed := lashed }, mDom := dom, ptroot := root, asid := asid }

/-- A helper core at launch (R339); its machine CSRs hold what the runtime put there (log 12). -/
def startHelper (entry : Nat) (text data : List Byte) (args : W64) (vt : Nat) : Helper :=
  if !entryGiven entry then {}
  else
    let x : Vector W64 32 := Vector.replicate 32 0
    let x := x.set 2 0xFFF1000000004000
    let x := x.set 10 args
    let x := x.set 11 (.ofNat 64 vt)
    { started := true, x := x, pc := .ofNat 64 (iBase + entry)
      istore := ({} : Memory).write 0 text, dstore := ({} : Memory).write 0 data
      csr := { mstatus := Config.helperCsr 0x300, mie := Config.helperCsr 0x304, mtvec := Config.helperCsr 0x305
               mscratch := Config.helperCsr 0x340 } }

/-- The tile with number `vt` of a new grid. -/
def startTile (l : Launch) (lash : Bool) (im : Images) (vt : Nat) : Tile :=
  let args := l.dw.getD 7 0
  let text : W64 := l.dw.getD 2 0
  let ctx (i : Nat) : Ctx :=
    startCtx i (i < l.nctx) (text + .ofNat 64 (l.f (3 + i / 2) (32 * (i % 2)) 32)) args l.root l.asid (l.belay != 0) lash l.domgrp
  let t : Tile := { vt := vt, others := (List.range 4).map ctx, written := List.range 512 }
  let t := (t.load8 (im.tabs.take 1024)).load4 (im.tabs.drop 1024)
  { t with
    lash := { t.lash with role := if lash then 1 else 0 }
    ldr := startHelper (l.f 6 0 32) im.helper.ltext im.helper.ldata args vt
    str := startHelper (l.f 6 32 32) im.helper.stext im.helper.sdata args vt }

/-- Tiles of a grid in row-major order. -/
def gridTiles (w h : Nat) : List Nat := (List.range h).flatMap fun r => (List.range w).map fun c => vtid r c

/-- The gangs of a grid in their order (R225); they request clusters at launch (R416). -/
def gridGangs (w h gw gh now : Nat) : List Gang :=
  (List.range (ceilDiv (ceilDiv h 4) gh)).flatMap fun r =>
    (List.range (ceilDiv (ceilDiv w 4) gw)).map fun c => { gr := r, gc := c, asked := now }

def startGrid (s : State) (l : Launch) (cl : Vector ClassD 16) : Grid :=
  { live := true, vf := l.v, w := l.w, h := l.h, gw := l.gw, gh := l.gh, nctx := l.nctx
    prio := l.f 0 48 2, reg := l.f 0 50 1 == 1, belay := l.belay, rr := l.rr
    domgrp := l.domgrp, group := if l.domgrp then l.gid else 0
    grpN := if l.domgrp then l.count else 1, grpIdx := if l.domgrp then l.idx else 0, grpHere := [if l.domgrp then l.idx else 0]
    spillCap := 1024 * (if l.spillUnits = 0 then 64 else l.spillUnits)
    parkCap := 65536 * (if l.parkUnits = 0 then 4 else l.parkUnits)
    logCap := 64 * l.logKb, tag := l.tag
    sigEn := l.f 12 24 1 == 1, sigId := l.f 12 16 8, sigInc := .ofNat 32 (l.f 12 32 32)
    startT := s.m.cycle, classes := cl, gangs := gridGangs l.w l.h l.gw l.gh s.m.cycle
    logVa := l.dw.getD 13 0, root := l.root, asid := l.asid }

/-! ## Log buffers (R395, R396; log 15) -/

/-- Where the part of a tile, or of the control spine (part 2^24), starts. -/
def logAddr (va : W64) (w h cap part : Nat) : Nat :=
  (va + .ofNat 64 (Config.logPart (if part = 2 ^ 24 then 0 else w + 2 ^ 13 * h + 2 ^ 26 * cap) part)).toNat

/-- A log entry as 16 bytes. -/
def LogE.bytes (e : LogE) : List Byte :=
  bytesOf 8 (e.at_.toNat + 2 ^ 57 * e.role.toNat + 2 ^ 60 * e.kind.toNat) ++ bytesOf 8 e.arg.toNat

def readLogE (bs : List Byte) : LogE :=
  let d := natOf (bs.take 8)
  ⟨.ofNat 4 (bits d 60 4), .ofNat 3 (bits d 57 3), .ofNat 57 (bits d 0 57), .ofNat 64 (natOf (bs.drop 8))⟩

/-- The entries of a part, up to its end or to an entry that was never written. -/
def readLog (sp : Space) (m : Module) (a : Nat) : Nat → Nat → List LogE
  | 0, _ => []
  | n + 1, i =>
    match vaRead sp (pageParts (a + 16 * i) 16) m [] with
    | none => []
    | some (_, bs) => if (readLogE bs).kind = 0 then [] else readLogE bs :: readLog sp m a n (i + 1)

/-- Entries of a part, numbered on from `i`, go into the buffer. -/
def writeLog (sp : Space) (a : Nat) : List LogE → Nat → Module → Module
  | [], _, m => m
  | e :: r, i, m => writeLog sp a r (i + 1) (vaWrite sp (pageParts (a + 16 * i) 16) m e.bytes)

/-- Control-spine entries of kind 10 (R395): the count at ICOUNT that the launch has read, then the launch parameters, which are the
dwords of its record (log 15). -/
def spineEntry (x : W64) : LogE := ⟨10, 6, 0, x⟩
def countEntry (w h : Nat) : LogE := spineEntry (.ofNat 64 (w + 2 ^ 32 * h))
def spineLog (l : Launch) : List LogE := (if l.f 0 31 1 = 1 then [countEntry l.w l.h] else []) ++ l.dw.map spineEntry

/-- Log entries of a tile that may leave it: a lashed one keeps those of the current interval (R388). -/
def agreedLog (s : State) (t : Tile) : List LogE :=
  if t.lash.role = 0 then t.log
  else match s.g.lashChk.find? (·.vt == t.vt) with
    | some k => t.log.take k.log.length
    | none => t.log

/-- New entries of the focused grid's log go into its buffer; those that a rollback has taken back are cleared there. -/
def flushLogs (s : State) : State :=
  if s.g.rr ≠ 1 then s
  else
    let sp : Space := ⟨s.g.vf, s.g.root, s.g.asid, true⟩
    let part (m : Module) (p : Nat) (l : List LogE) (n : Nat) : Module :=
      writeLog sp (logAddr s.g.logVa s.g.w s.g.h s.g.logCap p) (l.drop n ++ List.replicate (n - l.length) ⟨0, 0, 0, 0⟩) (min n l.length) m
    let m := s.allTiles.foldl (fun m t => part m t.vt (agreedLog s t) t.logOut) s.m
    let m := part m (2 ^ 24) s.g.spine s.g.spineOut
    let done (t : Tile) : Tile := { t with logOut := (agreedLog s t).length }
    (ifPulled { s with m := m, g := { s.g with spineOut := s.g.spine.length }, t := done s.t, tiles := s.tiles.map done }).getD s

/-- The logs that a replay follows. -/
def loadLogs (s : State) : State :=
  if s.g.rr ≠ 2 then s
  else
    let sp : Space := ⟨s.g.vf, s.g.root, s.g.asid, true⟩
    s.mapTiles fun t => { t with log := readLog sp s.m (logAddr s.g.logVa s.g.w s.g.h s.g.logCap t.vt) s.g.logCap 0 }

/-! ## Opening a grid -/

/-- The instances of a level in the focused grid. -/
def instances (s : State) (lv : Nat) : List Nat :=
  if lv = 0 then s.allTiles.map (·.vt)
  else if lv = 1 ∨ lv = 4 then s.g.gangs.map fun x => x.gr * 4096 + x.gc
  else [0]

/-- Generation 0 of every instance opens at launch (R239), the domain level for a launch group only. -/
def openBars (s : State) : State :=
  [0, 1, 2, 4, 5].foldl (fun s lv => (instances s lv).foldl (fun s id => openBar s lv id 0) s) s

/-- The checkpoints of a new grid, and the partner tiles of a lashed one, which start with the same state (R385, R387, R390). -/
def firstCheckpoints (s : State) : State :=
  let s := if s.g.belay ≠ 0 then belayPoint (fun _ => true) s else s
  if s.t.lash.role = 0 then s
  else
    let us := s.allTiles.map fun t => let u := wholeTile s t; { u with lash := { u.lash with role := 2 } }
    { s with g := { s.g with lashChk := s.allTiles.map (wholeTile s), partners := us, partnerChk := us } }

/-- The grid of a launch comes to life, in focus; its gangs have requested their clusters. -/
def commitLaunch (s : State) (l : Launch) (im : Images) (cl : Vector ClassD 16) : State :=
  let s := { s with m := im.m, free := s.free + 1 }
  let bg := if s.g.live then ⟨s.g, s.allTiles.map (wholeTile s)⟩ :: s.bg else s.bg
  let lash := (s.vfAt l.v).lash
  let g := startGrid s l cl
  let es := spineLog l
  let g := if g.rr = 1 then { g with spine := es.take g.logCap, logFull := decide (g.logCap < es.length) } else g
  let s := match (gridTiles l.w l.h).map (startTile l lash im) with
    | [] => s
    | t :: ts =>
      match t.others with
      | [] => s
      | c :: cs => { s with bg := bg, g := g, t := { t with others := cs }, tiles := ts, c := c, storer := false }
  let s := firstCheckpoints (openBars (loadLogs s))
  settleSlots (flushLogs (s.mapQueue l.v l.q fun x => { x with head := x.head + 1 }))

/-! ## Dispatch -/

/-- Read the record at HEAD of a queue. -/
def readRecord (s : State) (v : Nat) (x : LQueue) : Option (Module × List W64) :=
  match gpaRead v (pageParts (x.base.toNat + 128 * (x.head.toNat % 2 ^ x.log2)) 128) s.m [] with
  | none => none
  | some (m, bs) => some (m, dwordsOf bs)

/-- The size of the grid: from dword 0, from the count at ICOUNT, or in replay from the log (R413, R396). -/
def launchSize (l : Launch) (m : Module) : Option (Module × Nat × Nat) :=
  if l.f 0 31 1 = 0 then some (m, l.f 0 0 13, l.f 0 16 13)
  else if l.rr = 2 then
    match readVa l m (logAddr (l.dw.getD 13 0) 0 0 0 (2 ^ 24)) 16 with
    | none => none
    | some (m, bs) =>
      let x := (readLogE bs).arg.toNat
      if (readLogE bs).kind = 0 ∧ m.pullWait = false then none else some (m, bits x 0 32, bits x 32 32)
  else if dwN l.dw 1 % 8 ≠ 0 then some (m, 4097, 4097)
  else
    match readVa l m (dwN l.dw 1) 8 with
    | none => none
    | some (m, bs) =>
      let w := bits (natOf bs) 0 32
      let h := bits (natOf bs) 32 32
      -- a recorded launch logs the count as it reads it, whatever becomes of the launch
      let m := if l.rr = 1 ∧ 0 < l.logKb then writeLog l.space (logAddr (l.dw.getD 13 0) 0 0 0 (2 ^ 24)) [countEntry w h] 0 m else m
      some (m, w, h)

/-- Launches of a group that wait end with BADREC. -/
def failGroup (s : State) (gid : Nat) : State :=
  let ws := s.m.groups.filter (·.gid == gid)
  let s := { s with m := { s.m with groups := s.m.groups.filter (·.gid != gid) } }
  ws.foldl (fun s x => endLaunch s ⟨x.v, x.q, x.dw, x.w, x.h⟩ csBadRec) s

/-- A checked member reaches its dispatch point (R434). -/
def joinGroup (s : State) (l : Launch) : State :=
  let ws := s.m.groups.filter (·.gid == l.gid)
  if ws.any fun x => x.count != l.count || x.idx == l.idx then endLaunch (failGroup s l.gid) l csBadRec
  else { s with m := { s.m with groups := s.m.groups ++
    [{ gid := l.gid, count := l.count, idx := l.idx, since := s.m.cycle, v := l.v, q := l.q, dw := l.dw, w := l.w, h := l.h }] } }

/-- What the launch reads needs a page that the pool of a migration lacks: the launch waits (R435). -/
def waitsForPool (s : State) (l : Launch) : Bool := !l.badRec && (readImages l s.m).any (·.m.pullWait)

/-- The state of what waits for the pool: `ifPulled` undoes it. -/
def waiting (s : State) : State := { s with m := { s.m with pullWait := true } }

/-- A record with its grid size known is retired, refused, or committed (R413). -/
def dispatchSized (s : State) (l : Launch) : State :=
  if l.w = 0 ∨ l.h = 0 then endLaunch s l csEmpty
  else if waitsForPool s l then waiting s
  else
    match checkLaunch s l with
    | .fails st => endLaunch { s with free := s.free + 1 } l st
    | .ok im cl => if l.domgrp then joinGroup { s with m := im.m, free := s.free + 1 } l else commitLaunch s l im cl

/-- The record at HEAD of the queue of slot `k` is at its dispatch point (R413); one that needs a page which the pool of a migration
lacks waits there (R435). -/
def execLaunchDispatch (k : Nat) (s : State) : Out3 :=
  event "LAUNCH_DISPATCH" <|
    match s.m.slots.find? (·.n == k) with
    | none => none
    | some x =>
      let d := (s.vfAt x.v).queue x.q
      if s.m.restart || !s.m.power.isReady || !s.takesLaunches x.v || !d.on || d.empty || s.inGroup x.v x.q then none
      else
        match readRecord s x.v d with
        | none => some (endLaunch s ⟨x.v, x.q, [], 0, 0⟩ csFault)
        | some (m, r) =>
          let l : Launch := ⟨x.v, x.q, r, 0, 0⟩
          if m.pullWait then none
          else if l.f 12 8 1 = 1 ∧ (s.vfAt x.v).fence (l.f 12 0 8) < r.getD 11 0 then none
          else
            let s := { s with m := m }
            match launchSize l m with
            | none => some (endLaunch s l csFault)
            | some (m, w, h) => ifPulled (dispatchSized { s with m := m } { l with w := w, h := h })

/-- The members of a group in the order of their indices. -/
def groupMembers (s : State) (gid : Nat) : List GroupWait :=
  (List.range 16).flatMap fun i => s.m.groups.filter fun x => x.gid == gid && x.idx == i

/-- Members of the group on other modules, and their arrival (`remote`), are seen only through the event (log 1). DESIGN CHOICE
(log 17): each member's images are read again here, and one whose images then fail ends alone, with the status of its failure, while
the others commit (R434). -/
def execLaunchGroupCommit (gid : Nat) (remote : Bool) (s : State) : Out3 :=
  event "LAUNCH_GROUP_COMMIT" <|
    match groupMembers s gid with
    | [] => none
    | a :: r =>
      if s.m.restart || !(remote == decide ((a :: r).length < a.count)) || !(a :: r).all (fun x => x.idx < x.count) then none
      else
        let s := { s with m := { s.m with groups := s.m.groups.filter (·.gid != gid) } }
        let s : State := (a :: r).foldl (fun s x =>
          let l : Launch := ⟨x.v, x.q, x.dw, x.w, x.h⟩
          if waitsForPool s l then waiting s
          else
          match readImages l s.m with
          | none => endLaunch s l csFault
          | some im => match readClasses im.classes with
            | none => endLaunch s l csBadClass
            | some cl => commitLaunch s l im cl) s
        let here := (a :: r).map (·.idx)
        let s := if s.g.live ∧ s.g.domgrp ∧ s.g.group = gid then
            forGroup (fun s => { s with g := { s.g with grpHere := here } }) s else s
        ifPulled (if s.g.live ∧ s.g.domgrp ∧ s.g.group = gid then openBar s 3 0 0 else s)

/-- A member has waited more than 100 ms, or one on another module has failed the group: it has waited too long there, or has
found a disagreeing count or a duplicate index (R434, log 1). Every waiting member ends with BADREC. -/
def execLaunchGroupTimeout (gid : Nat) (s : State) : Out3 :=
  event "LAUNCH_GROUP_TIMEOUT" <|
    if s.m.groups.any fun x => x.gid == gid && (decide ((groupMembers s gid).length < x.count)
        || decide (x.since + usCycles 100000 < s.m.cycle)) then some (failGroup s gid) else none

/-! ## The end of a grid (R250, R415) -/

/-- Entries of inbound queues and on their way there. -/
def portLeft (s : State) : Nat :=
  (s.allCtxs.map fun x => (x.2.inq.toList.map (·.length)).sum).sum
    + ((s.g.gangs.flatMap (·.parked)).filter fun m => match m.body with | .port _ _ _ => true | _ => false).length

/-- Records that were not dispatched. DESIGN CHOICE (log 42): an entry of the queue or of the ring counts as one record, however many
are folded into it. -/
def recordsLeft (s : State) : Nat :=
  (s.allTiles.map fun t => t.sq.length + t.spill.length).sum
    + ((s.g.gangs.flatMap (·.parked)).filter fun m => match m.body with | .record _ => true | _ => false).length

/-- Both helper cores of every tile are stopped. -/
def stopHelpers (s : State) : State :=
  s.allTiles.foldl (fun s t =>
    [false, true].foldl (fun s st =>
      let u := focusHelper s t.vt st
      if u.helper.started && !u.helper.stopped then stopHelper u else u) s) s

def mod32 (n : Nat) : Nat := n % 2 ^ 32

/-- The completion record of the focused grid. -/
def gridRecord (s : State) (status : Nat) : Compl :=
  let g := s.g
  ⟨[g.tag, .ofNat 64 (status + 256 * g.logFull.toNat), .ofNat 64 (usOf g.startT + 2 ^ 32 * usOf s.m.cycle)
  , .ofNat 64 (mod32 (portLeft s) + 2 ^ 32 * mod32 (recordsLeft s))
  , .ofNat 64 (mod32 (g.gangs.map (·.faults)).sum + 2 ^ 32 * mod32 g.rollbks)
  , .ofNat 64 (g.trapWhy % 65536 + 2 ^ 32 * mod32 g.trapEnd)
  , .ofNat 64 (mod32 g.uncorr + 2 ^ 32 * mod32 g.notTaken)
  , .ofNat 64 (mod32 g.recDrop + 2 ^ 32 * mod32 g.cmdDrop)]⟩

/-- Commands that contexts have assembled in part are discarded and counted (R344). -/
def discardAsm (s : State) : State :=
  let n := (s.allTiles.map (·.asm.length)).sum
  { s.mapTiles (fun t => { t with asm := [] }) with g := { s.g with cmdDrop := s.g.cmdDrop + n } }

/-- The focused grid ends: helper cores stop, what was assembled in part is discarded, the signal is applied, and the completion record follows it (R250, R414). -/
def endGrid (status : Nat) (s : State) : State :=
  let s := discardAsm (stopHelpers s)
  let c := gridRecord s status
  let s := signalFence s s.g.vf s.g.sigId s.g.sigInc s.g.sigEn
  let s := pushCompl s s.g.vf c
  { s with g := { s.g with live := false } }

/-- A lashed tile has exchanged what its last interval holds back (R388). -/
def lashSettled (t : Tile) : Bool := t.lash.gated == [] && !t.lash.waiting && !t.lash.due

/-- Every started context has ended and every tile has finished its work (R250). -/
def gridDone (s : State) : Bool :=
  s.g.live && s.g.diverged.isNone
    && s.allCtxs.all (fun x => !x.2.active && x.2.accs == [])
    && s.allTiles.all (fun t => t.arrq == [] && t.ni == [] && lashSettled t && t.ldr.posted == [] && t.str.posted == [] && (List.range 7).all fun q => t.cmdsOf q == [])
    && s.g.mesh.all fun m => m.body == Body.loadReq

/-- Stores still held under belay are performed before the signal (R414). -/
def performAllHeld (s : State) : State := s.allTiles.foldl (fun s t => performHeld s t.vt) s

def execGridCompletion (s : State) : Out3 :=
  event "GRID_COMPLETION" <|
    if gridDone s then some (dropDead (endGrid csOk (flushLogs (performAllHeld s)))) else none

end Sys2Proof.Machine
end

