-- ==== Sys2Proof/Machine/Sha.lean ====
section
/-! DEFINITION. SHA-512, which the manual names for the chain of usage records (R421) and takes from its standard (PRESUMED,
log 14). -/

namespace Sys2Proof.Machine

/-- The greatest `r` below `2 ^ k` more than the given one with `f r ≤ n`, bit by bit. -/
def rootBits (f : Nat → Nat) (n : Nat) : Nat → Nat → Nat
  | 0, r => r
  | k + 1, r => if f (r + 2 ^ k) ≤ n then rootBits f n k (r + 2 ^ k) else rootBits f n k r

/-- The first eighty primes. -/
def shaPrimes : List Nat := (List.range 410).filter fun p => 2 ≤ p && (List.range p).all fun d => d < 2 || p % d != 0

/-- Round constants and initial hash: 64 bits of the fractions of cube and square roots of primes. -/
def shaK : List W64 := shaPrimes.map fun p => .ofNat 64 (rootBits (fun r => r ^ 3) (p * 2 ^ 192) 67 0)
def shaH : List W64 := (shaPrimes.take 8).map fun p => .ofNat 64 (rootBits (fun r => r ^ 2) (p * 2 ^ 128) 69 0)

/-- One round on the eight working words, with the sixteen next words of the schedule. -/
def shaRound (st : List W64 × List W64) (k : W64) : List W64 × List W64 :=
  match st with
  | ([a, b, c, d, e, f, g, h], w) =>
    let at_ (i : Nat) : W64 := w.getD i 0
    let t1 := h + (e.rotateRight 14 ^^^ e.rotateRight 18 ^^^ e.rotateRight 41) + ((e &&& f) ^^^ (~~~e &&& g)) + k + at_ 0
    let t2 := (a.rotateRight 28 ^^^ a.rotateRight 34 ^^^ a.rotateRight 39) + ((a &&& b) ^^^ (a &&& c) ^^^ (b &&& c))
    let new := at_ 0 + ((at_ 1).rotateRight 1 ^^^ (at_ 1).rotateRight 8 ^^^ at_ 1 >>> 7) + at_ 9
      + ((at_ 14).rotateRight 19 ^^^ (at_ 14).rotateRight 61 ^^^ at_ 14 >>> 6)
    ([t1 + t2, a, b, c, d + t1, e, f, g], w.drop 1 ++ [new])
  | st => st

/-- The 64-bit words of a byte string, the first byte the highest. -/
def bigWords (bs : List Byte) : List W64 :=
  (List.range (bs.length / 8)).map fun i => .ofNat 64 (natOf ((bs.drop (8 * i)).take 8).reverse)

/-- The digest, as the number whose lowest byte is the digest's first. -/
def sha512 (bs : List Byte) : W512 :=
  let n := bs.length
  let zeros := (128 - (n + 17) % 128) % 128
  let m := bs ++ [0x80] ++ List.replicate zeros 0 ++ (bytesOf 16 (8 * n)).reverse
  let block (h : List W64) (i : Nat) : List W64 :=
    let r := (shaK.foldl shaRound (h, bigWords ((m.drop (128 * i)).take 128))).1
    (h.zip r).map fun p => p.1 + p.2
  let h := (List.range (m.length / 128)).foldl block shaH
  .ofNat 512 (natOf (h.flatMap fun x => (bytesOf 8 x.toNat).reverse))

end Sys2Proof.Machine
end

