-- ==== Sys2Proof/Machine/Meter.lean ====
section
/-! DEFINITION. Energy windows (R417), metering and usage records (R421), and attestation (R420). -/

namespace Sys2Proof.Machine

/-! ## Energy -/

/-- The issue fraction for a mean power of `p` watts; no power leaves it at 8 (R417). -/
def issueK (budget p : Nat) : Nat := if budget = 0 ∨ p = 0 then 8 else min 8 (max 1 (8 * budget / p))

/-- A window of 1 ms ends with mean power `p`: k is set, and the energy counter takes `p` millijoules (R417, R421). -/
def execEnergyWindow (v p : Nat) (s : State) : Out3 :=
  event "ENERGY_WINDOW" <|
    let f := s.vfAt v
    if v < 64 ∧ f.winAt < s.m.cycle / cyclesPerMs then
      some (s.mapVf v fun f => { f.addMeter 3 p with k := issueK f.budget.toNat p, winAt := f.winAt + 1 })
    else none

/-! ## Metering -/

/-- Dword 0 of a usage record: v in bits 5:0, as in the other words that hold it, and the partition id above, whose numbering is
not given (log 13, log 18). -/
def recordId (f : Vf) (v : Nat) : W64 := .ofNat 64 (v + 64 * (Config.partitionId v f.partNo).toNat)

/-- The usage record of a function, 1 KiB (R421). -/
def usageRecord (f : Vf) (id0 : W64) (from_ to_ : Nat) : List Byte :=
  let head := bytesOf 8 id0.toNat ++ bytesOf 8 f.chainN ++ bytesOf 8 from_ ++ bytesOf 8 to_
    ++ (f.meters.toList.flatMap fun x => bytesOf 8 x.toNat) ++ bytesOf 8 0
    ++ bytesOf 64 (if f.chainN = 0 then 0 else f.chainH.toNat)
  head ++ bytesOf 512 (Config.signature (natOf head)).toNat ++ List.replicate 352 0

def nsOf (cycle : Nat) : Nat := cycle * 1000 / 1900

/-- The record ring of the physical function takes a record (log 18). -/
def Module.usageRoom (m : Module) : Bool :=
  let n := bits m.usageC.toNat 0 5
  4 ≤ n && n ≤ 16 && m.usageT - m.usageH < 2 ^ n

def writeUsage (m : Module) (r : List Byte) : Module :=
  let m' := m.writeGlob 0 (m.home (m.usageB.toNat + 1024 * (m.usageT % 2 ^ bits m.usageC.toNat 0 5))) r
  { m' with usageT := m.usageT + 1 }

def pushUsage (m : Module) (r : List Byte) : Module :=
  if m.usageW = [] ∧ m.usageRoom then writeUsage m r else { m with usageW := m.usageW ++ [r] }

/-- The counters whose amounts the manual leaves to the hardware take free amounts (log 13): strand-link and host-link bytes. -/
def meterFree (s : State) (v : Nat) : State :=
  { s.mapVf v fun f => (f.addMeter 4 (Config.freeWord s.free).toNat).addMeter 5 (Config.freeWord (s.free + 1)).toNat with
    free := s.free + 2 }

/-- The usage record of function `v` for the period that ends is written, and its chain goes on. DESIGN CHOICE (log 18): in every
state of the partition but FREE (R421). -/
def meterOne (from_ to_ : Nat) (s : State) (v : Nat) : State :=
  if (s.vfAt v).st = .free then s
  else
    let s := meterFree s v
    let r := usageRecord (s.vfAt v) (recordId (s.vfAt v) v) from_ to_
    let s := { s with m := pushUsage s.m r }
    s.mapVf v fun f => { f with chainN := f.chainN + 1, chainH := sha512 r }

/-- A metering period ends (R421). -/
def execMeterPeriod (s : State) : Out3 :=
  event "METER_PERIOD" <|
    if s.m.cycle < s.m.perStart + s.m.period * cyclesPerMs then none
    else
      let s1 := (List.range 64).foldl (meterOne (nsOf s.m.perStart) (nsOf s.m.cycle)) s
      some { s1 with m := { s1.m with perStart := s.m.cycle } }

/-- A waiting usage record is written once the ring has room. -/
def execUsageRecordRelease (s : State) : Out3 :=
  event "USAGE_RECORD_RELEASE" <|
    match s.m.usageW with
    | r :: rest => if s.m.usageRoom then some { s with m := writeUsage { s.m with usageW := rest } r } else none
    | [] => none

/-! ## Attestation (R420) -/

/-- The tenant writes a nonce and a buffer address. -/
def execAttestationRequest (v : Nat) (nonce : BitVec 512) (buf : W64) (s : State) : Out3 :=
  if s.hasVf v then
    .next (s.mapVf v fun f => { f with attNonce := nonce, attBuf := buf, attDone := false, attPend := true })
  else off "ATTESTATION_REQUEST"

/-- The report: its contents as the manual lists them, and the signature over them, in 1 KiB whose layout is not given
(log 14). -/
def attReport (m : Module) (f : Vf) (v : Nat) : List Byte :=
  let held := [m.fwHash.toNat, m.rtHash.toNat, v, f.clusters.toNat, f.prot.toNat, f.lash.toNat
    , f.scopeCap, f.attNonce.toNat]
  (List.range 1024).map (Config.attByte held)

/-- The security controller writes the report and sets the done bit. -/
def execAttestationReport (v : Nat) (s : State) : Out3 :=
  event "ATTESTATION_REPORT" <|
    let f := s.vfAt v
    if v < 64 ∧ f.attPend then
      let m := gpaWrite v (pageParts f.attBuf.toNat 1024) s.m (attReport s.m f v)
      ifPulled ({ s with m := m }.mapVf v fun f => { f with attDone := true, attPend := false })
    else none

end Sys2Proof.Machine
end

