-- ==== Sys2Proof/Machine/Partition.lean ====
section
/-! DEFINITION. The life of a partition (R422 to R424), invalidation of stage 2 (R408), and scope limits (R290). -/

namespace Sys2Proof.Machine

/-! ## INVAL2 (R408) -/

/-- The physical function writes the INVAL2 bit of `partctl`. -/
def execInval2 (v : Nat) (s : State) : Out3 :=
  if s.hasVf v then .next (s.mapVf v fun f => { f with inval2 := true }) else off "INVAL2"

/-- Every cached translation of the function is removed, and INVAL2 is cleared. -/
def execInval2Complete (v : Nat) (s : State) : Out3 :=
  event "INVAL2_COMPLETE" <|
    if v < 64 ∧ (s.vfAt v).inval2 then
      let s := forVf v (flushTlbs fun e => e.vf == v) (s.mapVf v fun f => { f with inval2 := false })
      -- rewritten leaves have taken effect (R408), so that a migration may be done (R435)
      some { s with m := s.m.settleMig v }
    else none

/-! ## Scope limits (R290) -/

/-- A write of `scopectl`: SCOPEACT and SCOPECAP, and CLAMPS is cleared. -/
def execScopectlWrite (v : Nat) (x : W64) (s : State) : Out3 :=
  if s.hasVf v then
    .next (s.mapVf v fun f => { f with scopeAct := x.getLsbD 8, scopeCap := max 4 (bits x.toNat 0 3), clamps := 0 })
  else off "SCOPECTL_WRITE"

/-! ## Creation (R423) -/

/-- Healthy clusters that are neither assigned nor DIRTY (R425). -/
def poolFree (m : Module) : List Nat :=
  ((List.range m.clusters.length).zip m.clusters).filterMap fun (i, c) => if c.pool = .free then some i else none

/-- The clusters a partition gets: its count, or pairs of neighbours for a lashed one (R385, R423). -/
def takeClusters (m : Module) (f : Vf) : Option (List Nat) :=
  let fs := freeSites f (poolFree m)
  let n := f.clusters.toNat
  if n = 0 ∨ 896 < n ∨ fs.length < n then none else some (sitesClusters f (fs.take n))

def Module.mapCluster (m : Module) (p : Nat → Bool) (f : Cluster → Cluster) : Module :=
  { m with clusters := ((List.range m.clusters.length).zip m.clusters).map fun (i, c) => if p i then f c else c }

/-- The stage-2 root is valid: disabled, or a table in memory that exists (R423; log 17). -/
def rootValid (m : Module) (f : Vf) : Bool := !f.s2en || m.paExists (f.s2root.toNat * 2 ^ 11)

/-- Key slots of a protected partition that no other function holds (R420). -/
def newKeys (m : Module) (v : Nat) (f : Vf) : List Nat :=
  if f.prot then ((Config.keySlots v).map (·.toNat)).filter fun k => !m.keys.any (·.1 == k) else []

/-- A slot is given a new key. -/
def programKey (v : Nat) (m : Module) (k : Nat) : Module :=
  { m with keys := (k, v) :: m.keys, keyEpoch := setNat m.keyEpoch k (lookupNat m.keyEpoch k + 1) }

/-- The partition takes its clusters, whose persistent DIRTY bits are set before (R423, R445); none with too few of them or with
an invalid root. -/
def assignClusters (v : Nat) (s : State) : State :=
  match (if rootValid s.m (s.vfAt v) then takeClusters s.m (s.vfAt v) else none) with
  | none => s
  | some cs =>
    { s with m := s.m.mapCluster cs.contains fun c => { c with pool := .assigned v, dirty := true } }.mapVf v fun f => { f with owned := cs }

/-- CREATE is written in FREE, and creation begins; while the command processors restart it pauses (R394). In any other state the
write is ignored (R422). -/
def execPartitionCreate (v : Nat) (s : State) : Out3 :=
  if !s.hasVf v then off "PARTITION_CREATE"
  else if (s.vfAt v).st = .free then
    let s := s.mapVf v fun f => { f with st := .creating }
    .next (if s.m.restart then s else assignClusters v s)
  else .next s

/-- Creation ends: READY, with the key slots programmed, or FAILED with nothing assigned. -/
def execPartitionReady (v : Nat) (s : State) : Out3 :=
  event "PARTITION_READY" <|
    if !s.hasVf v || (s.vfAt v).st != .creating || s.m.restart then none
    else
      let s := if (s.vfAt v).owned = [] then assignClusters v s else s
      if (s.vfAt v).owned = [] then some (s.mapVf v fun f => { f with st := .failed })
      else
        some ({ s with m := (newKeys s.m v (s.vfAt v)).foldl (programKey v) s.m }.mapVf v fun f =>
          { f with st := .ready, nextTag := 0, reqs := [], partNo := f.partNo + 1
                   mig := { f.mig with st := 0, poisoned := 0, pulling := [] } })

/-! ## Teardown (R424) -/

/-- Grids of the function end as aborted. -/
def abortGrids (v : Nat) (s : State) : State := dropDead (forVf v (endGrid csAborted) s)

/-- The function's key slots hold no key any more. -/
def zeroKeys (m : Module) (v : Nat) : Module :=
  let ks := (m.keys.filter (·.2 == v)).map (·.1)
  { m with
    keys := m.keys.filter (·.2 != v)
    keyEpoch := ks.foldl (fun l k => setNat l k (lookupNat l k + 1)) m.keyEpoch }

/-- The 64 KiB rim pages that stage 2 maps, on whichever module they lie (R424). -/
def rimPages (m : Module) (v : Nat) : List Nat :=
  ((leavesOf m v).flatMap fun l =>
    let pa := m.home (pteAddr l.leaf.pte)
    if paHost pa then [] else (List.range (2 ^ (l.leaf.shift - 16))).map fun i => pa + 65536 * i).eraseDups

/-- TEARDOWN is written in READY or FAILED; in any other state the write is ignored (R422). The steps up to SCRUBBING. -/
def execPartitionTeardown (v : Nat) (s : State) : Out3 :=
  if !s.hasVf v then off "PARTITION_TEARDOWN"
  else
    let f := s.vfAt v
    if f.st = .ready ∨ f.st = .failed then
      let s := abortGrids v s
      let m := zeroKeys s.m v
      let m := m.mapCluster f.owned.contains fun c => { c with pool := .dirty }
      let m := { m with slots := m.slots.filter (·.v != v), groups := m.groups.filter (·.v != v) }
      let pages := if f.prot then rimPages m v else []
      .next ({ s with m := m }.mapVf v fun f => { f with st := .scrubbing, scrubPgs := pages })
    else .next s

/-- Zero-fill a page of the rim; what it held of old errors and keys is gone. -/
def zeroPage (m : Module) (pa : Nat) : Module :=
  let hit (a : Nat) : Bool := pa ≤ a && a < pa + 65536
  { m with
    mem := { cells := m.mem.cells.filter fun c => !hit c.1 }
    badMem := m.badMem.filter fun k => !hit (64 * k), softMem := m.softMem.filter fun k => !hit (64 * k)
    seenMem := m.seenMem.filter fun k => !hit (64 * k), codes := m.codes.filter fun k => !hit (64 * k.1)
    badHome := m.badHome.filter fun k => !hit (8 * k), softHome := m.softHome.filter fun k => !hit (8 * k)
    blockKey := m.blockKey.filter fun k => !hit (64 * k.1) }

/-- The scrub of a cluster is complete: it is free, and its persistent DIRTY bit is cleared (R424, R445). -/
def Cluster.scrubbed (c : Cluster) : Cluster := { c with dirty := false, pool := if c.defects < 2 then .free else .excluded }

/-- Work that the scrub of a partition has left: clusters and pages (R424). -/
def Vf.scrubLeft (f : Vf) : Nat := f.owned.length + f.scrubPgs.length

/-- The scrub of a partition makes one step: a cluster of it completes and loses its DIRTY bit, or a page is zero-filled. -/
def scrubStep (v : Nat) (s : State) : State :=
  match (s.vfAt v).owned, (s.vfAt v).scrubPgs with
  | k :: r, _ => { s with m := s.m.mapCluster (· == k) Cluster.scrubbed }.mapVf v fun f => { f with owned := r }
  | [], p :: r => { s with m := zeroPage s.m p }.mapVf v fun f => { f with scrubPgs := r }
  | [], [] => s

/-- The next cluster or page of the partition is scrubbed; with the last one the state is FREE. -/
def execPartitionScrubDone (v : Nat) (s : State) : Out3 :=
  event "PARTITION_SCRUB_DONE" <|
    if v < 64 ∧ (s.vfAt v).st = .scrubbing then
      let s := scrubStep v s
      some (if (s.vfAt v).scrubLeft = 0 then s.mapVf v fun f => { f with st := .free } else s)
    else none

end Sys2Proof.Machine
end

