-- ==== Sys2Proof/Machine/Bringup.lean ====
section
/-! DEFINITION. Bring-up, power and cooling (R442 to R447). -/

namespace Sys2Proof.Machine

/-- The pool state that bring-up gives a cluster: excluded, DIRTY until its scrub, or free (R425, R443). -/
def Cluster.pooled (c : Cluster) (defects : Nat) : Cluster :=
  { c with defects := defects, pool := if 2 ≤ defects then .excluded else if c.dirty then .dirty else .free }

/-- Coolant flow and inlet temperature let the BMC release step 1 (R446). -/
def coolantOk (b : BringUp) : Bool := 60 ≤ b.flow && 20 ≤ b.inlet && b.inlet ≤ 40

/-- The first step that fails, with its cause. The signature of the firmware is verified in step 2 and that of the runtime in step 3,
each under a key whose hash is the one fused in the spine; the cause 0 stands for one that does not verify (log 36). -/
def firstFailure (b : BringUp) (keyHash : W512) : Option (Nat × Nat) :=
  let sig := if b.fwKey ≠ some keyHash then some (2, 0) else if b.rtKey ≠ some keyHash then some (3, 0) else none
  match sig, b.failAt with
  | some x, some y => if y.1 ≤ x.1 then some y else some x
  | some x, none => some x
  | none, y => y

/-- The bring-up sequence runs once the coolant is within its limits (R442, R446). A step that fails leaves the module in reset,
and the BMC reports the step and its cause; else the images are measured (R444), clusters are pooled, ports and strand links
train, those that do not being left down (R445), and the module is READY. -/
def execBringup (b : BringUp) (s : State) : Out3 :=
  if s.m.power.isReady || !coolantOk b then off "BRINGUP"
  else
    match firstFailure b s.m.keyHash with
    | some (n, why) => if 1 ≤ n && n ≤ 7 then .next { s with m := { s.m with power := .failed n why } } else off "BRINGUP"
    | none =>
      .next { s with m := { s.m with
        power := .ready, cxlUp := b.ports, linkUp := b.linksUp, linkRet := 0, farDown := []
        fwImage := b.firmware, rtImage := b.runtime, fwHash := sha512 b.firmware, rtHash := sha512 b.runtime
        clusters := ((List.range s.m.clusters.length).zip s.m.clusters).map fun (i, c) => c.pooled (b.defects.getD i 0) } }

/-- The scrub of DIRTY cluster `k` completes: at bring-up, after which the cluster is pooled unless its defects exclude it (R443),
or in the teardown of its partition, which has one cluster less to scrub (R424). -/
def execDirtyClusterScrub (k : Nat) (s : State) : Out3 :=
  event "DIRTY_CLUSTER_SCRUB" <|
    match s.m.clusters[k]? with
    | none => none
    | some c =>
      if !c.dirty || !s.m.power.isReady || (s.m.vfs.toList.any fun f => f.owned.contains k && f.st != .scrubbing) then none
      else
        let s := { s with m := s.m.mapCluster (· == k) Cluster.scrubbed }
        some { s with m := { s.m with vfs := s.m.vfs.map fun f =>
          if f.st = .scrubbing then { f with owned := f.owned.filter (· != k) } else f } }

/-! ## Cooling (R447) -/

/-- The warning limits and the critical limits are passed. -/
def warnLimits (outlet : Int) (flow : Nat) : Bool := 55 < outlet || flow < 60
def critLimits (outlet : Int) (flow : Nat) : Bool := 65 < outlet || flow < 30

/-- The BMC measures outlet temperature and flow, which it does at any time; `critAt` is since when the critical limits are
passed. -/
def Module.measure (m : Module) (outlet : Int) (flow : Nat) : Module :=
  { m with outlet := outlet, flow := flow
           critAt := if critLimits outlet flow then some (m.critAt.getD m.bmc) else none }

/-- What the BMC has measured passes the warning limits: k is at most 4 for every function while the warning lasts. -/
def execThermalWarning (s : State) : Out3 :=
  if warnLimits s.m.outlet s.m.flow then .next { s with m := { s.m with warn := true } } else off "THERMAL_WARNING"

/-- What the BMC has measured is within the warning limits again. -/
def execThermalWarningCleared (s : State) : Out3 :=
  if s.m.warn && !warnLimits s.m.outlet s.m.flow then .next { s with m := { s.m with warn := false } }
  else off "THERMAL_WARNING_CLEARED"

/-- Every key slot has lost its key: what was written under one is not read again (R424). -/
def Module.dropKeys (m : Module) : Module :=
  { m with keys := [], keyEpoch := (m.keys.map (·.1)).foldl (fun l k => setNat l k (lookupNat l k + 1)) m.keyEpoch }

/-- Power is removed, with no teardown: everything on the wafer returns to its reset state, keys with it. The persistent DIRTY bits
stay as they are, and what the BMC measures, and so does memory that is not this module's (R444, R445, R447). -/
def powerDown (s : State) : State :=
  { State.reset with
    sched := s.sched
    free := s.free
    m := { State.reset.m with
      mem := { cells := s.m.mem.cells.filter fun c => 0x30000000000 ≤ c.1 }
      badMem := s.m.badMem.filter fun k => 0x30000000000 ≤ 64 * k
      badHome := s.m.badHome.filter fun k => 0x30000000000 ≤ 8 * k
      codes := s.m.codes.filter fun k => 0x30000000000 ≤ 64 * k.1
      blockKey := s.m.blockKey.filter fun k => 0x30000000000 ≤ 64 * k.1
      keyEpoch := s.m.dropKeys.keyEpoch
      keyHash := s.m.keyHash, bmc := s.m.bmc, critAt := s.m.critAt
      warn := s.m.warn, outlet := s.m.outlet, flow := s.m.flow
      clusters := s.m.clusters.map fun c => { dirty := c.dirty } } }

/-- Cycles of 1 s. -/
def critCycles : Nat := 1900000000

/-- The critical condition has lasted 1 s by the BMC's clock, whatever the module's status: the BMC removes power (R447). -/
def execThermalCritical (s : State) : Out3 :=
  match s.m.critAt with
  | some c => if c + critCycles ≤ s.m.bmc && s.m.power != .off then .next (powerDown s) else off "THERMAL_CRITICAL"
  | none => off "THERMAL_CRITICAL"

/-- The module loses power or is reset while it runs (R445). -/
def execPowerLoss (s : State) : Out3 := .next (powerDown s)

end Sys2Proof.Machine
end

