-- ==== Sys2Proof/Machine/Compare.lean ====
section
/-! DEFINITION. Compares, bit and field operations and the validity instructions (R123 to R128). -/

namespace Sys2Proof.Machine

/-- The result of a compare: 1 with V = 1 when true, 0 with V = 0 when false (R22, R123). -/
def putTruth (s : State) (d : Fin 32) (t : Bool) : Res := putResult s d (if t then 1 else 0) t

def cmp (s : State) (sz : Sz32) (d a b : Fin 32) (wa wb : Bool) (p : Nat → Nat → Nat → Bool) : Out3 :=
  let w := Sz32.width sz
  finish s <| srcX s a fldA wa {} fun x k => srcX s b fldB wb k fun y k =>
    commit s k (putTruth s d (p w (x.toNat % 2 ^ w) (y.toNat % 2 ^ w)))

def execCmpEq (sz : Sz32) (d a b : Fin 32) (wa wb : Bool) (s : State) : Out3 :=
  cmp s sz d a b wa wb fun _ x y => x == y
def execCmpNe (sz : Sz32) (d a b : Fin 32) (wa wb : Bool) (s : State) : Out3 :=
  cmp s sz d a b wa wb fun _ x y => x != y
def execCmpLt (sz : Sz32) (d a b : Fin 32) (wa wb : Bool) (s : State) : Out3 :=
  cmp s sz d a b wa wb fun w x y => sgn w x < sgn w y
def execCmpLtn (sz : Sz32) (d a b : Fin 32) (wa wb : Bool) (s : State) : Out3 :=
  cmp s sz d a b wa wb fun _ x y => x < y
def execCmpLe (sz : Sz32) (d a b : Fin 32) (wa wb : Bool) (s : State) : Out3 :=
  cmp s sz d a b wa wb fun w x y => sgn w x ≤ sgn w y
def execCmpLen (sz : Sz32) (d a b : Fin 32) (wa wb : Bool) (s : State) : Out3 :=
  cmp s sz d a b wa wb fun _ x y => x ≤ y
def execCmpGt (sz : Sz32) (d a b : Fin 32) (wa wb : Bool) (s : State) : Out3 :=
  cmp s sz d a b wa wb fun w x y => sgn w y < sgn w x
def execCmpGtn (sz : Sz32) (d a b : Fin 32) (wa wb : Bool) (s : State) : Out3 :=
  cmp s sz d a b wa wb fun _ x y => y < x
def execCmpGe (sz : Sz32) (d a b : Fin 32) (wa wb : Bool) (s : State) : Out3 :=
  cmp s sz d a b wa wb fun w x y => sgn w y ≤ sgn w x
def execCmpGen (sz : Sz32) (d a b : Fin 32) (wa wb : Bool) (s : State) : Out3 :=
  cmp s sz d a b wa wb fun _ x y => y ≤ x

/-- A floating-point compare, which accrues the flags of R89. -/
def fcmpWord (s : State) (f : FEt) (d a b : Fin 32) (wa wb : Bool) (op : FCmp) : Out3 :=
  finish s <| srcX s a fldA wa {} fun x k => srcX s b fldB wb k fun y k =>
    let r := Machine.fcmp (fmtOf f) op (x.toNat % 2 ^ (fmtOf f).width) (y.toNat % 2 ^ (fmtOf f).width)
    commit s k (putFlagged s d r.2 (if r.1 then 1 else 0) r.1)

def execFcmpEq (f : FEt) (d a b : Fin 32) (wa wb : Bool) (s : State) : Out3 := fcmpWord s f d a b wa wb .eq
def execFcmpLt (f : FEt) (d a b : Fin 32) (wa wb : Bool) (s : State) : Out3 := fcmpWord s f d a b wa wb .lt
def execFcmpLe (f : FEt) (d a b : Fin 32) (wa wb : Bool) (s : State) : Out3 := fcmpWord s f d a b wa wb .le
def execFcmpUn (f : FEt) (d a b : Fin 32) (wa wb : Bool) (s : State) : Out3 := fcmpWord s f d a b wa wb .un

def execTst (d a b : Fin 32) (wa wb : Bool) (s : State) : Out3 :=
  cmp s .w64 d a b wa wb fun _ x y => x &&& y != 0

/-- CMPI (R124). -/
def cmpi (s : State) (d a : Fin 32) (wa : Bool) (imm : BitVec 11) (p : W64 → W64 → Bool) : Out3 :=
  finish s <| srcX s a fldA wa {} fun x k => commit s k (putTruth s d (p x (imm.signExtend 64)))

def execCmpiEq (d a : Fin 32) (wa : Bool) (imm : BitVec 11) (s : State) : Out3 := cmpi s d a wa imm fun x y => x == y
def execCmpiNe (d a : Fin 32) (wa : Bool) (imm : BitVec 11) (s : State) : Out3 := cmpi s d a wa imm fun x y => x != y
def execCmpiLt (d a : Fin 32) (wa : Bool) (imm : BitVec 11) (s : State) : Out3 := cmpi s d a wa imm fun x y => x.slt y
def execCmpiLtn (d a : Fin 32) (wa : Bool) (imm : BitVec 11) (s : State) : Out3 := cmpi s d a wa imm fun x y => x.ult y
def execCmpiGt (d a : Fin 32) (wa : Bool) (imm : BitVec 11) (s : State) : Out3 := cmpi s d a wa imm fun x y => y.slt x
def execCmpiGtn (d a : Fin 32) (wa : Bool) (imm : BitVec 11) (s : State) : Out3 := cmpi s d a wa imm fun x y => y.ult x

/-! Bit and field operations (R125, R126). -/

/-- A unary member: `f` on the w-bit pattern, the w-bit result sign-extended. -/
def bitUnary (s : State) (sz : Sz32) (d a : Fin 32) (wa : Bool) (f : Nat → Nat → Nat) : Out3 :=
  let w := Sz32.width sz
  unary s d a wa fun x => sext64 w (f w (x.toNat % 2 ^ w))

/-- The low `n` bytes in reverse order. -/
def swapBytes (n x : Nat) : Nat := natOf (bytesOf n x).reverse

def execClz (sz : Sz32) (d a : Fin 32) (wa : Bool) (s : State) : Out3 := bitUnary s sz d a wa fun w x => w - bitlen x
def execCtz (sz : Sz32) (d a : Fin 32) (wa : Bool) (s : State) : Out3 := bitUnary s sz d a wa fun w x => ctzN w x
def execPopc (sz : Sz32) (d a : Fin 32) (wa : Bool) (s : State) : Out3 := bitUnary s sz d a wa fun w x => popcount w x
def execBswap (sz : Sz32) (d a : Fin 32) (wa : Bool) (s : State) : Out3 :=
  bitUnary s sz d a wa fun w x => swapBytes (w / 8) x
def execBrev (sz : Sz32) (d a : Fin 32) (wa : Bool) (s : State) : Out3 := bitUnary s sz d a wa fun w x => revBits w x
def execSextB (d a : Fin 32) (wa : Bool) (s : State) : Out3 := unary s d a wa fun x => (x.setWidth 8).signExtend 64
def execSextH (d a : Fin 32) (wa : Bool) (s : State) : Out3 := unary s d a wa fun x => (x.setWidth 16).signExtend 64
def execSextW (d a : Fin 32) (wa : Bool) (s : State) : Out3 := unary s d a wa fun x => (x.setWidth 32).signExtend 64
def execZextB (d a : Fin 32) (wa : Bool) (s : State) : Out3 := unary s d a wa fun x => (x.setWidth 8).setWidth 64
def execZextH (d a : Fin 32) (wa : Bool) (s : State) : Out3 := unary s d a wa fun x => (x.setWidth 16).setWidth 64
def execZextW (d a : Fin 32) (wa : Bool) (s : State) : Out3 := unary s d a wa fun x => (x.setWidth 32).setWidth 64

/-- First bit and length of the field that X[B] describes in a w-bit value (R126). -/
def fieldOf (w b : Nat) : Nat × Nat :=
  let pos := bits b 0 6
  let len := min (bits b 8 7) 64
  (pos, min (pos + len) w - pos)

def execBfx (sz : Sz32) (d a b : Fin 32) (wa wb : Bool) (s : State) : Out3 :=
  let w := Sz32.width sz
  binary s d a b wa wb fun x y =>
    let (pos, len) := fieldOf w y.toNat
    sext64 w (bits (x.toNat % 2 ^ w) pos len)

def execBfi (sz : Sz32) (d a b : Fin 32) (wa wb : Bool) (s : State) : Out3 :=
  let w := Sz32.width sz
  finish s <| srcX s a fldA wa {} fun x k => srcX s b fldB wb k fun y k => srcX s d fldD false k fun z k =>
    let (pos, len) := fieldOf w y.toNat
    let old := z.toNat % 2 ^ w
    let r := old - bits old pos len * 2 ^ pos + x.toNat % 2 ^ len * 2 ^ pos
    commit s k (putResult s d (sext64 w r) true)

def execPack (sz : Sz32) (d a b : Fin 32) (wa wb : Bool) (s : State) : Out3 :=
  let h := Sz32.width sz / 2
  binary s d a b wa wb fun x y => sext64 (2 * h) (y.toNat % 2 ^ h * 2 ^ h + x.toNat % 2 ^ h)

/-! Validity instructions (R127): the V tags of the sources are data, and nothing nullifies the word. -/

def valUnary (s : State) (d a : Fin 32) (wa : Bool) (f : W64 → Bool → W64 × Bool) : Out3 :=
  finish s <| examX s a fldA wa {} fun x v k => accept s k (putResult s d (f x v).1 (f x v).2)

def valBinary (s : State) (d a b : Fin 32) (wa wb : Bool) (f : W64 → Bool → W64 → Bool → W64 × Bool) : Out3 :=
  finish s <| examX s a fldA wa {} fun x v k => examX s b fldB wb k fun y u k =>
    accept s k (putResult s d (f x v y u).1 (f x v y u).2)

def execGate (d a b : Fin 32) (wa wb : Bool) (s : State) : Out3 := valBinary s d a b wa wb fun x v _ u => (x, v && u)
def execGaten (d a b : Fin 32) (wa wb : Bool) (s : State) : Out3 := valBinary s d a b wa wb fun x v _ u => (x, v && !u)
def execSetv (d a : Fin 32) (wa : Bool) (s : State) : Out3 := valUnary s d a wa fun x _ => (x, true)
def execClrv (d a : Fin 32) (wa : Bool) (s : State) : Out3 := valUnary s d a wa fun x _ => (x, false)
def execIsv (d a : Fin 32) (wa : Bool) (s : State) : Out3 := valUnary s d a wa fun _ v => (if v then 1 else 0, true)
def execSelv (d a b : Fin 32) (wa wb : Bool) (s : State) : Out3 :=
  valBinary s d a b wa wb fun x v y u => if v then (x, true) else (y, u)
def execMovv (d a : Fin 32) (wa : Bool) (s : State) : Out3 := valUnary s d a wa fun x v => (x, v)

end Sys2Proof.Machine
end

