-- ==== Sys2Proof/Machine/Paging.lean ====
section
/-! DEFINITION. Replies to page requests and the ring's head (R332, R419), and the host's view of rim memory (R406, R420). -/

namespace Sys2Proof.Machine

/-! ## Replies -/

/-- What a reply does to a context that waits for the tag at its word, or whose pre-emption kept the request: a denial is
raised at the word (R332, R369). -/
def replyCtx (tag : Nat) (req : PReq) (grant : Bool) (c : Ctx) : Ctx :=
  let deny (d : Denial) : Denial := { d with denied := true }
  let c := if c.run = .blocked (.page tag) ∧ !req.stage1 ∧ !grant then { c with denial := c.denial.map deny } else c
  match c.kept with
  | some (t, d) => if t = tag ∧ !d.denied then { c with kept := if grant then none else some (t, deny d) } else c
  | none => c

def replyHelper (tag : Nat) (grant : Bool) (h : Helper) : Helper :=
  if h.stall = some tag then
    { h with stall := none, denial := if grant then none else h.denial.map fun d => { d with denied := true } }
  else h

/-- A reissued access that waited: a grant issues it again, a denial is its deferred fault (R373). -/
def denyAcc (tag : Nat) (a : Access) : Access :=
  if a.page = some (.page tag) then { a with page := none, fault := some (xlateFault a.kind.xlate.cause a.va) } else a

/-- The runtime goes on with a forwarded request, or finds the reply when an interrupt of its wait has been served (R448). The context
that issues on the tile is not switched by it. -/
def replyRuntime (tag : Nat) (grant : Bool) (s : State) (x : Nat × Ctx) : State :=
  match x.2.frame with
  | some f =>
    if f.req != some tag || f.reply.isSome then s
    else if x.2.run = .blocked (.page tag) then
      withFocus s x.1 x.2.id fun s =>
        let u := runtimeReply { s with c := s.c.fromFrame f } grant
        { u with t := { u.t with switch := s.t.switch } }
    else s.mapCtx x.1 x.2.id fun c => { c with frame := some { f with reply := some grant } }
  | none => s

/-- The waiters of the focused grid are served. -/
def replyGrid (tag : Nat) (req : PReq) (grant : Bool) (s : State) : State :=
  let s := s.mapAllCtxs fun _ c => replyCtx tag req grant c
  let s := s.mapTiles fun t => { t with ldr := replyHelper tag grant t.ldr, str := replyHelper tag grant t.str }
  let s := if req.stage1 then s.allCtxs.foldl (replyRuntime tag grant) s else s
  if grant then retryAccs (.page tag) s
  else s.mapAllCtxs fun _ c => { c with accs := c.accs.map (denyAcc tag) }

/-- A write of PRQREPLY answers the request with the tag; an unknown tag is counted in the error log (R419). -/
def execPageRequestReply (v : Nat) (grant : Bool) (tag : BitVec 16) (s : State) : Out3 :=
  if !s.hasVf v then off "PAGE_REQUEST_REPLY"
  else
    match (s.vfAt v).reqs.find? (·.tag == tag) with
    | none => .next { s with m := s.m.logErr errReply (tag.setWidth 64) }
    | some r =>
      let s := s.mapVf v fun f => { f with reqs := f.reqs.filter (·.tag != tag) }
      .next (forVf v (replyGrid tag.toNat r grant) s)

/-- A write of PRQHEAD frees entries, so what waits for a full ring goes on (R419). -/
def execPrqheadWrite (v : Nat) (x : W64) (s : State) : Out3 :=
  if s.hasVf v then
    .next (forVf v (retryAccs .prqFull) (s.mapVf v fun f => { f with prqHead := x.toNat % 256 }))
  else off "PRQHEAD_WRITE"

/-! ## CXL.mem -/

/-- A write of the host in parts of one page; a part that no rim page takes is left out (log 13). -/
def cxlWrite (v : Nat) : List (Nat × Nat) → Module → List Byte → Module
  | [], m, _ => m
  | (a, n) :: r, m, bs =>
    let m := pulled m v a
    let m := match cxlPlace m v a with
      | some (pa, key) => m.writeBy byHost key pa (bs.take n)
      | none => m
    cxlWrite v r m (bs.drop n)

/-- A read of the host corrects what it reads, and its answer carries the data with the poison indication where a part is
uncorrectable, fails its carry code or has no memory (R381, R384). -/
def cxlRead (v : Nat) : List (Nat × Nat) → Module → List Byte → Module
  | [], m, bs => { m with cxlOut := some (bs, false) }
  | (a, n) :: r, m, bs =>
    let m := pulled m v a
    match cxlPlace m v a with
    | some (pa, key) =>
      if m.badRange pa n || m.codeBad pa n then { m with cxlOut := some ([], true) }
      else cxlRead v r (m.correctRange pa n) (bs ++ m.readGlob key pa n)
    | none => { m with cxlOut := some ([], true) }

/-- The host reads (`data` absent) or writes rim memory of a function; a protected one answers with poison and takes
nothing (R406, R420). -/
def execCxlMemAccess (v gpa n : Nat) (data : Option (List (BitVec 8))) (s : State) : Out3 :=
  event "CXL_MEM_ACCESS" <|
    if !s.hasVf v then none
    else if (s.vfAt v).prot then
      some (if data.isSome then s else { s with m := { s.m with cxlOut := some ([], true) } })
    else
      match data with
      | some bs => ifPulled { s with m := cxlWrite v (pageParts gpa bs.length) s.m bs }
      | none => ifPulled { s with m := cxlRead v (pageParts gpa n) s.m [] }

end Sys2Proof.Machine
end

