-- ==== Sys2Proof/Machine/Domain.lean ====
section
/-! DEFINITION. Strand links and reachability (R427 to R432), and live migration (R435, R436). -/

namespace Sys2Proof.Machine

/-- A write of any value clears RETRY (R428). -/
def execLinkstatWrite (s : State) : Out3 :=
  if s.m.power.isReady then .next { s with m := { s.m with linkRet := 0 } } else off "LINKSTAT_WRITE"

/-- A beat arrives on an up link; one whose CRC fails is resent, and RETRY counts it (R427, R428). -/
def execLinkBeat (l : Nat) (ok : Bool) (s : State) : Out3 :=
  if l < 32 && maskBit s.m.linkUp.toNat l then
    .next (if ok then s
      else { s with m := { s.m with linkRet := if s.m.linkRet = BitVec.allOnes 32 then s.m.linkRet else s.m.linkRet + 1 } })
  else off "LINK_BEAT"

/-! ## Migrations -/

def settleMig (v : Nat) (s : State) : State := { s with m := s.m.settleMig v }

/-- What waited for pulls that have ended goes on. -/
def retryPulls (v : Nat) (ls : List Nat) (s : State) : State := ls.foldl (fun s l => forVf v (retryAccs (.pull l)) s) s

/-- The source of the function's migration is unreachable: its leaves are poisoned, pulls are discarded, and the migration
has failed, which MSI-X vector 0 signals (R436). -/
def failMig (v : Nat) (s : State) : State :=
  let g := (s.vfAt v).mig
  let ls := leavesLeft s.m v
  let m := ls.foldl (fun m l => m.writeGlob 0 l.leaf.pa (bytesOf 8 (l.leaf.pte ||| 2 ^ 59))) s.m
  let n := g.poisoned.toNat + ls.length
  let s := { s with m := m }.mapVf v fun f =>
    { f with mig := { f.mig with st := 3, pulling := [], poisoned := if n < 2 ^ 32 then .ofNat 32 n else BitVec.allOnes 32 } }
  let s := { s with m := { s.m with msix := s.m.msix ++ [(v, 0)] } }
  retryPulls v g.pulling s

/-- Every migration whose source is unreachable fails. -/
def checkMigs (s : State) : State :=
  (List.range 64).foldl (fun s v =>
    let g := (s.vfAt v).mig
    if g.st = 1 ∧ g.src ≠ s.m.modId ∧ !s.m.reaches g.src.toNat then failMig v s else s) s

/-! ## A link goes down (R430, R432) -/

/-- A launch group of the grid has a member on module `p`. -/
def Grid.reachesInto (g : Grid) (here : List Nat) (p : Nat) : Bool :=
  g.live && g.domgrp && (List.range g.grpN).any fun i => !here.contains i && Config.memberModule g.group i == p

/-- Grids with a launch-group member on an unreachable module end as aborted (R432). -/
def abortLost (gone : List Nat) (s : State) : State :=
  dropDead ((List.range 64).foldl (fun s v => forVf v (fun s =>
    if gone.any fun p => s.g.reachesInto s.g.grpHere p then endGrid csAborted s else s) s) s)

/-- Link `l` goes down. Traffic takes another path;
a module that no path reaches any more is unreachable (R430, R432, R436). -/
def execLinkDown (l : Nat) (s : State) : Out3 :=
  if !s.m.power.isReady || 544 ≤ l then off "LINK_DOWN"
  else
    let m := s.m.markDown l
    let gone := (List.range 16).filter fun p => s.m.remoteOk p && p != s.m.modId.toNat && s.m.reaches p && !m.reaches p
    .next (checkMigs (abortLost gone { s with m := m }))

/-! ## Migration (R435) -/

/-- START is written in STATE 0; in any other state the write is ignored. Cached translations to the source slot go. -/
def execMigrationStart (v : Nat) (s : State) : Out3 :=
  if !s.hasVf v then off "MIGRATION_START"
  else if (s.vfAt v).mig.st ≠ 0 then .next s
  else
    let s := s.mapVf v fun f => { f with mig := { f.mig with st := 1, pulling := [] } }
    .next (checkMigs (settleMig v (forVf v (flushTlbs fun e => e.vf == v && !cacheable s.m e) s)))

/-- The oldest pull in progress completes, when the pool has a page; its page may have been pulled, or its leaf rewritten,
meanwhile. -/
def execPagePull (v : Nat) (s : State) : Out3 :=
  event "PAGE_PULL" <|
    let g := (s.vfAt v).mig
    match g.pulling with
    | [] => none
    | a :: r =>
      if 64 ≤ v || (g.st != 1 && g.st != 2) then none
      else
        match (leavesLeft s.m v).find? fun l => l.leaf.pa == a && l.leaf.shift == 16 with
        | none => some (retryPulls v [a] (settleMig v (s.mapVf v fun f => { f with mig := { f.mig with pulling := r } })))
        | some l =>
          if g.poolN = 0 then none
          else
            let s := { s with m := pullPage s.m v l.leaf }
            let s := s.mapVf v fun f => { f with mig := { f.mig with pulling := r } }
            some (retryPulls v [a] (settleMig v s))

/-- The pull engine starts the pull of the next remaining 64 KiB leaf in ascending guest-physical order. -/
def execBackgroundPull (v : Nat) (s : State) : Out3 :=
  event "BACKGROUND_PULL" <|
    let g := (s.vfAt v).mig
    if 64 ≤ v || g.st != 1 then none
    else ((leavesLeft s.m v).find? fun l => l.leaf.shift == 16 && !g.pulling.contains l.leaf.pa).map fun l =>
      { s with m := startPull s.m v l.leaf.pa }

/-- A write of POOLPAGES, after which waiting pulls can complete. -/
def execPoolpagesWrite (v : Nat) (n : W64) (s : State) : Out3 :=
  if s.hasVf v then .next (s.mapVf v fun f => { f with mig := { f.mig with poolN := n } }) else off "POOLPAGES_WRITE"

end Sys2Proof.Machine
end

