-- ==== Sys2Proof/Machine/Events.lean ====
section
/-! DEFINITION. Events of a tile core: the landing of fills (R17, R19, R364), interrupt entry (R34), deferred faults
(R364), the end of a turn (R232) and the timer (R33). -/

namespace Sys2Proof.Machine

/-! ## Fills -/

/-- A register becomes cleared because its fill does not take place (R364). -/
def clearDest (s : State) (code : Nat) : State :=
  if code < 32 then emptyX s (Fin.ofNat 32 code) .cleared
  else if code < 64 then emptyV s (Fin.ofNat 32 (code - 32)) .cleared
  else emptyH s (Fin.ofNat 8 (code - 64)) .cleared

/-- The lanes of `n` bytes each that `vldb` writes (R159). -/
def replicateLanes (n x : Nat) : W512 := .ofNat 512 (ofLanes (8 * n) (List.replicate (64 / n) x))

/-- A scalar destination of a fill. -/
def fillX (s : State) (a : Access) (r : Nat) (v : W64) (ok : Bool) : State :=
  if a.live.contains r then writeX s (Fin.ofNat 32 r) v ok else s

/-- The fill of an access with its data (R17, R132, R155, R159, R206, R298, R299). -/
def fillWith (s : State) (a : Access) (bs : List Byte) : State :=
  let x := natOf bs
  let q (d : Fin 32) (ok : Bool) : State :=
    fillX (fillX s a d.val (.ofNat 64 (natOf (bs.take 8))) ok) a (d.val + 1) (.ofNat 64 (natOf (bs.drop 8))) ok
  match a.kind with
  | .load d sg => fillX s a d.val (extendTo a.size sg x) true
  | .loadQ d => q d true
  | .vload d => if a.live = [] then s else writeV s d (.ofNat 512 x) allV
  | .vbcast d => if a.live = [] then s else writeV s d (replicateLanes a.size x) allV
  | .hload d => if a.live = [] then s else writeH s d (.ofNat 8192 x)
  | .amo d op _ dw => fillX s a d.val (extendTo a.size (!dw && op != .fadd) x) true
  | .casD d _ _ => fillX s a d.val (.ofNat 64 x) a.ok
  | .casQ d _ _ => q d a.ok
  | .ldk i =>
    { s with t := { s.t with ni := s.t.ni.map fun n => if n.id = i ∧ n.ldk then
        { n with loaded := true, r := { n.r with payload := setNth n.r.payload 0 (.ofNat 64 x) } } else n } }
  | .wbld _ _ => s

/-- The fill that does not take place: destinations become cleared, an `ldk` sends no record, and the fault is raised with the
lowest of them as DREG (R362, R364). -/
def fillFault (s : State) (a : Access) (f : DFault) : State :=
  let f : DFault := { f with tval2 := f.tval2 + .ofNat 64 (256 * a.dreg) }
  let s := a.live.foldl clearDest s
  let s := match a.kind with
    | .ldk i => { s with t := { s.t with ni := s.t.ni.filter fun n => !(n.id == i && n.ldk) } }
    | _ => s
  raiseDeferred s f

def AccKind.isWbld : AccKind → Bool
  | .wbld _ _ => true
  | _ => false

/-- The carry codes that a response brings fit its data; an access on-core has no response (R383, R384). -/
def Access.sound (a : Access) (bs : List Byte) : Bool := a.code == [] || a.code == carryCodes (a.va.toNat % 64) bs

/-- Access `k` of the focused context lands, performed first if it is not yet: after the context's earlier accesses to the
same bytes (R285). -/
def landHere (s : State) (k : Nat) : Option State :=
  match s.c.accs[k]? with
  | none => none
  | some a =>
    if a.kind.isWbld || a.reissue then none
    else
      match (if a.performed then none else lashInbound s s.t.vt a.pieces) with
      | some s' => some s'
      | none =>
        let s := if a.performed then s else performOwn (fun b => anyOverlap b.pieces a.pieces) s
        match s.c.accs[k]? with
        | none => none
        | some a =>
          if !a.performed || ((s.c.accs.take k).any fun b => !b.performed && anyOverlap b.pieces a.pieces) then none
          else
            let s := { s with c := { s.c with accs := dropNth s.c.accs k } }
            match a.fault, a.data with
            | some f, _ => some (fillFault s a f)
            | none, some bs => some (if a.sound bs then fillWith s a bs else fillFault s a (dataFaultOf .uncorr a.va srcCarry))
            | none, none => none

def execFillLand (vt c k : Nat) (s : State) : Out3 :=
  event "FILL_LAND" <|
    if (s.ctx? vt c).isNone || s.g.still vt then none
    else (landHere (s.focus vt c) k).map fun s' => s'.focus s.t.vt s.c.id

/-! ## Interrupts, deferred faults and turns -/

/-- Context `c` of tile `vt` is the one that goes on next; `k` runs with it in focus. -/
def onTurn (row : String) (vt c : Nat) (s : State) (k : State → Option State) : Out3 :=
  event row <|
    match s.tile? vt with
    | none => none
    | some t =>
      if nextTurn s t != some c then none
      else k (switchTo (s.focus vt c) c)

/-- The interrupt that is due is taken. A synchronous trap of the word itself goes before it, which a schedule keeps to
(`scheduled`). -/
def execInterruptEntry (vt c : Nat) (s : State) : Out3 :=
  onTurn "INTERRUPT_ENTRY" vt c s fun s =>
    if s.heldBack vt || (dueFault s).isSome || (dueDenial s).isSome then none else (dueIrq s).map fun z => enterIrq s z

def execDeferredFault (vt c : Nat) (s : State) : Out3 :=
  onTurn "DEFERRED_FAULT" vt c s fun s => if (dueDenial s).isSome then none else (dueFault s).map fun d => enterFault s d

/-- The turn of the running context has reached CAP and another context is ready (R232). -/
def execRuncapExpiry (vt : Nat) (s : State) : Out3 :=
  event "RUNCAP_EXPIRY" <|
    match s.tile? vt with
    | none => none
    | some t =>
      match s.ctx? vt t.cur with
      | none => none
      | some c =>
        if t.switch || s.frozenRole || c.runcap == 0 || c.turn < c.runcap.toNat || !c.atBoundary || s.heldBack vt
            || !(readyIds s t).any (· != c.id) then none
        else some (s.mapTile vt fun t => { t with switch := true })

/-- `time` has reached `tmatch`: `ip.TIMER`, which is derived from the two, is 1 (R31, R33). -/
def execTimerMatch (vt c : Nat) (s : State) : Out3 :=
  match s.ctx? vt c with
  | none => off "TIMER_MATCH"
  | some x => if x.tmatch.toNat ≤ s.time then .next s else off "TIMER_MATCH"

end Sys2Proof.Machine
end

