-- ==== Sys2Proof/Machine/Hyper.lean ====
section
/-! DEFINITION. Hypervectors, bundle accumulators and the recall memory (R201 to R218). -/

namespace Sys2Proof.Machine

/-! ## HMEM (R205 to R207) -/

def execHld (d : Fin 8) (b : Fin 32) (wa nw : Bool) (off : BitVec 11) (s : State) : Out3 :=
  finish s <| srcX s b fldA wa {} fun base k => commit s k <| dstH s d <|
    let ea := base + off.signExtend 64 * 1024
    (checkAddr s ea 1024 64 .load .load).bind fun s ps =>
      startAcc s { kind := .hload d, va := ea, size := 1024, pieces := ps } fun s =>
        leaveFor (emptyH s d .awaiting) (nw || isOwn ea) (64 + d.val)

def execHst (d : Fin 8) (b : Fin 32) (wa wd : Bool) (off : BitVec 11) (s : State) : Out3 :=
  finish s <| srcX s b fldA wa {} fun base k => srcH s d fldD wd k fun x k => commit s k <|
    let ea := base + off.signExtend 64 * 1024
    (checkAddr s ea 1024 64 .store (.store false)).bind fun s ps => storeTo s ea [(0, bytesOf 1024 x.toNat)] ps

/-! ## HV (R208 to R212) -/

def hv2 (s : State) (d a b : Fin 8) (f : W8192 → W8192 → W8192) : Out3 :=
  finish s <| srcH s a fldA false {} fun x k => srcH s b fldB false k fun y k => commit s k <|
    dstH s d (.done (writeH s d (f x y)))

def execHxor (d a b : Fin 8) (s : State) : Out3 := hv2 s d a b (· ^^^ ·)
def execHand (d a b : Fin 8) (s : State) : Out3 := hv2 s d a b (· &&& ·)
def execHor (d a b : Fin 8) (s : State) : Out3 := hv2 s d a b (· ||| ·)

def execHnot (d a : Fin 8) (s : State) : Out3 :=
  finish s <| srcH s a fldA false {} fun x k => commit s k <| dstH s d (.done (writeH s d (~~~x)))

def execHmov (d a : Fin 8) (s : State) : Out3 :=
  finish s <| srcH s a fldA false {} fun x k => commit s k <| dstH s d (.done (writeH s d x))

def execHrot (d a : Fin 8) (b : Fin 32) (s : State) : Out3 :=
  finish s <| srcH s a fldA false {} fun x k => srcX s b fldB false k fun n k => commit s k <|
    dstH s d (.done (writeH s d (x.rotateLeft (n.toNat % 8192))))

/-- The number whose bits 0 to `n - 1` are `f`. -/
def natOfBits (f : Nat → Bool) : Nat → Nat
  | 0 => 0
  | n + 1 => natOfBits f n + (f n).toNat * 2 ^ n

def hvOfBits (f : Nat → Bool) : W8192 := .ofNat 8192 (natOfBits f 8192)

/-- Counter `i` of a bundle accumulator (R202). -/
def counter (b : BitVec 65536) (i : Nat) : Int := sgn 8 (bits b.toNat (8 * i) 8)

/-- The exact sums of R210, each clamped. -/
def bundle (b : BitVec 65536) (h : W8192) (w : Int) : List (Int × Bool) :=
  (List.range 8192).map fun i =>
    let v := counter b i + (if h.getLsbD i then w else -w)
    let c := clampInt (-127) 127 v
    (c, c != v)

/-- Bundle into accumulator `d`, with its saturation bit (R204, R210). -/
def bundleInto (s : State) (d : Fin 2) (h : W8192) (w : Int) : State :=
  let l := bundle (s.c.b[d]) h w
  let s' := putB s d (.ofNat 65536 (ofLanes 8 (l.map fun x => pat 8 x.1)))
  { s' with c := { s'.c with sat := if l.any (·.2) then s'.c.sat ||| .ofNat 2 (2 ^ d.val) else s'.c.sat } }

/-- Accumulator `d` holds an uncorrectable error (R363). -/
def onCoreB (s : State) (d : Fin 2) (r : Res) : Res := onCoreReg s (0x8000 + 8192 * d.val) 8192 r

def execHbund (d : Fin 2) (a : Fin 8) (s : State) : Out3 :=
  finish s <| srcH s a fldA false {} fun x k => commit s k <| onCoreB s d <| .done (bundleInto s d x 1)

def execHbunw (d : Fin 2) (a : Fin 8) (b : Fin 32) (s : State) : Out3 :=
  finish s <| srcH s a fldA false {} fun x k => srcX s b fldB false k fun w k => commit s k <|
    if 127 < w.toNat then .trap s .illegal w 0 else onCoreB s d <| .done (bundleInto s d x w.toNat)

def execHbclr (d : Fin 2) (s : State) : Out3 := finish s <| .done (putB s d 0)

def execHthr (d : Fin 8) (a : Fin 2) (b : Fin 8) (s : State) : Out3 :=
  finish s <| srcH s b fldB false {} fun y k => commit s k <| dstH s d <| onCoreB s a <|
    .done (writeH s d (hvOfBits fun i =>
      let c := counter (s.c.b[a]) i
      decide (0 < c) || (decide (c = 0) && y.getLsbD i)))

def execHpopc (d : Fin 32) (a : Fin 8) (s : State) : Out3 :=
  finish s <| srcH s a fldA false {} fun x k => commit s k <| putResult s d (.ofNat 64 (popcount 8192 x.toNat)) true

/-- Number of bits in which two hypervectors differ. -/
def distance (x y : W8192) : Nat := popcount 8192 (x ^^^ y).toNat

def execHdist (d : Fin 32) (a b : Fin 8) (s : State) : Out3 :=
  finish s <| srcH s a fldA false {} fun x k => srcH s b fldB false k fun y k => commit s k <|
    putResult s d (.ofNat 64 (distance x y)) true

def execHbcast (d : Fin 8) (a : Fin 32) (s : State) : Out3 :=
  finish s <| srcX s a fldA false {} fun x k => commit s k <| dstH s d <|
    .done (writeH s d (.ofNat 8192 (ofLanes 64 (List.replicate 128 x.toNat))))

def execHins (d : Fin 8) (a b : Fin 32) (s : State) : Out3 :=
  finish s <| srcX s a fldA false {} fun v k => srcX s b fldB false k fun i k => srcH s d fldD false k fun x k =>
    commit s k <| dstH s d <| .done (writeH s d (.ofNat 8192 (setLane 64 x.toNat (i.toNat % 128) v.toNat)))

def execHext (d : Fin 32) (a : Fin 8) (b : Fin 32) (s : State) : Out3 :=
  finish s <| srcH s a fldA false {} fun x k => srcX s b fldB false k fun i k => commit s k <|
    putResult s d (.ofNat 64 (lane 64 x.toNat (i.toNat % 128))) true

/-! ## HREC (R213 to R217) -/

def entryOf (x : W64) : Nat := x.toNat % 256

/-- Write an entry of the tile's recall memory. -/
def putRecall (s : State) (e : Nat) (r : Recall) : State :=
  { s with t := (s.t.mapRecall (s.g.belay != 0) e fun _ => r).heal srcRecall (e * 1024) 1024 }

def execHmst (a : Fin 8) (b : Fin 32) (s : State) : Out3 :=
  finish s <| srcH s a fldA false {} fun x k => srcX s b fldB false k fun i k => commit s k <|
    .done (putRecall s (entryOf i) ⟨true, x⟩)

/-- An entry of `l` that holds an uncorrectable error raises it at the word (R218); correctable ones are repaired (R381). DESIGN CHOICE (log 42): of several such
entries the word reports the first of the list, the lowest index, and the address of the entry's first byte. -/
def recallErr (s : State) (l : List Nat) (k : Res) : Res :=
  match l.find? fun e => s.t.badRange srcRecall (e * 1024) 1024 with
  | some e => .trap s .uncorr (.ofNat 64 (0xFF20000000480000 + s.t.vt * 2 ^ 24 + e * 1024)) (.ofNat 64 srcRecall)
  | none => k.onDone fun u => repairMarks u s.t.vt srcRecall (l.flatMap fun e => unitsOf 8 (e * 1024) 1024)

def recallOf (s : State) (e : Nat) : Recall := s.t.rmem.toList.getD e {}

def execHmld (d : Fin 8) (b : Fin 32) (s : State) : Out3 :=
  finish s <| srcX s b fldB false {} fun i k => commit s k <| dstH s d <|
    let e := entryOf i
    recallErr s [e] <| .done (writeH s d (if (recallOf s e).valid then (recallOf s e).data else 0))

def execHmclr (b : Fin 32) (s : State) : Out3 :=
  finish s <| srcX s b fldB false {} fun i k => commit s k <| .done (putRecall s (entryOf i) {})

def execHmclrAll (s : State) : Out3 :=
  finish s <| .done ((List.range 256).foldl (fun s e => putRecall s e {}) s)

/-- The two nearest of the valid entries: distance and index. -/
def nearest2 (l : List (Nat × Nat)) : Option (Nat × Nat) × Option (Nat × Nat) :=
  l.foldl (fun (a, b) x =>
    match a, b with
    | none, _ => (some x, none)
    | some p, none => if x.1 < p.1 then (some x, some p) else (some p, some x)
    | some p, some q => if x.1 < p.1 then (some x, some p) else if x.1 < q.1 then (some p, some x) else (some p, some q))
    (none, none)

def validEntries (s : State) : List Nat := (List.range 256).filter fun e => (recallOf s e).valid

def recallKey (o : Option (Nat × Nat)) : Nat := match o with | some (d, i) => d * 65536 + i | none => 0xFFFF * 65536

def search (s : State) (two : Bool) (d : Fin 32) (a : Fin 8) (b : Fin 32) : Out3 :=
  finish s <| srcH s a fldA false {} fun q k => srcX s b fldB false k fun th k => commit s k <|
    dstX s d anyWord <| recallErr s (List.range 256) <|
      let (m0, m1) := nearest2 ((validEntries s).map fun e => (distance q (recallOf s e).data, e))
      let v := match m0 with | some (d0, _) => decide (d0 ≤ th.toNat) | none => false
      Res.done (writeX s d (.ofNat 64 (recallKey m0 + (if two then 2 ^ 32 * recallKey m1 else 0))) v)

def execHrecall (d : Fin 32) (a : Fin 8) (b : Fin 32) (s : State) : Out3 := search s false d a b
def execHrecall2 (d : Fin 32) (a : Fin 8) (b : Fin 32) (s : State) : Out3 := search s true d a b

end Sys2Proof.Machine
end

