-- ==== Sys2Proof/Machine/Registers.lean ====
section
/-! DEFINITION. The registers that the host sees (R407): the status page and configuration blocks of the physical function (R408,
R428, R433, R435), its debug page (R377, R418), and the page of a virtual function, as they read and as they are written. A word
whose write has an event of its own is written as that event does. -/

namespace Sys2Proof.Machine

/-- The state after an event, or the state before it where the event has no effect. -/
def orSame (s : State) : Out3 → State
  | .next s' => s'
  | _ => s

/-! ## The page of a virtual function -/

/-- Set dword `i` of the attestation nonce (R420). -/
def Vf.setNonce (f : Vf) (i : Nat) (x : W64) : Vf :=
  { f with attNonce := .ofNat 512 (natOf (overlay (bytesOf 64 f.attNonce.toNat) (8 * i) (bytesOf 8 x.toNat))) }

/-- The word of a virtual function at an offset of its BAR0. DESIGN CHOICE (log 37): the low bits of a BASE that is not aligned are
dropped, bits 6:0 of a launch queue's and bits 5:0 of the completion ring's (R409, R415). -/
def writeVfReg (s : State) (v off : Nat) (x : W64) : State :=
  let n := x.toNat
  if 0x100 ≤ off ∧ off < 0x140 then s.mapVf v fun f => f.setNonce ((off - 0x100) / 8) x
  else if off = 0x140 then orSame s (execAttestationRequest v (s.vfAt v).attNonce x s)
  else if 0x1000 ≤ off ∧ off < 0x1200 then orSame s (execNotifyWrite v ((off - 0x1000) / 8) s)
  else if 0x2000 ≤ off ∧ off < 0x2800 then
    let q := (off - 0x2000) / 32
    let s := s.mapQueue v q fun d =>
      match (off - 0x2000) % 32 with
      | 0 => { d with base := x &&& ~~~127 }
      | 8 => { d with log2 := bits n 0 5, pin := bits n 8 1 == 1, en := bits n 9 1 == 1 }
      | 16 => { d with tail := .ofNat 32 n }
      | _ => d
    settleSlots s
  else if 0x4000 ≤ off ∧ off < 0x4800 then orSame s (execFenceCounterWrite v ((off - 0x4000) / 8) x s)
  else
    s.mapVf v fun f =>
      if off = 0x3000 then { f with cbase := x &&& ~~~63 }
      else if off = 0x3008 then { f with clog2 := bits n 0 5 }
      else if off = 0x3010 then { f with chead := x }
      else f

/-- A word of a launch queue's descriptor (R409). -/
def LQueue.word (d : LQueue) (o : Nat) : W64 :=
  match o with
  | 0 => d.base
  | 8 => .ofNat 64 (d.log2 + 256 * d.pin.toNat + 512 * d.en.toNat)
  | 16 => d.tail.setWidth 64
  | 24 => d.head.setWidth 64
  | _ => 0

/-- The pending-notify bitmap (R407, R410). -/
def Vf.notifyMap (f : Vf) : W64 := .ofNat 64 ((List.range 64).map fun q => (f.queue q).notify.isSome.toNat * 2 ^ q).sum

/-- What a virtual function's BAR0 reads (R407); 0 at an offset that is not listed. -/
def readVfReg (s : State) (v off : Nat) : W64 :=
  let f := s.vfAt v
  if off = 0 then .ofNat 64 (v + 256 * f.prot.toNat + 2 ^ 48 * f.starve.toNat)
  else if 0x100 ≤ off ∧ off < 0x140 then .ofNat 64 (bits f.attNonce.toNat (8 * (off - 0x100)) 64)
  else if off = 0x140 then f.attBuf
  else if off = 0x148 then .ofNat 64 f.attDone.toNat
  else if off = 0x1800 then f.notifyMap
  else if 0x2000 ≤ off ∧ off < 0x2800 then (f.queue ((off - 0x2000) / 32)).word ((off - 0x2000) % 32)
  else if off = 0x3000 then f.cbase
  else if off = 0x3008 then .ofNat 64 f.clog2
  else if off = 0x3010 then f.chead
  else if off = 0x3018 then f.ctail
  else if 0x4000 ≤ off ∧ off < 0x4800 then f.fence ((off - 0x4000) / 8)
  else 0

/-! ## Configuration blocks (R408) -/

/-- A live grid of function `v`. -/
def State.runsGrid (s : State) (v : Nat) : Bool := (boxes s).any fun b => b.g.live && b.g.vf == v

/-- A write of `partctl` (R422): CLUSTERS, LASH and PROT in FREE, then INVAL2, CREATE and TEARDOWN where they are 1. -/
def writePartctl (s : State) (v : Nat) (x : W64) : State :=
  let s := s.mapVf v fun f =>
    if f.st = .free then { f with clusters := .ofNat 10 (bits x.toNat 32 10), lash := x.getLsbD 3, prot := x.getLsbD 2 } else f
  let s := if x.getLsbD 4 then orSame s (execInval2 v s) else s
  let s := if x.getLsbD 0 then orSame s (execPartitionCreate v s) else s
  if x.getLsbD 1 then orSame s (execPartitionTeardown v s) else s

/-- The word of function `v`'s configuration block (R408), where the physical function writes it. -/
def writeConfig (s : State) (v off : Nat) (x : W64) : State :=
  let n := x.toNat
  let runs := s.runsGrid v
  if off = 0x000 then writePartctl s v x
  else if off = 0x010 then orSame s (execScopectlWrite v x s)
  else if off = 0x050 then orSame s (execPrqheadWrite v x s)
  else if off = 0x058 then orSame s (execPageRequestReply v (x.getLsbD 16) (.ofNat 16 n) s)
  else if off = 0x200 then
    let s := s.mapVf v fun f => { f with mig := { f.mig with src := .ofNat 4 (bits n 1 4) } }
    if x.getLsbD 0 then orSame s (execMigrationStart v s) else s
  else if off = 0x210 then orSame s (execPoolpagesWrite v x s)
  else
  s.mapVf v fun f =>
    if off = 0x008 then
      if f.st = .free ∨ (f.st = .ready ∧ !runs) then { f with s2root := .ofNat 41 (bits n 11 41), s2en := bits n 0 1 == 1 } else f
    else if off = 0x018 then
      { f with quantum := .ofNat 32 (bits n 32 32), grace := .ofNat 16 (bits n 16 16)
               weight := .ofNat 8 (bits n 8 8), maxRes := .ofNat 8 (bits n 0 8) }
    else if off = 0x020 then { f with summon := .ofNat 2 (bits n 0 2) }
    else if off = 0x028 then { f with budget := .ofNat 32 (bits n 0 32) }
    else if off = 0x038 then
      if f.st = .free then { f with joined := bits n 16 1 == 1, setId := .ofNat 12 (bits n 4 12), home := .ofNat 4 (bits n 0 4) } else f
    else if off = 0x040 then { f with prqBase := x }
    else if off = 0x208 then { f with mig := { f.mig with poolBase := .ofNat 64 (n / 65536 * 65536) } }
    else f

/-- STATE of `partctl` (R422). -/
def PState.code : PState → Nat
  | .free => 0 | .creating => 1 | .ready => 2 | .teardown => 3 | .scrubbing => 4 | .failed => 5

/-- What function `v`'s configuration block reads (R408, R416, R417, R419, R422, R424, R433, R435). -/
def readConfig (s : State) (v off : Nat) : W64 :=
  let f := s.vfAt v
  let w (x : Nat) : W64 := .ofNat 64 x
  let left := f.st == .scrubbing
  match off with
  | 0x000 => w (4 * f.prot.toNat + 8 * f.lash.toNat + 16 * f.inval2.toNat + 2 ^ 32 * f.clusters.toNat + 2 ^ 60 * f.st.code)
  | 0x008 => w (f.s2en.toNat + 2 ^ 11 * f.s2root.toNat)
  | 0x010 => w (f.scopeCap + 256 * f.scopeAct.toNat + 2 ^ 32 * f.clamps.toNat)
  | 0x018 => w (f.maxRes.toNat + 2 ^ 8 * f.weight.toNat + 2 ^ 16 * f.grace.toNat + 2 ^ 32 * f.quantum.toNat)
  | 0x020 => w f.summon.toNat
  | 0x028 => w (f.budget.toNat + 2 ^ 60 * s.m.kOf v)
  | 0x030 => if left then w (f.scrubPgs.length + 2 ^ 32 * f.owned.length) else 0
  | 0x038 => w (f.home.toNat + 16 * f.setId.toNat + 2 ^ 16 * f.joined.toNat)
  | 0x040 => f.prqBase
  | 0x048 => w f.prqTail
  | 0x050 => w f.prqHead
  | 0x200 => w (2 * f.mig.src.toNat + 2 ^ 16 * f.mig.poisoned.toNat + 2 ^ 62 * f.mig.st.toNat)
  | 0x208 => f.mig.poolBase
  | 0x210 => f.mig.poolN
  | o => if 0x100 ≤ o ∧ o < 0x138 then f.meters.toList.getD ((o - 0x100) / 8) 0 else 0

/-! ## The debug page (R377, R418) -/

/-- The role that DBGSEL names: function, tile and role (R418). -/
def dbgTarget (s : State) : Nat × Nat × Nat :=
  (bits s.m.dbgSel.toNat 58 6, bits s.m.dbgSel.toNat 0 24, bits s.m.dbgSel.toNat 48 3)

/-- The grid that holds the role: of several grids of the function, the one launched first (log 37). `none` is the one in focus. -/
def dbgGrid (s : State) : Option (Option Nat) :=
  let (v, vt, r) := dbgTarget s
  let here (s : State) : Bool := s.g.live && s.g.vf == v && selectable s vt r
  let l := (if here s then [((none : Option Nat), s.g.startT)] else [])
    ++ ((List.range s.bg.length).zip s.bg).filterMap fun (k, b) => if here (swapGrid s k) then some (some k, b.g.startT) else none
  match l with
  | [] => none
  | a :: r => some (r.foldl (fun b x => if x.2 < b.2 then x else b) a).1

/-- A write to the selected role; one that names no started role is ignored. -/
def onRole (f : State → Nat → Nat → State) (s : State) : State :=
  let (_, vt, r) := dbgTarget s
  match dbgGrid s with
  | none => s
  | some none => f s vt r
  | some (some k) => swapGrid (f (swapGrid s k) vt r) k

/-- A read of the selected role; one that names no started role reads all ones. -/
def ofRole (f : State → Nat → Nat → W64) (s : State) : W64 :=
  let (_, vt, r) := dbgTarget s
  match dbgGrid s with
  | none => BitVec.allOnes 64
  | some none => f s vt r
  | some (some k) => f (swapGrid s k) vt r

/-- A write of the debug page. DESIGN CHOICE (log 37): DBGSEL keeps its bits that R418 does not list as they are written. -/
def writeDbgPage (s : State) (off : Nat) (x : W64) : State :=
  match off with
  | 0x000 => { s with m := { s.m with dbgSel := x } }
  | 0x008 => onRole (fun s vt r => writeCtl s vt r x) s
  | 0x010 => onRole (fun s vt r => s.mapDbg vt r fun d => { d with msg := x }) s
  | 0x018 => onRole (fun s vt r => (writeRole s vt r (.pc x)).getD s) s
  | 0x020 => onRole (fun s _ _ => { s with m := { s.m with dbgCsr := x } }) s
  | 0x028 => onRole (fun s vt r => (writeRole s vt r (.csr (.ofNat 12 s.m.dbgCsr.toNat) x)).getD s) s
  | _ => s

/-- What the debug page reads. -/
def readDbgPage (s : State) (off : Nat) : W64 :=
  let dbg (f : Dbg → W64) : W64 := ofRole (fun s vt r => match s.dbg? vt r with | some d => f d | none => BitVec.allOnes 64) s
  match off with
  | 0x000 => s.m.dbgSel
  | 0x008 => dbg Dbg.word
  | 0x010 => dbg (·.msg)
  | 0x018 => ofRole pcWord s
  | 0x020 => ofRole (fun s _ _ => s.m.dbgCsr) s
  | 0x028 => ofRole (fun s vt r => csrWord s vt r (bits s.m.dbgCsr.toNat 0 12)) s
  | o => if 0x100 ≤ o ∧ o < 0x200 then ofRole (fun s vt r => reissueWord s vt r ((o - 0x100) / 8)) s else 0

/-! ## The physical function -/

/-- A write of `domcfg` (R428). -/
def writeDomcfg (m : Module) (n : Nat) : Module :=
  let m := if m.domEn then m else { m with domMem := .ofNat 16 (bits n 16 16), modId := .ofNat 4 (bits n 0 4) }
  { m with domEn := bits n 32 1 == 1 }

/-- The word of the physical function at an offset of its BAR0. The layout of the usage ring's descriptor is PRESUMED that
of the completion ring, with the period in milliseconds at +32; DESIGN CHOICE (log 18): a period below 100 ms counts as 100 (R421). -/
def writePfReg (s : State) (off : Nat) (x : W64) : State :=
  let n := x.toNat
  if 0x100000 ≤ off ∧ off < 0x140000 then writeConfig s ((off - 0x100000) / 0x1000) ((off - 0x100000) % 0x1000) x
  else if 0x200000 ≤ off ∧ off < 0x201000 then writeDbgPage s (off - 0x200000) x
  else if off = 0x800 then { s with m := writeDomcfg s.m n }
  else if off = 0x808 then orSame s (execLinkstatWrite s)
  else if off = 0x10000 then { s with m := { s.m with usageB := x } }
  else if off = 0x10008 then { s with m := { s.m with usageC := x } }
  else if off = 0x10010 then { s with m := { s.m with usageH := n } }
  else if off = 0x10020 then { s with m := { s.m with period := max 100 n } }
  else s

/-- The status page: module status with READY in bit 0, the corrected-error and uncorrectable-error counters, the restart count, and
the length and entries of the error log, in a layout that the manual does not give (log 37); then `domcfg` and `linkstat` (R428). -/
def readStatus (m : Module) (off : Nat) : W64 :=
  match off with
  | 0x000 => .ofNat 64 m.power.isReady.toNat
  | 0x008 => m.corrErr
  | 0x010 => m.uncErr
  | 0x018 => m.restarts
  | 0x020 => .ofNat 64 m.errLog.length
  | 0x800 => .ofNat 64 (m.modId.toNat + 2 ^ 16 * m.domMem.toNat + 2 ^ 32 * m.domEn.toNat)
  | 0x808 => .ofNat 64 (m.linkUp.toNat + 2 ^ 32 * m.linkRet.toNat)
  | o =>
    if 0x1000 ≤ o ∧ o < 0x10000 then (m.errLog.flatMap fun e => [.ofNat 64 e.1, e.2]).getD ((o - 0x1000) / 8) 0 else 0

/-- What the physical function's BAR0 reads (R407); 0 at an offset that is not listed. -/
def readPfReg (s : State) (off : Nat) : W64 :=
  if off < 0x10000 then readStatus s.m off
  else if 0x100000 ≤ off ∧ off < 0x140000 then readConfig s ((off - 0x100000) / 0x1000) ((off - 0x100000) % 0x1000)
  else if 0x200000 ≤ off ∧ off < 0x201000 then readDbgPage s (off - 0x200000)
  else
    match off with
    | 0x10000 => s.m.usageB
    | 0x10008 => s.m.usageC
    | 0x10010 => .ofNat 64 s.m.usageH
    | 0x10018 => .ofNat 64 s.m.usageT
    | 0x10020 => .ofNat 64 s.m.period
    | _ => 0

/-- A write to a register; a word that is not listed ignores it. -/
def execRegisterWrite (p : HostPage) (off : Nat) (x : W64) (s : State) : Out3 :=
  if !s.hasVf 0 then Machine.off "REGISTER_WRITE"
  else
    match p with
    | .pf => .next (writePfReg s off x)
    | .vf v => if v < 64 then .next (writeVfReg s v off x) else Machine.off "REGISTER_WRITE"

end Sys2Proof.Machine
end

