-- ==== Sys2Proof/Machine/Reliability.lean ====
section
/-! DEFINITION. Integrity and recovery: the scrubber (R382), lashed intervals (R385 to R389), belay rollback (R390 to
R393), the command processors (R394), and replay (R396). -/

namespace Sys2Proof.Machine

/-! ## The scrubber (R382) -/

/-- A granule that the scrubber reads: a correctable error is repaired and counted once, an uncorrectable one counted and logged
once and left in place. A write that comes between read and write-back makes the scrubber read again, and the outcome is that of
the second read. -/
def execScrubPass (g : Granule) (_raced : Bool) (s : State) : Out3 :=
  match g with
  | .rim k =>
    let s := if s.m.badMem.contains k && !s.m.seenMem.contains k then
        { s with m := { s.m with seenMem := k :: s.m.seenMem, uncErr := s.m.uncErr + 1 }.logErr errScrub (.ofNat 64 (64 * k)) } else s
    .next (if s.m.softMem.contains k then
      { s with m := { s.m with softMem := s.m.softMem.filter (· != k), corrErr := s.m.corrErr + 1 } } else s)
  | .tile vt st k =>
    match s.tile? vt with
    | none => off "SCRUB_PASS"
    | some t =>
      let s := if t.bad.contains (st, k) && !t.seen.contains (st, k) then
          { s.mapTile vt fun t => { t with seen := (st, k) :: t.seen } with
            m := { s.m with uncErr := s.m.uncErr + 1 }.logErr errScrub (.ofNat 64 (vt + 2 ^ 24 * st + 2 ^ 32 * (8 * k))) } else s
      .next (if t.soft.contains (st, k) then
        { s.mapTile vt fun t => { t with soft := t.soft.filter (· != (st, k)) } with
          m := { s.m with corrErr := s.m.corrErr + 1 } } else s)

/-! ## Lashing -/

/-- An interval of a lashed tile ends: by its count, or early, which EARLY counts (R387). -/
def execLashIntervalEnd (vt : Nat) (s : State) : Out3 :=
  event "LASH_INTERVAL_END" <|
    match s.tile? vt with
    | none => none
    | some t =>
      let l := t.lash
      if l.role = 0 || l.waiting || !(l.early? || 4096 ≤ l.count) then none
      else
        let early := l.early? && l.count < 4096
        some (s.mapTile vt fun t => { t with lash := { t.lash with
          waiting := true, due := false, early := if early then satInc16 t.lash.early else t.lash.early } })

/-- One thing of the gated buffer leaves the tile (R387, R388). -/
def releaseOut (vt : Nat) (s : State) (o : Out) : State :=
  match o with
  | .msg m => { s with g := { s.g with mesh := s.g.mesh ++ [m] } }
  | .store pa key bs a =>
    if s.g.belay = 0 then { s with m := s.m.writeBy vt key pa bs }
    else s.mapTile vt fun t => { t with belay := { t.belay with held := t.belay.held ++ [⟨pa, key, bs, a⟩] } }
  | .record n => s.mapTile vt fun t => { t with ni := t.ni ++ [n] }
  | .cmd q c => (belayCmd s vt c).mapTile vt fun t => { t with pushed := t.pushed ++ [(q, c)] }
  | .arrive lv kind gen a => landArrival s lv kind gen a

/-- The committed AMOs, CASes and `ldk` loads of a context have agreed: they are performed, one that waits for another tile
later (R387, R389). -/
def performActs (s : State) (vt i : Nat) : State :=
  let s := s.mapCtx vt i fun c => { c with accs := c.accs.map fun a => if a.kind.acts then { a with agreed := true } else a }
  if (s.ctx? vt i).isSome then (performOwn (fun a => a.kind.acts && !a.reissue) (s.focus vt i)).focus s.t.vt s.c.id else s

/-- A new interval begins, with its checkpoint. -/
def Lash.fresh (l : Lash) (second : Bool) : Lash :=
  { l with count := 0, fp := BitVec.allOnes 64, pfp := BitVec.allOnes 64, gated := [], undo := [], due := false, waiting := false, second := second
           inb := [], fin := [], recs := [], passed := [], taken := [], tally := {} }

def lashCheckpoint (s : State) (vt : Nat) : State :=
  match s.whole? vt with
  | none => s
  | some u => { s with g := { s.g with lashChk := u :: s.g.lashChk.filter fun t => t.vt != vt } }

/-- The fingerprints agree: everything gated leaves in commit order, then the held-back accesses are performed. -/
def lashAgree (s : State) (vt : Nat) (t : Tile) : State :=
  let s := t.lash.gated.foldl (releaseOut vt) (s.mapTile vt fun t => { t with lash := t.lash.fresh false })
  lashCheckpoint ((s.ctxsOf t).foldl (fun s c => performActs s vt c.id) s) vt

/-- A context as the checkpoint has it, with what the debugger and the gang scheduler have set since. -/
def Ctx.backTo (chk now : Ctx) : Ctx := { chk with dbg := now.dbg, ipDebug := now.ipDebug, ipPre := now.ipPre }

/-- Log entries of events that a repeat of the interval has at once: window stores and engine completions (log 41). -/
def LogE.atOnce (e : LogE) : Bool := e.kind == 6 || e.kind == 7

/-- The log at the start of a repeat of the interval: a recorded one that the interval has lengthened, or one to be followed that
the interval has shortened (R395, R396). -/
def Tile.logAgain (chk now : Tile) : List LogE :=
  if chk.log.length ≤ now.log.length then chk.log ++ (now.log.drop chk.log.length).filter (·.atOnce)
  else (chk.log.take (chk.log.length - now.log.length)).filter (!·.atOnce) ++ now.log

/-- The tile as its checkpoint has it (R388). What is outside the interval keeps its state: engine queues, what the NI and
the queues have taken of earlier intervals, the belay journal, error marks, caches. Log entries of what is delivered again at once
stay. -/
def Tile.backTo (chk now : Tile) : Tile :=
  { chk with
    others := chk.others.map fun c => match now.others.find? (·.id == c.id) with | some x => c.backTo x | none => c
    ni := now.ni.filter fun n => n.id < chk.niNext
    eq := now.eq, pushed := now.pushed, collGen := now.collGen
    log := chk.logAgain now, logOut := now.logOut, bad := now.bad, soft := now.soft, seen := now.seen
    written := now.written, itlb := now.itlb, dtlb := now.dtlb, etlb := now.etlb, icache := now.icache
    ldr := { chk.ldr with tlb := now.ldr.tlb, dbg := now.ldr.dbg }
    str := { chk.str with tlb := now.str.tlb, dbg := now.str.dbg }
    belay := now.belay
    lash := { now.lash.fresh true with disag := satInc16 now.lash.disag } }

/-- Messages that arrived in the interval arrive again: a window store at once, unless it writes what is busy or follows on its bytes
one that does; that and the others are under way again, in their order. -/
def arriveAgain (vt : Nat) (s : State) (m : Msg) : State :=
  let busy := m.body.writes.any (fun w => winBusy s vt w.1 w.2.length) || s.g.mesh.any fun x => x.dst == vt && x.touches m.pieces
  if !m.isStore || busy then { s with g := { s.g with mesh := s.g.mesh ++ [m] } }
  else
    let s' := storeLand s m m.body.writes
    { s' with m := { s'.m with errLog := s.m.errLog } }

/-- The array queue of tile `vt` has no room for the follow-on of the command. -/
def followFull (s : State) (vt : Nat) (c : Cmd) : Bool :=
  c.follow.isSome && (match s.tile? vt with | some t => 8 ≤ t.arrq.length | none => false)

/-- Commands that completed in the interval complete again, in their order: at once, or by their event at the head of their queue where
the array queue has no room for a follow-on (R200, R350). -/
def finishAgain (vt : Nat) : List (Nat × Cmd) → State → State
  | [], s => s
  | c :: r, s =>
    if followFull s vt c.2 then (finishAgain vt r s).mapTile vt fun t => t.mapQueue c.1 fun e => { e with cmds := c.2 :: e.cmds }
    else finishAgain vt r (finishCmd s vt c.2)

/-- A generation that ended in the interval ends again for the contexts of the tile. -/
def endAgain (vt : Nat) (s : State) (n : BarNote) : State :=
  s.mapCtxs vt fun c => match n with
    | .passed lv gen v => c.passBar lv gen v false
    | .late lv gen n members => c.lateBar vt lv gen n members false

/-- Units that engines took from q11 of a context in the interval are gone. -/
def takenAgain (vt : Nat) (s : State) (x : Nat × Nat) : State :=
  s.mapCtx vt x.1 fun c => { c with qout := c.qout.drop x.2 }

/-- What reached the tile in the interval reaches it again (R385, R388); what it counted is not counted twice. -/
def redeliver (s : State) (vt : Nat) (l : Lash) : State :=
  let s : State := { s with g := s.g.uncount l.tally }
  let mesh := s.g.mesh
  let s := l.inb.foldl (arriveAgain vt) { s with g := { s.g with mesh := [] } }
  let s : State := { s with g := { s.g with mesh := s.g.mesh ++ mesh } }
  let s := finishAgain vt l.fin s
  let s := l.recs.foldl (fun s r => deliverRec s vt r.1 r.2.1 r.2.2) s
  l.taken.foldl (takenAgain vt) (l.passed.foldl (endAgain vt) s)

def lashRestore (s : State) (vt : Nat) (now : Tile) : State :=
  match s.g.lashChk.find? (·.vt == vt) with
  | none => s
  | some chk =>
    let s := redeliver (restoreTile s (chk.backTo now)) vt now.lash
    -- what has been delivered again belongs to the checkpoint now
    lashCheckpoint (s.mapTile vt fun t => { t with lash := { t.lash with inb := [], fin := [], recs := [], passed := [], taken := [], tally := {} } }) vt

/-- The fingerprints of the pair agree only if they are equal; an error in either tile makes them differ (R388). -/
def Lash.mayAgree (l : Lash) : Bool := l.fp == l.pfp

/-- UNCORR with SRC 6 at the checkpoint position of every started context, or the rollback of R392. -/
def lashTrap (s : State) (vt i : Nat) : State :=
  match s.ctx? vt i with
  | none => s
  | some c => if c.active then (trapWord (s.focus vt i) .uncorr 0 (.ofNat 64 srcLash)).focus s.t.vt s.c.id else s

def execLashExchange (vt : Nat) (agree : Bool) (s : State) : Out3 :=
  event "LASH_EXCHANGE" <|
    match s.whole? vt with
    | none => none
    | some t =>
      if t.lash.role = 0 || !t.lash.waiting || (agree && !t.lash.mayAgree) then none
      else if agree then some (lashAgree s vt t)
      else
        let s' := lashRestore s vt t
        some (if t.lash.second then
          lashCheckpoint (t.others.foldl (fun s c => lashTrap s vt c.id)
            (s'.mapTile vt fun u => { u with lash := { u.lash with second := false } })) vt
          else s')

/-! ## Belay rollback (R392) -/

/-- An error mark that a rollback leaves: of the scratchpad, outside the lines that are written back. -/
def Tile.keepsMark (now : Tile) (x : Nat × Nat) : Bool := x.1 == srcSp && !now.belay.lines.any fun l => l.1 == x.2 / 16

/-- A tile of the instance at its belay point again. Its caches and what the debugger has set stay, and the error marks of what is not
written back: the scratchpad outside the journaled lines. Its log is that of the belay point, since the superstep is repeated. -/
def Tile.rollBack (chk now : Tile) : Tile :=
  { chk with
    others := chk.others.map fun c => match now.others.find? (·.id == c.id) with
      | some x => { c with dbg := x.dbg, ipDebug := x.ipDebug, ipPre := x.ipPre }
      | none => c
    logOut := now.logOut, bad := now.bad.filter now.keepsMark, soft := now.soft.filter now.keepsMark
    seen := now.seen.filter now.keepsMark
    written := now.written, itlb := now.itlb, dtlb := now.dtlb, etlb := now.etlb, icache := now.icache
    ldr := { chk.ldr with tlb := now.ldr.tlb, dbg := now.ldr.dbg }
    str := { chk.str with tlb := now.str.tlb, dbg := now.str.dbg }
    lash := now.lash.fresh false
    belay := { chk.belay with rollbk := satInc16 now.belay.rollbk, again := true } }

/-- A message that a tile of the instance has sent since its belay point. -/
def Msg.since (s : State) (p : Nat → Bool) (m : Msg) : Bool :=
  p m.src && (match s.tile? m.src with | some t => t.belay.seq ≤ m.seq | none => false)

/-- Arrivals of the instance at generations that reach beyond it: those that its contexts had made at the belay point. -/
def backArrivals (s : State) (p : Nat → Bool) (b : Bar) : Bar :=
  { b with arrivals := b.arrivals.filter fun a => !p a.vt || (match s.ctx? a.vt a.c with
      | some c => (c.bar b.lv).arr == .waiting && (c.bar b.lv).gen == b.gen
      | none => false) }

/-- The tiles of the focused grid that satisfy `p` go back to their belay point. -/
def rollBack (p : Nat → Bool) (s : State) : State :=
  let mesh := s.g.mesh.filter fun m => !m.since s p
  let gangs := s.g.gangs.map fun x => { x with parked := x.parked.filter fun m => !m.since s p }
  let s' := (s.g.belayChk.filter fun t => p t.vt).foldl (fun s chk =>
    match s.whole? chk.vt with
    | some now => lashCheckpoint (restoreTile s (chk.rollBack now)) chk.vt
    | none => s) s
  { s' with g := { s'.g with
      mesh := mesh, gangs := gangs, rollReq := s'.g.rollReq.filter fun u => !p u, rollbks := s'.g.rollbks + 1
      bars := s'.g.bars.map fun b =>
        if barWithin s' p b then (s'.g.chkBars.find? fun x => x.lv == b.lv && x.id == b.id).getD b else backArrivals s' p b
      colls := s'.g.chkColls.filter (collWithin s' p) ++ s'.g.colls.filter fun k => !collWithin s' p k } }

/-- The superstep in which tile `vt` consumed an uncorrectable error is repeated by its instance. -/
def execBelayRollback (s : State) : Out3 :=
  event "BELAY_ROLLBACK" <|
    match s.g.rollReq with
    | [] => none
    | vt :: _ =>
      some (if s.g.belay = 6 then forGroup (rollBack fun _ => true) s
        else rollBack (fun u => belayMember s.g vt u) s)

/-! ## Command processors (R394) -/

/-- A lockstep mismatch: launch dispatch, swaps, summons and partition creation pause, and the restart is counted. -/
def execCpLockstepMismatch (s : State) : Out3 :=
  if s.m.restart || !s.m.power.isReady then off "CP_LOCKSTEP_MISMATCH"
  else .next { s with m := { s.m with restart := true, restarts := s.m.restarts + 1 }.logErr errRestart (s.m.restarts + 1) }

/-- The protected image is verified again against its measurement, which stays (R444), and the firmware runs again; the launch queues
are read from HEAD, their committed point. -/
def execFirmwareRestartComplete (s : State) : Out3 :=
  if s.m.restart && sha512 s.m.fwImage == s.m.fwHash then .next { s with m := { s.m with restart := false } } else off "FIRMWARE_RESTART_COMPLETE"

/-! ## Replay (R396) -/

def outState : Out3 → Option State
  | .next s => some s
  | _ => none

/-- The first number below `n` at which `f` answers. -/
def firstOf (f : Nat → Option State) : Nat → Nat → Option State
  | 0, _ => none
  | n + 1, k =>
    match f k with
    | some s => some s
    | none => firstOf f n (k + 1)

/-- The first message under way that satisfies `p`, delivered. -/
def releaseMsg (s : State) (p : Msg → Bool) : Option State :=
  firstOf (fun k => match takeMsg s k with
    | some (m, _) => if p m then deliver s k else none
    | none => none) (underWay s).length 0

/-- The record that a kind 3 or kind 5 entry names, from the sender's NI or parked, or the head of the spill ring. -/
def releaseRecord (s : State) (vt arg : Nat) (ldk : Bool) : Option State :=
  let src := bits arg 0 24
  let cls := bits arg 24 4
  let fits (r : Rec) : Bool := r.cls == cls && (ldk || spliceSet r.cls r.key == bits arg 28 8)
  let ni := match s.tile? src with | some t => t.ni | none => []
  let fromNi := firstOf (fun k => match ni[k]? with
      | some n => if n.dst == vt && n.ldk == ldk && fits n.r then
          (match offer s src k n.refused with
           | some s' => if (s'.tile? src).any fun t => t.ni.length < ni.length then some s' else none
           | none => none) else none
      | none => none) ni.length 0
  match fromNi with
  | some s' => some s'
  | none =>
    match releaseMsg s (fun m => m.dst == vt && m.src == src && m.ldk == ldk && (match m.body with | .record r => fits r | _ => false)) with
    | some s' => some s'
    | none => if src = vt ∧ !ldk then refill s vt false else none

/-- The event that a log entry names, done now. -/
def releaseKind (s : State) (vt : Nat) (t : Tile) (e : LogE) : Option State :=
  let r := e.role.toNat
  let a := e.arg.toNat
  match e.kind.toNat with
  | 1 => if (s.ctx? vt a).isSome then some ((switchTo (s.focus vt a) a).focus s.t.vt s.c.id) else none
  | 2 => releaseMsg s fun m => m.dst == vt && (match m.body with
      | .port _ d e => d.val + 4 * e.isVec.toNat == a
      | _ => false)
  | 3 => releaseRecord s vt a false
  | 4 => if (chosen s.g t.sq).any (·.seq == a) then dispatch s vt else none
  | 5 => releaseRecord s vt a true
  | 6 => releaseMsg s fun m => m.dst == vt && (match m.body.writes with | w :: _ => m.src + 2 ^ 24 * w.1 == a | [] => false)
  | 7 =>
    let q := a % 65536 - 4
    match (t.queue q).cmds with
    | c :: _ => if c.seq.toNat == a / 65536 then outState (execEngineCompletion vt q s) else none
    | [] => none
  | 8 =>
    match t.fps with
    | f :: l =>
      let s := s.mapTile vt fun t => { t with fps := l }
      some (if f = e.arg then s
        else { s with g := { s.g with diverged := some (vt, e.at_.toNat) }, m := s.m.logErr errDiverge (.ofNat 64 vt) })
    | [] => none
  | 9 =>
    if r < 4 then
      let s1 := s.focus vt r
      match dueIrq s1 with
      | some z => if z.code.toNat == a then some ((enterIrq s1 z).focus s.t.vt s.c.id) else none
      | none => none
    else
      let s1 := focusHelper s vt (r == 5)
      if s1.helper.irq then some (hInterrupt s1) else none
  | _ => none

/-- The next event of a tile's log happens, once the role that the entry names has reached its POS. -/
def execReplayRelease (vt : Nat) (s : State) : Out3 :=
  event "REPLAY_RELEASE" <|
    match s.tile? vt with
    | none => none
    | some t =>
      match t.log with
      | [] => none
      | e :: r =>
        if s.g.rr ≠ 2 ∨ s.g.still vt ∨ rolePos s vt e.role.toNat < e.at_.toNat then none
        else
          let free := s.mapTile vt fun t => { t with log := [] }
          (releaseKind free vt { t with log := [] } e).map fun s' => s'.mapTile vt fun t => { t with log := r }

end Sys2Proof.Machine
end

