-- ==== Sys2Proof/Machine/ScalarFloat.lean ====
section
/-! DEFINITION. Scalar floating point (R129, R130, R83 to R92). -/

namespace Sys2Proof.Machine

/-- The bits of a source that hold its value (R83). -/
def fpBits (f : FEt) (x : W64) : Nat := x.toNat % 2 ^ (fmtOf f).width

/-- A pattern and its flags as the result of the word. -/
def putF (s : State) (d : Fin 32) (r : FRes) : Res := putFlagged s d r.2 (.ofNat 64 r.1) true

def fpBinary (s : State) (f : FEt) (d a b : Fin 32) (wa wb : Bool) (op : Fmt → Rm → Nat → Nat → FRes) : Out3 :=
  finish s <| srcX s a fldA wa {} fun x k => srcX s b fldB wb k fun y k =>
    commit s k (putF s d (op (fmtOf f) (rmOf s) (fpBits f x) (fpBits f y)))

def fpUnary (s : State) (d a : Fin 32) (wa : Bool) (op : Rm → W64 → FRes) : Out3 :=
  finish s <| srcX s a fldA wa {} fun x k => commit s k (putF s d (op (rmOf s) x))

/-- `fma` and `fnma` read D as the third source (R129). -/
def fpTernary (s : State) (f : FEt) (d a b : Fin 32) (wa wb : Bool) (op : Fmt → Rm → Nat → Nat → Nat → FRes) : Out3 :=
  finish s <| srcX s a fldA wa {} fun x k => srcX s b fldB wb k fun y k => srcX s d fldD false k fun z k =>
    commit s k (putF s d (op (fmtOf f) (rmOf s) (fpBits f x) (fpBits f y) (fpBits f z)))

def execFadd (f : FEt) (d a b : Fin 32) (wa wb : Bool) (s : State) : Out3 := fpBinary s f d a b wa wb Machine.fadd
def execFsub (f : FEt) (d a b : Fin 32) (wa wb : Bool) (s : State) : Out3 := fpBinary s f d a b wa wb Machine.fsub
def execFmul (f : FEt) (d a b : Fin 32) (wa wb : Bool) (s : State) : Out3 := fpBinary s f d a b wa wb Machine.fmul
def execFdiv (f : FEt) (d a b : Fin 32) (wa wb : Bool) (s : State) : Out3 := fpBinary s f d a b wa wb Machine.fdiv
def execFsqrt (f : FEt) (d a : Fin 32) (wa : Bool) (s : State) : Out3 :=
  fpUnary s d a wa fun rm x => Machine.fsqrt (fmtOf f) rm (fpBits f x)
def execFmin (f : FEt) (d a b : Fin 32) (wa wb : Bool) (s : State) : Out3 :=
  fpBinary s f d a b wa wb fun f _ x y => minmaxF f false x y
def execFmax (f : FEt) (d a b : Fin 32) (wa wb : Bool) (s : State) : Out3 :=
  fpBinary s f d a b wa wb fun f _ x y => minmaxF f true x y
def execFma (f : FEt) (d a b : Fin 32) (wa wb : Bool) (s : State) : Out3 := fpTernary s f d a b wa wb ffma
def execFnma (f : FEt) (d a b : Fin 32) (wa wb : Bool) (s : State) : Out3 := fpTernary s f d a b wa wb ffnma
def execFabs (f : FEt) (d a : Fin 32) (wa : Bool) (s : State) : Out3 :=
  fpUnary s d a wa fun _ x => (fabsBits (fmtOf f) (fpBits f x), 0)
def execFneg (f : FEt) (d a : Fin 32) (wa : Bool) (s : State) : Out3 :=
  fpUnary s d a wa fun _ x => (fnegBits (fmtOf f) (fpBits f x), 0)
def execFsgnj (f : FEt) (d a b : Fin 32) (wa wb : Bool) (s : State) : Out3 :=
  fpBinary s f d a b wa wb fun f _ x y => (fsgnjBits f x y, 0)
def execFclass (f : FEt) (d a : Fin 32) (wa : Bool) (s : State) : Out3 :=
  fpUnary s d a wa fun _ x => (Machine.fclass (fmtOf f) (fpBits f x), 0)
def execFcvtS (f : FEt) (d a : Fin 32) (wa : Bool) (s : State) : Out3 :=
  fpUnary s d a wa fun rm x => fToInt (fmtOf f) rm true 64 (fpBits f x)
def execFcvtN (f : FEt) (d a : Fin 32) (wa : Bool) (s : State) : Out3 :=
  fpUnary s d a wa fun rm x => fToInt (fmtOf f) rm false 64 (fpBits f x)
def execScvtF (f : FEt) (d a : Fin 32) (wa : Bool) (s : State) : Out3 :=
  fpUnary s d a wa fun rm x => fOfInt (fmtOf f) rm x.toInt
def execNcvtF (f : FEt) (d a : Fin 32) (wa : Bool) (s : State) : Out3 :=
  fpUnary s d a wa fun rm x => fOfInt (fmtOf f) rm x.toNat
def execFcvtF (dst src : FEt) (d a : Fin 32) (wa : Bool) (s : State) : Out3 :=
  fpUnary s d a wa fun rm x => fConv (fmtOf dst) (fmtOf src) rm (fpBits src x)

end Sys2Proof.Machine
end

