-- ==== Sys2Proof/Machine/System.lean ====
section
/-! DEFINITION. The SYS members (R139 to R147). -/

namespace Sys2Proof.Machine

/-- `tval2` of SYSCALL and BREAK: the word is the C word of a pair (R140). -/
def pairFlag (s : State) : W64 := if s.c.inPair then 1 else 0

def execSyscall (a : Fin 32) (wa : Bool) (s : State) : Out3 :=
  finish s <| srcX s a fldA wa {} fun x k => commit s k (.trap s .syscall x (pairFlag s))

/-- A word that stays with the context and retires: it is counted (R33, R387). -/
def countRetired (s : State) : State :=
  let n := s.c.instret + 1
  countBundle { s with c := { s.c with instret := n } } s.c.id n.toNat

def execSret (s : State) : Out3 :=
  finish s <| privileged s (wordOf s .sret) <| .stay (trapReturn (countRetired s))

def execEndCtx (s : State) : Out3 := finish s <| .stay (endContext (lashEarly (countRetired s)))

/-- A role with BRKHALT freezes at the `brk` word (R380). -/
def breakFreeze (s : State) : State :=
  atSwitch { s with c := { s.c with
    run := .ready, dbg := { s.c.dbg with halted := true, pending := false, step := false, brkHit := true } } }

def execBrk (code : BitVec 5) (s : State) : Out3 :=
  finish s <| if s.c.dbg.brkHalt then .stay (breakFreeze s) else .trap s .brk (code.setWidth 64) (pairFlag s)

/-- The instruction cache is emptied, and the A word that the context has read with this word is read again (R142). -/
def execIfence (s : State) : Out3 :=
  finish s <| atHome s fun s => .done { s with t := { s.t with icache := [] }, c := { s.c with fetched := none } }

/-! ## Translation caches (R143, R334) -/

/-- The entry translates the address, whatever its size. -/
def TlbE.covers (e : TlbE) (va : W64) : Bool := e.base ≤ va.toNat && va.toNat < e.base + e.size

/-- The walk that a context waits for begins again: its word is examined again. A wait of the runtime is no walk, and a walk that a
denial has ended is in progress no more (R332). -/
def Ctx.rewalk (c : Ctx) : Ctx :=
  match c.run with
  | .blocked (.page _) =>
    if c.frame.isSome || c.denial.any (·.denied) then c else { c with run := .ready, denial := none }
  | .blocked .prqFull => if c.frame.isSome then c else { c with run := .ready, denial := none }
  | .blocked (.pull _) => { c with run := .ready, denial := none }
  | _ => c
def Helper.rewalk (h : Helper) : Helper := if h.stall.isSome then { h with stall := none, denial := none } else h

/-- Every walk of the cluster of tile `vt` that is in progress begins again (R334). -/
def rewalkCluster (s : State) (vt : Nat) : State :=
  let near (u : Nat) : Bool := clusterOf u == clusterOf vt
  let s := s.mapAllCtxs fun u c => if near u then c.rewalk else c
  let s := s.mapTiles fun t => if near t.vt then { t with ldr := t.ldr.rewalk, str := t.str.rewalk } else t
  (s.allCtxs.filter fun x => near x.1).foldl (fun s x =>
    if x.2.accs.any (·.page.isSome) then reissueCtx (·.page.isSome) s x.1 x.2.id else s) s

/-- A `tlbinv` of the focused context: it waits for its earlier stores, then the entries that match leave the caches of its
tile and cluster, and walks in progress begin again (R334). -/
def tlbinv (s : State) (p : TlbE → Bool) : Res :=
  atHome s fun s => .done (rewalkCluster (invalidate s s.t.vt fun e => e.vf == s.g.vf && p e) s.t.vt)

def execTlbinvAll (s : State) : Out3 :=
  finish s <| privileged s (wordOf s .tlbinvAll) <| tlbinv s fun e => !e.g

def execTlbinvAsid (b : Fin 32) (wb : Bool) (s : State) : Out3 :=
  finish s <| privileged s (wordOf s (.tlbinvAsid b wb)) <| srcX s b fldB wb {} fun x k => commit s k <|
    tlbinv s fun e => !e.g && e.asid == x.setWidth 16

def execTlbinvVa (a b : Fin 32) (wa wb : Bool) (s : State) : Out3 :=
  finish s <| privileged s (wordOf s (.tlbinvVa a b wa wb)) <|
    srcX s a fldA wa {} fun va k => srcX s b fldB wb k fun x k => commit s k <|
      tlbinv s fun e => e.covers va && (e.g || e.asid == x.setWidth 16)

def execTlbinvVaall (a : Fin 32) (wa : Bool) (s : State) : Out3 :=
  finish s <| privileged s (wordOf s (.tlbinvVaall a wa)) <|
    srcX s a fldA wa {} fun va k => commit s k <| tlbinv s fun e => e.covers va

/-- `wfi` retires when an enabled interrupt is pending (R144). -/
def execWfi (s : State) : Out3 :=
  finish s <| privileged s (wordOf s .wfi) <| if s.c.armed s.time ≠ 0 then .done s else .wait s .wfi

/-! ## Tag masks (R145, R146) -/

def execRdfe (d : Fin 32) (s : State) : Out3 := finish s <| putResult s d (.ofNat 64 s.c.fMask) true
def execRdvb (d : Fin 32) (s : State) : Out3 := finish s <| putResult s d (.ofNat 64 s.c.vMask) true

/-- x1 to x27. -/
def tagRegs : List (Fin 32) := (List.range 27).map fun i => Fin.ofNat 32 (i + 1)

def execWrfe (a : Fin 32) (wa : Bool) (s : State) : Out3 :=
  finish s <| srcX s a fldA wa {} fun m k => commit s k <|
    let l := tagRegs.filter fun i => !m.getLsbD i.val
    match l.find? fun i => (s.c.x[i]).tag == .awaiting with
    | some i => .wait s (.xreg i)
    | none => .done (l.foldl (fun s i => emptyX s i .cleared) s)

def execWrvb (a : Fin 32) (wa : Bool) (s : State) : Out3 :=
  finish s <| examX s a fldA wa {} fun m _ k => accept s k <|
    .done ((tagRegs.filter fun i => (s.c.x[i]).tag.isFull).foldl
      (fun s i => markX s i { s.c.x[i] with v := m.getLsbD i.val }) s)

def execYield (s : State) : Out3 := finish s (.leave s)

end Sys2Proof.Machine
end

