-- ==== Sys2Proof/Machine/VectorMemory.lean ====
section
/-! DEFINITION. Vector loads and stores (R154 to R159). -/

namespace Sys2Proof.Machine

def vldWord (s : State) (d b : Fin 32) (wa nw : Bool) (off : BitVec 11) : Out3 :=
  finish s <| srcX s b fldA wa {} fun base k => commit s k <| dstV s d <|
    let ea := base + off.signExtend 64 * 64
    (checkAddr s ea 64 64 .load .load).bind fun s ps =>
      if isOwn ea && !nw then onCoreRead s ea 64 fun s bs => .done (writeV s d (.ofNat 512 (natOf bs)) allV)
      else
        startAcc s { kind := .vload d, va := ea, size := 64, pieces := ps } fun s =>
          leaveFor (emptyV s d .awaiting) nw (32 + d.val)

def execVld (d b : Fin 32) (wa : Bool) (off : BitVec 11) (s : State) : Out3 := vldWord s d b wa false off
def execVldNw (d b : Fin 32) (wa : Bool) (off : BitVec 11) (s : State) : Out3 := vldWord s d b wa true off

/-- The valid words of a vector as the parts of a store (R156). -/
def validWords (x : W512) (v : BitVec 8) : Segs :=
  (List.range 8).filterMap fun k => if v.getLsbD k then some (8 * k, bytesOf 8 (lane 64 x.toNat k)) else none

def execVst (d b : Fin 32) (wa : Bool) (off : BitVec 11) (s : State) : Out3 :=
  finish s <| srcX s b fldA wa {} fun base k => srcV s d fldD k fun x v k => commit s k <|
    let ea := base + off.signExtend 64 * 64
    if v = 0 then .done s
    else (checkAddr s ea 64 64 .store (.store true)).bind fun s ps => storeTo s ea (validWords x v) ps

/-! ## Gather and scatter in the own scratchpad (R158) -/

/-- Lane number and address of each active lane. -/
def laneAddrs (w : Nat) (act : BitVec 8) (base : W64) (idx : W512) : List (Nat × W64) :=
  (List.range (512 / w)).filterMap fun i =>
    if laneOn act w i then some (i, base + .ofNat 64 (lane w idx.toNat i * (w / 8))) else none

/-- The checks of R158 on the active lanes, own window stores to them waited for, own accesses to them performed first. -/
def lanesChecked (s : State) (n : Nat) (base : W64) (l : List (Nat × W64)) (k : State → Res) : Res :=
  if l = [] then k s
  else if base.toNat % n ≠ 0 then .trap s .misalign base 0
  else
    match l.find? fun (_, a) => !isOwn a with
    | some (i, a) => .trap s .access a (.ofNat 64 i)
    | none =>
      let ps : List Piece := l.map fun (_, a) => ⟨.tile s.t.vt (a.toNat - 0xFF00000000000000), n, 0⟩
      onCoreAccess s ps k

def execVgat (sz : MSz) (d a b : Fin 32) (wa : Bool) (s : State) : Out3 :=
  let n := MSz.bytes sz
  finish s <| srcX s a fldA wa {} fun base k => srcV s b fldB k fun idx act k => commit s k <| dstV s d <|
    let l := laneAddrs (8 * n) act base idx
    lanesChecked s n base l fun s =>
      match l.find? fun (_, a) => s.t.badRange srcSp (a.toNat - 0xFF00000000000000) n with
      | some (_, a) => .trap s .uncorr a (.ofNat 64 srcSp)
      | none =>
        let s := l.foldl (fun s (_, a) => correctPiece s ⟨.tile s.t.vt (a.toNat - 0xFF00000000000000), n, 0⟩) s
        .done (writeWords s d act (.ofNat 512 (l.foldl (fun x (i, a) =>
          setLane (8 * n) x i (s.t.sp.readNat (a.toNat - 0xFF00000000000000) n)) 0)))

def execVsca (sz : MSz) (d a b : Fin 32) (wa : Bool) (s : State) : Out3 :=
  let n := MSz.bytes sz
  finish s <| srcX s a fldA wa {} fun base k => srcV s b fldB k fun idx vb k => srcV s d fldD k fun x vd k =>
    commit s k <|
      let l := laneAddrs (8 * n) (vb &&& vd) base idx
      lanesChecked s n base l fun s =>
        .done (l.foldl (fun s (i, a) =>
          let bs := bytesOf n (lane (8 * n) x.toNat i)
          spWrite (absorbOut s a.toNat bs) s.t.vt (a.toNat - 0xFF00000000000000) bs) s)

/-- A value in every lane of width `w` (R159, R167). -/
def broadcast (w x : Nat) : W512 := .ofNat 512 (ofLanes w (List.replicate (512 / w) x))

def execVldb (sz : MSz) (d a : Fin 32) (wa : Bool) (s : State) : Out3 :=
  let n := MSz.bytes sz
  finish s <| srcX s a fldA wa {} fun ea k => commit s k <| dstV s d <|
    (checkAddr s ea n n .load .load).bind fun s ps =>
      if isOwn ea then onCoreRead s ea n fun s bs => .done (writeV s d (broadcast (8 * n) (natOf bs)) allV)
      else
        startAcc s { kind := .vbcast d, va := ea, size := n, pieces := ps } fun s =>
          leaveFor (emptyV s d .awaiting) false (32 + d.val)

end Sys2Proof.Machine
end

