-- ==== Sys2Proof/Machine/Vector.lean ====
section
/-! DEFINITION. Integer, floating-point, special-function, conversion and permutation vector instructions
(R160 to R172). -/

namespace Sys2Proof.Machine

/-! ## VINT (R160): no flags -/

def vint2 (s : State) (e : IEt) (d a b : Fin 32) (f : Nat → Nat → Nat → Nat) : Out3 :=
  vec2 s (ietWidth e) d a b fun x y => (f (ietWidth e) x y, 0)
def vint1 (s : State) (e : IEt) (d a : Fin 32) (f : Nat → Nat → Nat) : Out3 :=
  vec1 s (ietWidth e) d a fun x => (f (ietWidth e) x, 0)
/-- All ones for true. -/
def maskOf (w : Nat) (t : Bool) : Nat := if t then 2 ^ w - 1 else 0

def execVadd (e : IEt) (d a b : Fin 32) (s : State) : Out3 := vint2 s e d a b fun w x y => (x + y) % 2 ^ w
def execVsub (e : IEt) (d a b : Fin 32) (s : State) : Out3 := vint2 s e d a b fun w x y => (x + (2 ^ w - y)) % 2 ^ w
def execVmul (e : IEt) (d a b : Fin 32) (s : State) : Out3 := vint2 s e d a b fun w x y => x * y % 2 ^ w
def execVmulh (e : IEt) (d a b : Fin 32) (s : State) : Out3 :=
  vint2 s e d a b fun w x y => pat w (ietVal e x * ietVal e y / 2 ^ w)
def execVmin (e : IEt) (d a b : Fin 32) (s : State) : Out3 :=
  vint2 s e d a b fun _ x y => if ietVal e x ≤ ietVal e y then x else y
def execVmax (e : IEt) (d a b : Fin 32) (s : State) : Out3 :=
  vint2 s e d a b fun _ x y => if ietVal e x ≤ ietVal e y then y else x
def execVabs (e : IEt) (d a : Fin 32) (s : State) : Out3 :=
  vint1 s e d a fun w x => pat w (ietVal e x).natAbs
def execVneg (e : IEt) (d a : Fin 32) (s : State) : Out3 := vint1 s e d a fun w x => (2 ^ w - x) % 2 ^ w
def execVand (e : IEt) (d a b : Fin 32) (s : State) : Out3 := vint2 s e d a b fun _ x y => x &&& y
def execVor (e : IEt) (d a b : Fin 32) (s : State) : Out3 := vint2 s e d a b fun _ x y => x ||| y
def execVxor (e : IEt) (d a b : Fin 32) (s : State) : Out3 := vint2 s e d a b fun _ x y => x ^^^ y
def execVandn (e : IEt) (d a b : Fin 32) (s : State) : Out3 := vint2 s e d a b fun w x y => x &&& (2 ^ w - 1 - y)
def execVsll (e : IEt) (d a b : Fin 32) (s : State) : Out3 := vint2 s e d a b fun w x y => x * 2 ^ (y % w) % 2 ^ w
def execVsrl (e : IEt) (d a b : Fin 32) (s : State) : Out3 := vint2 s e d a b fun w x y => x / 2 ^ (y % w)
def execVsra (e : IEt) (d a b : Fin 32) (s : State) : Out3 :=
  vint2 s e d a b fun w x y => pat w (sgn w x / 2 ^ (y % w))
def execVaddsat (e : IEt) (d a b : Fin 32) (s : State) : Out3 :=
  vint2 s e d a b fun w x y => pat w (clampInt (ietMin e) (ietMax e) (ietVal e x + ietVal e y))
def execVsubsat (e : IEt) (d a b : Fin 32) (s : State) : Out3 :=
  vint2 s e d a b fun w x y => pat w (clampInt (ietMin e) (ietMax e) (ietVal e x - ietVal e y))
def execVavg (e : IEt) (d a b : Fin 32) (s : State) : Out3 :=
  vint2 s e d a b fun w x y => pat w ((ietVal e x + ietVal e y + 1) / 2)
def execVcmpEq (e : IEt) (d a b : Fin 32) (s : State) : Out3 := vint2 s e d a b fun w x y => maskOf w (x == y)
def execVcmpLt (e : IEt) (d a b : Fin 32) (s : State) : Out3 :=
  vint2 s e d a b fun w x y => maskOf w (ietVal e x < ietVal e y)
def execVcmpLe (e : IEt) (d a b : Fin 32) (s : State) : Out3 :=
  vint2 s e d a b fun w x y => maskOf w (ietVal e x ≤ ietVal e y)
def execVbsel (e : IEt) (d a b : Fin 32) (s : State) : Out3 :=
  vec3 s (ietWidth e) d a b fun x y z => ((x &&& z) ||| (y &&& (2 ^ ietWidth e - 1 - z)), 0)
def execVpopc (e : IEt) (d a : Fin 32) (s : State) : Out3 := vint1 s e d a fun w x => popcount w x
def execVclz (e : IEt) (d a : Fin 32) (s : State) : Out3 := vint1 s e d a fun w x => w - bitlen x

/-! ## VFLT (R161, R162) -/

def vflt2 (s : State) (e : FEt) (d a b : Fin 32) (f : Fmt → Rm → Nat → Nat → FRes) : Out3 :=
  vec2 s (fetWidth e) d a b (f (fmtOf e) (rmOf s))
def vflt1 (s : State) (e : FEt) (d a : Fin 32) (f : Fmt → Rm → Nat → FRes) : Out3 :=
  vec1 s (fetWidth e) d a (f (fmtOf e) (rmOf s))

def execVfadd (e : FEt) (d a b : Fin 32) (s : State) : Out3 := vflt2 s e d a b Machine.fadd
def execVfsub (e : FEt) (d a b : Fin 32) (s : State) : Out3 := vflt2 s e d a b Machine.fsub
def execVfmul (e : FEt) (d a b : Fin 32) (s : State) : Out3 := vflt2 s e d a b Machine.fmul
def execVfma (e : FEt) (d a b : Fin 32) (s : State) : Out3 := vec3 s (fetWidth e) d a b (ffma (fmtOf e) (rmOf s))
def execVfnma (e : FEt) (d a b : Fin 32) (s : State) : Out3 := vec3 s (fetWidth e) d a b (ffnma (fmtOf e) (rmOf s))
def execVfdiv (e : FEt) (d a b : Fin 32) (s : State) : Out3 := vflt2 s e d a b Machine.fdiv
def execVfsqrt (e : FEt) (d a : Fin 32) (s : State) : Out3 := vflt1 s e d a Machine.fsqrt
def execVfmin (e : FEt) (d a b : Fin 32) (s : State) : Out3 := vflt2 s e d a b fun f _ x y => minmaxF f false x y
def execVfmax (e : FEt) (d a b : Fin 32) (s : State) : Out3 := vflt2 s e d a b fun f _ x y => minmaxF f true x y
def execVfabs (e : FEt) (d a : Fin 32) (s : State) : Out3 := vflt1 s e d a fun f _ x => (fabsBits f x, 0)
def execVfneg (e : FEt) (d a : Fin 32) (s : State) : Out3 := vflt1 s e d a fun f _ x => (fnegBits f x, 0)
def vfcmpWord (s : State) (e : FEt) (d a b : Fin 32) (op : FCmp) : Out3 :=
  vflt2 s e d a b fun f _ x y => (maskOf f.width (Machine.fcmp f op x y).1, (Machine.fcmp f op x y).2)
def execVfcmpEq (e : FEt) (d a b : Fin 32) (s : State) : Out3 := vfcmpWord s e d a b .eq
def execVfcmpLt (e : FEt) (d a b : Fin 32) (s : State) : Out3 := vfcmpWord s e d a b .lt
def execVfcmpLe (e : FEt) (d a b : Fin 32) (s : State) : Out3 := vfcmpWord s e d a b .le

/-- The wide format of a dot product (R162). -/
def wideFmt : FEt → Fmt
  | .f16 => f32 | .bf16 => f32 | .f32 => fmtOf .f64 | .f64 => fmtOf .f64

def execVfdot (e : FEt) (d a b : Fin 32) (s : State) : Out3 :=
  let n := fmtOf e
  let w := fetWidth e
  let dec (x i : Nat) : Fl := n.decode (x / 2 ^ (w * i) % 2 ^ w)
  vec3 s (2 * w) d a b fun x y z =>
    sum3 (wideFmt e) (rmOf s) (dec x 0) (dec y 0) (dec x 1) (dec y 1) ((wideFmt e).decode z)

/-! ## VSF (R172) -/

def execVrcp (e : FEt) (d a : Fin 32) (s : State) : Out3 := vflt1 s e d a fun f _ x => rcp f x
def execVrsqrt (e : FEt) (d a : Fin 32) (s : State) : Out3 := vflt1 s e d a fun f _ x => rsqrt f x
def execVexp2 (e : FEt) (d a : Fin 32) (s : State) : Out3 := vflt1 s e d a fun f _ x => Machine.exp2 f x
def execVlog2 (e : FEt) (d a : Fin 32) (s : State) : Out3 := vflt1 s e d a fun f _ x => Machine.log2 f x

/-! ## VCVT (R163 to R166) -/

/-- The conversion of one lane (R164); `vcvt.sat` to a wider or equal integer is plain `vcvt`. -/
def cvtLane (dst src : LEt) (rm : Rm) (sat : Bool) (x : Nat) : FRes :=
  match src, dst with
  | .int p, .int q =>
    (pat (ietWidth q) (if sat && ietWidth q < ietWidth p then clampInt (ietMin q) (ietMax q) (ietVal p x) else ietVal p x), 0)
  | .int p, .flt f => let r := fOfInt (fmtOf f) rm (ietVal p x); if sat then satFin (fmtOf f) true r else r
  | .flt f, .int q => fToInt (fmtOf f) rm (ietSigned q) (ietWidth q) x
  | .flt f, .flt g =>
    let r := fConv (fmtOf g) (fmtOf f) rm x
    if sat then satFin (fmtOf g) ((fmtOf f).decode x).isFin r else r

def cvtWord (s : State) (dst src : LEt) (d a : Fin 32) (sat : Bool) : Out3 :=
  finish s <| srcV s a fldA {} fun x v k => wholeCommit s k v <|
    let n := 512 / max (letWidth src) (letWidth dst)
    let l := (lanes (letWidth src) n x.toNat).map (cvtLane dst src (rmOf s) sat)
    dstV s d <| .done (writeV (accrue s (orFlags l)) d (.ofNat 512 (ofLanes (letWidth dst) (l.map (·.1)))) allV)

def execVcvt (dst src : LEt) (d a : Fin 32) (s : State) : Out3 := cvtWord s dst src d a false
def execVcvtSat (dst src : LEt) (d a : Fin 32) (s : State) : Out3 := cvtWord s dst src d a true

/-- Flags of an encoded lane (R101). -/
def Enc.flags (e : Enc) : Nat := (if e.inexact then NX else 0) ||| (if e.sat then OF ||| NX else 0)

def execVenc (t4 : Bool) (d a : Fin 32) (s : State) : Out3 :=
  finish s <| srcV s a fldA {} fun x v k => wholeCommit s k v <| dstV s d <|
    let e := if t4 then s.t.t4 else s.t.t8
    let h := if t4 then 8 else 128
    let nc := if t4 then s.t.nan4.toNat else s.t.nan8.toNat
    if !monotone h e then .trap s .encode (if t4 then 4 else 8) 0
    else
      let l := (vlanes 32 x).map (tabEncode h e nc)
      .done (writeV (accrue s (l.foldl (fun m r => m ||| r.flags) 0)) d
        (.ofNat 512 (ofLanes (if t4 then 4 else 8) (l.map (·.code)))) allV)

def execVdec (t4 : Bool) (d a : Fin 32) (s : State) : Out3 :=
  finish s <| srcV s a fldA {} fun x v k => wholeCommit s k v <|
    putWhole s d 32 ((lanes (if t4 then 4 else 8) 16 x.toNat).map (tabDecodeF32 (if t4 then s.t.t4 else s.t.t8)))

/-! ## VPERM (R167 to R171) -/

/-- Whole-register with vector sources VA and VB. -/
def perm2 (s : State) (e : LEt) (d a b : Fin 32) (f : List Nat → List Nat → List Nat) : Out3 :=
  finish s <| srcV s a fldA {} fun x va k => srcV s b fldB k fun y vb k => wholeCommit s k (va &&& vb) <|
    putWhole s d (letWidth e) (f (vlanes (letWidth e) x) (vlanes (letWidth e) y))

def execVperm (e : LEt) (d a b : Fin 32) (s : State) : Out3 :=
  perm2 s e d a b fun x y => y.map fun i => x.getD (i % x.length) 0

def execVbcast (e : LEt) (d a : Fin 32) (s : State) : Out3 :=
  finish s <| srcX s a fldA false {} fun x k => commit s k <| dstV s d <|
    .done (writeV s d (broadcast (letWidth e) (x.toNat % 2 ^ letWidth e)) allV)

/-- An element as a scalar: sign-extended for S types, else zero-extended (R168). -/
def elemToX (e : LEt) (x : Nat) : W64 :=
  match e with
  | .int t => if ietSigned t then sext64 (ietWidth t) x else .ofNat 64 x
  | .flt _ => .ofNat 64 x

def execVext (e : LEt) (d a b : Fin 32) (s : State) : Out3 :=
  let w := letWidth e
  finish s <| srcV s a fldA {} fun x v k => srcX s b fldB false k fun i k => commit s k <|
    let j := i.toNat % (512 / w)
    putResult s d (elemToX e (lane w x.toNat j)) (laneOn v w j)

def execVins (e : LEt) (d a b : Fin 32) (s : State) : Out3 :=
  let w := letWidth e
  finish s <| srcX s a fldA false {} fun x k => srcX s b fldB false k fun i k => srcV s d fldD k fun z v k =>
    commit s k <| dstV s d <|
      let j := i.toNat % (512 / w)
      .done (writeV s d (.ofNat 512 (setLane w z.toNat j x.toNat)) (v ||| .ofNat 8 (2 ^ (j * w / 64))))

def execVslide (e : LEt) (d a b : Fin 32) (s : State) : Out3 :=
  let w := letWidth e
  let n := 512 / w
  finish s <| srcV s a fldA {} fun x va k => srcX s b fldB false k fun i k => srcV s d fldD k fun z vd k =>
    wholeCommit s k (va &&& vd) <|
      putWhole s d w (((vlanes w x ++ vlanes w z).drop (i.toNat % n)).take n)

def execVrot (e : LEt) (d a b : Fin 32) (s : State) : Out3 :=
  let w := letWidth e
  let n := 512 / w
  finish s <| srcV s a fldA {} fun x va k => srcX s b fldB false k fun i k => wholeCommit s k va <|
    putWhole s d w (((vlanes w x ++ vlanes w x).drop (i.toNat % n)).take n)

def interleave : List Nat → List Nat → List Nat
  | x :: r, y :: t => x :: y :: interleave r t
  | _, _ => []
def evens : List Nat → List Nat
  | x :: _ :: r => x :: evens r
  | l => l

def execVzip (e : LEt) (d a b : Fin 32) (s : State) : Out3 :=
  perm2 s e d a b fun x y => interleave (x.take (x.length / 2)) (y.take (y.length / 2))
def execVunzip (e : LEt) (d a b : Fin 32) (s : State) : Out3 := perm2 s e d a b fun x y => evens (x ++ y)

def execVcompress (e : LEt) (d a b : Fin 32) (s : State) : Out3 :=
  perm2 s e d a b fun x y => ((x.zip y).filter fun p => p.2 != 0).map (·.1)

def expandLanes : List Nat → List Nat → List Nat
  | _, [] => []
  | x, m :: r => if m = 0 then 0 :: expandLanes x r else x.headD 0 :: expandLanes x.tail r
def execVexpand (e : LEt) (d a b : Fin 32) (s : State) : Out3 := perm2 s e d a b expandLanes

/-! Reductions (R108, R169). -/

/-- One level of the tree. -/
def treeLevel (f : Nat → Nat → FRes) : List FRes → List FRes
  | x :: y :: r => ((f x.1 y.1).1, x.2 ||| y.2 ||| (f x.1 y.1).2) :: treeLevel f r
  | l => l
def tree (f : Nat → Nat → FRes) : Nat → List FRes → FRes
  | 0, l => l.headD (0, 0)
  | n + 1, l => tree f n (treeLevel f l)

inductive RedOp | add | max | min
  deriving DecidableEq, Repr

def redIdentity (op : RedOp) : LEt → Nat
  | .int t => match op with
    | .add => 0 | .max => pat (ietWidth t) (ietMin t) | .min => pat (ietWidth t) (ietMax t)
  | .flt f => match op with
    | .add => (fmtOf f).signBit | .max => (fmtOf f).inf + (fmtOf f).signBit | .min => (fmtOf f).inf

def redFn (op : RedOp) (rm : Rm) (e : LEt) (x y : Nat) : FRes :=
  match e with
  | .int t =>
    match op with
    | .add => ((x + y) % 2 ^ ietWidth t, 0)
    | .max => (if ietVal t x ≤ ietVal t y then y else x, 0)
    | .min => (if ietVal t x ≤ ietVal t y then x else y, 0)
  | .flt f =>
    match op with
    | .add => Machine.fadd (fmtOf f) rm x y
    | .max => minmaxF (fmtOf f) true x y
    | .min => minmaxF (fmtOf f) false x y

/-- Lanes with those of invalid words replaced by the identity. -/
def withIdentity (w id : Nat) (v : BitVec 8) : Nat → List Nat → List FRes
  | _, [] => []
  | i, x :: r => (if laneOn v w i then x else id, 0) :: withIdentity w id v (i + 1) r

def reduceWord (s : State) (op : RedOp) (e : LEt) (d a : Fin 32) : Out3 :=
  let w := letWidth e
  finish s <| srcV s a fldA {} fun x v k => commit s k <|
    if v = 0 then putResult s d (elemToX e (redIdentity op e)) false
    else
      let r := tree (redFn op (rmOf s) e) 7 (withIdentity w (redIdentity op e) v 0 (vlanes w x))
      putFlagged s d r.2 (elemToX e r.1) true

def execVredAdd (e : LEt) (d a : Fin 32) (s : State) : Out3 := reduceWord s .add e d a
def execVredMax (e : LEt) (d a : Fin 32) (s : State) : Out3 := reduceWord s .max e d a
def execVredMin (e : LEt) (d a : Fin 32) (s : State) : Out3 := reduceWord s .min e d a

/-! 2:4 packing (R170, R171). -/

/-- Rank of a lane: NaN above every number, numbers by magnitude. For a binary format the magnitude pattern orders
numbers. -/
def rank24 (f : Fmt) (x : Nat) : Nat := if (f.decode x).isNan then f.signBit else x % f.signBit

/-- The two positions kept of a group of four, lower first: each position counts the lanes that beat it. -/
def kept24 (f : Fmt) (g : List Nat) : Nat × Nat :=
  let beats (j i : Nat) : Bool :=
    let a := rank24 f (g.getD j 0)
    let b := rank24 f (g.getD i 0)
    b < a || (a == b && j < i)
  let keep := (List.range 4).filter fun i => ((List.range 4).filter fun j => beats j i).length < 2
  (keep.getD 0 0, keep.getD 1 0)

def group4 (l : List Nat) (g : Nat) : List Nat := (l.drop (4 * g)).take 4

def execVpack24 (e : FEt) (d a b : Fin 32) (s : State) : Out3 :=
  finish s <| srcV s a fldA {} fun x v k => wholeCommit s k v <| dstV s d <|
    let l := vlanes 16 x
    let ks := (List.range 8).map fun g => kept24 (fmtOf e) (group4 l g)
    let out := (List.range 8).flatMap fun g =>
      let p := ks.getD g (0, 0)
      [(group4 l g).getD p.1 0, (group4 l g).getD p.2 0]
    let md := ofLanes 4 (ks.map fun p => p.1 + 4 * p.2)
    let s' := writeV s d (.ofNat 512 (ofLanes 16 out)) allV
    dstNext s s' b anyWord <| .done (writeX s' b (.ofNat 64 md) true)

def execVunpack24 (e : FEt) (d a b : Fin 32) (s : State) : Out3 :=
  finish s <| srcV s a fldA {} fun x v k => srcX s b fldB false k fun md k => wholeCommit s k v <|
    let l := vlanes (fetWidth e) x
    putWhole s d (fetWidth e) ((List.range 8).flatMap fun g =>
      let z := setNth [0, 0, 0, 0] (bits md.toNat (4 * g) 2) (l.getD (2 * g) 0)
      setNth z (bits md.toNat (4 * g + 2) 2) (l.getD (2 * g + 1) 0))

end Sys2Proof.Machine
end

