-- ==== Sys2Proof/Machine/Dispatch.lean ====
section
/-! DEFINITION. One arm for each instruction: its meaning, or its rejection by name. -/

namespace Sys2Proof.Machine

/-- The effect of one instruction or event on the machine. -/
def exec (i : Instr) (s : State) : Host.Outcome State Fault Refusal :=
  match i with
  | .add sz d a b wa wb => Sys2Proof.Machine.execAdd sz d a b wa wb s
  | .sub sz d a b wa wb => Sys2Proof.Machine.execSub sz d a b wa wb s
  | .and sz d a b wa wb => Sys2Proof.Machine.execAnd sz d a b wa wb s
  | .or sz d a b wa wb => Sys2Proof.Machine.execOr sz d a b wa wb s
  | .xor sz d a b wa wb => Sys2Proof.Machine.execXor sz d a b wa wb s
  | .andn sz d a b wa wb => Sys2Proof.Machine.execAndn sz d a b wa wb s
  | .orn sz d a b wa wb => Sys2Proof.Machine.execOrn sz d a b wa wb s
  | .sll sz d a b wa wb => Sys2Proof.Machine.execSll sz d a b wa wb s
  | .srl sz d a b wa wb => Sys2Proof.Machine.execSrl sz d a b wa wb s
  | .sra sz d a b wa wb => Sys2Proof.Machine.execSra sz d a b wa wb s
  | .rol sz d a b wa wb => Sys2Proof.Machine.execRol sz d a b wa wb s
  | .ror sz d a b wa wb => Sys2Proof.Machine.execRor sz d a b wa wb s
  | .min sz d a b wa wb => Sys2Proof.Machine.execMin sz d a b wa wb s
  | .max sz d a b wa wb => Sys2Proof.Machine.execMax sz d a b wa wb s
  | .minn sz d a b wa wb => Sys2Proof.Machine.execMinn sz d a b wa wb s
  | .maxn sz d a b wa wb => Sys2Proof.Machine.execMaxn sz d a b wa wb s
  | .mul sz d a b wa wb => Sys2Proof.Machine.execMul sz d a b wa wb s
  | .mulh sz d a b wa wb => Sys2Proof.Machine.execMulh sz d a b wa wb s
  | .mulhn sz d a b wa wb => Sys2Proof.Machine.execMulhn sz d a b wa wb s
  | .mulhsn sz d a b wa wb => Sys2Proof.Machine.execMulhsn sz d a b wa wb s
  | .div sz d a b wa wb => Sys2Proof.Machine.execDiv sz d a b wa wb s
  | .divn sz d a b wa wb => Sys2Proof.Machine.execDivn sz d a b wa wb s
  | .rem sz d a b wa wb => Sys2Proof.Machine.execRem sz d a b wa wb s
  | .remn sz d a b wa wb => Sys2Proof.Machine.execRemn sz d a b wa wb s
  | .addsat sz d a b wa wb => Sys2Proof.Machine.execAddsat sz d a b wa wb s
  | .subsat sz d a b wa wb => Sys2Proof.Machine.execSubsat sz d a b wa wb s
  | .addi d a wa imm => Sys2Proof.Machine.execAddi d a wa imm s
  | .andi d a wa imm => Sys2Proof.Machine.execAndi d a wa imm s
  | .ori d a wa imm => Sys2Proof.Machine.execOri d a wa imm s
  | .xori d a wa imm => Sys2Proof.Machine.execXori d a wa imm s
  | .slli d a wa k => Sys2Proof.Machine.execSlli d a wa k s
  | .srli d a wa k => Sys2Proof.Machine.execSrli d a wa k s
  | .srai d a wa k => Sys2Proof.Machine.execSrai d a wa k s
  | .rori d a wa k => Sys2Proof.Machine.execRori d a wa k s
  | .cmpEq sz d a b wa wb => Sys2Proof.Machine.execCmpEq sz d a b wa wb s
  | .cmpNe sz d a b wa wb => Sys2Proof.Machine.execCmpNe sz d a b wa wb s
  | .cmpLt sz d a b wa wb => Sys2Proof.Machine.execCmpLt sz d a b wa wb s
  | .cmpLtn sz d a b wa wb => Sys2Proof.Machine.execCmpLtn sz d a b wa wb s
  | .cmpLe sz d a b wa wb => Sys2Proof.Machine.execCmpLe sz d a b wa wb s
  | .cmpLen sz d a b wa wb => Sys2Proof.Machine.execCmpLen sz d a b wa wb s
  | .cmpGt sz d a b wa wb => Sys2Proof.Machine.execCmpGt sz d a b wa wb s
  | .cmpGtn sz d a b wa wb => Sys2Proof.Machine.execCmpGtn sz d a b wa wb s
  | .cmpGe sz d a b wa wb => Sys2Proof.Machine.execCmpGe sz d a b wa wb s
  | .cmpGen sz d a b wa wb => Sys2Proof.Machine.execCmpGen sz d a b wa wb s
  | .fcmpEq f d a b wa wb => Sys2Proof.Machine.execFcmpEq f d a b wa wb s
  | .fcmpLt f d a b wa wb => Sys2Proof.Machine.execFcmpLt f d a b wa wb s
  | .fcmpLe f d a b wa wb => Sys2Proof.Machine.execFcmpLe f d a b wa wb s
  | .fcmpUn f d a b wa wb => Sys2Proof.Machine.execFcmpUn f d a b wa wb s
  | .tst d a b wa wb => Sys2Proof.Machine.execTst d a b wa wb s
  | .cmpiEq d a wa imm => Sys2Proof.Machine.execCmpiEq d a wa imm s
  | .cmpiNe d a wa imm => Sys2Proof.Machine.execCmpiNe d a wa imm s
  | .cmpiLt d a wa imm => Sys2Proof.Machine.execCmpiLt d a wa imm s
  | .cmpiLtn d a wa imm => Sys2Proof.Machine.execCmpiLtn d a wa imm s
  | .cmpiGt d a wa imm => Sys2Proof.Machine.execCmpiGt d a wa imm s
  | .cmpiGtn d a wa imm => Sys2Proof.Machine.execCmpiGtn d a wa imm s
  | .li d imm => Sys2Proof.Machine.execLi d imm s
  | .lih d imm => Sys2Proof.Machine.execLih d imm s
  | .clz sz d a wa => Sys2Proof.Machine.execClz sz d a wa s
  | .ctz sz d a wa => Sys2Proof.Machine.execCtz sz d a wa s
  | .popc sz d a wa => Sys2Proof.Machine.execPopc sz d a wa s
  | .bswap sz d a wa => Sys2Proof.Machine.execBswap sz d a wa s
  | .sextB d a wa => Sys2Proof.Machine.execSextB d a wa s
  | .sextH d a wa => Sys2Proof.Machine.execSextH d a wa s
  | .sextW d a wa => Sys2Proof.Machine.execSextW d a wa s
  | .zextB d a wa => Sys2Proof.Machine.execZextB d a wa s
  | .zextH d a wa => Sys2Proof.Machine.execZextH d a wa s
  | .zextW d a wa => Sys2Proof.Machine.execZextW d a wa s
  | .bfx sz d a b wa wb => Sys2Proof.Machine.execBfx sz d a b wa wb s
  | .bfi sz d a b wa wb => Sys2Proof.Machine.execBfi sz d a b wa wb s
  | .brev sz d a wa => Sys2Proof.Machine.execBrev sz d a wa s
  | .pack sz d a b wa wb => Sys2Proof.Machine.execPack sz d a b wa wb s
  | .gate d a b wa wb => Sys2Proof.Machine.execGate d a b wa wb s
  | .gaten d a b wa wb => Sys2Proof.Machine.execGaten d a b wa wb s
  | .setv d a wa => Sys2Proof.Machine.execSetv d a wa s
  | .clrv d a wa => Sys2Proof.Machine.execClrv d a wa s
  | .isv d a wa => Sys2Proof.Machine.execIsv d a wa s
  | .selv d a b wa wb => Sys2Proof.Machine.execSelv d a b wa wb s
  | .movv d a wa => Sys2Proof.Machine.execMovv d a wa s
  | .fadd f d a b wa wb => Sys2Proof.Machine.execFadd f d a b wa wb s
  | .fsub f d a b wa wb => Sys2Proof.Machine.execFsub f d a b wa wb s
  | .fmul f d a b wa wb => Sys2Proof.Machine.execFmul f d a b wa wb s
  | .fdiv f d a b wa wb => Sys2Proof.Machine.execFdiv f d a b wa wb s
  | .fsqrt f d a wa => Sys2Proof.Machine.execFsqrt f d a wa s
  | .fmin f d a b wa wb => Sys2Proof.Machine.execFmin f d a b wa wb s
  | .fmax f d a b wa wb => Sys2Proof.Machine.execFmax f d a b wa wb s
  | .fma f d a b wa wb => Sys2Proof.Machine.execFma f d a b wa wb s
  | .fnma f d a b wa wb => Sys2Proof.Machine.execFnma f d a b wa wb s
  | .fabs f d a wa => Sys2Proof.Machine.execFabs f d a wa s
  | .fneg f d a wa => Sys2Proof.Machine.execFneg f d a wa s
  | .fsgnj f d a b wa wb => Sys2Proof.Machine.execFsgnj f d a b wa wb s
  | .fclass f d a wa => Sys2Proof.Machine.execFclass f d a wa s
  | .fcvtS f d a wa => Sys2Proof.Machine.execFcvtS f d a wa s
  | .fcvtN f d a wa => Sys2Proof.Machine.execFcvtN f d a wa s
  | .scvtF f d a wa => Sys2Proof.Machine.execScvtF f d a wa s
  | .ncvtF f d a wa => Sys2Proof.Machine.execNcvtF f d a wa s
  | .fcvtF dst src d a wa => Sys2Proof.Machine.execFcvtF dst src d a wa s
  | .ld sz d b wa nw off => Sys2Proof.Machine.execLd sz d b wa nw off s
  | .lds sz d b wa nw off => Sys2Proof.Machine.execLds sz d b wa nw off s
  | .st sz d b wa wd off => Sys2Proof.Machine.execSt sz d b wa wd off s
  | .ldAcq sz d a sc wa => Sys2Proof.Machine.execLdAcq sz d a sc wa s
  | .stRel sz d a sc wa => Sys2Proof.Machine.execStRel sz d a sc wa s
  | .ldQ d a wa => Sys2Proof.Machine.execLdQ d a wa s
  | .stQ d a wa => Sys2Proof.Machine.execStQ d a wa s
  | .touch a wa => Sys2Proof.Machine.execTouch a wa s
  | .sbwait a => Sys2Proof.Machine.execSbwait a s
  | .mkempty d => Sys2Proof.Machine.execMkempty d s
  | .amoswap w64 d a b ord sc => Sys2Proof.Machine.execAmoswap w64 d a b ord sc s
  | .amoadd w64 d a b ord sc => Sys2Proof.Machine.execAmoadd w64 d a b ord sc s
  | .amoand w64 d a b ord sc => Sys2Proof.Machine.execAmoand w64 d a b ord sc s
  | .amoor w64 d a b ord sc => Sys2Proof.Machine.execAmoor w64 d a b ord sc s
  | .amoxor w64 d a b ord sc => Sys2Proof.Machine.execAmoxor w64 d a b ord sc s
  | .amomin w64 d a b ord sc => Sys2Proof.Machine.execAmomin w64 d a b ord sc s
  | .amomax w64 d a b ord sc => Sys2Proof.Machine.execAmomax w64 d a b ord sc s
  | .amominn w64 d a b ord sc => Sys2Proof.Machine.execAmominn w64 d a b ord sc s
  | .amomaxn w64 d a b ord sc => Sys2Proof.Machine.execAmomaxn w64 d a b ord sc s
  | .amofadd d a b ord sc => Sys2Proof.Machine.execAmofadd d a b ord sc s
  | .casD d a b ord sc => Sys2Proof.Machine.execCasD d a b ord sc s
  | .casQ d a b ord sc => Sys2Proof.Machine.execCasQ d a b ord sc s
  | .vld d b wa off => Sys2Proof.Machine.execVld d b wa off s
  | .vst d b wa off => Sys2Proof.Machine.execVst d b wa off s
  | .vldNw d b wa off => Sys2Proof.Machine.execVldNw d b wa off s
  | .vgat sz d a b wa => Sys2Proof.Machine.execVgat sz d a b wa s
  | .vsca sz d a b wa => Sys2Proof.Machine.execVsca sz d a b wa s
  | .vldb sz d a wa => Sys2Proof.Machine.execVldb sz d a wa s
  | .br off => Sys2Proof.Machine.execBr off s
  | .call a off => Sys2Proof.Machine.execCall a off s
  | .bv a off => Sys2Proof.Machine.execBv a off s
  | .bnv a off => Sys2Proof.Machine.execBnv a off s
  | .bnz a off => Sys2Proof.Machine.execBnz a off s
  | .bz a off => Sys2Proof.Machine.execBz a off s
  | .jr d a wa imm => Sys2Proof.Machine.execJr d a wa imm s
  | .ldk sz d a b wa wb => Sys2Proof.Machine.execLdk sz d a b wa wb s
  | .wput d b wb => Sys2Proof.Machine.execWput d b wb s
  | .wwait => Sys2Proof.Machine.execWwait s
  | .wdisp => Sys2Proof.Machine.execWdisp s
  | .wdone => Sys2Proof.Machine.execWdone s
  | .sync lv => Sys2Proof.Machine.execSync lv s
  | .voteAnd lv d a wa => Sys2Proof.Machine.execVoteAnd lv d a wa s
  | .voteOr lv d a wa => Sys2Proof.Machine.execVoteOr lv d a wa s
  | .voteAdd lv d a wa => Sys2Proof.Machine.execVoteAdd lv d a wa s
  | .fence sc pr pw sr sw => Sys2Proof.Machine.execFence sc pr pw sr sw s
  | .hwbarArrive lv => Sys2Proof.Machine.execHwbarArrive lv s
  | .hwbarWait lv => Sys2Proof.Machine.execHwbarWait lv s
  | .watch a wa => Sys2Proof.Machine.execWatch a wa s
  | .wfe => Sys2Proof.Machine.execWfe s
  | .sev => Sys2Proof.Machine.execSev s
  | .qget q a => Sys2Proof.Machine.execQget q a s
  | .qput q a wa => Sys2Proof.Machine.execQput q a wa s
  | .vqget q a => Sys2Proof.Machine.execVqget q a s
  | .vqput q a => Sys2Proof.Machine.execVqput q a s
  | .ecmd q a b wa wb => Sys2Proof.Machine.execEcmd q a b wa wb s
  | .ebusy q a => Sys2Proof.Machine.execEbusy q a s
  | .efence lo hi => Sys2Proof.Machine.execEfence lo hi s
  | .qlen q a => Sys2Proof.Machine.execQlen q a s
  | .hld d b wa nw off => Sys2Proof.Machine.execHld d b wa nw off s
  | .hst d b wa wd off => Sys2Proof.Machine.execHst d b wa wd off s
  | .mld s32 d a b => Sys2Proof.Machine.execMld s32 d a b s
  | .mst d a b => Sys2Proof.Machine.execMst d a b s
  | .wbld len sp d a => Sys2Proof.Machine.execWbld len sp d a s
  | .mepi d a b c => Sys2Proof.Machine.execMepi d a b c s
  | .wbinv a b => Sys2Proof.Machine.execWbinv a b s
  | .syscall a wa => Sys2Proof.Machine.execSyscall a wa s
  | .sret => Sys2Proof.Machine.execSret s
  | .endCtx => Sys2Proof.Machine.execEndCtx s
  | .brk code => Sys2Proof.Machine.execBrk code s
  | .ifence => Sys2Proof.Machine.execIfence s
  | .tlbinvAll => Sys2Proof.Machine.execTlbinvAll s
  | .tlbinvAsid b wb => Sys2Proof.Machine.execTlbinvAsid b wb s
  | .tlbinvVa a b wa wb => Sys2Proof.Machine.execTlbinvVa a b wa wb s
  | .tlbinvVaall a wa => Sys2Proof.Machine.execTlbinvVaall a wa s
  | .wfi => Sys2Proof.Machine.execWfi s
  | .rdfe d => Sys2Proof.Machine.execRdfe d s
  | .wrfe a wa => Sys2Proof.Machine.execWrfe a wa s
  | .rdvb d => Sys2Proof.Machine.execRdvb d s
  | .wrvb a wa => Sys2Proof.Machine.execWrvb a wa s
  | .yield => Sys2Proof.Machine.execYield s
  | .csrr d n => Sys2Proof.Machine.execCsrr d n s
  | .csrw d a wa n => Sys2Proof.Machine.execCsrw d a wa n s
  | .csrs d a wa n => Sys2Proof.Machine.execCsrs d a wa n s
  | .csrc d a wa n => Sys2Proof.Machine.execCsrc d a wa n s
  | .vadd e d a b => Sys2Proof.Machine.execVadd e d a b s
  | .vsub e d a b => Sys2Proof.Machine.execVsub e d a b s
  | .vmul e d a b => Sys2Proof.Machine.execVmul e d a b s
  | .vmulh e d a b => Sys2Proof.Machine.execVmulh e d a b s
  | .vmin e d a b => Sys2Proof.Machine.execVmin e d a b s
  | .vmax e d a b => Sys2Proof.Machine.execVmax e d a b s
  | .vabs e d a => Sys2Proof.Machine.execVabs e d a s
  | .vneg e d a => Sys2Proof.Machine.execVneg e d a s
  | .vand e d a b => Sys2Proof.Machine.execVand e d a b s
  | .vor e d a b => Sys2Proof.Machine.execVor e d a b s
  | .vxor e d a b => Sys2Proof.Machine.execVxor e d a b s
  | .vandn e d a b => Sys2Proof.Machine.execVandn e d a b s
  | .vsll e d a b => Sys2Proof.Machine.execVsll e d a b s
  | .vsrl e d a b => Sys2Proof.Machine.execVsrl e d a b s
  | .vsra e d a b => Sys2Proof.Machine.execVsra e d a b s
  | .vaddsat e d a b => Sys2Proof.Machine.execVaddsat e d a b s
  | .vsubsat e d a b => Sys2Proof.Machine.execVsubsat e d a b s
  | .vavg e d a b => Sys2Proof.Machine.execVavg e d a b s
  | .vcmpEq e d a b => Sys2Proof.Machine.execVcmpEq e d a b s
  | .vcmpLt e d a b => Sys2Proof.Machine.execVcmpLt e d a b s
  | .vcmpLe e d a b => Sys2Proof.Machine.execVcmpLe e d a b s
  | .vbsel e d a b => Sys2Proof.Machine.execVbsel e d a b s
  | .vpopc e d a => Sys2Proof.Machine.execVpopc e d a s
  | .vclz e d a => Sys2Proof.Machine.execVclz e d a s
  | .vfadd e d a b => Sys2Proof.Machine.execVfadd e d a b s
  | .vfsub e d a b => Sys2Proof.Machine.execVfsub e d a b s
  | .vfmul e d a b => Sys2Proof.Machine.execVfmul e d a b s
  | .vfma e d a b => Sys2Proof.Machine.execVfma e d a b s
  | .vfnma e d a b => Sys2Proof.Machine.execVfnma e d a b s
  | .vfdiv e d a b => Sys2Proof.Machine.execVfdiv e d a b s
  | .vfsqrt e d a => Sys2Proof.Machine.execVfsqrt e d a s
  | .vfmin e d a b => Sys2Proof.Machine.execVfmin e d a b s
  | .vfmax e d a b => Sys2Proof.Machine.execVfmax e d a b s
  | .vfabs e d a => Sys2Proof.Machine.execVfabs e d a s
  | .vfneg e d a => Sys2Proof.Machine.execVfneg e d a s
  | .vfcmpEq e d a b => Sys2Proof.Machine.execVfcmpEq e d a b s
  | .vfcmpLt e d a b => Sys2Proof.Machine.execVfcmpLt e d a b s
  | .vfcmpLe e d a b => Sys2Proof.Machine.execVfcmpLe e d a b s
  | .vfdot e d a b => Sys2Proof.Machine.execVfdot e d a b s
  | .vcvt dst src d a => Sys2Proof.Machine.execVcvt dst src d a s
  | .venc t4 d a => Sys2Proof.Machine.execVenc t4 d a s
  | .vdec t4 d a => Sys2Proof.Machine.execVdec t4 d a s
  | .vcvtSat dst src d a => Sys2Proof.Machine.execVcvtSat dst src d a s
  | .vperm e d a b => Sys2Proof.Machine.execVperm e d a b s
  | .vbcast e d a => Sys2Proof.Machine.execVbcast e d a s
  | .vext e d a b => Sys2Proof.Machine.execVext e d a b s
  | .vins e d a b => Sys2Proof.Machine.execVins e d a b s
  | .vslide e d a b => Sys2Proof.Machine.execVslide e d a b s
  | .vrot e d a b => Sys2Proof.Machine.execVrot e d a b s
  | .vzip e d a b => Sys2Proof.Machine.execVzip e d a b s
  | .vunzip e d a b => Sys2Proof.Machine.execVunzip e d a b s
  | .vredAdd e d a => Sys2Proof.Machine.execVredAdd e d a s
  | .vredMax e d a => Sys2Proof.Machine.execVredMax e d a s
  | .vredMin e d a => Sys2Proof.Machine.execVredMin e d a s
  | .vpack24 e d a b => Sys2Proof.Machine.execVpack24 e d a b s
  | .vunpack24 e d a b => Sys2Proof.Machine.execVunpack24 e d a b s
  | .vcompress e d a b => Sys2Proof.Machine.execVcompress e d a b s
  | .vexpand e d a b => Sys2Proof.Machine.execVexpand e d a b s
  | .vrcp e d a => Sys2Proof.Machine.execVrcp e d a s
  | .vrsqrt e d a => Sys2Proof.Machine.execVrsqrt e d a s
  | .vexp2 e d a => Sys2Proof.Machine.execVexp2 e d a s
  | .vlog2 e d a => Sys2Proof.Machine.execVlog2 e d a s
  | .mma p d a b c => Sys2Proof.Machine.execMma p d a b c s
  | .mmas p d a b c => Sys2Proof.Machine.execMmas p d a b c s
  | .mz s32 d => Sys2Proof.Machine.execMz s32 d s
  | .mstat d a => Sys2Proof.Machine.execMstat d a s
  | .mcpy d a => Sys2Proof.Machine.execMcpy d a s
  | .madd d a => Sys2Proof.Machine.execMadd d a s
  | .mscale d a => Sys2Proof.Machine.execMscale d a s
  | .mrow d a b => Sys2Proof.Machine.execMrow d a b s
  | .mwait d => Sys2Proof.Machine.execMwait d s
  | .movf clr d a => Sys2Proof.Machine.execMovf clr d a s
  | .hxor d a b => Sys2Proof.Machine.execHxor d a b s
  | .hand d a b => Sys2Proof.Machine.execHand d a b s
  | .hor d a b => Sys2Proof.Machine.execHor d a b s
  | .hnot d a => Sys2Proof.Machine.execHnot d a s
  | .hrot d a b => Sys2Proof.Machine.execHrot d a b s
  | .hbund d a => Sys2Proof.Machine.execHbund d a s
  | .hbunw d a b => Sys2Proof.Machine.execHbunw d a b s
  | .hbclr d => Sys2Proof.Machine.execHbclr d s
  | .hthr d a b => Sys2Proof.Machine.execHthr d a b s
  | .hpopc d a => Sys2Proof.Machine.execHpopc d a s
  | .hdist d a b => Sys2Proof.Machine.execHdist d a b s
  | .hbcast d a => Sys2Proof.Machine.execHbcast d a s
  | .hins d a b => Sys2Proof.Machine.execHins d a b s
  | .hext d a b => Sys2Proof.Machine.execHext d a b s
  | .hmov d a => Sys2Proof.Machine.execHmov d a s
  | .hmst a b => Sys2Proof.Machine.execHmst a b s
  | .hmld d b => Sys2Proof.Machine.execHmld d b s
  | .hmclr b => Sys2Proof.Machine.execHmclr b s
  | .hmclrAll => Sys2Proof.Machine.execHmclrAll s
  | .hrecall d a b => Sys2Proof.Machine.execHrecall d a b s
  | .hrecall2 d a b => Sys2Proof.Machine.execHrecall2 d a b s
  | .dkEcmd q rs1 rs2 => Sys2Proof.Machine.execDkEcmd q rs1 rs2 s
  | .dkQput c p rs1 => Sys2Proof.Machine.execDkQput c p rs1 s
  | .dkQget c rd => Sys2Proof.Machine.execDkQget c rd s
  | .dkWcnt n rs1 rd => Sys2Proof.Machine.execDkWcnt n rs1 rd s
  | .dkSev => Sys2Proof.Machine.execDkSev s
  | .dkWfe => Sys2Proof.Machine.execDkWfe s
  | .dkWfeWatch rs1 => Sys2Proof.Machine.execDkWfeWatch rs1 s
  | .dkRdst n rd => Sys2Proof.Machine.execDkRdst n rd s
  | .dkWput rs1 rs2 => Sys2Proof.Machine.execDkWput rs1 rs2 s
  | .ecall => Sys2Proof.Machine.execEcall s
  | .ebreak => Sys2Proof.Machine.execEbreak s
  | .fillLand vt c k => Sys2Proof.Machine.execFillLand vt c k s
  | .interruptEntry vt c => Sys2Proof.Machine.execInterruptEntry vt c s
  | .deferredFault vt c => Sys2Proof.Machine.execDeferredFault vt c s
  | .runcapExpiry vt => Sys2Proof.Machine.execRuncapExpiry vt s
  | .timerMatch vt c => Sys2Proof.Machine.execTimerMatch vt c s
  | .runcapWrite vt c v => Sys2Proof.Machine.execRuncapWrite vt c v s
  | .membWrite vt c v => Sys2Proof.Machine.execMembWrite vt c v s
  | .tableLoadT8 vt toff => Sys2Proof.Machine.execTableLoadT8 vt toff s
  | .tableLoadT4 vt toff => Sys2Proof.Machine.execTableLoadT4 vt toff s
  | .engineFaultDrop vt r => Sys2Proof.Machine.execEngineFaultDrop vt r s
  | .windowStoreArrival k => Sys2Proof.Machine.execWindowStoreArrival k s
  | .windowLoadArrival vt c k => Sys2Proof.Machine.execWindowLoadArrival vt c k s
  | .portEntryArrival k => Sys2Proof.Machine.execPortEntryArrival k s
  | .streamWindowWrite k => Sys2Proof.Machine.execStreamWindowWrite k s
  | .parkedMessage k => Sys2Proof.Machine.execParkedMessage k s
  | .spliceInsert vt k => Sys2Proof.Machine.execSpliceInsert vt k s
  | .recordRetry vt k => Sys2Proof.Machine.execRecordRetry vt k s
  | .spliceRefill vt => Sys2Proof.Machine.execSpliceRefill vt s
  | .spliceDispatch vt => Sys2Proof.Machine.execSpliceDispatch vt s
  | .barrierCompletion lv id remote => Sys2Proof.Machine.execBarrierCompletion lv id remote s
  | .barrierTimeout lv id => Sys2Proof.Machine.execBarrierTimeout lv id s
  | .wireBarrierCompletion lv id => Sys2Proof.Machine.execWireBarrierCompletion lv id s
  | .arrayPass vt => Sys2Proof.Machine.execArrayPass vt s
  | .wbldLanded vt slot => Sys2Proof.Machine.execWbldLanded vt slot s
  | .engineCommandEnqueue vt r q => Sys2Proof.Machine.execEngineCommandEnqueue vt r q s
  | .copyUnit vt q => Sys2Proof.Machine.execCopyUnit vt q s
  | .copy2d vt q => Sys2Proof.Machine.execCopy2d vt q s
  | .gather vt q => Sys2Proof.Machine.execGather vt q s
  | .scatter vt q => Sys2Proof.Machine.execScatter vt q s
  | .joinCmd vt q => Sys2Proof.Machine.execJoinCmd vt q s
  | .allred vt => Sys2Proof.Machine.execAllred vt s
  | .bcast vt => Sys2Proof.Machine.execBcast vt s
  | .mcastSt vt => Sys2Proof.Machine.execMcastSt vt s
  | .redSt vt => Sys2Proof.Machine.execRedSt vt s
  | .signal vt q => Sys2Proof.Machine.execSignal vt q s
  | .engineCompletion vt q => Sys2Proof.Machine.execEngineCompletion vt q s
  | .collectiveGeneration lv id => Sys2Proof.Machine.execCollectiveGeneration lv id s
  | .collectiveTimeout lv id => Sys2Proof.Machine.execCollectiveTimeout lv id s
  | .pageRequestReply v grant tag => Sys2Proof.Machine.execPageRequestReply v grant tag s
  | .quantumExpiry gr gc => Sys2Proof.Machine.execQuantumExpiry gr gc s
  | .graceExpiry gr gc => Sys2Proof.Machine.execGraceExpiry gr gc s
  | .haltComplete gr gc => Sys2Proof.Machine.execHaltComplete gr gc s
  | .swapOut gr gc => Sys2Proof.Machine.execSwapOut gr gc s
  | .swapIn gr gc => Sys2Proof.Machine.execSwapIn gr gc s
  | .debugHalt vt r => Sys2Proof.Machine.execDebugHalt vt r s
  | .debugResume vt r => Sys2Proof.Machine.execDebugResume vt r s
  | .debugStep vt r => Sys2Proof.Machine.execDebugStep vt r s
  | .debugRoleWrite vt r w => Sys2Proof.Machine.execDebugRoleWrite vt r w s
  | .scrubPass g raced => Sys2Proof.Machine.execScrubPass g raced s
  | .lashIntervalEnd vt => Sys2Proof.Machine.execLashIntervalEnd vt s
  | .lashExchange vt agree => Sys2Proof.Machine.execLashExchange vt agree s
  | .belayRollback => Sys2Proof.Machine.execBelayRollback s
  | .lashcfgWrite vt => Sys2Proof.Machine.execLashcfgWrite vt s
  | .belaycfgWrite vt => Sys2Proof.Machine.execBelaycfgWrite vt s
  | .cpLockstepMismatch => Sys2Proof.Machine.execCpLockstepMismatch s
  | .replayRelease vt => Sys2Proof.Machine.execReplayRelease vt s
  | .notifyWrite v q => Sys2Proof.Machine.execNotifyWrite v q s
  | .slotMapping k => Sys2Proof.Machine.execSlotMapping k s
  | .pinExpiry k => Sys2Proof.Machine.execPinExpiry k s
  | .slotRotation k => Sys2Proof.Machine.execSlotRotation k s
  | .launchDispatch k => Sys2Proof.Machine.execLaunchDispatch k s
  | .launchGroupCommit gid remote => Sys2Proof.Machine.execLaunchGroupCommit gid remote s
  | .launchGroupTimeout gid => Sys2Proof.Machine.execLaunchGroupTimeout gid s
  | .gridCompletion => Sys2Proof.Machine.execGridCompletion s
  | .completionRecordRelease v => Sys2Proof.Machine.execCompletionRecordRelease v s
  | .fenceCounterWrite v k x => Sys2Proof.Machine.execFenceCounterWrite v k x s
  | .inval2 v => Sys2Proof.Machine.execInval2 v s
  | .inval2Complete v => Sys2Proof.Machine.execInval2Complete v s
  | .scopectlWrite v x => Sys2Proof.Machine.execScopectlWrite v x s
  | .energyWindow v p => Sys2Proof.Machine.execEnergyWindow v p s
  | .partitionCreate v => Sys2Proof.Machine.execPartitionCreate v s
  | .partitionReady v => Sys2Proof.Machine.execPartitionReady v s
  | .partitionTeardown v => Sys2Proof.Machine.execPartitionTeardown v s
  | .partitionScrubDone v => Sys2Proof.Machine.execPartitionScrubDone v s
  | .attestationRequest v nonce buf => Sys2Proof.Machine.execAttestationRequest v nonce buf s
  | .attestationReport v => Sys2Proof.Machine.execAttestationReport v s
  | .meterPeriod => Sys2Proof.Machine.execMeterPeriod s
  | .usageRecordRelease => Sys2Proof.Machine.execUsageRecordRelease s
  | .linkstatWrite => Sys2Proof.Machine.execLinkstatWrite s
  | .registerWrite p off x => Sys2Proof.Machine.execRegisterWrite p off x s
  | .linkBeat l ok => Sys2Proof.Machine.execLinkBeat l ok s
  | .linkDown l => Sys2Proof.Machine.execLinkDown l s
  | .migrationStart v => Sys2Proof.Machine.execMigrationStart v s
  | .pagePull v => Sys2Proof.Machine.execPagePull v s
  | .backgroundPull v => Sys2Proof.Machine.execBackgroundPull v s
  | .poolpagesWrite v n => Sys2Proof.Machine.execPoolpagesWrite v n s
  | .bringup b => Sys2Proof.Machine.execBringup b s
  | .dirtyClusterScrub k => Sys2Proof.Machine.execDirtyClusterScrub k s
  | .thermalWarning => Sys2Proof.Machine.execThermalWarning s
  | .thermalCritical => Sys2Proof.Machine.execThermalCritical s
  | .rv64imInstruction w => Sys2Proof.Machine.execRv64imInstruction w s
  | .helperEngineInterrupt vt r => Sys2Proof.Machine.execHelperEngineInterrupt vt r s
  | .cxlMemAccess v gpa n data => Sys2Proof.Machine.execCxlMemAccess v gpa n data s
  | .prqheadWrite v x => Sys2Proof.Machine.execPrqheadWrite v x s
  | .firmwareRestartComplete => Sys2Proof.Machine.execFirmwareRestartComplete s
  | .thermalWarningCleared => Sys2Proof.Machine.execThermalWarningCleared s
  | .powerLoss => Sys2Proof.Machine.execPowerLoss s

end Sys2Proof.Machine
end

