-- ==== Sys2Proof/Machine/Fetch.lean ====
section
/-! DEFINITION. Fetching and framing the next unit of a context (R44 to R48, R52, R323), and running it. -/

namespace Sys2Proof.Machine

/-! ## Fetch -/

inductive Fetched
  | ok (s : State) (w : Nat)
  | trap (s : State) (z : Cause) (tval tval2 : W64)
  | wait (s : State) (b : Block)

/-- Four bytes at a physical address through the instruction cache of the focused tile; a missing line is read whole,
and a full cache gives up a line (R323, log 9). -/
def cacheRead (s : State) (pa key : Nat) (va : W64) : Fetched :=
  let base := pa / 64 * 64
  match s.t.icache.find? (fun (l : ILine) => l.base == base) with
  | some l => .ok s (natOf (slice l.bytes (pa - base) 4))
  | none =>
    if s.m.badRange base 64 then .trap s (if paHost pa then .poison else .uncorr) va 0
    else if s.m.codeBad base 64 then .trap s .uncorr va (.ofNat 64 srcCarry)
    else
      let line : ILine := ⟨base, s.m.readGlob key base 64⟩
      let old := if s.t.icache.length < 1024 then s.t.icache else dropNth s.t.icache (Config.tlbVictim s.free % 1024)
      .ok { s with t := { s.t with icache := line :: old }, m := s.m.correctRange base 64, free := s.free + 1 }
        (natOf (slice line.bytes (pa - base) 4))

/-- The word at `va` (R44). -/
def fetchWord (s : State) (va : W64) : Fetched :=
  if va.toNat / 2 ^ 56 ≠ 0 then .trap s (if va.toNat / 2 ^ 56 = 255 then .fetchFault else .access) va 0
  else
    match chkTrans .fetch va.toNat (translate s s.t.vt .i (s.c.space s) .fetch va.toNat) with
    | .ok s' [⟨.glob pa, _, key⟩] => if s'.m.paExists pa then cacheRead s' pa key va else .trap s' .access va 0
    | .ok s' _ => .trap s' .access va 0
    | .trap s' z a b => .trap s' z a b
    | .wait s' b => .wait s' b

/-! ## Framing -/

/-- What is at the pc (R46, R47): a word to run, alone or as the C word of a pair, or a framing fault. -/
inductive Frame
  | word (w : Nat) (inPair : Bool)
  | fault

def isLone (w : Nat) : Bool := bits w 31 1 == 1
def isC (w : Nat) : Bool := bits w 30 1 == 0

/-- The framing rules for the words at an address; `w1` is the next word. -/
def frame (aligned8 : Bool) (w0 w1 : Nat) : Frame :=
  if w0 = 0 then .fault
  else if isLone w0 then .word w0 false
  else if aligned8 && isC w0 && !isC w1 && !isLone w1 then .word w0 true
  else .fault

/-- Encoding fault: the word, zero-extended (R48, R361). -/
def encFault (s : State) (w : Nat) : State := trapEntry s .illegal (.ofNat 64 w) 0

/-- The unit at the pc: its first word as an instruction with the state that runs it, or the state after the fault that
the unit raises, or the state blocked at it. -/
inductive Unit8
  | run (s : State) (i : Instr)
  | over (s : State)

noncomputable section

/-- Decode a word and stand ready to run it. A word that must be lone is an encoding fault in a pair (R50). -/
def decodeUnit (s : State) (w : Nat) (inPair : Bool) : Unit8 :=
  match decode w with
  | .ok i => .run { s with c := { s.c with inPair := inPair, run := .ready } } i
  | .error _ => .over (encFault s w)

/-- `sret` and `end`, which must be lone words (R50). -/
def mustBeLone (w : Nat) : Bool :=
  match decode w with
  | .ok .sret => true
  | .ok .endCtx => true
  | _ => false

/-- The word that the context runs alone: the A word of a pair, or what `sret` names with any L bit (R25, R35). -/
def aloneUnit (s : State) (w : Nat) : Unit8 := if isC w then .over (encFault s w) else decodeUnit s w false

/-- Fetch, frame and decode what the focused context runs next. The two words of a pair are one access (R52): the A word of
a pair that has not stopped is the word read with its C word. -/
def fetchUnit (s : State) : Unit8 :=
  match (if s.c.pos = .aWord then s.c.fetched else none) with
  | some w => aloneUnit s w.toNat
  | none =>
    match fetchWord s s.c.pc with
    | .trap s z a b => .over (trapWord s z a b)
    | .wait s b => .over (blockAt s b)
    | .ok s w0 =>
      if s.c.pos = .aWord then aloneUnit s w0
      else
        let al := s.c.pc.toNat % 8 = 0
        match (if al then fetchWord s (s.c.pc + 4) else .ok s 0) with
        | .trap s z a b => .over (trapWord s z a b)
        | .wait s b => .over (blockAt s b)
        | .ok s w1 =>
          match frame al w0 w1 with
          | .fault => .over (trapEntry s .illegal (.ofNat 64 (w0 + 2 ^ 32 * w1)) 2)
          | .word w inPair =>
            if inPair && mustBeLone w then .over (encFault s w)
            else decodeUnit { s with c := { s.c with fetched := if inPair then some (.ofNat 32 w1) else none } } w inPair

end

end Sys2Proof.Machine
end

