-- ==== Sys2Proof/Machine/Turn.lean ====
section
/-! DEFINITION. What one step does: the choice among agents and events that `State.sched` makes (log 2), the boundary
work before a word (R34, R364, R378), and the word itself. -/

namespace Sys2Proof.Machine

noncomputable section

/-! ## Turns of a context -/

/-- An access that is not performed and that every later access comes after, whatever it is to: an acquire (R285), or a load one of
whose registers a window write has filled (R286). One whose ordering is dropped for some agent holds the words to memory alone. -/
def Access.ahead (a : Access) : Bool := !a.performed && (a.cancelled != [] || (a.acq && a.away.isNone))

/-- What the next word takes from a queue, a port, a record or a counter comes after the acquires before it: they are performed
first, or the word waits (R285, R286). -/
def afterAhead (s : State) (k : State → Out3) : Out3 :=
  if s.c.accs.any Access.ahead then
    let s := performOwn Access.ahead s
    if s.c.accs.any Access.ahead then .next (blockAt s (.ordered true false)) else k s
  else k s

/-- The next word of the focused context (R46); at the runtime vector the runtime's answer, at the end stub its `end`. -/
def runWord (s : State) : Out3 :=
  if s.c.inHandler then .next (runtimeStep s)
  else if s.c.atEndStub then exec .endCtx { s with c := { s.c with inPair := false, run := .ready } }
  else
    afterAhead s fun s =>
      match fetchUnit s with
      | .over s => .next s
      | .run s i => exec i s

/-- A unit of the focused context has been executed, or has blocked (R378, R379). -/
def unitDone : Out3 → Out3
  | .next s => .next (endStep s)
  | r => r

/-- The word of `s` has raised a synchronous trap: it has not retired, and its context stands at the handler or waits for a
rollback (R33, R34, R392). -/
def trapped (s : State) : Out3 → Bool
  | .next u => u.c.instret == s.c.instret && !u.c.dbg.halted && (u.c.run == .ready || u.c.run == .blocked .service)
  | _ => false

/-- One word, trap entry or freeze of the focused context, which issues (R34, R364, R378). A denial and a deferred fault go
before interrupts, and so does the trap of the word itself (R34). -/
def contextTurn (s : State) : Out3 :=
  if s.c.dbg.pending && s.c.atBoundary && !s.g.parks s.t.vt then .next (atSwitch (freezeDbg s))
  else
    match dueDenial s, dueFault s with
    | some d, _ => unitDone (.next (enterDenial s d))
    | none, some d => .next (enterFault s d)
    | none, none =>
      match (if s.heldBack s.t.vt then none else dueIrq s) with
      | some z =>
        let r := runWord s
        if !s.c.inHandler && trapped s r then unitDone r else .next (enterIrq s z)
      | none => unitDone (runWord s)

/-- The end of the cycle in which a context has issued: its turn may be over (R232), and the issue cycles are metered (R421). -/
def settle (from_ : Nat) : Out3 → Out3
  | .next s =>
    let s := if s.c.pos = .unit then endTurn s else s
    .next (s.mapVf s.g.vf fun f => f.addMeter 1 (s.m.cycle - from_ + 1))
  | r => r

/-- The tile core with number `vt` issues, if a context of it is ready (R231). Throttling withholds the cycle (R417). -/
def tileTurn (s : State) (vt : Nat) : Option Out3 :=
  if s.m.kOf s.g.vf ≤ s.m.cycle % 8 then none
  else
    let s := expireTurn s vt
    match s.tile? vt with
    | none => none
    | some t =>
      match nextTurn s t with
      | none => none
      | some c => some (settle s.m.cycle (contextTurn (switchTo (s.focus vt c) c)))

/-! ## Turns of a helper core (R337 to R340) -/

/-- The next instruction of the helper core in focus, which fetches from its instruction store (R338). -/
def runHelper (s : State) : Out3 :=
  let h := s.helper
  let a := h.pc.toNat
  if a % 4 ≠ 0 ∨ a < iBase ∨ iBase + 0x8000 < a + 4 then hFinish (.trap s exFetch h.pc)
  else if s.t.badRange (srcHelper s.storer false) (a - iBase) 4 then hFinish (hHard s h.pc)
  else
    let s := repairMarks s s.t.vt (srcHelper s.storer false) (unitsOf 8 (a - iBase) 4)
    let w := natOf (h.istore.read (a - iBase) 4)
    match decodeHelper w with
    | .ok i => exec i s
    | .error _ => hFinish (.trap s exIllegal (.ofNat 64 w))

/-- A helper core of tile `vt` issues, if it may. -/
def helperTurn (s : State) (vt : Nat) (storer : Bool) : Option Out3 :=
  match s.tile? vt with
  | none => none
  | some t =>
    let h := if storer then t.str else t.ldr
    if !h.runs s t then none
    else
      let s := focusHelper s vt storer
      if h.dbg.pending then some (.next (hFreeze s false))
      else if let some (code, va) := hDenial s then some (hFinish (.trap s code va))
      else if replayStop s vt s.hrole then none
      else if h.irq ∧ !s.heldBack vt then some (.next (hInterrupt s))
      else some (runHelper s)

/-! ## The step -/

/-- The first of the tiles whose core can issue. -/
def anyTurn (s : State) : List Tile → Option Out3
  | [] => none
  | t :: r =>
    match tileTurn s t.vt with
    | some o => some o
    | none => anyTurn s r

/-- The first helper core that can issue. -/
def anyHelper (s : State) : List Tile → Option Out3
  | [] => none
  | t :: r =>
    match helperTurn s t.vt false with
    | some o => some o
    | none =>
      match helperTurn s t.vt true with
      | some o => some o
      | none => anyHelper s r

/-- An event that cannot happen is passed over (log 2). -/
def passOver (s : State) : Out3 → Out3
  | .refused (.eventNotEnabled _) => .next s
  | r => r

/-- The instruction cache of the tile in focus gives up a line (R44). -/
def dropLine (s : State) (base : Nat) : State :=
  { s with t := { s.t with icache := s.t.icache.filter fun l => l.base != base } }

/-- With nothing scheduled a cycle passes, and the first agent that can issue does (log 2). -/
def defaultTurn (s : State) : Out3 :=
  let s := advance 1 s
  match anyTurn s s.allTiles with
  | some o => o
  | none => (anyHelper s s.allTiles).getD (.next s)

/-- The word at which an interrupt would be taken raises a synchronous trap of its own, which goes first (R34). -/
def trapsFirst (s : State) : Instr → Bool
  | .interruptEntry vt c =>
    (s.ctx? vt c).isSome && !(s.focus vt c).c.inHandler && trapped (s.focus vt c) (runWord (s.focus vt c))
  | _ => false

/-- Posted store `k` of agent `c` of tile `vt` is performed, after the earlier ones that it overlaps (R42, R280; log 7). -/
def performStore (s : State) (vt c k : Nat) : State :=
  if c < 4 then
    match (match s.ctx? vt c with | some x => x.posted[k]? | none => none) with
    | some p => withFocus s vt c (settlePosts (· == p))
    | none => s
  else
    let u := focusHelper s vt (c == 5)
    match u.helper.posted[k]? with
    | some p =>
      let (now, later) := splitPosts (· == p) u.helper.posted
      if u.t.vt = vt then now.foldl (performPost vt) (u.setHelper { u.helper with posted := later }) else s
    | none => s

/-- A change of agent `c` of tile `vt`: of a context, or of a helper core. -/
def mapAgent (s : State) (vt c : Nat) (f : Ctx → Ctx) (g : Helper → Helper) : State :=
  if c < 4 then s.mapCtx vt c f
  else s.mapTile vt fun t => if c = 4 then { t with ldr := g t.ldr } else { t with str := g t.str }

/-- What the head of the schedule does, in the state that has taken it off (log 2, log 3). -/
def scheduled (x : Sched) (s : State) : Out3 :=
  match x with
  | .event e => if trapsFirst s e then .next s else passOver s (exec e s)
  | .turn vt => (tileTurn s vt).getD (.next s)
  | .helper vt storer => (helperTurn s vt storer).getD (.next s)
  | .grid k => .next (swapGrid s k)
  | .idle n => .next (advance n s)
  | .iflush b => .next (dropLine s b)
  | .slow vt c => .next (mapAgent s vt c (fun x => { x with slow := true }) fun h => { h with slow := true })
  | .store vt c k => .next (performStore s vt c k)
  | .outside vt c a => .next (mapAgent s vt c (fun x => { x with outside := some a }) fun h => { h with outside := some a })
  | .measure o f => .next { s with m := s.m.measure o f }

/-- One step before its log entries reach their buffer. -/
def turn (s : State) : Out3 :=
  match s.sched with
  | [] => defaultTurn s
  | x :: r => scheduled x { s with sched := r }

/-- New log entries of record mode are in their buffer after the step (R395). -/
def flushed : Out3 → Out3
  | .next s => .next (flushLogs s)
  | r => r

end

end Sys2Proof.Machine
end

