-- ==== Sys2Proof/Machine/Step.lean ====
section
/-! DEFINITION. One step of the machine, and the placing of an instruction where the next step fetches it. -/

namespace Sys2Proof.Machine

noncomputable section

/-- The state after a step that has a next one. -/
def afterTurn (s : State) : State :=
  match turn s with
  | .next r => r
  | _ => s

/-- The partner tiles of the focused grid take the step as their primaries do (R385), unless it has brought another grid into focus or
an exchange of grids has changed what is here. -/
def paired (s : State) : Host.Outcome State Fault Refusal → Host.Outcome State Fault Refusal
  | .next r =>
    match s.sched with
    | .grid _ :: _ => .next r
    | _ => .next (if r.bg.length = s.bg.length ∧ r.g.partners = s.g.partners then mirrored afterTurn s r else r)
  | r => r

/-- One step: the head of the schedule, or with none a cycle and the first agent that can issue (log 2, log 3), with what the
partners of lashed tiles do beside it. -/
def step (s : State) : Host.Outcome State Fault Refusal := flushed (paired s (turn s))

/-! ## Placing an instruction (log 4) -/

/-- A module with one tile's grid launched and resident, its contexts started, as a load from outside leaves it. -/
def launched (s : State) : State :=
  let ctx (i : Nat) : Ctx := startCtx i true 0x10000 0 0 0 false false false
  openBars
    { s with
      m := { s.m with power := .ready, cxlUp := 15, vfs := s.m.vfs.map fun f => { f with st := .ready } }
      g := { live := true, nctx := 4, gangs := [{ gr := 0, gc := 0, resident := true, clusters := [0] }] }
      t := { vt := 0, others := [ctx 1, ctx 2, ctx 3], written := List.range 512
             ldr := startHelper 0 [] [] 0 0, str := startHelper 0 [] [] 0 0 }
      tiles := [], c := ctx 0 }

/-- The machine whose focused context can issue: `s` itself where a grid runs, else a launched one. -/
def running (s : State) : State :=
  let s := if s.g.live && s.c.active then s else launched s
  { s with
    c := { s.c with run := .ready, inPair := false, xfer := none, viaSret := false, dfaults := [], dbg := {}, denial := none
                    kept := none, frame := none, fetched := none, ie := 0 }
    t := { s.t with cur := s.c.id, switch := false, lash := {} }
    g := { s.g with diverged := none, rr := 0, rollReq := [], gangs := s.g.gangs.map fun x => { x with resident := true, halting := false, halted := false } }
    m := { s.m with warn := false, badMem := [], codes := [], vfs := s.m.vfs.map fun f => { f with k := 8 } } }

/-- A translation of the page at `pc` to the page at 0x10000, for a fetch by the focused context. -/
def fetchEntry (s : State) (pc : Nat) : TlbE :=
  { vf := s.g.vf, asid := s.c.asid, g := true, base := pc / 65536 * 65536, size := 65536, pa := 0x10000
    r := false, w := false, x := true, u := !s.c.status.mode, d := false, key := 0 }

/-- Put two words at `pa` of the local rim, which the focused context fetches at `pc`. -/
def placeWords (s : State) (pc : Nat) (pos : Pos) (w0 w1 : Nat) : State :=
  let base := 0x10000 + pc % 65536 / 8 * 8
  { s with
    c := { s.c with pc := .ofNat 64 pc, pos := pos }
    t := { s.t with itlb := fetchEntry s pc :: s.t.itlb, icache := s.t.icache.filter fun l => l.base != base / 64 * 64 }
    m := { s.m with
      mem := s.m.mem.write base (bytesOf 4 w0 ++ bytesOf 4 w1)
      keys := s.m.keys.filter (·.1 != 0), blockKey := setNat s.m.blockKey (base / 64) 0 }
    sched := .turn s.t.vt :: s.sched }

/-- Put a word into the instruction store of the loader core, which executes it next. -/
def placeHelper (s : State) (w : Nat) : State :=
  { s with
    storer := false
    t := { s.t with ldr := { s.t.ldr with
      started := true, stopped := false, stall := none, denial := none, dbg := {}, frecs := [], pc := .ofNat 64 iBase
      istore := s.t.ldr.istore.write 0 (bytesOf 4 w) } }
    sched := .helper s.t.vt false :: s.sched }

/-- A lone `nop`, and one that follows in a pair. -/
def nopWord : Nat := 0xC2000000
def nopA : Nat := 0x42000000

/-- The state with an instruction placed for the very next step (log 4): a lone word or the C word of a pair at a bundle
boundary, an A word as the second word of a pair whose first has retired, a word of a helper core in the loader's store. -/
def State.withFetchWord (s : State) (nbits w : Nat) : State :=
  let w := w % 2 ^ min nbits 32
  let s := running s
  if fld w 0 7 == 0x0B && (match decDk w with | .ok _ => true | .error _ => false) then placeHelper s w
  else
    let pc := s.c.pc.toNat / 8 * 8 % 2 ^ 56
    if isLone w then placeWords s pc .unit w nopWord
    else if isC w then placeWords s pc .unit w nopA
    else placeWords s (pc + 4) .aWord nopA w

end

end Sys2Proof.Machine
end

