-- ==== Sys2Proof/Safety.lean ====
section
/-! DEFINITION. Safe runs, and the terms in which claims speak of a word: what its operands hold, when its destination can
take a result, and the state that a completed word leaves. -/

namespace Sys2Proof.Safety

open Sys2Proof.Machine

/-- A step answers a next state: the machine does not stop. -/
def Goes (s : State) : Prop := ∃ t, step s = .next t

/-! ## Operands -/

/-- Port registers among the registers `rs` that read direction `dir` (R254). -/
def portReads (rs : List (Fin 32)) (dir : Fin 4) : Nat := rs.countP fun r => 28 ≤ r.val && dirOf r == dir

/-- Value and V of scalar operand `r` of a word that has read the operands `before` already; none where the word cannot read it
now, because the register is empty or its direction queue holds no word for it (R13, R15, R16, R254). -/
def scalar (s : State) (before : List (Fin 32)) (r : Fin 32) : Option (W64 × Bool) :=
  if r.val = 0 then some (0, true)
  else if r.val < 28 then
    if s.c.x[r].tag = .full then some (s.c.x[r].val, s.c.x[r].v) else none
  else
    match neighbour s.g s.t.vt s.c.portcfg (dirOf r), s.c.inq[dirOf r][portReads before (dirOf r)]? with
    | some _, some (.word x v) => some (x, v)
    | _, _ => none

/-- Value and V bits of vector operand `r` (R13, R148, R152), as for `scalar`. -/
def vector (s : State) (before : List (Fin 32)) (r : Fin 32) : Option (W512 × BitVec 8) :=
  if r.val < 28 then
    if s.c.v[r].tag = .full then some (s.c.v[r].val, s.c.v[r].v) else none
  else
    match neighbour s.g s.t.vt s.c.portcfg (dirOf r), s.c.inq[dirOf r][portReads before (dirOf r)]? with
    | some _, some (.vec x v) => some (x, v)
    | _, _ => none

/-- Value of hypervector operand `r` (R201, R203). -/
def hyper (s : State) (r : Fin 8) : Option W8192 := if s.c.h[r].tag = .full then some s.c.h[r].val else none

/-- No register of the tile holds an error (R363, R381). -/
def Sound (s : State) : Prop := ∀ x ∈ s.t.bad ++ s.t.soft, x.1 ≠ srcReg

/-! ## Destinations -/

/-- A scalar destination can take a result now: `x0`, a register that awaits no fill, or a direction with a neighbour and a
credit (R15, R18, R236, R255). -/
def Writable (s : State) (d : Fin 32) : Prop :=
  if d.val = 0 then True
  else if d.val < 28 then s.c.x[d].tag ≠ .awaiting
  else ∃ vt, neighbour s.g s.t.vt s.c.portcfg (dirOf d) = some vt ∧ s.credit vt s.c.id (opposite (dirOf d)) anyWord = true

/-- The same of a vector destination (R18, R152). -/
def WritableV (s : State) (d : Fin 32) : Prop :=
  if d.val < 28 then s.c.v[d].tag ≠ .awaiting
  else ∃ vt, neighbour s.g s.t.vt s.c.portcfg (dirOf d) = some vt ∧ s.credit vt s.c.id (opposite (dirOf d)) anyVec = true

def WritableH (s : State) (d : Fin 8) : Prop := s.c.h[d].tag ≠ .awaiting

/-! ## Completed words -/

/-- The entries that the port registers among `rs` read have left their queues (R254). -/
def popped (s : State) (rs : List (Fin 32)) : State :=
  { s with c := { s.c with inq := Vector.ofFn fun (i : Fin 4) => (s.c.inq[i]).drop (portReads rs i) } }

/-- The word has completed in `s`, with the operands `rs`, and the context goes on. -/
def done (s : State) (rs : List (Fin 32)) : Out3 := .next (retire (popped s rs))

/-- The word has completed as a transfer of control to `target`. -/
def jumped (s : State) (rs : List (Fin 32)) (target : W64) : Out3 := .next (retireTo (popped s rs) target)

/-- The word has written the scalar result `x` with V = `v` and nothing else. -/
def wrote (s : State) (rs : List (Fin 32)) (d : Fin 32) (x : W64) (v : Bool) : Out3 := done (writeX s d x v) rs

/-- The word has written a vector result. -/
def wroteV (s : State) (rs : List (Fin 32)) (d : Fin 32) (x : W512) (v : BitVec 8) : Out3 := done (writeV s d x v) rs

/-- The word has accrued the flags `m` and written the scalar result `x` with V = `v` (R32, R89). -/
def wroteFlags (s : State) (rs : List (Fin 32)) (d : Fin 32) (m : Nat) (x : W64) (v : Bool) : Out3 :=
  done (writeX (accrue s m) d x v) rs

/-- The context has stopped at the word, which has done nothing (R230). -/
def blocked (s : State) (b : Block) : Out3 := .next (blockAt s b)

/-- The word has trapped (R34, R361). -/
def trapped (s : State) (z : Cause) (tval tval2 : W64) : Out3 := .next (trapEntry s z tval tval2)

/-- Scalar operands `a` and `b` hold `x` and `y` with V = 1. -/
def Two (s : State) (a b : Fin 32) (x y : W64) : Prop :=
  Sound s ∧ scalar s [] a = some (x, true) ∧ scalar s [a] b = some (y, true)

/-- Scalar operands `a`, `b` and then `d` itself hold `x`, `y` and `z` with V = 1. -/
def Three (s : State) (a b d : Fin 32) (x y z : W64) : Prop := Two s a b x y ∧ scalar s [a, b] d = some (z, true)

/-- Scalar operand `a` holds `x` with V = 1. -/
def One (s : State) (a : Fin 32) (x : W64) : Prop := Sound s ∧ scalar s [] a = some (x, true)

end Sys2Proof.Safety
end

