-- ==== Sys2Proof/Certificates/Slice0/Obligations.lean ====
section
/-! DEFINITION. The statements for the provers, and the tables of words that they speak of. -/

namespace Sys2Proof.Says
end Sys2Proof.Says

open Sys2Proof Sys2Proof.Machine Sys2Proof.Safety Sys2Proof.Says

/-! ## Integer register words -/

/-- An operation of width `w` on two operands, as SZ selects the width: on the low `w` bits, the result sign-extended to 64
(R118). -/
def Sys2Proof.Says.sized (f : (w : Nat) → BitVec w → BitVec w → BitVec w) (sz : Sz32) (x y : W64) : W64 :=
  match sz with
  | .w64 => f 64 x y
  | .w32 => (f 32 (x.setWidth 32) (y.setWidth 32)).signExtend 64

/-- Signed integer `i` in the signed range of `w` bits (R94). -/
def Sys2Proof.Says.saturate (w : Nat) (i : Int) : BitVec w := BitVec.ofInt w (max (-(2 ^ (w - 1))) (min (2 ^ (w - 1) - 1) i))

abbrev Sys2Proof.Says.RWord := Sz32 → Fin 32 → Fin 32 → Fin 32 → Bool → Bool → Instr

/-- The members of ALU and their f(a, b) (R119), the edge results of R93 among them. -/
def Sys2Proof.Says.aluTable : List (RWord × ((w : Nat) → BitVec w → BitVec w → BitVec w)) :=
  [ (.add, fun _ x y => x + y), (.sub, fun _ x y => x - y), (.and, fun _ x y => x &&& y), (.or, fun _ x y => x ||| y),
    (.xor, fun _ x y => x ^^^ y), (.andn, fun _ x y => x &&& ~~~y), (.orn, fun _ x y => x ||| ~~~y),
    (.sll, fun w x y => x <<< (y.toNat % w)), (.srl, fun w x y => x >>> (y.toNat % w)),
    (.sra, fun w x y => x.sshiftRight (y.toNat % w)), (.rol, fun w x y => x.rotateLeft (y.toNat % w)),
    (.ror, fun w x y => x.rotateRight (y.toNat % w)),
    (.min, fun _ x y => if x.slt y then x else y), (.max, fun _ x y => if x.slt y then y else x),
    (.minn, fun _ x y => if x < y then x else y), (.maxn, fun _ x y => if x < y then y else x),
    (.mul, fun _ x y => x * y),
    (.mulh, fun w x y => (x.signExtend (w + w) * y.signExtend (w + w)).extractLsb' w w),
    (.mulhn, fun w x y => (x.setWidth (w + w) * y.setWidth (w + w)).extractLsb' w w),
    (.mulhsn, fun w x y => (x.signExtend (w + w) * y.setWidth (w + w)).extractLsb' w w),
    (.div, fun w x y => if y = 0 then BitVec.allOnes w else x.sdiv y),
    (.divn, fun w x y => if y = 0 then BitVec.allOnes w else x.udiv y),
    (.rem, fun _ x y => if y = 0 then x else x.srem y), (.remn, fun _ x y => if y = 0 then x else x.umod y),
    (.addsat, fun w x y => saturate w (x.toInt + y.toInt)), (.subsat, fun w x y => saturate w (x.toInt - y.toInt)) ]

/-- R119: each member of ALU, with both sources valid, writes f(a, b) of width w, sign-extended, with V = 1, and changes
nothing else. -/
def Sys2Proof.Says.AluWordsWriteTheirResult : Prop :=
  ∀ p ∈ aluTable, ∀ (s : State) (sz : Sz32) (d a b : Fin 32) (wa wb : Bool) (x y : W64),
    Two s a b x y → Writable s d → exec (p.1 sz d a b wa wb) s = wrote s [a, b] d (sized p.2 sz x y) true

abbrev Sys2Proof.Says.IWord := Fin 32 → Fin 32 → Bool → BitVec 14 → Instr
abbrev Sys2Proof.Says.KWord := Fin 32 → Fin 32 → Bool → BitVec 6 → Instr

def Sys2Proof.Says.immTable : List (IWord × (W64 → W64 → W64)) :=
  [ (.addi, fun x c => x + c), (.andi, fun x c => x &&& c), (.ori, fun x c => x ||| c), (.xori, fun x c => x ^^^ c) ]

def Sys2Proof.Says.shiTable : List (KWord × (W64 → Nat → W64)) :=
  [ (.slli, fun x k => x <<< k), (.srli, fun x k => x >>> k), (.srai, fun x k => x.sshiftRight k),
    (.rori, fun x k => x.rotateRight k) ]

/-- R120, R121 and R122: the immediate words operate at 64 bits on X[A] and the sign-extended immediate or the amount k; `li`
writes its sign-extended immediate, `lih` shifts D left by 20 and puts the immediate into the low bits. -/
def Sys2Proof.Says.ImmediateWordsWriteTheirResult : Prop :=
  (∀ p ∈ immTable, ∀ (s : State) (d a : Fin 32) (wa : Bool) (imm : BitVec 14) (x : W64),
    One s a x → Writable s d → exec (p.1 d a wa imm) s = wrote s [a] d (p.2 x (imm.signExtend 64)) true) ∧
  (∀ p ∈ shiTable, ∀ (s : State) (d a : Fin 32) (wa : Bool) (k : BitVec 6) (x : W64),
    One s a x → Writable s d → exec (p.1 d a wa k) s = wrote s [a] d (p.2 x k.toNat) true) ∧
  (∀ (s : State) (d : Fin 32) (imm : BitVec 20), Writable s d → exec (.li d imm) s = wrote s [] d (imm.signExtend 64) true) ∧
  (∀ (s : State) (d : Fin 32) (imm : BitVec 20) (x : W64), One s d x → Writable s d →
    exec (.lih d imm) s = wrote s [d] d ((x <<< 20) ||| imm.setWidth 64) true)

/-! ## Compares -/

/-- A condition of width `w` as SZ selects it (R123). -/
def Sys2Proof.Says.sizedTest (f : (w : Nat) → BitVec w → BitVec w → Bool) (sz : Sz32) (x y : W64) : Bool :=
  match sz with
  | .w64 => f 64 x y
  | .w32 => f 32 (x.setWidth 32) (y.setWidth 32)

def Sys2Proof.Says.cmpTable : List (RWord × ((w : Nat) → BitVec w → BitVec w → Bool)) :=
  [ (.cmpEq, fun _ x y => x == y), (.cmpNe, fun _ x y => x != y), (.cmpLt, fun _ x y => x.slt y),
    (.cmpLtn, fun _ x y => x.ult y), (.cmpLe, fun _ x y => x.sle y), (.cmpLen, fun _ x y => x.ule y),
    (.cmpGt, fun _ x y => y.slt x), (.cmpGtn, fun _ x y => y.ult x), (.cmpGe, fun _ x y => y.sle x),
    (.cmpGen, fun _ x y => y.ule x) ]

abbrev Sys2Proof.Says.CWord := Fin 32 → Fin 32 → Bool → BitVec 11 → Instr

def Sys2Proof.Says.cmpiTable : List (CWord × (W64 → W64 → Bool)) :=
  [ (.cmpiEq, fun x c => x == c), (.cmpiNe, fun x c => x != c), (.cmpiLt, fun x c => x.slt c),
    (.cmpiLtn, fun x c => x.ult c), (.cmpiGt, fun x c => c.slt x), (.cmpiGtn, fun x c => c.ult x) ]

/-- The integer compares of R123 (`tst` at 64 bits) and those of R124 write 1 with V = 1 when their condition is true and 0
with V = 0 when it is false. -/
def Obligations.CompareWordsWriteTruth : Prop :=
  (∀ p ∈ cmpTable, ∀ (s : State) (sz : Sz32) (d a b : Fin 32) (wa wb : Bool) (x y : W64),
    Two s a b x y → Writable s d →
      exec (p.1 sz d a b wa wb) s =
        if sizedTest p.2 sz x y then wrote s [a, b] d 1 true else wrote s [a, b] d 0 false) ∧
  (∀ (s : State) (d a b : Fin 32) (wa wb : Bool) (x y : W64), Two s a b x y → Writable s d →
    exec (.tst d a b wa wb) s = if x &&& y ≠ 0 then wrote s [a, b] d 1 true else wrote s [a, b] d 0 false) ∧
  (∀ p ∈ cmpiTable, ∀ (s : State) (d a : Fin 32) (wa : Bool) (imm : BitVec 11) (x : W64),
    One s a x → Writable s d →
      exec (p.1 d a wa imm) s =
        if p.2 x (imm.signExtend 64) then wrote s [a] d 1 true else wrote s [a] d 0 false)

/-! ## Bits and fields -/

/-- A unary operation of width `w` as SZ selects it, the result sign-extended (R125). -/
def Sys2Proof.Says.sized1 (f : (w : Nat) → BitVec w → BitVec w) (sz : Sz32) (x : W64) : W64 :=
  match sz with
  | .w64 => f 64 x
  | .w32 => (f 32 (x.setWidth 32)).signExtend 64

abbrev Sys2Proof.Says.UWord := Sz32 → Fin 32 → Fin 32 → Bool → Instr

/-- Bit `i` of the result is bit `p i` of the operand, in `w` bits. -/
def Sys2Proof.Says.permuted (w : Nat) (x : BitVec w) (p : Nat → Nat) : BitVec w :=
  BitVec.ofNat w (((List.range w).map fun i => (x.getLsbD (p i)).toNat * 2 ^ i).sum)

def Sys2Proof.Says.bitTable : List (UWord × ((w : Nat) → BitVec w → BitVec w)) :=
  [ (.clz, fun w x => BitVec.ofNat w (((List.range w).map fun i => !x.getLsbD (w - 1 - i)).takeWhile id).length),
    (.ctz, fun w x => BitVec.ofNat w (((List.range w).map fun i => !x.getLsbD i).takeWhile id).length),
    (.popc, fun w x => BitVec.ofNat w ((List.range w).countP x.getLsbD)),
    (.bswap, fun w x => permuted w x fun i => w - 8 - i / 8 * 8 + i % 8),
    (.brev, fun w x => permuted w x fun i => w - 1 - i) ]

abbrev Sys2Proof.Says.EWord := Fin 32 → Fin 32 → Bool → Instr

def Sys2Proof.Says.extTable : List (EWord × (W64 → W64)) :=
  [ (.sextB, fun x => (x.setWidth 8).signExtend 64), (.sextH, fun x => (x.setWidth 16).signExtend 64),
    (.sextW, fun x => (x.setWidth 32).signExtend 64), (.zextB, fun x => x &&& 0xFF), (.zextH, fun x => x &&& 0xFFFF),
    (.zextW, fun x => x &&& 0xFFFFFFFF) ]

/-- Bit `i` of a value of width `w` lies in the field that X[B] = `y` describes (R126). -/
def Sys2Proof.Says.inField (w : Nat) (y : W64) (i : Nat) : Bool :=
  let pos := (y.extractLsb' 0 6).toNat
  let len := min (y.extractLsb' 8 7).toNat 64
  pos ≤ i && i < min (pos + len) w

/-- `bfx` and `bfi` on `w` bits. -/
def Sys2Proof.Says.bfxOf (w : Nat) (x : BitVec w) (y : W64) : BitVec w :=
  BitVec.ofNat w (((List.range w).map fun i =>
    (inField w y (i + (y.extractLsb' 0 6).toNat) && x.getLsbD (i + (y.extractLsb' 0 6).toNat)).toNat * 2 ^ i).sum)
def Sys2Proof.Says.bfiOf (w : Nat) (x : BitVec w) (y : W64) (z : BitVec w) : BitVec w :=
  BitVec.ofNat w (((List.range w).map fun i =>
    (if inField w y i then x.getLsbD (i - (y.extractLsb' 0 6).toNat) else z.getLsbD i).toNat * 2 ^ i).sum)

/-- R125 and R126: the bit and field words write their result with V = 1; `bfi` reads D as a third source. -/
def Obligations.BitWordsWriteTheirResult : Prop :=
  (∀ p ∈ bitTable, ∀ (s : State) (sz : Sz32) (d a : Fin 32) (wa : Bool) (x : W64),
    One s a x → Writable s d → exec (p.1 sz d a wa) s = wrote s [a] d (sized1 p.2 sz x) true) ∧
  (∀ p ∈ extTable, ∀ (s : State) (d a : Fin 32) (wa : Bool) (x : W64),
    One s a x → Writable s d → exec (p.1 d a wa) s = wrote s [a] d (p.2 x) true) ∧
  (∀ (s : State) (sz : Sz32) (d a b : Fin 32) (wa wb : Bool) (x y : W64), Two s a b x y → Writable s d →
    exec (.bfx sz d a b wa wb) s = wrote s [a, b] d (sized1 (fun w x => bfxOf w x y) sz x) true ∧
    exec (.pack sz d a b wa wb) s = wrote s [a, b] d
      (match sz with
        | .w64 => y.setWidth 32 ++ x.setWidth 32
        | .w32 => (y.setWidth 16 ++ x.setWidth 16).signExtend 64) true) ∧
  (∀ (s : State) (sz : Sz32) (d a b : Fin 32) (wa wb : Bool) (x y z : W64), Three s a b d x y z → Writable s d →
    exec (.bfi sz d a b wa wb) s = wrote s [a, b, d] d
      (match sz with
        | .w64 => bfiOf 64 x y z
        | .w32 => (bfiOf 32 (x.setWidth 32) y (z.setWidth 32)).signExtend 64) true)

/-! ## Validity -/

/-- R127: the validity instructions act on the values and V tags of their sources as data, whatever V is. -/
def Obligations.ValidityWordsActOnTags : Prop :=
  ∀ (s : State) (d a b : Fin 32) (wa wb : Bool) (x y : W64) (v u : Bool),
    Sound s → scalar s [] a = some (x, v) → Writable s d →
    (exec (.setv d a wa) s = wrote s [a] d x true ∧ exec (.clrv d a wa) s = wrote s [a] d x false ∧
      exec (.isv d a wa) s = wrote s [a] d (if v then 1 else 0) true ∧ exec (.movv d a wa) s = wrote s [a] d x v) ∧
    (scalar s [a] b = some (y, u) →
      exec (.gate d a b wa wb) s = wrote s [a, b] d x (v && u) ∧
      exec (.gaten d a b wa wb) s = wrote s [a, b] d x (v && !u) ∧
      exec (.selv d a b wa wb) s = if v then wrote s [a, b] d x true else wrote s [a, b] d y u)

/-! ## Scalar floating point -/

/-- The bits of a source that hold its value (R83). -/
def Sys2Proof.Says.low (f : FEt) (x : W64) : Nat := x.toNat % 2 ^ (fmtOf f).width

abbrev Sys2Proof.Says.FWord := FEt → Fin 32 → Fin 32 → Fin 32 → Bool → Bool → Instr
abbrev Sys2Proof.Says.GWord := FEt → Fin 32 → Fin 32 → Bool → Instr

/-- Pattern and flags of a member with two sources, under the rounding mode. -/
def Sys2Proof.Says.fpTable : List (FWord × (FEt → Rm → W64 → W64 → FRes)) :=
  [ (.fadd, fun f m x y => fadd (fmtOf f) m (low f x) (low f y)), (.fsub, fun f m x y => fsub (fmtOf f) m (low f x) (low f y)),
    (.fmul, fun f m x y => fmul (fmtOf f) m (low f x) (low f y)), (.fdiv, fun f m x y => fdiv (fmtOf f) m (low f x) (low f y)),
    (.fmin, fun f _ x y => minmaxF (fmtOf f) false (low f x) (low f y)),
    (.fmax, fun f _ x y => minmaxF (fmtOf f) true (low f x) (low f y)),
    (.fsgnj, fun f _ x y =>
      let n := (fmtOf f).width - 1
      (low f x % 2 ^ n + (y.getLsbD n).toNat * 2 ^ n, 0)) ]

def Sys2Proof.Says.fpTable1 : List (GWord × (FEt → Rm → W64 → FRes)) :=
  [ (.fsqrt, fun f m x => fsqrt (fmtOf f) m (low f x)), (.fabs, fun f _ x => (low f x % 2 ^ ((fmtOf f).width - 1), 0)),
    (.fneg, fun f _ x => (low f x ^^^ 2 ^ ((fmtOf f).width - 1), 0)), (.fclass, fun f _ x => (fclass (fmtOf f) (low f x), 0)),
    (.fcvtS, fun f m x => fToInt (fmtOf f) m true 64 (low f x)), (.fcvtN, fun f m x => fToInt (fmtOf f) m false 64 (low f x)),
    (.scvtF, fun f m x => fOfInt (fmtOf f) m x.toInt), (.ncvtF, fun f m x => fOfInt (fmtOf f) m x.toNat) ]

def Sys2Proof.Says.fcmpTable : List (FWord × FCmp) := [ (.fcmpEq, .eq), (.fcmpLt, .lt), (.fcmpLe, .le), (.fcmpUn, .un) ]

/-- The floating-point words read the low bits of their sources (R83), write the pattern that their operation of Float.lean
gives under `status.RM` with every higher bit 0 and V = 1, and accrue its flags; a compare writes its truth (R123, R129). -/
def Obligations.FloatWordsWriteTheirResult : Prop :=
  (∀ p ∈ fpTable, ∀ (s : State) (f : FEt) (d a b : Fin 32) (wa wb : Bool) (x y : W64), Two s a b x y → Writable s d →
    let r := p.2 f s.c.status.rm x y
    exec (p.1 f d a b wa wb) s = wroteFlags s [a, b] d r.2 (.ofNat 64 r.1) true) ∧
  (∀ p ∈ fpTable1, ∀ (s : State) (f : FEt) (d a : Fin 32) (wa : Bool) (x : W64), One s a x → Writable s d →
    let r := p.2 f s.c.status.rm x
    exec (p.1 f d a wa) s = wroteFlags s [a] d r.2 (.ofNat 64 r.1) true) ∧
  (∀ (s : State) (dst src : FEt) (d a : Fin 32) (wa : Bool) (x : W64), One s a x → Writable s d →
    let r := fConv (fmtOf dst) (fmtOf src) s.c.status.rm (low src x)
    exec (.fcvtF dst src d a wa) s = wroteFlags s [a] d r.2 (.ofNat 64 r.1) true) ∧
  (∀ (s : State) (f : FEt) (d a b : Fin 32) (wa wb : Bool) (x y z : W64), Three s a b d x y z → Writable s d →
    let r := ffma (fmtOf f) s.c.status.rm (low f x) (low f y) (low f z)
    let q := ffnma (fmtOf f) s.c.status.rm (low f x) (low f y) (low f z)
    exec (.fma f d a b wa wb) s = wroteFlags s [a, b, d] d r.2 (.ofNat 64 r.1) true ∧
    exec (.fnma f d a b wa wb) s = wroteFlags s [a, b, d] d q.2 (.ofNat 64 q.1) true) ∧
  (∀ p ∈ fcmpTable, ∀ (s : State) (f : FEt) (d a b : Fin 32) (wa wb : Bool) (x y : W64), Two s a b x y → Writable s d →
    let r := fcmp (fmtOf f) p.2 (low f x) (low f y)
    exec (p.1 f d a b wa wb) s = wroteFlags s [a, b] d r.2 (if r.1 then 1 else 0) r.1)

/-- R119 to R122: the integer words with two register sources, and those with an immediate, write their result. -/
def Obligations.IntegerWordsWriteTheirResult : Prop := AluWordsWriteTheirResult ∧ ImmediateWordsWriteTheirResult

/-! ## Operands: empty, invalid, at a port -/

/-- The words with two scalar sources A and B and an SZ or format field. -/
def Sys2Proof.Says.rWords : List (Fin 32 → Fin 32 → Fin 32 → Bool → Bool → Instr) :=
  [Sz32.w64, .w32].flatMap (fun sz => (aluTable.map fun p => p.1 sz) ++ (cmpTable.map fun p => p.1 sz) ++ [.bfx sz, .pack sz]) ++
    [FEt.f16, .bf16, .f32, .f64].flatMap (fun f => (fpTable.map fun p => p.1 f) ++ (fcmpTable.map fun p => p.1 f)) ++ [.tst]

/-- The words with the one scalar source A. -/
def Sys2Proof.Says.uWords : List (Fin 32 → Fin 32 → Bool → Instr) :=
  [Sz32.w64, .w32].flatMap (fun sz => bitTable.map fun p => p.1 sz) ++ (extTable.map fun p => p.1) ++
    [FEt.f16, .bf16, .f32, .f64].flatMap (fun f => (fpTable1.map fun p => p.1 f) ++
      [FEt.f16, .bf16, .f32, .f64].map fun g => .fcvtF f g)

/-- The fields that the words of `scalarWords` may hold. -/
structure Sys2Proof.Says.Fields where
  d : Fin 32
  a : Fin 32
  b : Fin 32
  c : Fin 32
  e : Fin 8
  wa : Bool
  wb : Bool
  wd : Bool
  sz : Sz32
  m : MSz
  f : FEt
  l : LEt
  n : WLen
  p : Pair
  q : Fin 7
  o : Ord
  sc : Scope
  k6 : BitVec 6
  i11 : BitVec 11
  i14 : BitVec 14
  i20 : BitVec 20

/-- Words of every kind that read scalar sources alone, with those sources in the order in which they are examined. The validity-aware
ones of R21 are left out; so are those that stand in a statement of their own: records, votes, and words that check a mode first. -/
noncomputable def Sys2Proof.Says.scalarWords (f : Fields) : List (Instr × List (Fin 32)) :=
  rWords.map (fun w => (w f.d f.a f.b f.wa f.wb, [f.a, f.b])) ++ uWords.map (fun w => (w f.d f.a f.wa, [f.a])) ++
  immTable.map (fun p => (p.1 f.d f.a f.wa f.i14, [f.a])) ++ shiTable.map (fun p => (p.1 f.d f.a f.wa f.k6, [f.a])) ++
  cmpiTable.map (fun p => (p.1 f.d f.a f.wa f.i11, [f.a])) ++
  [false, true].flatMap (fun w => [(.amoswap w f.d f.a f.b f.o f.sc, [f.a, f.b]), (.amoadd w f.d f.a f.b f.o f.sc, [f.a, f.b]),
    (.amoand w f.d f.a f.b f.o f.sc, [f.a, f.b]), (.amoor w f.d f.a f.b f.o f.sc, [f.a, f.b]),
    (.amoxor w f.d f.a f.b f.o f.sc, [f.a, f.b]), (.amomin w f.d f.a f.b f.o f.sc, [f.a, f.b]),
    (.amomax w f.d f.a f.b f.o f.sc, [f.a, f.b]), (.amominn w f.d f.a f.b f.o f.sc, [f.a, f.b]),
    (.amomaxn w f.d f.a f.b f.o f.sc, [f.a, f.b])]) ++
  [(.lih f.d f.i20, [f.d]), (.bfi f.sz f.d f.a f.b f.wa f.wb, [f.a, f.b, f.d]), (.fma f.f f.d f.a f.b f.wa f.wb, [f.a, f.b, f.d]),
   (.fnma f.f f.d f.a f.b f.wa f.wb, [f.a, f.b, f.d]), (.bnz f.a 0, [f.a]), (.bz f.a 0, [f.a]), (.jr f.d f.a f.wa f.i14, [f.a]),
   (.ld f.m f.d f.b f.wa f.wd f.i11, [f.b]), (.lds f.m f.d f.b f.wa f.wd f.i11, [f.b]), (.st f.m f.d f.b f.wa f.wd f.i11, [f.b, f.d]),
   (.ldAcq f.m f.d f.a f.sc f.wa, [f.a]), (.stRel f.m f.d f.a f.sc f.wa, [f.a, f.d]), (.ldQ f.d f.a f.wa, [f.a]),
   (.stQ f.d f.a f.wa, [f.a, f.d, f.d + 1]), (.touch f.a f.wa, [f.a]), (.sbwait f.a, [f.a]),
   (.amofadd f.d f.a f.b f.o f.sc, [f.a, f.b]), (.casD f.d f.a f.b f.o f.sc, [f.a, f.b, f.d]),
   (.casQ f.d f.a f.b f.o f.sc, [f.a, f.b, f.b + 1, f.d, f.d + 1]),
   (.vld f.d f.b f.wa f.i11, [f.b]), (.vldNw f.d f.b f.wa f.i11, [f.b]), (.vldb f.m f.d f.a f.wa, [f.a]), (.vbcast f.l f.d f.a, [f.a]),
   (.hld f.e f.b f.wa f.wd f.i11, [f.b]), (.hbcast f.e f.a, [f.a]), (.hmld f.e f.b, [f.b]), (.hmclr f.b, [f.b]),
   (.mld f.wa f.e f.a f.b, [f.a, f.b]), (.wbld f.n f.wa f.d f.a, [f.a, f.d]),
   (.wbinv f.a f.b, [f.a, f.b]), (.mma f.p f.e f.a f.b f.c, [f.a, f.b, f.c]), (.mmas f.p f.e f.a f.b f.c, [f.a, f.b, f.c]),
   (.qput 11 f.a f.wa, [f.a]), (.watch f.a f.wa, [f.a]), (.syscall f.a f.wa, [f.a]), (.wrfe f.a f.wa, [f.a])]

/-- The words with scalar sources that read tile register `e` too, which in flight is empty to them (R23, R177). -/
noncomputable def Sys2Proof.Says.tileWords (f : Fields) : List (Instr × List (Fin 32)) :=
  [(.mst f.e f.a f.b, [f.a, f.b]), (.mepi f.e f.a f.b f.c, [f.a, f.b, f.c]), (.mscale f.e f.a, [f.a]), (.mrow f.d f.e f.b, [f.b])]

/-- The operands `rs` can all be read, in that order, and one of them is invalid. -/
def Sys2Proof.Says.Spoilt (s : State) (rs : List (Fin 32)) : Prop :=
  Sound s ∧ (∀ k < rs.length, (scalar s (rs.take k) (rs.getD k 0)).isSome = true) ∧
    ∃ k < rs.length, (scalar s (rs.take k) (rs.getD k 0)).map (·.2) = some false

/-- A branch of any offset, a vote that has not arrived, an engine command and a word that checks a mode or a CSR number first. -/
def Sys2Proof.Says.CheckedWordsAreNullified : Prop :=
  (∀ (s : State) (a : Fin 32) (off : BitVec 18), Spoilt s [a] → ∀ i ∈ [Instr.bnz a off, .bz a off], exec i s = .next (retire s)) ∧
  (∀ (s : State) (lv : Level) (d a : Fin 32) (w : Bool), Spoilt s [a] → (s.c.bar (levelIdx lv)).arr = .none →
    ∀ i ∈ [Instr.voteAnd lv d a w, .voteOr lv d a w, .voteAdd lv d a w], exec i s = .next (retire s)) ∧
  (∀ (s : State) (q : Fin 16) (a b : Fin 32) (wa wb : Bool), 4 ≤ q.val → q.val < 11 → Spoilt s [a, b] →
    exec (.ecmd q a b wa wb) s = .next (retire s)) ∧
  (∀ (s : State) (d a : Fin 32) (w : Bool) (n : BitVec 12), Spoilt s [a] → csrListed n.toNat = true →
    (s.c.status.mode = true ∨ csrS n.toNat = false) →
      ∀ i ∈ [Instr.csrw d a w n, .csrs d a w n, .csrc d a w n], exec i s = .next (retire s)) ∧
  (∀ (s : State) (a b : Fin 32) (wa wb : Bool), s.c.status.mode = true →
    (Spoilt s [b] → exec (.tlbinvAsid b wb) s = .next (retire s)) ∧ (Spoilt s [a] → exec (.tlbinvVaall a wa) s = .next (retire s)) ∧
    (Spoilt s [a, b] → exec (.tlbinvVa a b wa wb) s = .next (retire s)))

/-- Words with vector or hypervector sources beside an invalid scalar source: the word is nullified as a whole (R21, R23). -/
def Sys2Proof.Says.MixedWordsAreNullified : Prop :=
  (∀ (s : State) (f : Fields) (v : W512 × BitVec 8), Spoilt s [f.b] → vector s [f.b] f.d = some v →
    exec (.vst f.d f.b f.wa f.i11) s = .next (retire s)) ∧
  (∀ (s : State) (f : Fields) (v : W512 × BitVec 8), Spoilt s [f.a] → vector s [f.a] f.b = some v →
    exec (.vgat f.m f.d f.a f.b f.wa) s = .next (retire s) ∧
    ∀ u, vector s [f.a, f.b] f.d = some u → exec (.vsca f.m f.d f.a f.b f.wa) s = .next (retire s)) ∧
  (∀ (s : State) (f : Fields) (v : W512 × BitVec 8) (x : W64), Sound s → vector s [] f.a = some v → scalar s [f.a] f.b = some (x, false) →
    (∀ i ∈ [Instr.vext f.l f.d f.a f.b, .vrot f.l f.d f.a f.b], exec i s = .next (retire s)) ∧
    ∀ u, vector s [f.a, f.b] f.d = some u → exec (.vslide f.l f.d f.a f.b) s = .next (retire s)) ∧
  (∀ (s : State) (f : Fields) (v : W512 × BitVec 8), Spoilt s [f.a, f.b] → vector s [f.a, f.b] f.d = some v →
    exec (.vins f.l f.d f.a f.b) s = .next (retire s)) ∧
  (∀ (s : State) (f : Fields) (g : Fin 8) (x : W8192), Spoilt s [f.b] → hyper s g = some x →
    (∀ i ∈ [Instr.hst g f.b f.wa f.wd f.i11, .hext f.d g f.b, .hmst g f.b, .hrecall f.d g f.b, .hrecall2 f.d g f.b, .hrot f.e g f.b],
      exec i s = .next (retire s)) ∧
    ∀ k : Fin 2, exec (.hbunw k g f.b) s = .next (retire s)) ∧
  (∀ (s : State) (f : Fields) (x : W8192), Spoilt s [f.a, f.b] → hyper s f.e = some x →
    exec (.hins f.e f.a f.b) s = .next (retire s))

/-- A record word whose key, route, address or payload is invalid sends nothing and loads nothing. -/
def Sys2Proof.Says.RecordWordsAreNullified : Prop :=
  ∀ (s : State) (d a b : Fin 32) (z : MSz) (wa wb : Bool) (rt : W64) (v : Bool),
    let n := (s.g.cls (rt.toNat / 2 ^ 24 % 16)).words
    let regs (r k : Nat) : List (Fin 32) := (List.range k).map fun i => Fin.ofNat 32 (r + i)
    (scalar s [b] d = some (rt, v) → Spoilt s ([b, d] ++ regs 8 n) → exec (.wput d b wb) s = .next (retire s)) ∧
    (scalar s [a, b] d = some (rt, v) → Spoilt s ([a, b, d] ++ regs 9 (n - 1)) → exec (.ldk z d a b wa wb) s = .next (retire s))

/-- R21: a word that reads any scalar source with V = 0 is nullified: it retires, and nothing else happens. The words are those with
scalar sources alone, of every family; those that read a tile register beside them, which is not in flight (R23); those with vector or
hypervector sources beside them; the record words; and those that check something first. -/
def Obligations.InvalidSourceNullifies : Prop :=
  (∀ (f : Fields) (p : Instr × List (Fin 32)), p ∈ scalarWords f → ∀ s : State, Spoilt s p.2 → exec p.1 s = .next (retire s)) ∧
  (∀ (f : Fields) (p : Instr × List (Fin 32)), p ∈ tileWords f → ∀ s : State, Spoilt s p.2 → s.c.t[f.e].inflight = 0 →
    exec p.1 s = .next (retire s)) ∧
  CheckedWordsAreNullified ∧ MixedWordsAreNullified ∧ RecordWordsAreNullified

/-- A register that is not full: `x1` to `x27` (R14). -/
def Sys2Proof.Says.Empty (s : State) (r : Fin 32) : Prop := r.val ≠ 0 ∧ r.val < 28 ∧ s.c.x[r].tag ≠ .full

/-- R20: an empty source with wait bit 1 traps EMPTY with its register and field; with wait bit 0 the word blocks at it. A is
examined before B, and B whether A is valid or not. -/
def Sys2Proof.Says.EmptySourceWaitsOrTraps : Prop :=
  (∀ w ∈ rWords, ∀ (s : State) (d a b : Fin 32) (wa wb : Bool), Empty s a →
    exec (w d a b wa wb) s = if wa then trapped s .empty (.ofNat 64 a.val) 0 else blocked s (.xreg a)) ∧
  (∀ w ∈ rWords, ∀ (s : State) (d a b : Fin 32) (wa wb : Bool) (x : W64) (v : Bool), Sound s →
    scalar s [] a = some (x, v) → Empty s b →
      exec (w d a b wa wb) s = if wb then trapped s .empty (.ofNat 64 b.val) 1 else blocked s (.xreg b)) ∧
  (∀ w ∈ uWords, ∀ (s : State) (d a : Fin 32) (wa : Bool), Empty s a →
    exec (w d a wa) s = if wa then trapped s .empty (.ofNat 64 a.val) 0 else blocked s (.xreg a))

/-- A port register as source A (R254): with no neighbour the word traps PORT_EDGE; with its direction queue empty it blocks, or
traps EMPTY with wait bit 1; where the next entry is a vector entry it traps PORT_KIND; an entry whose carry code failed traps
UNCORR with SRC 5 once everything else is ready (R384, R363). -/
def Sys2Proof.Says.PortSourceFollowsItsQueue : Prop :=
  ∀ w ∈ rWords, ∀ (s : State) (d a b : Fin 32) (wa wb : Bool), 28 ≤ a.val →
    (neighbour s.g s.t.vt s.c.portcfg (dirOf a) = none →
      exec (w d a b wa wb) s = trapped s .portEdge (.ofNat 64 (dirOf a).val) 0) ∧
    (∀ vt, neighbour s.g s.t.vt s.c.portcfg (dirOf a) = some vt →
      (s.c.inq[dirOf a] = [] →
        exec (w d a b wa wb) s = if wa then trapped s .empty (.ofNat 64 a.val) 0 else blocked s (.portEmpty (dirOf a) 0)) ∧
      (∀ x v r, s.c.inq[dirOf a] = .vec x v :: r →
        exec (w d a b wa wb) s = trapped s .portKind (.ofNat 64 (dirOf a).val) 1) ∧
      (∀ y v r, Sound s → s.c.inq[dirOf a] = .bad false :: r → b.val < 28 → scalar s [a] b = some (y, v) → s.repeatable = false →
        Writable s d → exec (w d a b wa wb) s =
          if v then trapped s .uncorr (.ofNat 64 (8 * a.val)) (.ofNat 64 srcCarry) else .next (retire s)))

/-- R18, R255 and R256: a word whose sources are ready and whose destination awaits a fill blocks until it has landed; one that
writes a direction traps PORT_EDGE without a neighbour and blocks without a credit. -/
def Sys2Proof.Says.DestinationIsWaitedFor : Prop :=
  ∀ w ∈ rWords, ∀ (s : State) (d a b : Fin 32) (wa wb : Bool) (x y : W64), Two s a b x y →
    (d.val ≠ 0 → d.val < 28 → s.c.x[d].tag = .awaiting → exec (w d a b wa wb) s = blocked s (.xreg d)) ∧
    (28 ≤ d.val → neighbour s.g s.t.vt s.c.portcfg (dirOf d) = none →
      exec (w d a b wa wb) s = trapped s .portEdge (.ofNat 64 (dirOf d).val) 1) ∧
    (∀ vt, 28 ≤ d.val → neighbour s.g s.t.vt s.c.portcfg (dirOf d) = some vt →
      s.credit vt s.c.id (opposite (dirOf d)) anyWord = false → exec (w d a b wa wb) s = blocked s (.credit (dirOf d)))

/-! ## What writing a register does -/

/-- R115 with R13 to R15: a result written to `x1` to `x27` gives that register the value, F = 1 and the V, and leaves every
other register, the memory and the rest of the machine alone but for the fingerprints and the error marks of the eight bytes it writes, which it
drops (R381); one written to `x0` changes nothing. -/
def Sys2Proof.Says.WriteSetsOneRegister : Prop :=
  ∀ (s : State) (d : Fin 32) (x : W64) (v : Bool),
    (d.val = 0 → writeX s d x v = s) ∧
    (d.val ≠ 0 → d.val < 28 →
      let o := s.c.id * 0x20000 + 8 * d.val
      (∃ (l : Lash) (q : W64),
        writeX s d x v = { s with
          c := { s.c with x := s.c.x.set d ⟨x, .full, v⟩ }, t := { s.t.heal srcReg o 8 with lash := l, rfp := q } } ∧
        (s.t.lash.role = 0 → s.g.rr = 0 → l = s.t.lash ∧ q = s.t.rfp)) ∧
      (srcReg, o / 8) ∉ (writeX s d x v).t.bad ∧
      ∀ y, y ≠ (srcReg, o / 8) → (y ∈ (writeX s d x v).t.bad ↔ y ∈ s.t.bad))

/-- R255, R234 and R383: a result written to a direction becomes an entry on its way to the opposite queue of the neighbour's context of
the same number, the last of the mesh and with its carry codes, where the tile is not lashed. -/
def Sys2Proof.Says.PortWriteSendsOneEntry : Prop :=
  ∀ (s : State) (d : Fin 32) (x : W64) (v : Bool) (vt : Nat), 28 ≤ d.val → s.t.lash.role = 0 →
    neighbour s.g s.t.vt s.c.portcfg (dirOf d) = some vt →
      (writeX s d x v).g.mesh = s.g.mesh ++
        [{ src := s.t.vt, c := s.c.id, dst := vt, body := .port s.c.id (opposite (dirOf d)) (.word x v), seq := s.g.sendNext
           code := [carryCode (bytesOf 8 x.toNat)], loose := s.awayAt (if s.g.gangOf vt = s.g.gangOf s.t.vt then 3 else 4) }] ∧
      (writeX s d x v).c = s.c ∧ (writeX s d x v).m = s.m

/-- R18, R20, R254 to R256: what a word does at a source or destination that is not ready, or at a direction without a neighbour. -/
def Obligations.OperandsAreWaitedForInOrder : Prop := EmptySourceWaitsOrTraps ∧ PortSourceFollowsItsQueue ∧ DestinationIsWaitedFor

/-- R115 with R13 to R15, R234 and R255: where the scalar result of a word goes. -/
def Obligations.ResultsGoToOneRegisterOrPort : Prop := WriteSetsOneRegister ∧ PortWriteSendsOneEntry

/-! ## Retirement, control transfer, traps -/

/-- R24, R25, R33 and R49: a word that retires counts one in `instret` and moves the pc: a C word of a pair leaves its A word next,
a lone word the next word, an A word the pending transfer's target or the next word. It leaves every register alone. -/
def Obligations.RetirementMovesOn : Prop :=
  ∀ s : State,
    (retire s).c.instret = s.c.instret + 1 ∧ (retire s).c.run = .ready ∧
    (s.c.inPair = true → (retire s).c.pc = s.c.pc + 4 ∧ (retire s).c.pos = .aWord ∧ (retire s).c.xfer = s.c.xfer) ∧
    (s.c.inPair = false → (retire s).c.pos = .unit ∧ (retire s).c.xfer = none ∧
      (retire s).c.pc = if s.c.pos = .aWord then s.c.xfer.getD (s.c.pc + 4) else s.c.pc + 4) ∧
    (∀ p, (retireTo s p).c.instret = s.c.instret + 1 ∧
      if s.c.inPair then (retireTo s p).c.pc = s.c.pc + 4 ∧ (retireTo s p).c.pos = .aWord ∧ (retireTo s p).c.xfer = some p
      else (retireTo s p).c.pc = p ∧ (retireTo s p).c.pos = .unit) ∧
    ((retire s).c.x = s.c.x ∧ (retire s).c.v = s.c.v ∧ (retire s).c.h = s.c.h ∧ (retire s).c.t = s.c.t ∧ (retire s).c.b = s.c.b) ∧
    (retire s).m = s.m ∧ (retire s).tiles = s.tiles ∧ (retire s).t.sp = s.t.sp

/-- target of R135 for the word at the pc. -/
def Sys2Proof.Says.target (s : State) (off : BitVec 18) : W64 := s.c.pc + (off.signExtend 64 <<< 2)

/-- link of R135. -/
def Sys2Proof.Says.link (s : State) : W64 := if s.c.inPair then s.c.pc + 8 else s.c.pc + 4

/-- R135 and R136: each branch is taken as its row says and `call` and `jr` write the link; a `jr` to an address that is not
4-aligned traps MISALIGN and writes none. -/
def Obligations.BranchesGoToTheirTarget : Prop :=
  (∀ (s : State) (off : BitVec 18), exec (.br off) s = jumped s [] (target s off)) ∧
  (∀ (s : State) (a : Fin 32) (off : BitVec 18), Writable s a →
    exec (.call a off) s = jumped (writeX s a (link s) true) [] (target s off)) ∧
  (∀ (s : State) (a : Fin 32) (off : BitVec 18) (x : W64) (v : Bool), Sound s → scalar s [] a = some (x, v) →
    exec (.bv a off) s = (if v then jumped s [a] (target s off) else done s [a]) ∧
    exec (.bnv a off) s = if v then done s [a] else jumped s [a] (target s off)) ∧
  (∀ (s : State) (a : Fin 32) (off : BitVec 18) (x : W64), One s a x →
    exec (.bnz a off) s = (if x = 0 then done s [a] else jumped s [a] (target s off)) ∧
    exec (.bz a off) s = if x = 0 then jumped s [a] (target s off) else done s [a]) ∧
  (∀ (s : State) (d a : Fin 32) (wa : Bool) (imm : BitVec 14) (x : W64), One s a x → Writable s d →
    let t := x + (imm.signExtend 64 <<< 2)
    exec (.jr d a wa imm) s =
      if t.toNat % 4 = 0 then jumped (writeX s d (link s) true) [a] t else trapped s .misalign t 0)

/-- R34: trap entry saves the word's address, the cause and the trap values, sets HALF for the A word of a pair, records a pending
transfer of that pair, enters S mode with interrupts off, and goes to `tvec`. No register and no memory changes. -/
def Obligations.TrapEntrySavesAndEnters : Prop :=
  ∀ (s : State) (z : Cause) (tval tval2 : W64),
    let t := trapEntry s z tval tval2
    let aw : Bool := s.c.pos == .aWord
    t.c.epc = s.c.pc ∧ t.c.cause = z.code ∧ t.c.tval = tval ∧ t.c.tval2 = tval2 ∧
    t.c.status.half = aw ∧ t.c.status.pmode = s.c.status.mode ∧ t.c.status.mode = true ∧
    t.c.status.pie = s.c.status.ie ∧ t.c.status.ie = false ∧ t.c.status.rm = s.c.status.rm ∧
    (t.c.status.xfer, t.c.xtarget) =
      (if aw && s.c.viaSret then (s.c.status.xfer, s.c.xtarget)
       else if aw then (match s.c.xfer with | some p => (true, p) | none => (false, s.c.xtarget))
       else (false, s.c.xtarget)) ∧
    t.c.pc = s.c.tvec ∧ t.c.pos = .unit ∧
    t.c.x = s.c.x ∧ t.c.v = s.c.v ∧ t.c.h = s.c.h ∧ t.c.t = s.c.t ∧ t.c.b = s.c.b ∧ t.c.fflags = s.c.fflags ∧
    t.c.instret = s.c.instret ∧ t.m = s.m ∧ t.tiles = s.tiles ∧ t.t.sp = s.t.sp

/-- R139 and R35: `sret` in S mode restores MODE and IE, sets PIE, clears PMODE and HALF, and goes to `epc`: with HALF = 1 to the A
word there alone, which the recorded transfer follows, else to a bundle. The word counts in `instret`. -/
def Obligations.SretRestores : Prop :=
  ∀ s : State, s.c.status.mode = true → ∃ t, exec .sret s = .next t ∧
    t.c.status.mode = s.c.status.pmode ∧ t.c.status.ie = s.c.status.pie ∧ t.c.status.pie = true ∧ t.c.status.pmode = false ∧
    t.c.status.half = false ∧ t.c.pc = s.c.epc ∧ t.c.instret = s.c.instret + 1 ∧
    (s.c.status.half = false → t.c.pos = .unit ∧ t.c.xfer = none ∧ t.c.status.xfer = false) ∧
    (s.c.status.half = true → t.c.pos = .aWord ∧ t.c.xfer = if s.c.status.xfer then some s.c.xtarget else none) ∧
    t.c.x = s.c.x ∧ t.c.v = s.c.v ∧ t.c.h = s.c.h ∧ t.c.t = s.c.t ∧ t.c.b = s.c.b ∧ t.m = s.m

/-- The word that a privileged trap reports: the encoding with L = 1 for a lone word (R361). -/
def Sys2Proof.Says.reported (s : State) (i : Instr) : W64 := .ofNat 64 ((encode i).getD 0 + if s.c.inPair then 0 else 2 ^ 31)

/-- R26: a privileged instruction in U mode traps PRIV; the instructions are `sret`, `wfi` and the forms of `tlbinv`. -/
def Sys2Proof.Says.PrivilegedWordsTrapInUserMode : Prop :=
  ∀ (s : State), s.c.status.mode = false →
    (∀ i ∈ [Instr.sret, .wfi, .tlbinvAll], exec i s = trapped s .priv (reported s i) 0) ∧
    ∀ (a b : Fin 32) (wa wb : Bool), ∀ i ∈ [Instr.tlbinvAsid b wb, .tlbinvVa a b wa wb, .tlbinvVaall a wa],
      exec i s = trapped s .priv (reported s i) 0

/-- R140: `syscall` traps SYSCALL with X[A], and `brk` traps BREAK with its code, or freezes the role where BRKHALT is set (R380);
`tval2` says whether the word is the C word of a pair. -/
def Sys2Proof.Says.SystemCallsTrap : Prop :=
  (∀ (s : State) (a : Fin 32) (wa : Bool) (x : W64), One s a x →
    exec (.syscall a wa) s = trapped s .syscall x (if s.c.inPair then 1 else 0)) ∧
  (∀ (s : State) (code : BitVec 5), s.c.dbg.brkHalt = false →
    exec (.brk code) s = trapped s .brk (code.setWidth 64) (if s.c.inPair then 1 else 0)) ∧
  (∀ (s : State) (code : BitVec 5), s.c.dbg.brkHalt = true → ∃ t, exec (.brk code) s = .next t ∧
    t.c.dbg.halted = true ∧ t.c.dbg.brkHit = true ∧ t.c.pc = s.c.pc ∧ t.c.epc = s.c.epc ∧ t.c.cause = s.c.cause ∧
    t.c.status = s.c.status ∧ t.c.x = s.c.x)

/-- `end` (R141): the context has ended, with the word counted; its fault records and its partly assembled commands, and no others, are dropped and
counted (R344, R357); with no store posted, no memory changes. Other grids of the module that belong to its launch group (R434) are not spoken of. -/
def Sys2Proof.Says.EndEndsTheContext : Prop :=
  ∀ s : State, groupIdx s = [] → ∃ t, exec .endCtx s = .next t ∧ t.c.run = .ended ∧ t.c.frecs = [] ∧ t.c.instret = s.c.instret + 1 ∧
    t.t.asm = s.t.asm.filter (fun a => a.agent != s.c.id) ∧
    t.g.cmdDrop = s.g.cmdDrop + (s.t.asm.filter fun a => a.agent == s.c.id).length ∧
    t.g.recDrop = s.g.recDrop + s.c.frecs.length ∧
    (∀ d : Fin 8, (∀ a ∈ s.t.asm, a.agent = s.c.id → ∀ o, a.follow = some o → o.d ≠ d) → t.c.t[d] = s.c.t[d]) ∧
    t.c.x = s.c.x ∧ t.c.v = s.c.v ∧ t.c.h = s.c.h ∧ t.c.b = s.c.b ∧ t.c.pc = s.c.pc ∧
    (s.c.posted = [] → t.m = s.m ∧ t.t.sp = s.t.sp)

/-! ## Control and status registers -/

/-- CSRs that the word may access in its mode (R27, R28). -/
def Sys2Proof.Says.Accessible (s : State) (n : BitVec 12) : Prop :=
  csrListed n.toNat = true ∧ (s.c.status.mode = true ∨ csrS n.toNat = false)

/-- Registers of R28 whose write changes the bits that they keep, in the focused context alone, and the context after it. -/
def Sys2Proof.Says.plainCsrs : List (BitVec 12 × (W64 → Ctx → Ctx)) :=
  [ (0x001, fun v c => { c with epc := v &&& ~~~3 }), (0x002, fun v c => { c with cause := v.setWidth 8 }),
    (0x003, fun v c => { c with tval := v }), (0x004, fun v c => { c with tval2 := v }),
    (0x005, fun v c => { c with tvec := v &&& ~~~7 }), (0x006, fun v c => { c with scratch := v }),
    (0x007, fun v c => { c with ie := (c.ie &&& 0b10001) ||| (v.setWidth 5 &&& 0b01110) }),
    (0x008, fun v c => { c with ipSoft := v.getLsbD 2 }), (0x009, fun v c => { c with xtarget := v &&& ~~~3 }),
    (0x010, fun v c => { c with fflags := v.setWidth 5 }), (0x025, fun v c => { c with runcap := v.setWidth 32, turn := 0 }),
    (0x026, fun v c => { c with portcfg := v.setWidth 4 }), (0x027, fun v c => { c with pitch := v.extractLsb' 4 18 }),
    (0x040, fun v c => { c with sat := v.setWidth 2 }), (0x070, fun v c => { c with bto := v.setWidth 32 }),
    (0x0C3, fun v c => if c.status.mode then { c with tmatch := v } else c),
    (0x100, fun v c => { c with ptroot := v.extractLsb' 11 41 }), (0x101, fun v c => { c with asid := v.setWidth 16 }) ] ++
  (List.finRange 7).map fun k => (.ofNat 12 (0x063 + k.val), fun v c => { c with cnt := c.cnt.set k.val v k.isLt })

/-- Registers of R28 that no write changes. -/
def Sys2Proof.Says.fixedCsrs : List (BitVec 12) := [0x020, 0x021, 0x022, 0x023, 0x050, 0x051, 0x061, 0x062, 0x071, 0x0C0, 0x0C1, 0x0C2]

/-- The three write forms, with what each one writes over the old value. -/
def Sys2Proof.Says.csrForms (d a : Fin 32) (w : Bool) (n : BitVec 12) (old x : W64) : List (Instr × W64) :=
  [(.csrw d a w n, x), (.csrs d a w n, old ||| x), (.csrc d a w n, old &&& ~~~x)]

/-- D has the old value in `t`, where the word has written its CSR; a send to a direction finds the neighbour that it had before, in `s` (R138). -/
def Sys2Proof.Says.oldWritten (s t : State) (d : Fin 32) (old : W64) : State :=
  let u := writeX { t with c := { t.c with portcfg := s.c.portcfg } } d old true
  { u with c := { u.c with portcfg := t.c.portcfg } }

/-- The new contents of the register in the fingerprint of its tile (R387), the old value in D. -/
def Sys2Proof.Says.csrDone (s t : State) (d a : Fin 32) (n : BitVec 12) (old : W64) : Out3 :=
  done (oldWritten s (absorbCsr t n.toNat (csrRead t n.toNat).toNat) d old) [a]

/-- R137 and R28: `csrr` writes the register's value; `csrw`, `csrs` and `csrc` write the new value, the register keeps its bits of it, and the old
one goes to D. The next state is given whole: nothing else changes. -/
def Obligations.CsrWordsReadAndWrite : Prop :=
  (∀ (s : State) (d : Fin 32) (n : BitVec 12), Accessible s n → Writable s d →
    (n ≠ 0x081 ∨ s.t.lash.role ≠ 1 → exec (.csrr d n) s = wrote s [] d (csrRead s n.toNat) true) ∧
    (n = 0x081 → s.t.lash.role = 1 → ∃ q, exec (.csrr d n) s =
      let u := writeX s d (csrRead s n.toNat) true
      done { u with t := { u.t with lash := { u.t.lash with pfp := q } } } [])) ∧
  (∀ (s : State) (d a : Fin 32) (wa : Bool) (x : W64), One s a x → Writable s d →
    (∀ p ∈ plainCsrs, Accessible s p.1 →
      let old := csrRead s p.1.toNat
      ∀ q ∈ csrForms d a wa p.1 old x, exec q.1 s = csrDone s { s with c := p.2 q.2 s.c } d a p.1 old) ∧
    (∀ n ∈ fixedCsrs, let old := csrRead s n.toNat
      ∀ q ∈ csrForms d a wa n old x, exec q.1 s = csrDone s s d a n old) ∧
    (let old := csrRead s 0x024
      ∀ q ∈ csrForms d a wa 0x024 old x, exec q.1 s = csrDone s (writeMemb s q.2) d a 0x024 old) ∧
    (let old := csrRead s 0x060
      ∀ q ∈ [(Instr.csrw d a wa 0x060, x.getLsbD 63), (.csrs d a wa 0x060, x.getLsbD 63), (.csrc d a wa 0x060, false)],
        exec q.1 s = csrDone s (if q.2 then dropRecord s s.t.vt s.c.id else s) d a 0x060 old) ∧
    (s.c.status.mode = true →
      (let old := csrRead s 0x080
        ∀ q ∈ csrForms d a wa 0x080 old x, exec q.1 s =
          csrDone s { s with t := { s.t with belay := { s.t.belay with rollbk := 0 } } } d a 0x080 old) ∧
      (s.t.lash.role ≠ 1 → let old := csrRead s 0x081
        ∀ q ∈ csrForms d a wa 0x081 old x, exec q.1 s =
          csrDone s { s with t := { s.t with lash := { s.t.lash with disag := 0, early := 0 } } } d a 0x081 old) ∧
      (s.t.lash.role = 1 → let old := csrRead s 0x081
        ∀ q ∈ csrForms d a wa 0x081 old x, ∃ l : Lash, l.role = 1 ∧ l.disag = 0 ∧ l.early = 0 ∧
          exec q.1 s = done (let u := writeX { s with t := { s.t with lash := l } } d old true
            { u with t := { u.t with lash := { u.t.lash with pfp := l.pfp } } }) [a])))

/-- R96 and R97: a `dtstat` write sets the offset and the NaN codes, and loads the decode tables whose LOAD bits it has from the own scratchpad, once no
committed user of them is left; a range that leaves the scratchpad traps ACCESS; in U mode it changes nothing. -/
def Sys2Proof.Says.TableWordsLoad : Prop :=
  ∀ (s : State) (d a : Fin 32) (wa : Bool) (x : W64), One s a x → Writable s d → s.c.accs = [] → s.msgsOf s.t.vt s.c.id = [] →
    s.c.posted = [] → s.c.passed = [] → s.t.bad = [] → s.t.soft = [] →
    let old := csrRead s 0x030
    ∀ q ∈ csrForms d a wa 0x030 old x,
      let v := q.2
      let off := (v.extractLsb' 34 19).toNat * 4
      let entry (i : Nat) : BitVec 19 := .ofNat 19 (natOf (s.t.sp.read (off + 4 * i) 4))
      (s.c.status.mode = false → exec q.1 s = csrDone s s d a 0x030 old) ∧
      (s.c.status.mode = true →
        ((v.getLsbD 13 || v.getLsbD 12) = true → s.t.tableBusy (v.getLsbD 13) (v.getLsbD 12) = true →
          exec q.1 s = blocked s (.tables (v.getLsbD 13) (v.getLsbD 12))) ∧
        ((v.getLsbD 13 || v.getLsbD 12) = false ∨ s.t.tableBusy (v.getLsbD 13) (v.getLsbD 12) = false →
          let out : Prop := (v.getLsbD 13 = true ∧ 0x200000 < off + 1024) ∨ (v.getLsbD 12 = true ∧ 0x200000 < off + 64)
          (out → exec q.1 s = trapped s .access (.ofNat 64 (0xFF00000000000000 + off)) 0) ∧
          (¬ out → exec q.1 s = csrDone s { s with t := { s.t with
            tab8 := if v.getLsbD 13 then Vector.ofFn fun (i : Fin 256) => entry i.val else s.t.tab8
            tab4 := if v.getLsbD 12 then Vector.ofFn fun (i : Fin 16) => entry i.val else s.t.tab4
            toff := .ofNat 21 off, nan4 := v.extractLsb' 8 4, nan8 := v.extractLsb' 0 8 } } d a 0x030 old)))

/-- R27 with R361: a CSR number that R28 does not list traps ILLEGAL, and a U-mode access to a CSR marked S traps PRIV, whether it reads or
writes. -/
def Sys2Proof.Says.CsrAccessIsChecked : Prop :=
  ∀ (s : State) (d a : Fin 32) (wa : Bool) (n : BitVec 12),
    ∀ i ∈ [Instr.csrr d n, .csrw d a wa n, .csrs d a wa n, .csrc d a wa n],
      (csrListed n.toNat = false → exec i s = trapped s .illegal (reported s i) 0) ∧
      (csrListed n.toNat = true → s.c.status.mode = false → csrS n.toNat = true →
        exec i s = trapped s .priv (reported s i) (0x1000 + n.setWidth 64))

/-- R29: a U-mode write of `status` changes RM alone; an S-mode write changes XFER, RM, HALF, PMODE, PIE and IE, and neither changes
MODE, BELAY or LASHED. -/
def Sys2Proof.Says.StatusKeepsItsBits : Prop :=
  ∀ (s : State) (d a : Fin 32) (wa : Bool) (x : W64), One s a x → Writable s d →
    ∀ q ∈ csrForms d a wa 0x000 (csrRead s 0) x, ∃ t, exec q.1 s = csrDone s t d a 0x000 (csrRead s 0) ∧
      let y := q.2
      t = { s with c := { s.c with status := t.c.status } } ∧
      t.c.status.mode = s.c.status.mode ∧ t.c.status.belay = s.c.status.belay ∧ t.c.status.lashed = s.c.status.lashed ∧
      t.c.status.rm = y.extractLsb' 5 2 ∧
      (s.c.status.mode = false → t.c.status = { s.c.status with rm := y.extractLsb' 5 2 }) ∧
      (s.c.status.mode = true → t.c.status.ie = y.getLsbD 1 ∧ t.c.status.pie = y.getLsbD 2 ∧ t.c.status.pmode = y.getLsbD 3 ∧
        t.c.status.half = y.getLsbD 4 ∧ t.c.status.xfer = y.getLsbD 9)

/-- R29, R96 and R97: writes of the registers that keep some of their bits from software or act on the tile. -/
def Obligations.StatusWritesKeepMode : Prop := StatusKeepsItsBits ∧ TableWordsLoad

/-- R26 and R27: the checks of the mode on privileged words and on CSR accesses. -/
def Obligations.ModeIsChecked : Prop := PrivilegedWordsTrapInUserMode ∧ CsrAccessIsChecked

/-- R140, R141 and R380: `syscall` and `brk` trap, and `end` ends the context. -/
def Obligations.SystemCallsTrapAndEndEnds : Prop := SystemCallsTrap ∧ EndEndsTheContext

/-! ## Loads, stores and atomics -/

/-- The context has no access outstanding, no store posted or gated, no message under way and no fence passed towards an agent outside its
scope: nothing that it committed before has to be waited for. -/
def Sys2Proof.Says.NothingBefore (s : State) : Prop :=
  s.c.accs = [] ∧ s.c.posted = [] ∧ s.c.passed = [] ∧ s.msgsOf s.t.vt s.c.id = [] ∧ s.t.gatesGlob s.c.id = false

/-- Nothing that the context committed before has to be waited for, its next store is not to stay posted (log 7), and the tile's memories hold no error. -/
def Sys2Proof.Says.Quiet (s : State) : Prop := NothingBefore s ∧ s.c.slow = false ∧ s.t.bad = [] ∧ s.t.soft = []

/-- `n` bytes at `ea` lie in the own scratchpad window (R41). -/
def Sys2Proof.Says.Own (ea : W64) (n : Nat) : Prop := 0xFF00000000000000 ≤ ea.toNat ∧ ea.toNat + n ≤ 0xFF00000000200000

def Sys2Proof.Says.offset (ea : W64) : Nat := ea.toNat - 0xFF00000000000000

/-- The little-endian number in `n` bytes of the own scratchpad. -/
def Sys2Proof.Says.held (s : State) (ea : W64) (n : Nat) : Nat :=
  ((List.range n).map fun i => (s.t.sp.get (offset ea + i)).toNat * 2 ^ (8 * i)).sum

/-- The word's scope is within what its virtual function may use (R290). -/
def Sys2Proof.Says.InScope (s : State) (sc : Scope) : Prop := Machine.Scope.num sc ≤ s.vf.scopeCap

def Sys2Proof.Says.sizes : List (MSz × Nat) := [(.b, 1), (.h, 2), (.w, 4), (.d, 8)]

/-- R132, R134, R155 and R159 in the own scratchpad: an aligned load writes the bytes, zero- or sign-extended, into D with V = 1,
and changes nothing else; `ld.q` fills two registers, `vld` a vector register, and `vldb` every lane of one. -/
def Sys2Proof.Says.OwnLoadsWriteTheBytes : Prop :=
  (∀ z ∈ sizes, ∀ (s : State) (d b : Fin 32) (w : Bool) (off : BitVec 11) (x : W64), One s b x → Writable s d → Quiet s →
    let ea := x + off.signExtend 64 * .ofNat 64 z.2
    Own ea z.2 → ea.toNat % z.2 = 0 →
      exec (.ld z.1 d b w false off) s = wrote s [b] d (.ofNat 64 (held s ea z.2)) true ∧
      exec (.lds z.1 d b w false off) s =
        wrote s [b] d ((BitVec.ofNat (8 * z.2) (held s ea z.2)).signExtend 64) true) ∧
  (∀ z ∈ sizes, ∀ (s : State) (d a : Fin 32) (w : Bool) (sc : Scope) (ea : W64), One s a ea → Quiet s → Own ea z.2 →
    ea.toNat % z.2 = 0 →
      (Writable s d → InScope s sc → exec (.ldAcq z.1 d a sc w) s = wrote s [a] d (.ofNat 64 (held s ea z.2)) true) ∧
      (WritableV s d → exec (.vldb z.1 d a w) s = wroteV s [a] d
        (.ofNat 512 (((List.range (64 / z.2)).map fun i => held s ea z.2 * 2 ^ (8 * z.2 * i)).sum)) 0xFF)) ∧
  (∀ (s : State) (d a : Fin 32) (w : Bool) (ea : W64), One s a ea → Quiet s → Own ea 16 → ea.toNat % 16 = 0 →
    Writable s d → Writable s (d + 1) → exec (.ldQ d a w) s =
      done (writeX (writeX s d (.ofNat 64 (held s ea 8)) true) (d + 1) (.ofNat 64 (held s (ea + 8) 8)) true) [a]) ∧
  (∀ (s : State) (d b : Fin 32) (w : Bool) (off : BitVec 11) (x : W64), One s b x → WritableV s d → Quiet s →
    let ea := x + off.signExtend 64 * 64
    Own ea 64 → ea.toNat % 64 = 0 → exec (.vld d b w off) s = wroteV s [b] d (.ofNat 512 (held s ea 64)) 0xFF)

/-- The context has access `a`, in its address space, as the last of those outstanding. -/
def Sys2Proof.Says.listed (u : State) (a : Access) : State :=
  { u with c := { u.c with
      accs := u.c.accs ++ [{ a with root := u.c.ptroot, asid := u.c.asid, smode := u.c.status.mode, seq := u.g.sendNext }] } }

/-- The context has committed access `a`, after its posted stores to the same bytes. -/
def Sys2Proof.Says.committed (s : State) (a : Access) : State := listed (settleOver a.pieces s) a

/-- The address checks have let the access to `ea` pass, its pieces are `ps`, and it can be committed at once (R312, R366). -/
def Sys2Proof.Says.Starts (s : State) (ea : W64) (n align : Nat) (k : AKind) (w : WKind) (s' : State) (ps : List Piece) : Prop :=
  checkAddr s ea n align k w = .ok s' ps ∧ s'.c.accs.any (s'.fences ps) = false ∧ s'.c.passed = [] ∧ s'.c.accs.length < 16 ∧ ownPending s' ps = false ∧
    (isOwn ea = false → absentTile s' ps = none)

/-- Everything is performed, where the word is an acquire whose ordering holds towards every agent (R285, R289). -/
def Sys2Proof.Says.acquired (q : Bool) (s : State) : State := if q then performOwn (fun _ => true) s else s

/-- The word has completed and the context has left the core until register `r` is filled, unless it goes on (R132). -/
def Sys2Proof.Says.leftFor (go : Bool) (s : State) (rs : List (Fin 32)) (r : Nat) : Out3 :=
  if go then done s rs else .next (blockAt (retire (popped s rs)) (.fill r))

/-- R132, R134, R155, R159 and R206: a load that is not a plain own-scratchpad load commits its access, empties its destination to await the
fill, and leaves the core until the fill lands, unless it is an `.nw` form or writes `x0`. -/
def Obligations.OtherLoadsAwaitTheirFill : Prop :=
  (∀ z ∈ sizes, ∀ (s s' : State) (d b : Fin 32) (w nw : Bool) (off : BitVec 11) (x : W64) (ps : List Piece),
    One s b x → Writable s d →
    let ea := x + off.signExtend 64 * .ofNat 64 z.2
    Starts s ea z.2 z.2 .load .load s' ps → (nw = true ∨ isOwn ea = false) →
    ∀ q ∈ [(Instr.ld z.1 d b w nw off, false), (.lds z.1 d b w nw off, true)],
      exec q.1 s = leftFor (nw || d.val = 0)
        (emptyX (committed s' { kind := .load d q.2, va := ea, size := z.2, pieces := ps }) d .awaiting) [b] d.val) ∧
  (∀ z ∈ sizes, ∀ (s s' : State) (d a : Fin 32) (w : Bool) (sc : Scope) (ea : W64) (ps : List Piece), One s a ea →
    Starts s ea z.2 z.2 .load .load s' ps → isOwn ea = false →
      (Writable s d → InScope s sc → exec (.ldAcq z.1 d a sc w) s = leftFor (d.val = 0)
        (emptyX (acquired (s.keeps (Scope.num sc)) (committed s' { kind := .load d false, va := ea, size := z.2, pieces := ps, acq := true
                                                                   away := s.awayAt (Scope.num sc) })) d .awaiting) [a] d.val) ∧
      (WritableV s d → exec (.vldb z.1 d a w) s = leftFor false
        (emptyV (committed s' { kind := .vbcast d, va := ea, size := z.2, pieces := ps }) d .awaiting) [a] (32 + d.val))) ∧
  (∀ (s s' : State) (d a : Fin 32) (w : Bool) (ea : W64) (ps : List Piece), One s a ea → Writable s d → Writable s (d + 1) →
    Starts s ea 16 16 .load .load s' ps → isOwn ea = false →
      exec (.ldQ d a w) s = leftFor false
        (emptyX (emptyX (committed s' { kind := .loadQ d, va := ea, size := 16, pieces := ps }) d .awaiting) (d + 1) .awaiting)
        [a] d.val) ∧
  (∀ (s s' : State) (d b : Fin 32) (w : Bool) (off : BitVec 11) (x : W64) (ps : List Piece), One s b x → WritableV s d →
    let ea := x + off.signExtend 64 * 64
    Starts s ea 64 64 .load .load s' ps →
    let t := emptyV (committed s' { kind := .vload d, va := ea, size := 64, pieces := ps }) d .awaiting
    exec (.vldNw d b w off) s = leftFor true t [b] (32 + d.val) ∧
      (isOwn ea = false → exec (.vld d b w off) s = leftFor false t [b] (32 + d.val))) ∧
  (∀ (s s' : State) (d : Fin 8) (b : Fin 32) (w nw : Bool) (off : BitVec 11) (x : W64) (ps : List Piece), One s b x →
    WritableH s d →
    let ea := x + off.signExtend 64 * 1024
    Starts s ea 1024 64 .load .load s' ps → exec (.hld d b w nw off) s = leftFor (nw || isOwn ea)
      (emptyH (committed s' { kind := .hload d, va := ea, size := 1024, pieces := ps }) d .awaiting) [b] (64 + d.val))

/-- R134: `touch` checks an address and transfers nothing; `sbwait` waits for its register alone; `mkempty` empties one. R158: `vgat`
loads each active lane from the own scratchpad. -/
def Sys2Proof.Says.OtherMemoryWordsComplete : Prop :=
  (∀ (s s' : State) (a : Fin 32) (w : Bool) (ea : W64) (ps : List Piece), One s a ea →
    checkAddr s ea 1 1 .load .load = .ok s' ps → exec (.touch a w) s = done s' [a]) ∧
  (∀ (s : State) (a : Fin 32) (x : W64), One s a x → exec (.sbwait a) s = done s [a]) ∧
  (∀ (s : State) (d : Fin 32), Writable s d → exec (.mkempty d) s = done (emptyX s d .cleared) []) ∧
  (∀ z ∈ sizes, ∀ (s : State) (d a b : Fin 32) (w : Bool) (x : W64) (idx : W512) (v : BitVec 8), One s a x →
    vector s [a] b = some (idx, v) → WritableV s d → Quiet s → x.toNat % z.2 = 0 →
    let lane (i : Nat) : W64 := x + .ofNat 64 (idx.toNat / 2 ^ (8 * z.2 * i) % 2 ^ (8 * z.2) * z.2)
    let act (i : Nat) : Bool := v.getLsbD (i * z.2 / 8)
    (∀ i < 64 / z.2, act i = true → Own (lane i) z.2) →
      exec (.vgat z.1 d a b w) s = done (writeWords s d v (.ofNat 512 (((List.range (64 / z.2)).map fun i =>
        if act i then held s (lane i) z.2 * 2 ^ (8 * z.2 * i) else 0).sum))) [a, b])

/-- The tile's stores into its own scratchpad, in order: address and bytes. -/
def Sys2Proof.Says.ownStores (s : State) (l : List (W64 × List Byte)) : State :=
  l.foldl (fun s p => spWrite (absorbOut s p.1.toNat p.2) s.t.vt (offset p.1) p.2) s

/-- The `n` low bytes of a number, the first the lowest. -/
def Sys2Proof.Says.bytesLe (n x : Nat) : List Byte := (List.range n).map fun i => .ofNat 8 (x / 2 ^ (8 * i) % 256)

/-- R133, R134, R156, R158 and R206 in the own scratchpad: an aligned store writes the bytes of its data there and changes no register. -/
def Obligations.OwnStoresWriteTheBytes : Prop :=
  (∀ z ∈ sizes, ∀ (s : State) (d b : Fin 32) (w wd : Bool) (off : BitVec 11) (x y : W64), Two s b d x y → Quiet s →
    let ea := x + off.signExtend 64 * .ofNat 64 z.2
    Own ea z.2 → ea.toNat % z.2 = 0 →
      exec (.st z.1 d b w wd off) s = done (ownStores s [(ea, bytesLe z.2 y.toNat)]) [b, d]) ∧
  (∀ z ∈ sizes, ∀ (s : State) (d a : Fin 32) (w : Bool) (sc : Scope) (ea y : W64), Two s a d ea y → Quiet s → InScope s sc →
    Own ea z.2 → ea.toNat % z.2 = 0 →
      exec (.stRel z.1 d a sc w) s = done (ownStores s [(ea, bytesLe z.2 y.toNat)]) [a, d]) ∧
  (∀ (s : State) (d a : Fin 32) (w : Bool) (ea y z : W64), Two s a d ea y → scalar s [a, d] (d + 1) = some (z, true) →
    Quiet s → Own ea 16 → ea.toNat % 16 = 0 →
      exec (.stQ d a w) s = done (ownStores s [(ea, bytesLe 8 y.toNat ++ bytesLe 8 z.toNat)]) [a, d, d + 1]) ∧
  (∀ (s : State) (d b : Fin 32) (w : Bool) (off : BitVec 11) (x : W64) (y : W512) (v : BitVec 8), One s b x →
    vector s [b] d = some (y, v) → Quiet s →
    let ea := x + off.signExtend 64 * 64
    Own ea 64 → ea.toNat % 64 = 0 →
      exec (.vst d b w off) s = done (ownStores s (((List.range 8).filter fun k => v.getLsbD k).map fun k =>
        (ea + .ofNat 64 (8 * k), bytesLe 8 (y.toNat / 2 ^ (64 * k))))) [b, d]) ∧
  (∀ (s : State) (d : Fin 8) (b : Fin 32) (w wd : Bool) (off : BitVec 11) (x : W64) (y : W8192), One s b x →
    hyper s d = some y → Quiet s →
    let ea := x + off.signExtend 64 * 1024
    Own ea 1024 → ea.toNat % 64 = 0 →
      exec (.hst d b w wd off) s = done (ownStores s [(ea, bytesLe 1024 y.toNat)]) [b]) ∧
  (∀ z ∈ sizes, ∀ (s : State) (d a b : Fin 32) (w : Bool) (x : W64) (idx y : W512) (v u : BitVec 8), One s a x →
    vector s [a] b = some (idx, v) → vector s [a, b] d = some (y, u) → Quiet s → x.toNat % z.2 = 0 →
    let lane (i : Nat) : W64 := x + .ofNat 64 (idx.toNat / 2 ^ (8 * z.2 * i) % 2 ^ (8 * z.2) * z.2)
    let act (i : Nat) : Bool := (v &&& u).getLsbD (i * z.2 / 8)
    (∀ i < 64 / z.2, act i = true → Own (lane i) z.2) →
      exec (.vsca z.1 d a b w) s = done (ownStores s (((List.range (64 / z.2)).filter act).map fun i =>
        (lane i, bytesLe z.2 (y.toNat / 2 ^ (8 * z.2 * i))))) [a, b, d])

/-- Bytes `bs` that the context stores to a place off the core: in global memory they are written there, or stay posted (R42, log 7); to
another tile's memory they become a message to it (R319). -/
def Sys2Proof.Says.storedOff (s : State) (key : Nat) (pl : Place) (bs : List Byte) : State :=
  match pl with
  | .glob pa =>
    let u := absorbOut s pa bs
    if u.c.slow then { u with c := { u.c with posted := u.c.posted ++ [⟨.glob pa, key, bs, carryCodes pa bs⟩] } }
    else { u with m := u.m.writeBy u.t.vt key pa bs }
  | .tile vt o => absorbOut (send s vt (.store o bs)) (0xFF20000000000000 + vt * 2 ^ 24 + o) bs

/-- The place `o` bytes after another. -/
def Sys2Proof.Says.placePlus (pl : Place) (o : Nat) : Place :=
  match pl with
  | .glob pa => .glob (pa + o)
  | .tile vt x => .tile vt (x + o)

/-- The parts `sg` of a store (offset from its address, and bytes), each cut along the pieces of its range, in order: a page, a stripe or a
place of a window each (R313, R320). -/
def Sys2Proof.Says.storedAll (s : State) (sg : List (Nat × List Byte)) (ps : List Piece) : State :=
  (((List.range ps.length).map fun i => ((ps.take i).map (·.len)).sum).zip ps).foldl (fun s p =>
    (segsIn p.1 p.2.len sg).foldl (fun s x => storedOff s p.2.key (placePlus p.2.place x.1) x.2) s) s

/-- The address checks have let the store at `ea` pass, which lies off the core; its pages are dirty, and its pieces are then `qs` (R330). Those in
a tile lie below its registers, or the store has one part and they lie below its stream ports; a message to each is accepted (R248). The tile
holds no store back. -/
def Sys2Proof.Says.Sends (s : State) (ea : W64) (n align : Nat) (masked : Bool) (one : Bool) (u : State) (qs : List Piece) : Prop :=
  isOwn ea = false ∧ ∃ s' ps, checkAddr s ea n align .store (.store masked) = .ok s' ps ∧ s'.c.accs = [] ∧ s'.c.posted = [] ∧ s'.c.passed = [] ∧
    chkDirty s' ea ps = .ok u qs ∧ s'.g.belay = 0 ∧ u.g.belay = 0 ∧ u.t.lash.role = 0 ∧
    ∀ p ∈ ps, ∀ vt o, p.place = .tile vt o → (o < 0x800000 ∨ (one = true ∧ o < 0xC00000)) ∧
      parkRoom s'.g vt (.store o (List.replicate p.len 0)) = true

/-- R133, R134, R156, R206, R284, R313, R319 and R330: a store off the core, of a tile that holds no store back, writes the bytes of its data to
each place of its range, with its pages dirty, or sends them there; a release does so with everything earlier performed. `vst` leaves out
the words with V = 0. -/
def Obligations.OffCoreStoresAreSent : Prop :=
  (∀ z ∈ sizes, ∀ (s u : State) (d b : Fin 32) (w wd : Bool) (off : BitVec 11) (x y : W64) (qs : List Piece), Two s b d x y →
    Sends s (x + off.signExtend 64 * .ofNat 64 z.2) z.2 z.2 false true u qs →
      exec (.st z.1 d b w wd off) s = done (storedAll u [(0, bytesLe z.2 y.toNat)] qs) [b, d]) ∧
  (∀ z ∈ sizes, ∀ (s u : State) (d a : Fin 32) (w : Bool) (sc : Scope) (ea y : W64) (qs : List Piece), Two s a d ea y → InScope s sc →
    NothingBefore s → Sends s ea z.2 z.2 false true u qs →
      exec (.stRel z.1 d a sc w) s = done (storedAll u [(0, bytesLe z.2 y.toNat)] qs) [a, d]) ∧
  (∀ (s u : State) (d a : Fin 32) (w : Bool) (ea y z : W64) (qs : List Piece), Two s a d ea y →
    scalar s [a, d] (d + 1) = some (z, true) → Sends s ea 16 16 false true u qs →
      exec (.stQ d a w) s = done (storedAll u [(0, bytesLe 8 y.toNat ++ bytesLe 8 z.toNat)] qs) [a, d, d + 1]) ∧
  (∀ (s u : State) (d b : Fin 32) (w : Bool) (off : BitVec 11) (x : W64) (y : W512) (v : BitVec 8) (qs : List Piece), One s b x →
    vector s [b] d = some (y, v) → v ≠ 0 → Sends s (x + off.signExtend 64 * 64) 64 64 true false u qs →
      exec (.vst d b w off) s = done (storedAll u (((List.range 8).filter fun k => v.getLsbD k).map fun k =>
        (8 * k, bytesLe 8 (y.toNat / 2 ^ (64 * k)))) qs) [b, d]) ∧
  (∀ (s u : State) (d : Fin 8) (b : Fin 32) (w wd : Bool) (off : BitVec 11) (x : W64) (y : W8192) (qs : List Piece), One s b x →
    hyper s d = some y → Sends s (x + off.signExtend 64 * 1024) 1024 64 false true u qs →
      exec (.hst d b w wd off) s = done (storedAll u [(0, bytesLe 1024 y.toNat)] qs) [b])

/-- R312 and R42: an address that is not aligned as the access asks traps MISALIGN, with the address; one whose first or last byte
the map does not hold, or whose bytes lie in two ranges of it, traps ACCESS. The own window is the own scratchpad. -/
def Obligations.AddressesAreChecked : Prop :=
  ∀ (s : State) (ea : W64) (n align : Nat) (k : AKind) (w : WKind),
    (ea.toNat % align ≠ 0 → checkAddr s ea n align k w = .trap s .misalign ea 0) ∧
    (ea.toNat % align = 0 →
      (regionOf ea.toNat = .bad ∨ regionOf (ea.toNat + n - 1) ≠ regionOf ea.toNat →
        checkAddr s ea n align k w = .trap s .access ea 0) ∧
      (Own ea n → 0 < n → checkAddr s ea n align k w = .ok s [⟨.tile s.t.vt (offset ea), n, 0⟩]) ∧
      (regionOf ea.toNat = .tile → regionOf (ea.toNat + n - 1) = .tile →
        s.g.has (ea.toNat / 2 ^ 24 % 2 ^ 24) = false → checkAddr s ea n align k w = .trap s .access ea 1)) ∧
    (∀ a, regionOf a = .bad ↔ ¬ (a < 2 ^ 56 ∨ (0xFF00000000000000 ≤ a ∧ a < 0xFF00000000200000) ∨
      (0xFF10000000000000 ≤ a ∧ a < 0xFF10000002000000) ∨ (0xFF20000000000000 ≤ a ∧ a < 0xFF21000000000000)))

/-! ## Atomics -/

/-- The AMO words with WIDTH and their operations; `amofadd` has no WIDTH. -/
def Sys2Proof.Says.amoWords : List ((Fin 32 → Fin 32 → Fin 32 → Ord → Scope → Instr) × AmoOp × Bool) :=
  [true, false].flatMap (fun w =>
    [(.amoswap w, .swap, w), (.amoadd w, .add, w), (.amoand w, .and, w), (.amoor w, .or, w), (.amoxor w, .xor, w),
     (.amomin w, .min, w), (.amomax w, .max, w), (.amominn w, .minn, w), (.amomaxn w, .maxn, w)]) ++
    [(.amofadd, .fadd, false)]

/-- Checks and conditions under which an atomic word commits (R298, R290, R292): aligned, on a target of R300, the scope allowed,
and for a release nothing earlier to wait for. -/
def Sys2Proof.Says.Atomic (s s' : State) (ea : W64) (n : Nat) (k : AKind) (o : Ord) (sc : Scope) (ps : List Piece) : Prop :=
  ea.toNat % n = 0 ∧ amoTarget s ea = true ∧ Starts s ea n n k .amo s' ps ∧ (o = .rlx ∨ InScope s sc) ∧
    (o = .rel ∨ o = .acqRel → NothingBefore s')

/-- The page of an AMO is dirty as it commits, and its pieces are then `qs`, after the context's posted stores to the same bytes (R330). -/
def Sys2Proof.Says.DirtyAt (s' : State) (ea : W64) (ps : List Piece) (u : State) (qs : List Piece) : Prop := chkDirty (settleOver ps s') ea ps = .ok u qs

/-- The access on its way in `u`: its operands enter the fingerprint of its tile and its interval ends early (R387, R389), and an acquire is
performed before anything later, unless its ordering is dropped towards an agent (R285, R289). -/
def Sys2Proof.Says.atomicBegun (s' u : State) (o : Ord) (sc : Scope) (a : Access) (operands : List Byte) : State :=
  let away := if o = .acq ∨ o = .acqRel then s'.awayAt (Scope.num sc) else none
  let q := o == .acq || o == .acqRel
  acquired (q && away.isNone) (lashEarly (absorbOut (listed u { a with acq := q, away := away }) a.va.toNat operands))

/-- R298 and R299: an AMO or CAS commits its access with the destination awaiting the old value, and leaves the core until it
comes, unless the target is the own scratchpad or D is `x0`. -/
def Obligations.AtomicWordsCommit : Prop :=
  (∀ p ∈ amoWords, ∀ (s s' u : State) (d a b : Fin 32) (o : Ord) (sc : Scope) (ea v : W64) (ps qs : List Piece),
    Two s a b ea v → Writable s d →
    let n := if p.2.2 then 8 else 4
    Atomic s s' ea n .amo o sc ps → DirtyAt s' ea ps u qs →
      exec (p.1 d a b o sc) s = leftFor (d.val = 0 || isOwn ea)
        (emptyX (atomicBegun s' u o sc { kind := .amo d p.2.1 v p.2.2, va := ea, size := n, pieces := qs } (bytesLe 8 v.toNat)) d .awaiting)
        [a, b] d.val) ∧
  (∀ (s s' : State) (d a b : Fin 32) (o : Ord) (sc : Scope) (ea new e : W64) (ps : List Piece),
    Three s a b d ea new e → Writable s d → Atomic s s' ea 8 .cas o sc ps →
      exec (.casD d a b o sc) s = leftFor (d.val = 0 || isOwn ea)
        (emptyX (atomicBegun s' (settleOver ps s') o sc { kind := .casD d e new, va := ea, size := 8, pieces := ps }
          (bytesLe 8 e.toNat ++ bytesLe 8 new.toNat)) d .awaiting)
        [a, b, d] d.val) ∧
  (∀ (s s' : State) (d a b : Fin 32) (o : Ord) (sc : Scope) (ea n0 n1 e0 e1 : W64) (ps : List Piece),
    Two s a b ea n0 → scalar s [a, b] (b + 1) = some (n1, true) → scalar s [a, b, b + 1] d = some (e0, true) →
    scalar s [a, b, b + 1, d] (d + 1) = some (e1, true) → Writable s d → Writable s (d + 1) → Atomic s s' ea 16 .cas o sc ps →
      exec (.casQ d a b o sc) s = leftFor (d.val = 0 || isOwn ea)
        (emptyX (emptyX (atomicBegun s' (settleOver ps s') o sc
            { kind := .casQ d (e1 ++ e0) (n1 ++ n0), va := ea, size := 16, pieces := ps }
          (bytesLe 16 (e1 ++ e0).toNat ++ bytesLe 16 (n1 ++ n0).toNat)) d .awaiting) (d + 1) .awaiting) [a, b, b + 1, d, d + 1] d.val)

/-- The new memory values of R297, on `w` bits. -/
def Sys2Proof.Says.amoTable : List (AmoOp × ((w : Nat) → BitVec w → BitVec w → BitVec w)) :=
  [ (.swap, fun _ _ b => b), (.add, fun _ m b => m + b), (.and, fun _ m b => m &&& b), (.or, fun _ m b => m ||| b),
    (.xor, fun _ m b => m ^^^ b), (.min, fun _ m b => if b.slt m then b else m), (.max, fun _ m b => if m.slt b then b else m),
    (.minn, fun _ m b => if b < m then b else m), (.maxn, fun _ m b => if m < b then b else m) ]

/-- An atomic access of tile `vt` reaches one place, of global memory or of the scratchpad of any tile, that holds no error; its tile holds no store
back (R300, R363). -/
def Sys2Proof.Says.OnePlace (s : State) (vt : Nat) (a : Access) (p : Piece) : Prop :=
  (∃ t, s.tile? vt = some t ∧ t.belay.held = [] ∧ t.lash.gated = []) ∧ s.g.belay = 0 ∧ a.data = none ∧ a.fault = none ∧
    a.pieces = [p] ∧ p.len = a.size ∧
    ((∃ pa, p.place = .glob pa ∧ a.va.toNat < 2 ^ 56 ∧ s.m.badRange pa a.size = false ∧ s.m.codeBad pa a.size = false ∧ s.m.softMem = []) ∨
      (∃ u o t, p.place = .tile u o ∧ o + a.size ≤ 0x200000 ∧ 2 ^ 56 ≤ a.va.toNat ∧ s.tile? u = some t ∧ t.bad = [] ∧ t.soft = []))

/-- The bytes of the place. -/
def Sys2Proof.Says.oldOf (s : State) (p : Piece) : List Byte :=
  match p.place with
  | .glob pa => s.m.readGlob p.key pa p.len
  | .tile u o => spRead s u o p.len

/-- Tile `vt` has written bytes to the place. -/
def Sys2Proof.Says.putAt (s : State) (vt : Nat) (p : Piece) (bs : List Byte) : State :=
  match p.place with
  | .glob pa => { s with m := s.m.writeBy vt p.key pa bs }
  | .tile u o => winWrite s u o bs

/-- The access answers the old value `x`. -/
def Sys2Proof.Says.answered (a : Access) (x : Nat) : Access :=
  { a with data := some (bytesOf a.size x), code := carryCodes (a.va.toNat % 64) (bytesOf a.size x) }

/-- Kind, size, expected and new value of a compare-and-swap. -/
def Sys2Proof.Says.Swaps (a : Access) (e n : Nat) : Prop :=
  (∃ (d : Fin 32) (x y : W64), a.kind = .casD d x y ∧ a.size = 8 ∧ e = x.toNat ∧ n = y.toNat) ∨
  (∃ (d : Fin 32) (x y : BitVec 128), a.kind = .casQ d x y ∧ a.size = 16 ∧ e = x.toNat ∧ n = y.toNat)

/-- R297, R299 and R300: when it is performed, an AMO reads the old bytes and writes the new value of its width there; `cas.d` and `cas.q` write only
where the old value is the expected one, and then to a dirty page (R330). The place is one of global memory or of the scratchpad of the own or another tile. -/
def Obligations.AtomicsReadAndWriteMemory : Prop :=
  ∀ (s : State) (vt : Nat) (a : Access) (p : Piece), OnePlace s vt a p →
    let old := natOf (oldOf s p)
    (∀ q ∈ amoTable, ∀ (d : Fin 32) (b : W64) (dw : Bool), a.kind = .amo d q.1 b dw → a.size = (if dw then 8 else 4) →
      let w := 8 * a.size
      perform s vt a = (putAt s vt p (bytesOf a.size (q.2 w (.ofNat w old) (b.setWidth w)).toNat), answered a old)) ∧
    (∀ (d : Fin 32) (b : W64), a.kind = .amo d .fadd b false → a.size = 4 →
      perform s vt a = (putAt s vt p (bytesOf 4 (Machine.fadd f32 0 old (b.toNat % 2 ^ 32)).1), answered a old)) ∧
    (∀ e n, Swaps a e n →
      (old ≠ e → perform s vt a = (s, { answered a old with ok := false })) ∧
      (old = e →
        ((∃ u o, p.place = .tile u o) → perform s vt a = (putAt s vt p (bytesOf a.size n), answered a old)) ∧
        (∀ pa u q k, p.place = .glob pa → translate s vt .d ⟨s.g.vf, a.root, a.asid, a.smode⟩ .dirty a.va.toNat = .ok u q k →
          u.m.paExists q = true → perform s vt a = ({ u with m := u.m.writeBy vt k q (bytesOf a.size n) }, answered a old))))

/-- R132, R134, R155, R158 and R159: the loads of the own scratchpad and the memory words that transfer no data. -/
def Obligations.OnCoreLoadsComplete : Prop := OwnLoadsWriteTheBytes ∧ OtherMemoryWordsComplete

/-! ## System and synchronisation words -/

/-- Scalar registers after some of `x1` to `x27` have been changed. -/
def Sys2Proof.Says.Regs (t s : State) (f : (i : Fin 32) → XReg → XReg) : Prop :=
  (∀ i : Fin 32, t.c.x[i] = if i.val ≠ 0 ∧ i.val < 28 then f i s.c.x[i] else s.c.x[i]) ∧
  t.c.v = s.c.v ∧ t.c.h = s.c.h ∧ t.c.t = s.c.t ∧ t.c.b = s.c.b ∧ t.c.inq = s.c.inq ∧ t.c.fflags = s.c.fflags ∧
  t.c.status = s.c.status ∧ t.c.pc = s.c.pc ∧ t.m = s.m ∧ t.tiles = s.tiles ∧ t.t.sp = s.t.sp

/-- R145 and R146: `rdfe` and `rdvb` write the F and V masks of `x1` to `x27` with bit 0 set; `wrfe` empties the registers that a zero
bit names, and waits where one awaits a fill; `wrvb` writes the V tags of the full registers, whatever the V of its source. -/
def Obligations.TagWordsReadAndWriteMasks : Prop :=
  (∀ (s : State) (d : Fin 32), Writable s d →
    let mask (p : XReg → Bool) : W64 :=
      .ofNat 64 (1 + ((List.range 27).map fun i => (p s.c.x[Fin.ofNat 32 (i + 1)]).toNat * 2 ^ (i + 1)).sum)
    exec (.rdfe d) s = wrote s [] d (mask fun r => r.tag == .full) true ∧
    exec (.rdvb d) s = wrote s [] d (mask fun r => r.tag == .full && r.v) true) ∧
  (∀ (s : State) (a : Fin 32) (w : Bool) (m : W64), One s a m →
    ((∀ i : Fin 32, i.val ≠ 0 → i.val < 28 → m.getLsbD i.val = false → s.c.x[i].tag ≠ .awaiting) →
      ∃ t, exec (.wrfe a w) s = done t [a] ∧
        Regs t s fun i r => if m.getLsbD i.val then r else ⟨0, .cleared, false⟩) ∧
    (∀ i : Fin 32, i.val ≠ 0 → i.val < 28 → m.getLsbD i.val = false → s.c.x[i].tag = .awaiting →
      ∃ j, exec (.wrfe a w) s = blocked s (.xreg j) ∧ m.getLsbD j.val = false ∧ s.c.x[j].tag = .awaiting)) ∧
  (∀ (s : State) (a : Fin 32) (w : Bool) (m : W64) (v : Bool), Sound s → scalar s [] a = some (m, v) →
    ∃ t, exec (.wrvb a w) s = done t [a] ∧
      Regs t s fun i r => if r.tag = .full then { r with v := m.getLsbD i.val } else r)

/-- Belay holds no store of the context back (R391). -/
def Sys2Proof.Says.HoldsNone (s : State) : Prop := ∀ x ∈ s.t.belay.held, x.agent ≠ s.c.id

/-- R142 to R144 and R147, and the fence of R292, in a context that has nothing to wait for: `ifence` empties the instruction cache and drops the
word that the context has read ahead, the forms of `tlbinv` drop the entries that they match from the caches of the tile and of its cluster, whose walks begin again, `yield` retires at a switch point,
`fence` retires, with a note of what it orders where the schedule names an agent outside its scope (R289, log 7), and `wfi` retires as soon as an enabled interrupt is pending and waits until then. -/
def Sys2Proof.Says.OrderingWordsComplete : Prop :=
  (∀ (s : State) (sc : Scope) (pr pw sr sw : Bool), InScope s sc → NothingBefore s →
    (s.awayAt (Machine.Scope.num sc) = none ∨ (pr || pw) = false ∨ (sr || sw) = false → exec (.fence sc pr pw sr sw) s = done s []) ∧
    (∀ x, s.awayAt (Machine.Scope.num sc) = some x → (pr || pw) = true → (sr || sw) = true → exec (.fence sc pr pw sr sw) s =
      done { s with c := { s.c with passed := [⟨x, pr, pw, s.g.sendNext, []⟩] }, g := { s.g with sendNext := s.g.sendNext + 1 } } [])) ∧
  (∀ s : State, NothingBefore s → HoldsNone s →
    exec .ifence s = done { s with t := { s.t with icache := [] }, c := { s.c with fetched := none } } []) ∧
  (∀ s : State, exec .yield s = .next (atSwitch (retire s))) ∧
  (∀ s : State, s.c.status.mode = true →
    exec .wfi s = if s.c.armed s.time ≠ 0 then done s [] else blocked s .wfi) ∧
  (∀ (s : State) (p : TlbE → Bool), (∀ x ∈ s.allCtxs, ∀ a ∈ x.2.accs, a.page = none) →
    (rewalkCluster s s.t.vt).c = (match s.c.run with
      | .blocked (.page _) =>
        if s.c.frame.isSome || s.c.denial.any (·.denied) then s.c else { s.c with run := .ready, denial := none }
      | .blocked .prqFull => if s.c.frame.isSome then s.c else { s.c with run := .ready, denial := none }
      | .blocked (.pull _) => { s.c with run := .ready, denial := none }
      | _ => s.c) ∧
    (∀ e ∈ (invalidate s s.t.vt p).t.dtlb, p e = false) ∧ ∀ e ∈ s.t.dtlb, p e = false → e ∈ (invalidate s s.t.vt p).t.dtlb) ∧
  (∀ s : State, s.c.status.mode = true → NothingBefore s → HoldsNone s →
    let drop (p : TlbE → Bool) : State := rewalkCluster (invalidate s s.t.vt fun e => e.vf == s.g.vf && p e) s.t.vt
    exec .tlbinvAll s = done (drop fun e => !e.g) [] ∧
    (∀ (b : Fin 32) (w : Bool) (x : W64), One s b x →
      exec (.tlbinvAsid b w) s = done (drop fun e => !e.g && e.asid == x.setWidth 16) [b]) ∧
    (∀ (a b : Fin 32) (wa wb : Bool) (va x : W64), Two s a b va x → exec (.tlbinvVa a b wa wb) s =
      done (drop fun e => e.base ≤ va.toNat && va.toNat < e.base + e.size && (e.g || e.asid == x.setWidth 16)) [a, b]) ∧
    (∀ (a : Fin 32) (w : Bool) (va : W64), One s a va → exec (.tlbinvVaall a w) s =
      done (drop fun e => e.base ≤ va.toNat && va.toNat < e.base + e.size) [a]))

/-- R276 and R277: `watch` sets the watched line of the own scratchpad, or traps ACCESS outside it; `wfe` continues with the event
flag cleared when it is set, and waits otherwise; `sev` sets the flag of every context and helper core of the tile. A write to the
watched line sets the flag. -/
def Sys2Proof.Says.WatchAndEventWords : Prop :=
  (∀ (s : State) (a : Fin 32) (w : Bool) (x : W64), One s a x →
    (isOwn x = true → exec (.watch a w) s = done { s with c := { s.c with watch := some (offset x / 64) } } [a]) ∧
    (isOwn x = false → exec (.watch a w) s = trapped s .access x 0)) ∧
  (∀ s : State, exec .wfe s =
    if s.c.evt then done { s with c := { s.c with evt := false } } [] else blocked s .wfe) ∧
  (∀ s : State, ∃ t, exec .sev s = done t [] ∧ t.c = { s.c with evt := true } ∧
    t.t.others = s.t.others.map (fun c => { c with evt := true }) ∧ t.t.ldr.evt = true ∧ t.t.str.evt = true ∧
    t.tiles = s.tiles ∧ t.g = s.g ∧ t.m = s.m ∧ t.t.sp = s.t.sp) ∧
  (∀ (s : State) (l o : Nat) (bs : List Byte), s.c.watch = some l → o < (l + 1) * 64 → l * 64 < o + bs.length →
    (spWrite s s.t.vt o bs).c.evt = true)

/-! ## Barriers -/

/-- Index of the level among a context's positions (`Ctx.bars`). -/
def Sys2Proof.Says.lvIndex : Level → Nat
  | .tile => 0 | .gang => 1 | .grid => 2 | .dom => 3 | .ctx => 6

def Sys2Proof.Says.wireIndex : WLevel → Nat
  | .gang => 4 | .grid => 5

/-- The open generation of the context's instance of level `i`. -/
def Sys2Proof.Says.openGen (s : State) (i : Nat) : Bar := s.g.bar i (instOf s.g i s.t.vt)

/-- The context may arrive: no deadline of the open generation has passed (R242), its generation is not abandoned, the open one is not held and has it as a member, and the first
arrival fixed no other kind (R239, R243, R272). -/
def Sys2Proof.Says.MayArrive (s : State) (i : Nat) (k : BarKind) : Prop :=
  anyLate i (instOf s.g i s.t.vt) s = false ∧
  (∀ p ∈ (openGen s i).abandoned, p.1 ≠ (s.c.bar i).gen) ∧ (openGen s i).held = false ∧
    (s.t.vt, s.c.id) ∈ (openGen s i).members ∧ (kindOf s i (openGen s i).id = none ∨ kindOf s i (openGen s i).id = some k)

/-- The context's arrival at level `i` is over. -/
def Sys2Proof.Says.cleared (s : State) (i : Nat) : State := { s with c := s.c.clearArr i }

def Sys2Proof.Says.voteWords : List ((Level → Fin 32 → Fin 32 → Bool → Instr) × BarKind) :=
  [(.voteAnd, .voteAnd), (.voteOr, .voteOr), (.voteAdd, .voteAdd)]

/-- R240, R244 and R272: a `sync` or a vote whose generation has completed completes, a vote with the combined value in D. At
the context's own level, with everything delivered, it completes at once. -/
def Sys2Proof.Says.CompletedBarriersLetWordsPass : Prop :=
  (∀ (s : State) (lv : Level) (v : W64), (s.c.bar (lvIndex lv)).arr = .done v →
    (lv = .ctx → ownDelivered s s.t s.c.id (s.c.bar 6).seq = true) →
      exec (.sync lv) s = done (cleared s (lvIndex lv)) [] ∧
      ∀ p ∈ voteWords, ∀ (d a : Fin 32) (w : Bool), Writable s d →
        exec (p.1 lv d a w) s = wrote (cleared s (lvIndex lv)) [] d v true) ∧
  (∀ s : State, (s.c.bar 6).arr = .none → ownDelivered s s.t s.c.id s.g.sendNext = true →
    exec (.sync .ctx) s = done s [] ∧
    ∀ p ∈ voteWords, ∀ (d a : Fin 32) (w : Bool) (x : W64), One s a x → Writable s d →
      exec (p.1 .ctx d a w) s = wrote s [a] d x true)

/-- R240 and R272: a first arrival is recorded with its value and its deadline, and the context waits at the word. R273: `hwbar.arrive`
records an arrival and goes on, and `hwbar.wait` waits while the arrival is not complete. -/
def Sys2Proof.Says.ArrivalsAreRecorded : Prop :=
  (∀ (s : State) (lv : Level), lv ≠ .ctx → (s.c.bar (lvIndex lv)).arr = .none →
    (MayArrive s (lvIndex lv) .sync → exec (.sync lv) s =
      .next (blockAt (recordArrival s (lvIndex lv) .sync 0 (openGen s (lvIndex lv))) (.bar lv))) ∧
    ∀ p ∈ voteWords, ∀ (d a : Fin 32) (w : Bool) (x : W64), One s a x → Writable s d → MayArrive s (lvIndex lv) p.2 →
      exec (p.1 lv d a w) s =
        .next (blockAt (popped (recordArrival s (lvIndex lv) p.2 x (openGen s (lvIndex lv))) [a]) (.bar lv))) ∧
  (∀ (s : State) (lv : WLevel),
    let i := wireIndex lv
    ((s.c.bar i).arr = .none ∨ (∃ v, (s.c.bar i).arr = .done v) →
      exec (.hwbarWait lv) s = done (cleared s i) [] ∧
      (MayArrive s i .sync → exec (.hwbarArrive lv) s = done (recordArrival s i .sync 0 (openGen s i)) [])) ∧
    ((s.c.bar i).arr = .waiting →
      exec (.hwbarWait lv) s = blocked s (.wire lv) ∧ exec (.hwbarArrive lv) s = blocked s (.wire lv))) ∧
  (∀ (s : State) (i : Nat) (k : BarKind) (x : W64) (b : Bar), i < 7 →
    let t := recordArrival s i k x b
    (t.c.bar i).arr = .waiting ∧ (t.c.bar i).gen = (s.c.bar i).gen ∧ t.c.x = s.c.x ∧ t.m = s.m)

/-- R142 to R144, R147, R276, R277 and R292: words that order, wait or signal. -/
def Obligations.OrderingAndEventWords : Prop := OrderingWordsComplete ∧ WatchAndEventWords

/-- R240, R244, R272 and R273: arrivals at barriers and votes, and how their words complete. -/
def Obligations.BarrierWordsArriveAndPass : Prop := CompletedBarriersLetWordsPass ∧ ArrivalsAreRecorded

/-! ## Vector words -/

/-- Lane `i` of width `w` (R148). -/
def Sys2Proof.Says.lane (w : Nat) (x : W512) (i : Nat) : BitVec w := x.extractLsb' (w * i) w

/-- The register whose lane `i` is `g i`. -/
def Sys2Proof.Says.ofLane (w : Nat) (g : Nat → BitVec w) : W512 :=
  .ofNat 512 ((List.range (512 / w)).map fun i => (g i).toNat * 2 ^ (w * i)).sum

/-- The words of `new` that `act` selects, with those of `old` (R150). -/
def Sys2Proof.Says.selected (act : BitVec 8) (old new : W512) : W512 :=
  let m := ofLane 64 fun k => if act.getLsbD k then BitVec.allOnes 64 else 0
  (new &&& m) ||| (old &&& ~~~m)

/-- The word-wise write of R150 and R152. -/
def Sys2Proof.Says.wordWise (s : State) (d : Fin 32) (act : BitVec 8) (new : W512) : State :=
  if d.val < 28 then writeV s d (selected act s.c.v[d].val new) (s.c.v[d].v ||| act) else writeV s d (selected act 0 new) act

def Sys2Proof.Says.bitsOf : IEt → Nat
  | .n8 => 8 | .s8 => 8 | .n16 => 16 | .s16 => 16 | .n32 => 32 | .s32 => 32 | .n64 => 64 | .s64 => 64
def Sys2Proof.Says.isSigned : IEt → Bool
  | .s8 => true | .s16 => true | .s32 => true | .s64 => true | _ => false

/-- A lane as a signed or unsigned number. -/
def Sys2Proof.Says.number (sg : Bool) {w : Nat} (x : BitVec w) : Int := if sg then x.toInt else x.toNat

/-- An integer clamped to the range of the type (R94). -/
def Sys2Proof.Says.clamped (sg : Bool) (w : Nat) (i : Int) : BitVec w :=
  if sg then saturate w i else BitVec.ofInt w (max 0 (min (2 ^ w - 1) i))

def Sys2Proof.Says.truth (w : Nat) (b : Bool) : BitVec w := if b then BitVec.allOnes w else 0

abbrev Sys2Proof.Says.VWord (T : Type) := T → Fin 32 → Fin 32 → Fin 32 → Instr
abbrev Sys2Proof.Says.VWord1 (T : Type) := T → Fin 32 → Fin 32 → Instr

/-- Lane results of R160; the first argument says whether the type is signed. -/
def Sys2Proof.Says.vintTable : List (VWord IEt × (Bool → (w : Nat) → BitVec w → BitVec w → BitVec w)) :=
  [ (.vadd, fun _ _ x y => x + y), (.vsub, fun _ _ x y => x - y), (.vmul, fun _ _ x y => x * y),
    (.vmulh, fun sg w x y => BitVec.ofInt w (number sg x * number sg y / 2 ^ w)),
    (.vmin, fun sg _ x y => if number sg y < number sg x then y else x),
    (.vmax, fun sg _ x y => if number sg x < number sg y then y else x),
    (.vand, fun _ _ x y => x &&& y), (.vor, fun _ _ x y => x ||| y), (.vxor, fun _ _ x y => x ^^^ y),
    (.vandn, fun _ _ x y => x &&& ~~~y), (.vsll, fun _ w x y => x <<< (y.toNat % w)),
    (.vsrl, fun _ w x y => x >>> (y.toNat % w)), (.vsra, fun _ w x y => x.sshiftRight (y.toNat % w)),
    (.vaddsat, fun sg w x y => clamped sg w (number sg x + number sg y)),
    (.vsubsat, fun sg w x y => clamped sg w (number sg x - number sg y)),
    (.vavg, fun sg w x y => BitVec.ofInt w ((number sg x + number sg y + 1) / 2)),
    (.vcmpEq, fun _ w x y => truth w (x == y)), (.vcmpLt, fun sg w x y => truth w (number sg x < number sg y)),
    (.vcmpLe, fun sg w x y => truth w (number sg x ≤ number sg y)) ]

def Sys2Proof.Says.vintTable1 : List (VWord1 IEt × (Bool → (w : Nat) → BitVec w → BitVec w)) :=
  [ (.vabs, fun sg _ x => if sg && x.msb then -x else x), (.vneg, fun _ _ x => -x),
    (.vpopc, fun _ w x => BitVec.ofNat w ((List.range w).countP x.getLsbD)),
    (.vclz, fun _ w x => BitVec.ofNat w (((List.range w).map fun i => !x.getLsbD (w - 1 - i)).takeWhile id).length) ]

/-- R150 and R160: each integer vector word writes, in the words whose V bits are 1 in every vector source, the lane results of its row, and
keeps the other words and their V bits. It sets no flag. -/
def Obligations.VectorIntegerWordsActLaneByLane : Prop :=
  (∀ p ∈ vintTable, ∀ (s : State) (e : IEt) (d a b : Fin 32) (x y : W512) (v u : BitVec 8), Sound s →
    vector s [] a = some (x, v) → vector s [a] b = some (y, u) → WritableV s d →
    let w := bitsOf e
    exec (p.1 e d a b) s =
      done (wordWise s d (v &&& u) (ofLane w fun i => p.2 (isSigned e) w (lane w x i) (lane w y i))) [a, b]) ∧
  (∀ p ∈ vintTable1, ∀ (s : State) (e : IEt) (d a : Fin 32) (x : W512) (v : BitVec 8), Sound s →
    vector s [] a = some (x, v) → WritableV s d →
    let w := bitsOf e
    exec (p.1 e d a) s = done (wordWise s d v (ofLane w fun i => p.2 (isSigned e) w (lane w x i))) [a]) ∧
  (∀ (s : State) (e : IEt) (d a b : Fin 32) (x y z : W512) (v u t : BitVec 8), Sound s → vector s [] a = some (x, v) →
    vector s [a] b = some (y, u) → vector s [a, b] d = some (z, t) → WritableV s d →
    exec (.vbsel e d a b) s = done (wordWise s d (v &&& u &&& t) ((x &&& z) ||| (y &&& ~~~z))) [a, b, d])

def Sys2Proof.Says.fbits : FEt → Nat
  | .f16 => 16 | .bf16 => 16 | .f32 => 32 | .f64 => 64

/-- Pattern and flags of the lanes in active words; the others have none (R89, R150). -/
def Sys2Proof.Says.active (w : Nat) (act : BitVec 8) (g : Nat → FRes) : List FRes :=
  (List.range (512 / w)).map fun i => if act.getLsbD (i * w / 64) then g i else (0, 0)

/-- The word-wise write of floating-point lanes, which accrues their flags. -/
def Sys2Proof.Says.floatWise (s : State) (d : Fin 32) (act : BitVec 8) (w : Nat) (l : List FRes) : State :=
  wordWise (accrue s (l.foldl (fun m r => m ||| r.2) 0)) d act (.ofNat 512 (ofLanes w (l.map (·.1))))

/-- A comparison's truth as a mask, with its flags. -/
def Sys2Proof.Says.maskRes (f : Fmt) (r : Bool × Nat) : FRes := (if r.1 then 2 ^ f.width - 1 else 0, r.2)

def Sys2Proof.Says.vfltTable : List (VWord FEt × (Fmt → Rm → Nat → Nat → FRes)) :=
  [ (.vfadd, Machine.fadd), (.vfsub, Machine.fsub), (.vfmul, Machine.fmul), (.vfdiv, Machine.fdiv),
    (.vfmin, fun f _ => minmaxF f false), (.vfmax, fun f _ => minmaxF f true),
    (.vfcmpEq, fun f _ x y => maskRes f (Machine.fcmp f .eq x y)), (.vfcmpLt, fun f _ x y => maskRes f (Machine.fcmp f .lt x y)),
    (.vfcmpLe, fun f _ x y => maskRes f (Machine.fcmp f .le x y)) ]

def Sys2Proof.Says.vfltTable1 : List (VWord1 FEt × (Fmt → Rm → Nat → FRes)) :=
  [ (.vfsqrt, Machine.fsqrt), (.vfabs, fun f _ x => (x % 2 ^ (f.width - 1), 0)),
    (.vfneg, fun f _ x => (x ^^^ 2 ^ (f.width - 1), 0)), (.vrcp, fun f _ => rcp f), (.vrsqrt, fun f _ => rsqrt f),
    (.vexp2, fun f _ => Machine.exp2 f), (.vlog2, fun f _ => Machine.log2 f) ]

/-- The floating-point vector words round each active lane once under `status.RM`, and the special functions to the nearest even whatever the mode
(R86), as the operation of Float.lean for the lane's format; they accrue the flags of the active lanes alone, and write word by word (R150, R161, R162, R172). -/
def Obligations.VectorFloatWordsActLaneByLane : Prop :=
  (∀ p ∈ vfltTable, ∀ (s : State) (e : FEt) (d a b : Fin 32) (x y : W512) (v u : BitVec 8), Sound s →
    vector s [] a = some (x, v) → vector s [a] b = some (y, u) → WritableV s d →
    let w := fbits e
    exec (p.1 e d a b) s = done (floatWise s d (v &&& u) w (active w (v &&& u) fun i =>
      p.2 (fmtOf e) s.c.status.rm (lane w x i).toNat (lane w y i).toNat)) [a, b]) ∧
  (∀ p ∈ vfltTable1, ∀ (s : State) (e : FEt) (d a : Fin 32) (x : W512) (v : BitVec 8), Sound s →
    vector s [] a = some (x, v) → WritableV s d →
    let w := fbits e
    exec (p.1 e d a) s =
      done (floatWise s d v w (active w v fun i => p.2 (fmtOf e) s.c.status.rm (lane w x i).toNat)) [a]) ∧
  (∀ (s : State) (e : FEt) (d a b : Fin 32) (x y z : W512) (v u t : BitVec 8), Sound s → vector s [] a = some (x, v) →
    vector s [a] b = some (y, u) → vector s [a, b] d = some (z, t) → WritableV s d →
    let w := fbits e
    let n := fmtOf e
    let act := v &&& u &&& t
    let rm := s.c.status.rm
    exec (.vfma e d a b) s = done (floatWise s d act w (active w act fun i =>
      ffma n rm (lane w x i).toNat (lane w y i).toNat (lane w z i).toNat)) [a, b, d] ∧
    exec (.vfnma e d a b) s = done (floatWise s d act w (active w act fun i =>
      ffnma n rm (lane w x i).toNat (lane w y i).toNat (lane w z i).toNat)) [a, b, d] ∧
    (e ≠ .f64 →
      let q := if e = .f32 then fmtOf .f64 else f32
      let fl (r : W512) (i : Nat) : Fl := n.decode (lane w r i).toNat
      exec (.vfdot e d a b) s = done (floatWise s d act (2 * w) (active (2 * w) act fun i =>
        sum3 q rm (fl x (2 * i)) (fl y (2 * i)) (fl x (2 * i + 1)) (fl y (2 * i + 1))
          (q.decode (lane (2 * w) z i).toNat))) [a, b, d]))

/-! ## Whole registers -/

def Sys2Proof.Says.lbits : LEt → Nat
  | .int t => bitsOf t
  | .flt f => fbits f

def Sys2Proof.Says.wrotePart (s : State) (rs : List (Fin 32)) (d : Fin 32) (w : Nat) (l : List FRes) : Out3 :=
  wroteV (accrue s (l.foldl (fun m r => m ||| r.2) 0)) rs d (.ofNat 512 (ofLanes w (l.map (·.1)))) 0xFF

/-- R151 and R163 to R166: with every V bit of VA set, a conversion writes its lanes from lane 0 up, zeros above them and all eight V bits,
and accrues its flags; `venc` traps ENCODE where the table of the tile is not monotone. With a V bit 0 the word has no effect. -/
def Obligations.ConversionsActOnWholeRegisters : Prop :=
  ∀ (s : State) (d a : Fin 32) (x : W512) (v : BitVec 8), Sound s → vector s [] a = some (x, v) →
    (v = 0xFF → WritableV s d →
      (∀ dst src : LEt,
        let n := 512 / max (lbits src) (lbits dst)
        let l (sat : Bool) : List FRes :=
          (List.range n).map fun i => cvtLane dst src s.c.status.rm sat (lane (lbits src) x i).toNat
        exec (.vcvt dst src d a) s = wrotePart s [a] d (lbits dst) (l false) ∧
        exec (.vcvtSat dst src d a) s = wrotePart s [a] d (lbits dst) (l true)) ∧
      (∀ t4 : Bool,
        let tab := if t4 then s.t.t4 else s.t.t8
        let h := if t4 then 8 else 128
        let w := if t4 then 4 else 8
        let nan := if t4 then s.t.nan4.toNat else s.t.nan8.toNat
        let l : List FRes := (List.range 16).map fun i =>
          let r := tabEncode h tab nan (lane 32 x i).toNat
          (r.code, (if r.inexact then NX else 0) ||| (if r.sat then OF ||| NX else 0))
        exec (.venc t4 d a) s =
          (if monotone h tab then wrotePart s [a] d w l else trapped s .encode (.ofNat 64 w) 0) ∧
        exec (.vdec t4 d a) s = wroteV s [a] d (ofLane 32 fun i => .ofNat 32 (tabDecodeF32 tab (lane w x i).toNat)) 0xFF)) ∧
    (v ≠ 0xFF → ∀ i ∈ ([true, false].flatMap fun t4 => [Instr.venc t4 d a, .vdec t4 d a]), exec i s = .next (retire s)) ∧
    (v ≠ 0xFF → ∀ dst src : LEt, exec (.vcvt dst src d a) s = .next (retire s) ∧ exec (.vcvtSat dst src d a) s = .next (retire s))

/-- Lane moves with vector sources VA and VB: lane `i` of the result, for `n` lanes (R167). -/
def Sys2Proof.Says.moveTable : List (VWord LEt × ((w n : Nat) → (Nat → BitVec w) → (Nat → BitVec w) → Nat → BitVec w)) :=
  [ (.vperm, fun _ n x y i => x ((y i).toNat % n)),
    (.vzip, fun _ _ x y i => if i % 2 = 0 then x (i / 2) else y (i / 2)),
    (.vunzip, fun _ n x y i => if 2 * i < n then x (2 * i) else y (2 * i - n)),
    (.vcompress, fun _ n x y i =>
      match ((List.range n).filter fun j => y j ≠ 0)[i]? with
      | some j => x j
      | none => 0),
    (.vexpand, fun _ _ x y i => if y i = 0 then 0 else x ((List.range i).countP fun j => y j ≠ 0)) ]

/-- R151 and R167: with every V bit of its vector sources set, a lane move writes the lanes of its row and all eight V bits; otherwise it has
no effect. `vbcast` writes the low bits of a scalar into every lane. -/
def Sys2Proof.Says.LaneMovesActOnWholeRegisters : Prop :=
  (∀ p ∈ moveTable, ∀ (s : State) (e : LEt) (d a b : Fin 32) (x y : W512) (v u : BitVec 8), Sound s →
    vector s [] a = some (x, v) → vector s [a] b = some (y, u) →
    let w := lbits e
    (v &&& u = 0xFF → WritableV s d →
      exec (p.1 e d a b) s = wroteV s [a, b] d (ofLane w (p.2 w (512 / w) (lane w x) (lane w y))) 0xFF) ∧
    (v &&& u ≠ 0xFF → exec (p.1 e d a b) s = .next (retire s))) ∧
  (∀ (s : State) (e : LEt) (d a b : Fin 32) (x : W512) (v : BitVec 8) (k : W64), Sound s → vector s [] a = some (x, v) →
    scalar s [a] b = some (k, true) →
    let w := lbits e
    let n := 512 / w
    (v = 0xFF → WritableV s d →
      exec (.vrot e d a b) s = wroteV s [a, b] d (ofLane w fun i => lane w x ((i + k.toNat) % n)) 0xFF) ∧
    (v ≠ 0xFF → exec (.vrot e d a b) s = .next (retire s)) ∧
    ∀ (z : W512) (u : BitVec 8), vector s [a, b] d = some (z, u) →
      (v &&& u = 0xFF → WritableV s d → exec (.vslide e d a b) s = wroteV s [a, b, d] d (ofLane w fun i =>
        if i + k.toNat % n < n then lane w x (i + k.toNat % n) else lane w z (i + k.toNat % n - n)) 0xFF) ∧
      (v &&& u ≠ 0xFF → exec (.vslide e d a b) s = .next (retire s))) ∧
  (∀ (s : State) (e : LEt) (d a : Fin 32) (x : W64), One s a x → WritableV s d →
    exec (.vbcast e d a) s = wroteV s [a] d (ofLane (lbits e) fun _ => x.setWidth (lbits e)) 0xFF)

/-- A lane as a scalar: sign-extended for S types, with zero bits above otherwise (R168). -/
def Sys2Proof.Says.toScalar (e : LEt) (x : BitVec (lbits e)) : W64 :=
  match e with
  | .int t => if isSigned t then x.signExtend 64 else x.setWidth 64
  | .flt _ => x.setWidth 64

/-- R168: `vext` writes a lane to a scalar register with the V of its word; `vins` replaces one lane, sets the V bit of its word, and keeps
every other lane and V bit. -/
def Sys2Proof.Says.LanesMoveToAndFromScalars : Prop :=
  (∀ (s : State) (e : LEt) (d a b : Fin 32) (x : W512) (v : BitVec 8) (k : W64), Sound s → vector s [] a = some (x, v) →
    scalar s [a] b = some (k, true) → Writable s d →
    let w := lbits e
    let i := k.toNat % (512 / w)
    exec (.vext e d a b) s = wrote s [a, b] d (toScalar e (lane w x i)) (v.getLsbD (i * w / 64))) ∧
  (∀ (s : State) (e : LEt) (d a b : Fin 32) (x k : W64) (z : W512) (v : BitVec 8), Two s a b x k →
    vector s [a, b] d = some (z, v) → WritableV s d →
    let w := lbits e
    let j := k.toNat % (512 / w)
    exec (.vins e d a b) s = wroteV s [a, b, d] d (ofLane w fun i => if i = j then x.setWidth w else lane w z i)
      (v ||| .ofNat 8 (2 ^ (j * w / 64))))

/-- Positions that a group of four lanes keeps: NaNs first, then by magnitude, then the lower lane, in ascending order (R170). -/
def Sys2Proof.Says.keptOf (f : Fmt) (g : Nat → Nat) : List Nat :=
  let rank (i : Nat) : Nat := if (f.decode (g i)).isNan then 2 ^ 15 else g i % 2 ^ 15
  (List.range 4).filter fun i => ((List.range 4).countP fun j => rank i < rank j || (rank j == rank i && j < i)) < 2

def Sys2Proof.Says.redTable : List (VWord1 LEt × RedOp) := [(.vredAdd, .add), (.vredMax, .max), (.vredMin, .min)]

/-- R169 with R108: a reduction combines the lanes of VA in the tree, those of invalid words as the identity, and its result has V = 1 unless no
word is valid. R170 and R171: `vpack24` keeps two lanes of each group of four with their positions, and `vunpack24` puts lanes back; with a V bit of VA 0 they have no effect (R151). -/
def Obligations.ReductionsAndPacking : Prop :=
  (∀ p ∈ redTable, ∀ (s : State) (e : LEt) (d a : Fin 32) (x : W512) (v : BitVec 8), Sound s → vector s [] a = some (x, v) →
    Writable s d →
    let w := lbits e
    let l : List FRes := (List.range (512 / w)).map fun i =>
      (if v.getLsbD (i * w / 64) then (lane w x i).toNat else redIdentity p.2 e, 0)
    let r := tree (redFn p.2 s.c.status.rm e) 7 l
    exec (p.1 e d a) s =
      if v = 0 then wrote s [a] d (toScalar e (.ofNat _ (redIdentity p.2 e))) false
      else wroteFlags s [a] d r.2 (toScalar e (.ofNat _ r.1)) true) ∧
  (∀ (s : State) (e : FEt) (d a b : Fin 32) (x : W512), e = .f16 ∨ e = .bf16 → Sound s → vector s [] a = some (x, 0xFF) →
    WritableV s d →
    let kept (g : Nat) : List Nat := keptOf (fmtOf e) fun j => (lane 16 x (4 * g + j)).toNat
    let md := ((List.range 8).map fun g => ((kept g).getD 0 0 + 4 * (kept g).getD 1 0) * 2 ^ (4 * g)).sum
    let t := writeV s d (ofLane 16 fun i => if i < 16 then lane 16 x (4 * (i / 2) + (kept (i / 2)).getD (i % 2) 0) else 0) 0xFF
    Writable t b → exec (.vpack24 e d a b) s = done (writeX t b (.ofNat 64 md) true) [a]) ∧
  (∀ (s : State) (e : FEt) (d a b : Fin 32) (x : W512) (v : BitVec 8), Sound s → vector s [] a = some (x, v) → v ≠ 0xFF →
    exec (.vpack24 e d a b) s = .next (retire s) ∧
    ∀ (k : W64) (y : Bool), scalar s [a] b = some (k, y) → exec (.vunpack24 e d a b) s = .next (retire s)) ∧
  (∀ (s : State) (e : FEt) (d a b : Fin 32) (x : W512) (k : W64), e = .f16 ∨ e = .bf16 → Sound s →
    vector s [] a = some (x, 0xFF) → scalar s [a] b = some (k, true) → WritableV s d →
    let pos (g h : Nat) : Nat := (k.extractLsb' (4 * g + 2 * h) 2).toNat
    exec (.vunpack24 e d a b) s = wroteV s [a, b] d (ofLane 16 fun i =>
      if i % 4 = pos (i / 4) 1 then lane 16 x (2 * (i / 4) + 1)
      else if i % 4 = pos (i / 4) 0 then lane 16 x (2 * (i / 4)) else 0) 0xFF)

/-- R151, R167 and R168: moves of lanes between and within registers. -/
def Obligations.LaneMovesAct : Prop := LaneMovesActOnWholeRegisters ∧ LanesMoveToAndFromScalars

/-! ## Hypervector words -/

abbrev Sys2Proof.Says.HWord := Fin 8 → Fin 8 → Fin 8 → Instr

noncomputable def Sys2Proof.Says.hvTable : List (HWord × (W8192 → W8192 → W8192)) :=
  [ (.hxor, fun x y => x ^^^ y), (.hand, fun x y => x &&& y), (.hor, fun x y => x ||| y) ]

def Sys2Proof.Says.ones (x : W8192) : Nat := (List.range 8192).countP x.getLsbD

/-- Lane `i` of 64 bits. -/
def Sys2Proof.Says.word (x : W8192) (i : Nat) : W64 := x.extractLsb' (64 * i) 64

def Sys2Proof.Says.ofWords (g : Nat → W64) : W8192 := .ofNat 8192 ((List.range 128).map fun i => (g i).toNat * 2 ^ (64 * i)).sum

/-- R209: the hypervector words write their results and change nothing else. -/
def Obligations.HypervectorWordsWriteTheirResult : Prop :=
  (∀ p ∈ hvTable, ∀ (s : State) (d a b : Fin 8) (x y : W8192), Sound s → hyper s a = some x → hyper s b = some y → WritableH s d →
    exec (p.1 d a b) s = done (writeH s d (p.2 x y)) []) ∧
  (∀ (s : State) (d a : Fin 8) (x : W8192), Sound s → hyper s a = some x → WritableH s d →
    exec (.hnot d a) s = done (writeH s d (~~~x)) [] ∧ exec (.hmov d a) s = done (writeH s d x) []) ∧
  (∀ (s : State) (d a : Fin 8) (b : Fin 32) (x : W8192) (k : W64), hyper s a = some x → One s b k → WritableH s d →
    exec (.hrot d a b) s = done (writeH s d (x.rotateLeft (k.toNat % 8192))) [b]) ∧
  (∀ (s : State) (d : Fin 32) (a b : Fin 8) (x y : W8192), Sound s → hyper s a = some x → hyper s b = some y → Writable s d →
    exec (.hpopc d a) s = wrote s [] d (.ofNat 64 (ones x)) true ∧
    exec (.hdist d a b) s = wrote s [] d (.ofNat 64 (ones (x ^^^ y))) true) ∧
  (∀ (s : State) (d : Fin 8) (a : Fin 32) (x : W64), One s a x → WritableH s d →
    exec (.hbcast d a) s = done (writeH s d (ofWords fun _ => x)) [a]) ∧
  (∀ (s : State) (d : Fin 8) (a b : Fin 32) (x i : W64) (y : W8192), Two s a b x i → hyper s d = some y → WritableH s d →
    exec (.hins d a b) s = done (writeH s d (ofWords fun j => if j = i.toNat % 128 then x else word y j)) [a, b]) ∧
  (∀ (s : State) (d : Fin 32) (a : Fin 8) (b : Fin 32) (x : W8192) (i : W64), hyper s a = some x → One s b i → Writable s d →
    exec (.hext d a b) s = wrote s [b] d (word x (i.toNat % 128)) true)

/-- Counter `i` of bundle accumulator `d` (R202). -/
def Sys2Proof.Says.count (s : State) (d : Fin 2) (i : Nat) : Int := (s.c.b[d].extractLsb' (8 * i) 8).toInt

/-- The bundle word adds `w` where the hypervector has a 1 and subtracts it where it has a 0, clamping each counter to −127 to 127 and
raising the accumulator's saturation bit when one was clamped; the other accumulator and the registers stay. -/
def Sys2Proof.Says.Bundled (t s : State) (d : Fin 2) (x : W8192) (w : Int) : Prop :=
  let sum (i : Nat) : Int := count s d i + if x.getLsbD i then w else -w
  (∀ i < 8192, count t d i = max (-127) (min 127 (sum i))) ∧ (∀ e, e ≠ d → t.c.b[e] = s.c.b[e]) ∧
  (∀ e : Fin 2, t.c.sat.getLsbD e.val = (s.c.sat.getLsbD e.val ||
    (e == d && (List.range 8192).any fun i => 127 < sum i || sum i < -127))) ∧
  t.c.x = s.c.x ∧ t.c.v = s.c.v ∧ t.c.h = s.c.h ∧ t.c.t = s.c.t ∧ t.c.pc = s.c.pc ∧ t.m = s.m ∧ t.t.sp = s.t.sp

/-- R210 and R211: `hbund` and `hbunw` add into a bundle accumulator (a weight above 127 traps ILLEGAL with the weight), `hbclr` clears one, and
`hthr` writes 1 where a counter is positive and the tie-break bit where it is 0. -/
def Sys2Proof.Says.BundleWordsCount : Prop :=
  (∀ (s : State) (d : Fin 2) (a : Fin 8) (x : W8192), Sound s → hyper s a = some x →
    ∃ t, exec (.hbund d a) s = done t [] ∧ Bundled t s d x 1) ∧
  (∀ (s : State) (d : Fin 2) (a : Fin 8) (b : Fin 32) (x : W8192) (w : W64), hyper s a = some x → One s b w →
    (w.toNat ≤ 127 → ∃ t, exec (.hbunw d a b) s = done t [b] ∧ Bundled t s d x w.toNat) ∧
    (127 < w.toNat → exec (.hbunw d a b) s = trapped s .illegal w 0)) ∧
  (∀ (s : State) (d : Fin 2), exec (.hbclr d) s = done (putB s d 0) []) ∧
  (∀ (s : State) (d b : Fin 8) (a : Fin 2) (y : W8192), Sound s → hyper s b = some y → WritableH s d →
    ∃ z : W8192, exec (.hthr d a b) s = done (writeH s d z) [] ∧
      ∀ i < 8192, z.getLsbD i = (0 < count s a i || (count s a i == 0 && y.getLsbD i)))

/-! ## Recall memory -/

/-- The tile's recall entry `e`. -/
def Sys2Proof.Says.entry (s : State) (e : Nat) : Recall := s.t.rmem.toList.getD e {}

/-- Entry `e` is valid and nearer to `q` than every other valid entry of `l`; at an equal distance the lower index is the nearer
(R216). -/
def Sys2Proof.Says.Nearest (s : State) (q : W8192) (l : List Nat) (e : Nat) : Prop :=
  e ∈ l ∧ (entry s e).valid = true ∧ ∀ f ∈ l, (entry s f).valid = true →
    let u := ones (q ^^^ (entry s e).data)
    let v := ones (q ^^^ (entry s f).data)
    u < v ∨ (u = v ∧ e ≤ f)

def Sys2Proof.Says.hitWord (s : State) (q : W8192) (e : Nat) : Nat := ones (q ^^^ (entry s e).data) * 2 ^ 16 + e

/-- R215 to R217: the recall words store, load and clear entries of the tile's recall memory, and search it for the nearest valid entry or the two
nearest: the result has V = 1 when the nearest distance is at most the threshold, and all ones as the distance where there is no entry. -/
def Sys2Proof.Says.RecallWordsActOnEntries : Prop :=
  (∀ (s : State) (a : Fin 8) (b : Fin 32) (x : W8192) (i : W64), hyper s a = some x → One s b i →
    exec (.hmst a b) s = done (putRecall s (i.toNat % 256) ⟨true, x⟩) [b]) ∧
  (∀ (s : State) (d : Fin 8) (b : Fin 32) (i : W64), One s b i → WritableH s d → s.t.bad = [] → s.t.soft = [] →
    let r := entry s (i.toNat % 256)
    exec (.hmld d b) s = done (writeH s d (if r.valid then r.data else 0)) [b]) ∧
  (∀ (s : State) (b : Fin 32) (i : W64), One s b i → exec (.hmclr b) s = done (putRecall s (i.toNat % 256) {}) [b]) ∧
  (∀ s : State, ∃ t, exec .hmclrAll s = done t [] ∧ (∀ e < 256, entry t e = {}) ∧ t.c = s.c ∧ t.m = s.m ∧ t.t.sp = s.t.sp) ∧
  (∀ (s : State) (e : Nat) (r : Recall), e < 256 →
    ∀ f < 256, entry (putRecall s e r) f = if f = e then r else entry s f) ∧
  (∀ (s : State) (d : Fin 32) (a : Fin 8) (b : Fin 32) (q : W8192) (th : W64), hyper s a = some q → One s b th → Writable s d →
    s.t.bad = [] → s.t.soft = [] →
    let all := List.range 256
    ((∀ e ∈ all, (entry s e).valid = false) →
      exec (.hrecall d a b) s = wrote s [b] d 0xFFFF0000 false ∧
      exec (.hrecall2 d a b) s = wrote s [b] d 0xFFFF0000FFFF0000 false) ∧
    (∀ e, Nearest s q all e →
      let hit : Bool := ones (q ^^^ (entry s e).data) ≤ th.toNat
      exec (.hrecall d a b) s = wrote s [b] d (.ofNat 64 (hitWord s q e)) hit ∧
      ((∀ f ∈ all.filter (· ≠ e), (entry s f).valid = false) → exec (.hrecall2 d a b) s =
        wrote s [b] d (.ofNat 64 (hitWord s q e + 0xFFFF0000 * 2 ^ 32)) hit) ∧
      (∀ f, Nearest s q (all.filter (· ≠ e)) f → exec (.hrecall2 d a b) s =
        wrote s [b] d (.ofNat 64 (hitWord s q e + hitWord s q f * 2 ^ 32)) hit)))

/-- R201, R210, R211 and R215 to R217: the words of the bundle accumulators and of the recall memory. -/
def Obligations.BundleAndRecallWords : Prop := BundleWordsCount ∧ RecallWordsActOnEntries

/-! ## The matrix unit -/

/-- Tile register `d` is not in flight (R177). -/
def Sys2Proof.Says.Settled (s : State) (d : Fin 8) : Prop := s.c.t[d].inflight = 0

/-- A tile register's elements, row by row; zeros when it is not VALID (R175). -/
def Sys2Proof.Says.elem (t : TReg) (i : Nat) : Nat := if t.valid then (t.data.extractLsb' (32 * i) 32).toNat else 0

/-- Operands of MCTL words are all tile registers of the context, and nothing else of the machine has to be ready for them (R196, R197). -/
def Obligations.MatrixControlWords : Prop :=
  (∀ (s : State) (d : Fin 8) (i : Bool), Settled s d →
    exec (.mz i d) s = done (putT s d { valid := true, dirty := true, s32 := i }) [] ∧ exec (.mwait d) s = done s []) ∧
  (∀ (s : State) (d : Fin 32) (a : Fin 8), Writable s d →
    let r := s.c.t[a]
    let st : Nat := r.valid.toNat + 2 * r.dirty.toNat + (if r.inflight = 0 then 0 else 4) + 8 * r.s32.toNat + 2 ^ 16 * r.ovf.toNat
    exec (.mstat d a) s = wrote s [] d (.ofNat 64 st) true ∧
    (Settled s a → exec (.movf false d a) s = wrote s [] d (.ofNat 64 r.ovf.toNat) true ∧
      exec (.movf true d a) s =
        done (markT (writeX s d (.ofNat 64 r.ovf.toNat) true) a { r with ovf := 0, dirty := true }) [])) ∧
  (∀ (s : State) (d a : Fin 8), Sound s → Settled s d → Settled s a →
    exec (.mcpy d a) s = done (putT s d { s.c.t[a] with dirty := true }) [] ∧
    ((s.c.t[d].valid && s.c.t[a].valid) = false ∨ s.c.t[d].s32 = s.c.t[a].s32 →
      let x := s.c.t[d].claim (if s.c.t[d].valid then s.c.t[d].s32 else s.c.t[a].valid && s.c.t[a].s32)
      exec (.madd d a) s = done (putT s d (x.withElems ((List.range 1024).map fun i =>
        let r := if x.s32 then tileUpdateInt (elem x i) ((BitVec.ofNat 32 (elem s.c.t[a] i)).toInt)
          else tileUpdate (elem x i) (f32.decode (elem s.c.t[a] i))
        (r.1, r.2.toNat)))) []) ∧
    (s.c.t[d].valid = true → s.c.t[a].valid = true → s.c.t[d].s32 ≠ s.c.t[a].s32 →
      exec (.madd d a) s = trapped s .illegal s.c.t[d].status 0)) ∧
  (∀ (s : State) (d : Fin 8) (a : Fin 32) (k : W64), One s a k → Settled s d →
    ((s.c.t[d].valid && s.c.t[d].s32) = false →
      let x := s.c.t[d].claim false
      exec (.mscale d a) s = done (putT s d (x.withElems ((List.range 1024).map fun i =>
        satStep (Machine.fmul f32 0 (elem x i) (k.toNat % 2 ^ 32))))) [a]) ∧
    ((s.c.t[d].valid && s.c.t[d].s32) = true → exec (.mscale d a) s = trapped s .illegal s.c.t[d].status 0)) ∧
  (∀ (s : State) (d : Fin 32) (a : Fin 8) (b : Fin 32) (k : W64), One s b k → Settled s a → WritableV s d →
    exec (.mrow d a b) s = wroteV s [b] d (ofLane 32 fun j =>
      .ofNat 32 (elem s.c.t[a] (32 * (k.toNat / 2 % 32) + 16 * (k.toNat % 2) + j))) 0xFF)

/-- Address of row `i`. -/
def Sys2Proof.Says.row (ea : W64) (pitch i : Nat) : W64 := ea + .ofNat 64 (i * pitch)

/-- `n` rows of `m` bytes lie in the own scratchpad. -/
def Sys2Proof.Says.RowsOwn (ea : W64) (pitch n m : Nat) : Prop := ∀ i < n, Own (row ea pitch i) m

/-- Bytes of `n` rows of `m` bytes, in order. -/
def Sys2Proof.Says.rowsOf (s : State) (ea : W64) (pitch n m : Nat) : List Byte :=
  (List.range n).flatMap fun i => s.t.sp.read (offset (row ea pitch i)) m

/-- R176, R177, R185, R187 and R200: an `mma` or `mmas` whose checks pass and for which the array queue has room takes the rows of A, the slot,
and the scales as they stand, commits its tile register with one more operation in flight, and goes on. Its kind must be that of a VALID tile register
(ILLEGAL otherwise) and its address 16-aligned. -/
def Obligations.MatrixMultiplyWordsCommit : Prop :=
  ∀ (sp : Bool) (s : State) (p : Pair) (d : Fin 8) (a b c : Fin 32) (ea sl sc : W64), Two s a b ea sl →
    scalar s [a, b] c = some (sc, true) →
    let i := if sp then Instr.mmas p d a b c else .mma p d a b c
    let r := s.c.t[d]
    let pitch := s.c.pitch.toNat * 16
    let m := (if sp then 64 else 32) * (Pair.fmts p).1.width / 8
    (r.valid = true → r.s32 ≠ p.isInt → exec i s = trapped s .illegal r.status 0) ∧
    ((r.valid = false ∨ r.s32 = p.isInt) →
      (ea.toNat % 16 ≠ 0 → exec i s = trapped s .misalign ea 0) ∧
      (ea.toNat % 16 = 0 → RowsOwn ea pitch 32 m →
        (8 ≤ s.t.arrq.length → exec i s = blocked s .arrayFull) ∧
        (s.t.arrq.length < 8 → Quiet s →
          let slot := sl.toNat % 128
          let o : ArrOp := { c := s.c.id, d := d, p := p, sp := sp, aAddr := ea, pitch := pitch
                             rows := some (rowsOf s ea pitch 32 m), slot := slot
                             need := (s.t.slots.toList.getD slot {}).issued, wb := none, scale := sc, unit := c == 0 }
          exec i s = done { s with
            c := { s.c with t := s.c.t.set d { r.claim p.isInt with inflight := r.inflight + 1 } }
            t := { s.t with arrq := s.t.arrq ++ [o] } } [a, b, c])))

/-- R188 to R191 in the own scratchpad: `mld` loads the 32 rows of a tile register and `mst` stores them, `wbld` writes a weight-buffer slot in the slot's
order, and `wbinv` clears the slots of its mask. -/
def Obligations.MatrixMemoryWords : Prop :=
  (∀ (s : State) (i : Bool) (d : Fin 8) (a b : Fin 32) (ea p : W64), Two s a b ea p → Quiet s → Settled s d → ea.toNat % 16 = 0 →
    let pitch := if b = 0 then 128 else p.toNat
    pitch % 16 = 0 → RowsOwn ea pitch 32 128 →
      exec (.mld i d a b) s = done (putT s d { data := .ofNat 32768 (natOf (rowsOf s ea pitch 32 128)), valid := true, dirty := true, s32 := i })
        [a, b]) ∧
  (∀ (s : State) (d : Fin 8) (a b : Fin 32) (ea p : W64), Two s a b ea p → Quiet s → Settled s d → ea.toNat % 16 = 0 →
    let pitch := if b = 0 then 128 else p.toNat
    pitch % 16 = 0 → RowsOwn ea pitch 32 128 →
      exec (.mst d a b) s = done (ownStores s ((List.range 32).map fun r =>
        (row ea pitch r, (List.range 32).flatMap fun j => bytesLe 4 (elem s.c.t[d] (32 * r + j))))) [a, b]) ∧
  (∀ (s : State) (len : WLen) (md : Bool) (d a : Fin 32) (ea k : W64), Two s a d ea k →
    let vl := match len with | .b512 => 512 | .k1 => 1024 | .k2 => 2048
    let n := vl + if md then 256 else 0
    let slot := k.toNat % 128
    (Quiet s → Own ea n → ea.toNat % 64 = 0 → exec (.wbld len md d a) s =
      done { s with t := s.t.slotWrite (s.g.belay != 0) slot { data := some (s.t.sp.read (offset ea) n), vlen := vl, sp := md } } [a, d]) ∧
    (∀ (s' : State) (ps : List Piece), Starts s ea n 64 .load .load s' ps → isOwn ea = false →
      let t := committed s' { kind := .wbld slot ((s'.t.slots.toList.getD slot {}).issued), va := ea, size := n, pieces := ps }
      exec (.wbld len md d a) s =
        done { t with t := t.t.slotWrite (t.g.belay != 0) slot { data := none, vlen := vl, sp := md } } [a, d])) ∧
  (∀ (s : State) (a b : Fin 32) (lo hi : W64), Two s a b lo hi →
    let slots := (List.range 128).filter fun i => (hi ++ lo).getLsbD i
    let clear (t : Tile) (i : Nat) : Tile := t.slotWrite (s.g.belay != 0) i { clear := true }
    exec (.wbinv a b) s = done { s with t := slots.foldl clear s.t } [a, b])

/-- The parts of the parameter block in use, read from the own scratchpad (R193). -/
def Sys2Proof.Says.params (s : State) (b : W64) (ps : List (Nat × Nat)) : List Byte :=
  ps.foldl (fun im p => overlay im p.1 (s.t.sp.read (offset (b + .ofNat 64 p.1)) p.2)) (List.replicate 0x108 0)

/-- R192 to R195: a `mepi` whose control word, tables and addresses are good carries every element of the tile register through scale, bias, activation and
conversion, stores the 32 rows and, with OVFW, the overflow count, and leaves the count or 0 in the tile register. -/
def Obligations.FusedEpilogueStoresItsRows : Prop :=
  ∀ (s : State) (d : Fin 8) (a b c : Fin 32) (ea pb x : W64) (m : MepiCtl), Two s a b ea pb → scalar s [a, b] c = some (x, true) → Quiet s →
    Settled s d → mepiCtl x.toNat = some m → encodeFault s.t m.et = none → ea.toNat % 16 = 0 →
    let n := m.width * 4
    let pitch := if m.dpitch = 0 then n else m.dpitch
    let oa := ea + .ofNat 64 (32 * pitch)
    RowsOwn ea pitch 32 n → (m.ovfw = true → Own oa 4) → (m.parts ≠ [] → pb.toNat % 64 = 0) →
    (∀ q ∈ m.parts, Own (pb + .ofNat 64 q.1) q.2) →
      let r := s.c.t[d]
      let e (i : Nat) : Nat × Nat := mepiElem s.t m (r.valid && r.s32) (params s pb m.parts) (i % 32) (elem r i)
      let ovf := ovfAdd r.ovf ((List.range 1024).map fun i => (e i).2).sum
      let t := ownStores s (((List.range 32).map fun i =>
        (row ea pitch i, bytesOf n (ofLanes m.width ((List.range 32).map fun j => (e (32 * i + j)).1)))) ++
          if m.ovfw then [(oa, bytesOf 4 ovf.toNat)] else [])
      let new := if m.clro then 0 else ovf
      exec (.mepi d a b c) s = done (if new = r.ovf then t else markT t d { r with ovf := new }) [a, b, c]

/-- Exact value of a finite number. -/
def Sys2Proof.Says.rat : Fl → ℚ
  | .fin s m e => (if s then -1 else 1) * m * (2 : ℚ) ^ e
  | _ => 0

def Sys2Proof.Says.isFin : Fl → Bool
  | .fin _ _ _ => true
  | _ => false
def Sys2Proof.Says.isInf : Fl → Bool
  | .inf _ => true
  | _ => false

/-- A number truncated towards zero. -/
def Sys2Proof.Says.trunc0 (x : ℚ) : ℤ := if 0 ≤ x then ⌊x⌋ else -⌊-x⌋

/-- The infinite products of a group, by sign: -1 or 1. -/
def Sys2Proof.Says.infProducts (l : List (Fl × Fl)) : List Int :=
  (l.filter fun p => (isInf p.1 && !p.2.isZero) || (isInf p.2 && !p.1.isZero)).map fun p => if p.1.sign = p.2.sign then 1 else -1

/-- R104 and R105: the sum of one group is a NaN, an infinity, or the exact sum of its products, each truncated towards zero to a multiple of
2^(E − 41), where E is the greatest sum of exponents of a nonzero product; it is scaled exactly. -/
def Sys2Proof.Says.GroupsAreSummed : Prop :=
  (∀ l : List (Fl × Fl),
    ((∃ p ∈ l, p.1.isNan || p.2.isNan || (isInf p.1 && p.2.isZero) || (p.1.isZero && isInf p.2)) → (groupSum l).isNan = true) ∧
    ((∀ p ∈ l, (p.1.isNan || p.2.isNan || (isInf p.1 && p.2.isZero) || (p.1.isZero && isInf p.2)) = false) →
      (1 ∈ infProducts l → -1 ∈ infProducts l → (groupSum l).isNan = true) ∧
      (1 ∈ infProducts l → -1 ∉ infProducts l → groupSum l = .inf false) ∧
      (1 ∉ infProducts l → -1 ∈ infProducts l → groupSum l = .inf true)) ∧
    ((∀ p ∈ l, isFin p.1 = true ∧ isFin p.2 = true) →
      let n := l.filter fun p => !p.1.isZero && !p.2.isZero
      let ex (p : Fl × Fl) : ℤ := Int.log 2 |rat p.1| + Int.log 2 |rat p.2|
      isFin (groupSum l) = true ∧ (n = [] → rat (groupSum l) = 0) ∧
      ∀ E : ℤ, (∃ p ∈ n, ex p = E) → (∀ p ∈ n, ex p ≤ E) →
        rat (groupSum l) = ((n.map fun p => trunc0 (rat p.1 * rat p.2 / (2 : ℚ) ^ (E - 41))).sum : ℤ) * (2 : ℚ) ^ (E - 41))) ∧
  (∀ g a b : Fl, isFin g = true → isFin a = true → isFin b = true → isFin (scaled g a b) = true ∧
    rat (scaled g a b) = rat g * rat a * rat b)

/-- R104, R106 and R107: how a group's sum updates an element. A float element takes the exact sum rounded once (Float.lean's rounding to nearest
even), the largest finite value where that overflows, which is counted; an S32 element takes the nearer bound where the sum leaves its range, which is counted. -/
def Sys2Proof.Says.ElementsAreUpdated : Prop :=
  (∀ (t : Nat) (p : Fl),
    let x := f32.decode t
    (x.isNan || p.isNan || (isInf x && isInf p && x.sign != p.sign) → tileUpdate t p = (0x7FC00000, false)) ∧
    (∀ s, (x = .inf s ∧ (isFin p = true ∨ p = .inf s)) ∨ (isFin x = true ∧ p = .inf s) →
      tileUpdate t p = (if s then 0xFF800000 else 0x7F800000, false)) ∧
    (isFin x = true → isFin p = true → ∃ v e : ℤ, (v : ℚ) * (2 : ℚ) ^ e = rat x + rat p ∧
      let r := roundInt f32 0 v e false
      tileUpdate t p = if r.2 &&& OF = 0 then (r.1, false) else (if v < 0 then 0xFF7FFFFF else 0x7F7FFFFF, true))) ∧
  (∀ (t : Nat) (g : Int), t < 2 ^ 32 →
    let v := (BitVec.ofNat 32 t).toInt + g
    tileUpdateInt t g = ((saturate 32 v).toNat, decide (v < -2 ^ 31 ∨ 2 ^ 31 ≤ v)))

/-- Patterns of the operand pairs of element (i, j), in ascending order (R103, R180, R187): A's column k with B's row k, or with a sparse B
the 32 kept values of column j with the A elements at the columns that the metadata names. -/
def Sys2Proof.Says.pairs (sp : Bool) (wa wb : Nat) (rows : List Byte) (vals mta : Nat) (i j : Nat) : List (Nat × Nat) :=
  let n := (if sp then 64 else 32) * wa / 8
  let a (k : Nat) : Nat := natOf (slice rows (n * i) n) / 2 ^ (wa * k) % 2 ^ wa
  let b (k : Nat) : Nat := vals / 2 ^ (wb * k) % 2 ^ wb
  (List.range 32).map fun r =>
    if sp then (a (4 * (r / 2) + mta / 2 ^ (64 * j + 4 * (r / 2) + 2 * (r % 2)) % 4), b (32 * j + r)) else (a r, b (32 * r + j))

/-- R103, R107, R185 and R187: one pass updates every element of a VALID tile register by its two groups in order, each element by itself, and its counter by the
saturated updates. -/
def Sys2Proof.Says.PassUpdatesEveryElement : Prop :=
  ∀ (t8 t4 : List Nat) (o : ArrOp) (rows : List Byte) (vals mta : Nat) (t : TReg), t.valid = true →
    let tr := Machine.arrayPass t8 t4 o rows vals mta t
    let (fa, fb) := Pair.fmts o.p
    let l (i j : Nat) := pairs o.sp fa.width fb.width rows vals mta i j
    let sc (h : Nat) : Fl := f32.decode (if o.unit then 0x3F800000 else o.scale.toNat / 2 ^ (32 * h) % 2 ^ 32)
    let group (g : List (Nat × Nat)) : Fl := scaled (groupSum (g.map fun p => (fa.fl t8 t4 p.1, fb.fl t8 t4 p.2))) (sc 0) (sc 1)
    let int (g : List (Nat × Nat)) : Int :=
      (g.map fun p => (BitVec.ofNat fa.width p.1).toInt * (BitVec.ofNat fb.width p.2).toInt).sum
    let up (e : Nat) (g : List (Nat × Nat)) : Nat × Bool := if Pair.isInt o.p then tileUpdateInt e (int g) else tileUpdate e (group g)
    let one (i j : Nat) : Nat × Bool := up (elem t (32 * i + j)) ((l i j).take 16)
    let two (i j : Nat) : Nat × Bool := up (one i j).1 ((l i j).drop 16)
    (∀ i < 32, ∀ j < 32, elem tr (32 * i + j) = (two i j).1 % 2 ^ 32) ∧
    tr.ovf.toNat = min 0xFFFF (t.ovf.toNat +
      ((List.range 32).map fun i => ((List.range 32).map fun j => (one i j).2.toNat + (two i j).2.toNat).sum).sum) ∧
    tr.valid = t.valid ∧ tr.dirty = t.dirty ∧ tr.s32 = t.s32 ∧ tr.inflight = t.inflight

/-- The slot of the tile. -/
def Sys2Proof.Says.slotAt (t : Tile) (k : Nat) : Slot := t.slots.toList.getD k {}

/-- R180, R181, R190 and R191: a slot write enters the slot's order and counts as issued; a clear with nothing before it takes effect at once, and so does one that
follows a write that has. Taking effect, a copy puts its bytes over the slot's values, and its metadata over the slot's where it brings them; a clear leaves
zeros. Operations of the array queue that come before it keep what the slot held. -/
def Sys2Proof.Says.SlotsTakeTheirWrites : Prop :=
  (∀ (t : Tile) (belay : Bool) (k : Nat) (w : SlotWrite), k < 128 →
    let x := slotAt t k
    let y := slotAt (t.slotWrite belay k w) k
    y.issued = x.issued + 1 ∧
    (w.clear = false ∨ x.pend ≠ [] → y.pend = x.pend ++ [w] ∧ y.applied = x.applied ∧ y.vals = x.vals ∧ y.mta = x.mta ∧ y.svalid = x.svalid) ∧
    (w.clear = true → x.pend = [] → y.pend = [] ∧ y.applied = x.applied + 1 ∧ y.vals = 0 ∧ y.mta = 0 ∧ y.svalid = false) ∧
    (∀ j < 128, j ≠ k → slotAt (t.slotWrite belay k w) j = slotAt t j) ∧ (t.slotWrite belay k w).sp = t.sp) ∧
  (∀ (t : Tile) (belay : Bool) (k : Nat) (w : SlotWrite) (r : List SlotWrite), k < 128 → (slotAt t k).pend = w :: r →
    (∀ v ∈ r.head?, v.clear = false) →
    let x := slotAt t k
    let u := t.applySlot belay k 130
    let y := slotAt u k
    y.pend = r ∧ y.issued = x.issued ∧ y.applied = x.applied + 1 ∧
    (∀ bs, w.clear = false → w.bad = false → w.data = some bs → bs.length = w.vlen + (if w.sp then 256 else 0) → w.vlen ≤ 2048 →
      y.svalid = true ∧
      (∀ i < 2048, y.vals.toNat / 2 ^ (8 * i) % 256 = if i < w.vlen then (bs.getD i 0).toNat else x.vals.toNat / 2 ^ (8 * i) % 256) ∧
      y.mta = if w.sp then .ofNat 2048 (natOf (bs.drop w.vlen)) else x.mta) ∧
    (w.clear = true ∨ w.bad = true → y.svalid = false ∧ y.vals = 0 ∧ y.mta = 0) ∧
    u.arrq.length = t.arrq.length ∧
    (∀ (i : Nat) (o : ArrOp), t.arrq[i]? = some o → ∃ q : ArrOp, u.arrq[i]? = some q ∧ q.rows = o.rows ∧ q.slot = o.slot ∧
      q.wb = if o.slot = k ∧ o.need ≤ x.applied ∧ o.wb = none then some (x.vals, x.mta) else o.wb) ∧
    (∀ j < 128, j ≠ k → slotAt u j = slotAt t j) ∧ u.sp = t.sp) ∧
  (∀ (t : Tile) (belay : Bool) (k : Nat) (w v : SlotWrite) (r : List SlotWrite), k < 128 → (slotAt t k).pend = w :: v :: r → v.clear = true →
    (∀ z ∈ r.head?, z.clear = false) →
    let y := slotAt (t.applySlot belay k 130) k
    y.pend = r ∧ y.applied = (slotAt t k).applied + 2 ∧ y.svalid = false ∧ y.vals = 0 ∧ y.mta = 0)

/-- R181, R185, R187 and R190: the array performs the operation at the head of its queue once the slot writes before it have taken effect, with the values that the slot
holds then, and the tile register has one operation less in flight; a slot write takes effect when its bytes have landed. -/
def Sys2Proof.Says.ArrayMovesOn : Prop :=
  (∀ (s : State) (vt : Nat) (t : Tile) (o : ArrOp) (r : List ArrOp), s.tile? vt = some t → t.arrq = o :: r → s.g.still vt = false →
    s.g.parks vt = false →
    let x := slotAt t o.slot
    (o.wb ≠ none ∨ o.need ≤ x.applied) → t.bad = [] → t.soft = [] → o.slotBad = false →
    let f := s.focus vt o.c
    let u : State := { f with t := { f.t with arrq := r } }
    let m := (if o.sp then 64 else 32) * (Pair.fmts o.p).1.width / 8
    let rows := o.rows.getD ((List.range 32).flatMap fun i => t.sp.read (offset (row o.aAddr o.pitch i)) m)
    let w := o.wb.getD (x.vals, x.mta)
    let tr := Machine.arrayPass t.t8 t.t4 o rows w.1.toNat w.2.toNat u.c.t[o.d]
    let v := markT u o.d { tr with inflight := tr.inflight - 1 }
    exec (.arrayPass vt) s = .next { v with m := { v.m with corrErr := v.m.corrErr + .ofNat 64 o.repaired } }) ∧
  (∀ (s : State) (vt slot : Nat) (t : Tile) (w : SlotWrite) (r : List SlotWrite), s.tile? vt = some t →
    (slotAt t slot).pend = w :: r → s.g.still vt = false → (w.data ≠ none ∨ w.clear = true) →
      exec (.wbldLanded vt slot) s = .next (s.mapTile vt fun t => t.applySlot (s.g.belay != 0) slot 130))

/-- R103 to R107, R180, R181, R185, R187, R190 and R191: the array's operations and their arithmetic, and the weight-buffer slots. -/
def Obligations.ArrayAndSlotsMoveOn : Prop :=
  ArrayMovesOn ∧ SlotsTakeTheirWrites ∧ PassUpdatesEveryElement ∧ GroupsAreSummed ∧ ElementsAreUpdated

/-! ## Stream ports and engine commands -/

/-- Units in inbound stream port `q` (R257). -/
def Sys2Proof.Says.units (s : State) (q : Nat) : List W64 := s.c.qin.toList.getD q []

/-- Port `q` after `n` units have left it. -/
def Sys2Proof.Says.dropped (s : State) (q : Nat) (n : Nat) : State := dropStream s q n

/-- The carry code of none of the next `n` units of port `q` has failed (R384). -/
def Sys2Proof.Says.UnitsSound (s : State) (q n : Nat) : Prop := ∀ x ∈ s.c.qbad, x.1 = q → n ≤ x.2

/-- R257 to R259, R288 and R384: `qget` and `vqget` take 1 or 8 units of an inbound port or wait for them, and trap UNCORR where the carry code
of one has failed; `qput` and `vqput` append to `q11`, with everything earlier performed, or wait for room. -/
def Sys2Proof.Says.StreamPortsMoveUnits : Prop :=
  (∀ (s : State) (q : Fin 16) (a : Fin 32), q.val < 4 →
    let failed := trapped s .uncorr (.ofNat 64 (0xFF20000000000000 + s.t.vt * 2 ^ 24 + 0xC00000 + 0x400 * s.c.id + 0x40 * q.val)) 5
    (Writable s a →
      (∀ x l, units s q.val = x :: l → UnitsSound s q.val 1 → exec (.qget q a) s = wrote (dropped s q.val 1) [] a x true) ∧
      (units s q.val ≠ [] → ¬ UnitsSound s q.val 1 → s.repeatable = false → exec (.qget q a) s = failed) ∧
      (units s q.val = [] → exec (.qget q a) s = blocked s (.streamIn q.val 1))) ∧
    (WritableV s a →
      (8 ≤ (units s q.val).length → UnitsSound s q.val 8 → exec (.vqget q a) s =
        wroteV (dropped s q.val 8) [] a (ofLane 64 fun i => (units s q.val).getD i 0) 0xFF) ∧
      (8 ≤ (units s q.val).length → ¬ UnitsSound s q.val 8 → s.repeatable = false → exec (.vqget q a) s = failed) ∧
      ((units s q.val).length < 8 → exec (.vqget q a) s = blocked s (.streamIn q.val 8)))) ∧
  (∀ (s : State) (a : Fin 32) (w : Bool) (x : W64), One s a x →
    (s.c.qout.length + 1 ≤ streamCap → Quiet s → exec (.qput 11 a w) s = done { s with c := { s.c with qout := s.c.qout ++ [x] } } [a]) ∧
    (streamCap < s.c.qout.length + 1 → exec (.qput 11 a w) s = blocked s (.streamOut 1))) ∧
  (∀ (s : State) (a : Fin 32) (x : W512) (v : BitVec 8), Sound s → vector s [] a = some (x, v) →
    let l := (List.range 8).map fun k => if v.getLsbD k then lane 64 x k else 0
    (s.c.qout.length + 8 ≤ streamCap → Quiet s → exec (.vqput 11 a) s = done { s with c := { s.c with qout := s.c.qout ++ l } } [a]) ∧
    (streamCap < s.c.qout.length + 8 → exec (.vqput 11 a) s = blocked s (.streamOut 8)))

/-- R258: a port index outside the word's range traps ILLEGAL with `tval2` = 3, whatever its sources hold. -/
def Sys2Proof.Says.PortIndexIsChecked : Prop :=
  ∀ (s : State) (q : Fin 16) (a b : Fin 32) (wa wb : Bool),
    let bad (i : Instr) : Prop := exec i s = trapped s .illegal (reported s i) 3
    (4 ≤ q.val → bad (.qget q a) ∧ bad (.vqget q a)) ∧
    (q.val ≠ 11 → bad (.qput q a wa) ∧ bad (.vqput q a)) ∧
    (q.val < 4 ∨ 11 ≤ q.val → bad (.ebusy q a) ∧ bad (.ecmd q a b wa wb)) ∧
    (12 ≤ q.val → bad (.qlen q a))

/-- R350: a header with FOLLOW carries the image of an MMA or MMAS word. Any other image traps ILLEGAL with it; one whose registers are valid and
whose checks pass is pushed with its operation, and its tile register has one more operation in flight. -/
def Sys2Proof.Says.FollowOnHeadersCommit : Prop :=
  ∀ (s : State) (q : Fin 16) (a b : Fin 32) (wa wb : Bool) (lo hi : W64), 4 ≤ q.val → q.val < 11 → Two s a b lo hi →
    s.t.asmOf s.c.id (q.val - 4) = none → lo.getLsbD 49 = true →
    let im := hi.toNat % 2 ^ 32
    (followImage im = none → exec (.ecmd q a b wa wb) s = trapped s .illegal (.ofNat 64 im) 1) ∧
    (∀ p sp d ra rb rc (ea sl sc : W64), followImage im = some (p, sp, d, ra, rb, rc) →
      scalar s [a, b] ra = some (ea, true) → scalar s [a, b, ra] rb = some (sl, true) → scalar s [a, b, ra, rb] rc = some (sc, true) →
      let r := s.c.t[d]
      let pitch := s.c.pitch.toNat * 16
      (r.valid = true → r.s32 ≠ p.isInt → exec (.ecmd q a b wa wb) s = trapped s .illegal r.status 0) ∧
      ((r.valid = false ∨ r.s32 = p.isInt) →
        (ea.toNat % 16 ≠ 0 → exec (.ecmd q a b wa wb) s = trapped s .misalign ea 0) ∧
        (ea.toNat % 16 = 0 → RowsOwn ea pitch 32 ((if sp then 64 else 32) * (Pair.fmts p).1.width / 8) →
          let o : ArrOp := { c := s.c.id, d := d, p := p, sp := sp, aAddr := ea, pitch := pitch, rows := none, slot := sl.toNat % 128
                             need := 0, wb := none, scale := sc, unit := rc == 0 }
          let t := pushBeat s s.c.id (q.val - 4) lo hi (some o) s.c.submitter
          let u := t.c.t[d].claim p.isInt
          (s.t.lastBeat s.c.id (q.val - 4) lo = none → exec (.ecmd q a b wa wb) s =
            done { t with c := { t.c with t := t.c.t.set d { u with inflight := u.inflight + 1 } } } [a, b, ra, rb, rc]))))

/-- R259 and R344: `qlen` and `ebusy` report, `efence` waits for the queues of its mask, and `ecmd` pushes a beat. -/
def Sys2Proof.Says.EngineWordsPushAndReport : Prop :=
  (∀ (s : State) (q : Fin 16) (a : Fin 32), Writable s a →
    (q.val < 12 → exec (.qlen q a) s = wrote s [] a (.ofNat 64 (if q.val < 4 then (units s q.val).length
      else if q.val < 11 then s.t.freeSlots (q.val - 4) else streamCap - s.c.qout.length)) true) ∧
    (4 ≤ q.val → q.val < 11 →
      exec (.ebusy q a) s = wrote s [] a (.ofNat 64 (s.t.busyMask / 2 ^ (q.val - 4) % 2)) true)) ∧
  (∀ (s : State) (lo : BitVec 5) (hi : BitVec 2),
    let m := (hi ++ lo).toNat
    exec (.efence lo hi) s = if s.t.busyMask &&& m = 0 then done s [] else blocked s (.efence m)) ∧
  (∀ (s : State) (q : Fin 16) (a b : Fin 32) (wa wb : Bool) (lo hi : W64), 4 ≤ q.val → q.val < 11 → Two s a b lo hi →
    let e := q.val - 4
    (s.t.asmOf s.c.id e ≠ none ∨ lo.getLsbD 49 = false) →
    let push := done (pushBeat s s.c.id e lo hi none s.c.submitter) [a, b]
    (s.t.lastBeat s.c.id e lo = none → exec (.ecmd q a b wa wb) s = push) ∧
    (∀ n, s.t.lastBeat s.c.id e lo = some n →
      (n ≤ s.t.freeSlots e → Quiet s → exec (.ecmd q a b wa wb) s = push) ∧
      (s.t.freeSlots e < n → exec (.ecmd q a b wa wb) s = blocked s (.engine e n))))

/-- R257 to R259, R344 and R350: the words of the stream ports and engine queues. -/
def Obligations.StreamWordsMoveUnits : Prop :=
  StreamPortsMoveUnits ∧ PortIndexIsChecked ∧ FollowOnHeadersCommit ∧ EngineWordsPushAndReport

/-! ## Work records -/

/-- The `n` registers from `x`r` up hold the payload `l`. -/
def Sys2Proof.Says.Payload (s : State) (r n : Nat) (l : List W64) : Prop :=
  l.length = n ∧ r + n ≤ 28 ∧ ∀ i < n, scalar s [] (Fin.ofNat 32 (r + i)) = some (l.getD i 0, true)

/-- Class and destination that route word `rt` names, both good (R262). -/
def Sys2Proof.Says.Routed (s : State) (rt : W64) (cls dst : Nat) : Prop :=
  cls = rt.toNat / 2 ^ 24 % 16 ∧ dst = rt.toNat % 2 ^ 24 ∧ (s.g.cls cls).decl = true ∧ s.g.has dst = true

/-- No register from `x6` to `x23`, and none of `x1`, awaits a fill. -/
def Sys2Proof.Says.RecordReady (s : State) : Prop := ∀ r : Fin 32, (6 ≤ r.val ∧ r.val < 24) ∨ r.val = 1 → s.c.x[r].tag ≠ .awaiting

/-- R262, R263, R267, R268 and R384: `wput` hands a record to the tile's NI, `ldk` reserves a record's place there and commits its load, `wwait` and `wdisp` take
the record that the dispatch event delivered, or begin to wait for one, or trap UNCORR where a carry code of it has failed (whose `tval` is the model's
choice, log 42), and `wdone` counts one record less in hand. -/
def Obligations.RecordWordsSendAndTake : Prop :=
  (∀ (s : State) (d b : Fin 32) (w : Bool) (key rt : W64) (cls dst : Nat) (l : List W64), Two s b d key rt → Routed s rt cls dst →
    Payload s 8 (s.g.cls cls).words l →
      (8 ≤ niCount s.t → exec (.wput d b w) s = blocked s .ni) ∧
      (niCount s.t < 8 → exec (.wput d b w) s = if parkRoom s.g dst (.record ⟨cls, key, l⟩) then done (niTake s dst ⟨cls, key, l⟩) [b, d]
        else blocked s (.parkFull (s.g.gangOf dst).1 (s.g.gangOf dst).2))) ∧
  (∀ (s : State) (d b : Fin 32) (w : Bool) (key rt : W64) (l : List W64), Two s b d key rt →
    let cls := rt.toNat / 2 ^ 24 % 16
    Payload s 8 (s.g.cls cls).words l →
      ((s.g.cls cls).decl = false → exec (.wput d b w) s = trapped s .access rt 2) ∧
      ((s.g.cls cls).decl = true → s.g.has (rt.toNat % 2 ^ 24) = false → exec (.wput d b w) s = trapped s .access rt 1)) ∧
  (∀ z ∈ sizes, ∀ (s s' : State) (d a b : Fin 32) (wa wb : Bool) (ea key rt : W64) (cls dst : Nat) (l : List W64) (ps : List Piece),
    Two s a b ea key → scalar s [a, b] d = some (rt, true) → Routed s rt cls dst → (s.g.cls cls).words ≠ 0 →
    Payload s 9 ((s.g.cls cls).words - 1) l → Starts s ea z.2 z.2 .load .load s' ps →
      (8 ≤ niCount s'.t → exec (.ldk z.1 d a b wa wb) s = blocked s' .ni) ∧
      (niCount s'.t < 8 → parkRoom s'.g dst (.record ⟨cls, key, 0 :: l⟩) = true → exec (.ldk z.1 d a b wa wb) s = done (niReserve
        (committed s' { kind := .ldk s'.t.niNext, va := ea, size := z.2, pieces := ps }) ea dst ⟨cls, key, 0 :: l⟩) [a, b, d])) ∧
  (∀ (s : State), RecordReady s →
    let await := .next (blockAt { s with t := { s.t with
      recWait := if s.t.recWait.contains s.c.id then s.t.recWait else s.t.recWait ++ [s.c.id] } } .record)
    (s.c.recv = none → exec .wwait s = await ∧ exec .wdisp s = await) ∧
    (s.c.recv ≠ none → s.c.recvBad = true → s.repeatable = false → ∀ i ∈ [Instr.wwait, .wdisp],
      exec i s = trapped s .uncorr (.ofNat 64 (0xFF20000000C10000 + s.t.vt * 2 ^ 24)) 5) ∧
    (∀ cls key l m, s.c.recv = some (cls, key, l, m) → s.c.recvBad = false →
      exec .wwait s = done (takeRecord s key m l) [] ∧
      exec .wdisp s = jumped (writeX (takeRecord s key m l) 1 (link s) true) [] (s.g.cls cls).handler)) ∧
  (∀ s : State, exec .wdone s = done { s with t := { s.t with inhand := if s.t.inhand = 0 then 0 else s.t.inhand - 1 } } []) ∧
  (∀ (s : State) (key m : W64) (l : List W64), l.length ≤ 16 →
    let t := takeRecord s key m l
    t.c.recv = none ∧ t.c.recvBad = false ∧ t.t.inhand = (if s.t.inhand = 0xFFFF then 0xFFFF else s.t.inhand + 1) ∧
    t.c.x[(6 : Fin 32)] = ⟨m, .full, true⟩ ∧ t.c.x[(7 : Fin 32)] = ⟨key, .full, true⟩ ∧
    (∀ i < l.length, t.c.x[Fin.ofNat 32 (8 + i)] = ⟨l.getD i 0, .full, true⟩) ∧
    (∀ r : Fin 32, r.val < 6 ∨ 8 + l.length ≤ r.val → t.c.x[r] = s.c.x[r]) ∧ t.m = s.m)

/-! ## Helper cores -/

/-- The instruction of the helper core in focus has retired in `s` and `pc` is next (R379 ends a single step). -/
def Sys2Proof.Says.hDone (s : State) (pc : W64) : Out3 := .next (hStep (hRetire s pc))

/-- It has written `v` to `rd` and the next word follows. -/
def Sys2Proof.Says.hWrote (s : State) (rd : Fin 32) (v : W64) : Out3 := let t := putR s rd v; hDone t (t.helper.pc + 4)

/-- The core waits at the instruction (R342). -/
def Sys2Proof.Says.hWaits (s : State) : Out3 := .next (hStep (s.setHelper { s.helper with waiting := true }))

/-- It has taken an exception (R338, R340). -/
def Sys2Proof.Says.hTrapped (s : State) (code : Nat) (tval : W64) : Out3 := .next (hStep (hTrap s false code tval))

/-- Nothing that the core has stored has to be waited for (R288, R295). -/
def Sys2Proof.Says.HQuiet (s : State) : Prop :=
  s.helper.posted = [] ∧ s.storesOf s.t.vt s.hrole = [] ∧ s.t.gatesGlob s.hrole = false

/-- Every store of the core that is under way is one that an agent outside scope `sc`, which the schedule names, accesses: a release does not order
it (R289, log 7). -/
def Sys2Proof.Says.HFree (s : State) (sc : Nat) : Prop :=
  s.helper.posted = [] ∧ ∃ x, hAway s sc = some x ∧ ∀ m ∈ s.storesOf s.t.vt s.hrole,
    s.accessing x (m.body.writes.map fun w => ⟨.tile m.dst w.1, w.2.length, 0⟩) = true

/-- A release of scope `sc` by the core has a store under way to wait for, and its tile gates nothing (R288). -/
def Sys2Proof.Says.HHeld (s : State) (sc : Nat) : Prop :=
  hAway s sc = none ∧ s.helper.posted = [] ∧ s.storesOf s.t.vt s.hrole ≠ [] ∧ s.t.lash.gated = []

/-- R341, R342 and R288: `dk.qput` appends x[rs1] to an inbound port of a context, as a release at tile scope, and waits while the port holds 128
units; `dk.qget` takes the first unit of q11 and waits while there is none. -/
def Sys2Proof.Says.HelperStreamWords : Prop :=
  ∀ (s : State) (c : Fin 4) (x : Ctx), s.ctx? s.t.vt c.val = some x →
    (∀ (p : Fin 4) (r : Fin 32),
      ((x.qin[p]).length < streamCap → HQuiet s ∨ HFree s 1 →
        let t := s.mapCtx s.t.vt c.val fun x => { x with qin := x.qin.set p (x.qin[p] ++ [s.helper.get r]) }
        exec (.dkQput c p r) s = hDone t (t.helper.pc + 4)) ∧
      (streamCap ≤ (x.qin[p]).length ∨ HHeld s 1 → exec (.dkQput c p r) s = hWaits s)) ∧
    (∀ rd : Fin 32, ∀ v l, x.qout = v :: l →
      exec (.dkQget c rd) s = hWrote (s.mapCtx s.t.vt c.val fun x => { x with qout := x.qout.drop 1 }) rd v) ∧
    (∀ rd : Fin 32, x.qout = [] → exec (.dkQget c rd) s = hWaits s)

/-- R341 to R343: `dk.wcnt` waits for its counter, `dk.sev` sets the events of the tile, `dk.wfe` waits for one, `dk.wfe.watch` sets the watched line
or takes the load access fault outside the own scratchpad, and `dk.rdst` reads a status word. -/
def Sys2Proof.Says.HelperEventWords : Prop :=
  (∀ (s : State) (n : Fin 7) (r rd : Fin 32), exec (.dkWcnt n r rd) s =
    if (s.helper.get r).toNat ≤ (s.helper.cnt[n]).toNat then hWrote s rd s.helper.cnt[n] else hWaits s) ∧
  (∀ s : State, exec .dkSev s = hDone (setEvents s) ((setEvents s).helper.pc + 4) ∧
    exec .dkWfe s = if s.helper.evt then hDone (s.setHelper { s.helper with evt := false }) (s.helper.pc + 4) else hWaits s) ∧
  (∀ (s : State) (r : Fin 32), exec (.dkWfeWatch r) s =
    if isOwn (s.helper.get r) then
      hDone (s.setHelper { s.helper with watch := some (offset (s.helper.get r) / 64) }) (s.helper.pc + 4)
    else hTrapped s 5 (s.helper.get r)) ∧
  (∀ (s : State) (n : RdSel) (rd : Fin 32), exec (.dkRdst n rd) s = hWrote s rd (.ofNat 64 (statusWordOf s n)))

/-- R341, R294 and R344: `dk.ecmd` pushes a beat. Before the last one of a command it waits for the command's free slots, and where the header has REL for the
core's earlier stores. -/
def Sys2Proof.Says.HelperCommandsArePushed : Prop :=
  ∀ (s : State) (q : Fin 7) (r1 r2 : Fin 32),
    let lo := s.helper.get r1
    let t := pushBeat s s.hrole q.val lo (s.helper.get r2) none (hSubmitter s)
    let push := hDone t (t.helper.pc + 4)
    let rel := s.t.hdrOf s.hrole q.val lo / 2 ^ 48 % 2 = 1
    (s.t.lastBeat s.hrole q.val lo = none → exec (.dkEcmd q r1 r2) s = push) ∧
    (∀ n, s.t.lastBeat s.hrole q.val lo = some n →
      (s.t.freeSlots q.val < n → exec (.dkEcmd q r1 r2) s = hWaits s) ∧
      (n ≤ s.t.freeSlots q.val → ¬ rel ∨ HQuiet s ∨ HFree s 7 → exec (.dkEcmd q r1 r2) s = push) ∧
      (n ≤ s.t.freeSlots q.val → rel → HHeld s 7 → exec (.dkEcmd q r1 r2) s = hWaits s))

/-- Bytes `n` at `a` of the core's data store (R338) or of the own scratchpad, which nothing on its way touches. -/
def Sys2Proof.Says.ImageAt (s : State) (a : W64) (n : Nat) (l : List Byte) : Prop :=
  (0xFFF1000000000000 ≤ a.toNat ∧ a.toNat + n ≤ 0xFFF1000000004000 ∧ l = s.helper.dstore.read (a.toNat - 0xFFF1000000000000) n) ∨
  (Own a n ∧ HQuiet s ∧ s.msgsOf s.t.vt s.hrole = [] ∧ l = s.t.sp.read (offset a) n)

/-- R341, R248 and R262: `dk.wput` hands the record at x[rs2] to the NI, or waits while the NI or the parked queue of an absent gang is full. An undeclared
class and a destination outside the grid take the store access fault; an image that is misaligned or not in those memories takes the load access fault. -/
def Sys2Proof.Says.HelperRecordsAreSent : Prop :=
  ∀ (s : State) (r1 r2 : Fin 32), s.t.bad = [] → s.t.soft = [] →
    let rt := s.helper.get r1
    let a := s.helper.get r2
    (((s.g.cls (rt.toNat / 2 ^ 24 % 16)).decl = false ∨ s.g.has (rt.toNat % 2 ^ 24) = false) → exec (.dkWput r1 r2) s = hTrapped s 7 rt) ∧
    (∀ (cls dst : Nat), Routed s rt cls dst →
      let n := 8 * ((s.g.cls cls).words + 1)
      (a.toNat % 8 ≠ 0 ∨ (¬ Own a n ∧ ¬ (0xFFF1000000000000 ≤ a.toNat ∧ a.toNat + n ≤ 0xFFF1000000004000)) →
        exec (.dkWput r1 r2) s = hTrapped s 5 a) ∧
      (∀ bs, a.toNat % 8 = 0 → ImageAt s a n bs →
        let l := bytesUnits bs
        let r : Rec := ⟨cls, l.headD 0, l.drop 1⟩
        let t := asBefore (niTake (asSender s) dst r) s.c
        exec (.dkWput r1 r2) s =
          if niCount s.t < 8 ∧ parkRoom s.g dst (.record r) = true then hDone t (t.helper.pc + 4) else hWaits s))

/-- R339 and R340: `ecall` with a7 = 0 in U mode stops the core: the word is counted, its partly assembled commands and its fault records are dropped and counted.
Any other `ecall` is an exception of the standard's code (8 in U mode, 11 in M mode; PRESUMED, log 11). -/
def Sys2Proof.Says.EcallStopsTheCore : Prop :=
  ∀ s : State,
    (s.helper.mmode = true → exec .ecall s = hTrapped s 11 0) ∧
    (s.helper.mmode = false → s.helper.x[(17 : Fin 32)] ≠ 0 → exec .ecall s = hTrapped s 8 0) ∧
    (s.helper.mmode = false → s.helper.x[(17 : Fin 32)] = 0 → s.helper.posted = [] → ∃ t, exec .ecall s = .next t ∧
      t.helper.stopped = true ∧ t.helper.waiting = false ∧ t.helper.frecs = [] ∧ t.helper.retired = s.helper.retired + 1 ∧
      t.helper.x = s.helper.x ∧ t.helper.dstore = s.helper.dstore ∧
      t.t.asm = s.t.asm.filter (fun a => a.agent != s.hrole) ∧
      t.g.cmdDrop = s.g.cmdDrop + (s.t.asm.filter fun a => a.agent == s.hrole).length ∧
      t.g.recDrop = s.g.recDrop + s.helper.frecs.length ∧ t.c = s.c ∧ t.m = s.m ∧ t.tiles = s.tiles)

/-- R339 and R341 to R343: the Xdk words of a helper core do what their rows say, or wait or take an exception where a row says so, and `ecall` with a7 = 0 in
U mode stops the core. -/
def Obligations.HelperWordsActOnTheTile : Prop :=
  HelperStreamWords ∧ HelperEventWords ∧ HelperCommandsArePushed ∧ HelperRecordsAreSent ∧ EcallStopsTheCore

/-- The RISC-V words of an I, R, S or U format, from their fields (the standard's layouts, PRESUMED, log 11). -/
def Sys2Proof.Says.iWord (op f3 : Nat) (rd r1 : Fin 32) (im : BitVec 12) : W32 :=
  .ofNat 32 (op + rd.val * 2 ^ 7 + f3 * 2 ^ 12 + r1.val * 2 ^ 15 + im.toNat * 2 ^ 20)
def Sys2Proof.Says.rWord (f7 f3 : Nat) (rd r1 r2 : Fin 32) : W32 :=
  .ofNat 32 (0x33 + rd.val * 2 ^ 7 + f3 * 2 ^ 12 + r1.val * 2 ^ 15 + r2.val * 2 ^ 20 + f7 * 2 ^ 25)

def Sys2Proof.Says.sWord (op f3 : Nat) (r1 r2 : Fin 32) (im : BitVec 12) : W32 :=
  .ofNat 32 (op + im.toNat % 32 * 2 ^ 7 + f3 * 2 ^ 12 + r1.val * 2 ^ 15 + r2.val * 2 ^ 20 + im.toNat / 32 * 2 ^ 25)

/-- OP of RV64I and M: funct7, funct3 and the result (PRESUMED, log 11). -/
def Sys2Proof.Says.opTable : List (Nat × Nat × (W64 → W64 → W64)) :=
  [ (0, 0, fun x y => x + y), (0x20, 0, fun x y => x - y), (0, 1, fun x y => x <<< (y.toNat % 64)),
    (0, 2, fun x y => if x.slt y then 1 else 0), (0, 3, fun x y => if x.ult y then 1 else 0), (0, 4, fun x y => x ^^^ y),
    (0, 5, fun x y => x >>> (y.toNat % 64)), (0x20, 5, fun x y => x.sshiftRight (y.toNat % 64)), (0, 6, fun x y => x ||| y),
    (0, 7, fun x y => x &&& y), (1, 0, fun x y => x * y),
    (1, 4, fun x y => if y = 0 then BitVec.allOnes 64 else x.sdiv y), (1, 5, fun x y => if y = 0 then BitVec.allOnes 64 else x.udiv y),
    (1, 6, fun x y => if y = 0 then x else x.srem y), (1, 7, fun x y => if y = 0 then x else x.umod y) ]

/-- The base instructions of a helper core (R337; what the standard says of them is the model's, log 11): register and immediate arithmetic write
their result, `x0` discards it, and a load and a store of the data store of R338 move its bytes; any instruction moves to the next word. A word
that is no instruction takes the illegal-instruction exception into M mode at `mtvec`. -/
def Obligations.HelperBaseInstructions : Prop :=
  (∀ p ∈ opTable, ∀ (s : State) (rd r1 r2 : Fin 32), exec (.rv64imInstruction (rWord p.1 p.2.1 rd r1 r2)) s =
    hWrote s rd (p.2.2 (s.helper.get r1) (s.helper.get r2))) ∧
  (∀ (s : State) (rd r1 : Fin 32) (im : BitVec 12),
    exec (.rv64imInstruction (iWord 0x13 0 rd r1 im)) s = hWrote s rd (s.helper.get r1 + im.signExtend 64)) ∧
  (∀ (s : State) (rd r1 : Fin 32) (im : BitVec 12), s.t.bad = [] → s.t.soft = [] →
    let a := s.helper.get r1 + im.signExtend 64
    a.toNat % 8 = 0 → 0xFFF1000000000000 ≤ a.toNat → a.toNat < 0xFFF1000000004000 →
      exec (.rv64imInstruction (iWord 0x03 3 rd r1 im)) s =
        hWrote s rd (.ofNat 64 (natOf (s.helper.dstore.read (a.toNat - 0xFFF1000000000000) 8)))) ∧
  (∀ (s : State) (r1 r2 : Fin 32) (im : BitVec 12), s.t.bad = [] → s.t.soft = [] →
    let a := s.helper.get r1 + im.signExtend 64
    let bs := bytesLe 8 (s.helper.get r2).toNat
    a.toNat % 8 = 0 → 0xFFF1000000000000 ≤ a.toNat → a.toNat < 0xFFF1000000004000 →
      exec (.rv64imInstruction (sWord 0x23 3 r1 r2 im)) s =
        let t := absorbOut (s.setHelper { s.helper with dstore := s.helper.dstore.write (a.toNat - 0xFFF1000000000000) bs }) a.toNat bs
        hDone t (t.helper.pc + 4)) ∧
  (∀ s : State, ∃ t, exec (.rv64imInstruction 0) s = .next t ∧ t.helper.mmode = true ∧ t.helper.csr.mepc = s.helper.pc ∧
    t.helper.csr.mcause = 2 ∧ t.helper.pc = s.helper.csr.mtvec &&& ~~~3 ∧ t.helper.x = s.helper.x ∧ t.helper.retired = s.helper.retired) ∧
  (∀ s : State, s.helper.dbg.brkHalt = false → ∃ t, exec .ebreak s = .next t ∧ t.helper.mmode = true ∧
    t.helper.csr.mepc = s.helper.pc ∧ t.helper.csr.mcause = 3) ∧
  (∀ s : State, s.helper.dbg.brkHalt = true → exec .ebreak s = .next (hFreeze s true)) ∧
  (∀ (s : State) (r : Fin 32) (v : W64), (putR s 0 v = s) ∧ (r ≠ 0 → (putR s r v).helper.get r = v))

/-! ## Events of a tile core -/

/-- Access `k` of context `c` of tile `vt` has been performed, and so has everything before it that touches its bytes (R285). -/
def Sys2Proof.Says.Landing (s : State) (vt c k : Nat) (a : Access) : Prop :=
  (s.ctx? vt c).isSome = true ∧ s.g.still vt = false ∧ (s.focus vt c).c.accs[k]? = some a ∧ a.kind.isWbld = false ∧
    a.reissue = false ∧ a.performed = true ∧
    ((s.focus vt c).c.accs.take k).any (fun b => !b.performed && anyOverlap b.pieces a.pieces) = false

/-- The state with that context in focus and access `k` gone from its list. -/
def Sys2Proof.Says.landed (s : State) (vt c k : Nat) : State :=
  { s.focus vt c with c := { (s.focus vt c).c with accs := dropNth (s.focus vt c).c.accs k } }

/-- A number of `n` bytes, sign-extended or not. -/
def Sys2Proof.Says.extended (sg : Bool) (n x : Nat) : W64 := if sg then (BitVec.ofNat (8 * n) x).signExtend 64 else (BitVec.ofNat (8 * n) x).setWidth 64

/-- Codes of the registers that an access of the kind fills (R362): `x` from 0, `v` from 32, `h` from 64. -/
def Sys2Proof.Says.filled : AccKind → List Nat
  | .load d _ => [d.val] | .loadQ d => [d.val, d.val + 1] | .vload d => [32 + d.val] | .vbcast d => [32 + d.val] | .hload d => [64 + d.val]
  | .amo d _ _ _ => [d.val] | .casD d _ _ => [d.val] | .casQ d _ _ => [d.val, d.val + 1] | .ldk _ => [] | .wbld _ _ => []

/-- The register with that code is empty, and no fill is to come. -/
def Sys2Proof.Says.emptied (s : State) (code : Nat) : State :=
  if code < 32 then emptyX s (Fin.ofNat 32 code) .cleared
  else if code < 64 then emptyV s (Fin.ofNat 32 (code - 32)) .cleared
  else emptyH s (Fin.ofNat 8 (code - 64)) .cleared

/-- R15, R17, R19, R132, R155, R159, R206, R263, R298, R299, R364 and R384: a fill writes its destination with the loaded value, which makes it full and, unless
a CAS has failed, valid; `x0` and a register that a window write has taken keep their contents. Data that failed, its carry codes among the causes, leaves the other
destinations empty, sends no record, and raises the deferred fault, with the lowest of them as DREG. -/
def Obligations.FillsLand : Prop :=
  ∀ (s : State) (vt c k : Nat) (a : Access), Landing s vt c k a →
    let u := landed s vt c k
    let back (t : State) : Out3 := .next (t.focus s.t.vt s.c.id)
    let live := (filled a.kind).filter fun r => r != 0 && !a.cancelled.contains r
    let put (t : State) (r : Nat) (x : W64) (v : Bool) : State := if r ∈ live then writeX t (Fin.ofNat 32 r) x v else t
    let failed (f : DFault) : Out3 :=
      let t := match a.kind with
        | .ldk i => { u with t := { u.t with ni := u.t.ni.filter fun n => !(n.id == i && n.ldk) } }
        | _ => u
      back (raiseDeferred (live.foldl emptied t) { f with tval2 := f.tval2 + .ofNat 64 (256 * live.headD 0) })
    (∀ bs, a.fault = none → a.data = some bs → a.code = [] ∨ a.code = carryCodes (a.va.toNat % 64) bs →
      let x := natOf bs
      let lo : W64 := .ofNat 64 (natOf (bs.take 8))
      let hi : W64 := .ofNat 64 (natOf (bs.drop 8))
      (∀ d sg, a.kind = .load d sg → exec (.fillLand vt c k) s = back (put u d.val (extended sg a.size x) true)) ∧
      (∀ d, a.kind = .loadQ d → exec (.fillLand vt c k) s = back (put (put u d.val lo true) (d.val + 1) hi true)) ∧
      (∀ d, a.kind = .vload d →
        exec (.fillLand vt c k) s = back (if live = [] then u else writeV u d (.ofNat 512 x) 0xFF)) ∧
      (∀ d, a.kind = .vbcast d → exec (.fillLand vt c k) s =
        back (if live = [] then u else writeV u d (.ofNat 512 (ofLanes (8 * a.size) (List.replicate (64 / a.size) x))) 0xFF)) ∧
      (∀ d, a.kind = .hload d → exec (.fillLand vt c k) s = back (if live = [] then u else writeH u d (.ofNat 8192 x))) ∧
      (∀ d op b w, a.kind = .amo d op b w →
        exec (.fillLand vt c k) s = back (put u d.val (extended (!w && op != .fadd) a.size x) true)) ∧
      (∀ d e n, a.kind = .casD d e n → exec (.fillLand vt c k) s = back (put u d.val (.ofNat 64 x) a.ok)) ∧
      (∀ d e n, a.kind = .casQ d e n → exec (.fillLand vt c k) s = back (put (put u d.val lo a.ok) (d.val + 1) hi a.ok)) ∧
      (∀ i, a.kind = .ldk i → exec (.fillLand vt c k) s = back { u with t := { u.t with ni := u.t.ni.map fun n =>
        if n.id = i ∧ n.ldk then { n with loaded := true, r := { n.r with payload := setNth n.r.payload 0 (.ofNat 64 x) } } else n } })) ∧
    (∀ bs, a.fault = none → a.data = some bs → a.code ≠ [] → a.code ≠ carryCodes (a.va.toNat % 64) bs →
      exec (.fillLand vt c k) s = failed ⟨.uncorr, a.va, 0x15⟩) ∧
    (∀ f, a.fault = some f → exec (.fillLand vt c k) s = failed f)

/-- The state in which context `c` of tile `vt`, whose turn it is, is in focus as the running one (R231). -/
def Sys2Proof.Says.atTurn (s : State) (vt c : Nat) : State := switchTo (s.focus vt c) c

/-- Priority of the interrupts, by bit of `ip` (R34). -/
def Sys2Proof.Says.irqOrder : List (Nat × Cause) := [(4, .debug), (0, .preempt), (3, .engine), (1, .timer), (2, .soft)]

/-- R34, R364 and R144: the context whose turn it is takes a pending deferred fault first, also between the words of a pair, and otherwise, at a boundary,
the first of its pending and enabled interrupts. One that stands at a completed barrier or a delivered record goes on before (R365). -/
def Sys2Proof.Says.InterruptsAndFaultsEnter : Prop :=
  ∀ (s : State) (vt c : Nat) (t : Tile), s.tile? vt = some t → nextTurn s t = some c →
    let u := atTurn s vt c
    u.c.dbg.halted = false → u.c.released u u.t = false → u.c.run ≠ .frozen → dueDenial u = none →
      (∀ d r, u.c.dfaults = d :: r →
        exec (.deferredFault vt c) s = .next (trapWord { u with c := { u.c with dfaults := r } } d.cause d.tval d.tval2)) ∧
      (u.c.dfaults = [] → u.heldBack vt = false → u.c.atBoundary = true → u.c.run ≠ .blocked .wfi →
        (u.c.status.mode = true → u.c.status.ie = true) →
        ∀ z, (irqOrder.find? fun p => (u.c.ip u.time &&& u.c.ie).getLsbD p.1) = some z →
          exec (.interruptEntry vt c) s = .next (enterIrq u z.2))

/-- R34, R361 and R369: what an interrupt saves, where nothing is logged; one that takes PREEMPT freezes at its handler. -/
def Sys2Proof.Says.InterruptEntrySaves : Prop :=
  ∀ (s : State), s.g.rr ≠ 1 →
    enterIrq s .timer = trapEntry s .timer (.ofNat 64 s.time) 0 ∧ enterIrq s .engine = trapEntry s .engine (efaultWord s.c.frecs) 0 ∧
    enterIrq s .soft = trapEntry s .soft 0 0 ∧
    enterIrq s .debug = trapEntry { s with c := { s.c with ipDebug := false } } .debug s.c.dbg.msg 0 ∧
    (enterIrq s .preempt).c.run = .frozen ∧ (enterIrq s .preempt).c.epc = s.c.pc ∧ (enterIrq s .preempt).c.pc = s.c.tvec ∧
    ∃ k, enterIrq s .preempt =
      let t := trapEntry s .preempt 0 0
      atSwitch { t with c := { t.c with run := .frozen, kept := k } }

/-- R31, R232 and R378: the end of a turn, which no cycle counts towards while the debugger holds a role, and the timer. -/
def Sys2Proof.Says.TurnsAndTimers : Prop :=
  (∀ (s : State) (vt : Nat) (t : Tile) (c : Ctx), s.tile? vt = some t → s.ctx? vt t.cur = some c → t.switch = false → s.frozenRole = false → c.runcap ≠ 0 →
    c.runcap.toNat ≤ c.turn → c.atBoundary = true → s.heldBack vt = false → (readyIds s t).any (· != c.id) = true →
      exec (.runcapExpiry vt) s = .next (s.mapTile vt fun t => { t with switch := true })) ∧
  (∀ (s : State) (vt c : Nat) (x : Ctx), s.ctx? vt c = some x → x.tmatch.toNat ≤ s.time →
    exec (.timerMatch vt c) s = .next s ∧ (x.ip s.time).getLsbD 1 = true)

/-- R97, R232, R239, R357, R386 and R393: the writes of special registers that act as events: `runcap` restarts the count, `memb` may open a held
generation, `dtstat` loads a decode table, `efault` drops its first record, and `lashcfg` and `belaycfg` clear their counts. -/
def Sys2Proof.Says.RegisterEventsAct : Prop :=
  (∀ (s : State) (vt c : Nat) (v : W64), (s.ctx? vt c).isSome = true →
    exec (.runcapWrite vt c v) s = .next (s.mapCtx vt c fun x => { x with runcap := v.setWidth 32, turn := 0 }) ∧
    exec (.membWrite vt c v) s = .next ((writeMemb (s.focus vt c) v).focus s.t.vt s.c.id) ∧
    ((writeMemb s v).c.mTile = v.getLsbD 1 ∧ (writeMemb s v).c.mGang = v.getLsbD 3 ∧ (writeMemb s v).c.mGrid = v.getLsbD 4 ∧
      (writeMemb s v).c.mDom = v.getLsbD 6)) ∧
  (∀ (s : State) (vt : Nat) (t : Tile) (o : BitVec 21), s.tile? vt = some t → o.toNat % 4 = 0 → t.bad = [] →
    let entry (t : Tile) (i : Nat) : BitVec 19 := .ofNat 19 (natOf (t.sp.read (o.toNat + 4 * i) 4))
    (t.tableBusy true false = false → o.toNat + 1024 ≤ 0x200000 → exec (.tableLoadT8 vt o) s = .next (s.mapTile vt fun t =>
      { t with tab8 := Vector.ofFn fun (i : Fin 256) => entry t i.val, toff := o })) ∧
    (t.tableBusy false true = false → o.toNat + 64 ≤ 0x200000 → exec (.tableLoadT4 vt o) s = .next (s.mapTile vt fun t =>
      { t with tab4 := Vector.ofFn fun (i : Fin 16) => entry t i.val, toff := o }))) ∧
  (∀ (s : State) (vt r : Nat) (c : Ctx) (f : FaultRec) (fs : List FaultRec), r < 4 → s.ctx? vt r = some c → c.frecs = f :: fs →
    exec (.engineFaultDrop vt r) s =
      .next ((s.mapCtx vt r fun x => { x with frecs := x.frecs.drop 1 }).mapTile vt fun t => t.resume [f])) ∧
  (∀ (s : State) (vt : Nat) (t : Tile) (f : FaultRec) (fs : List FaultRec), s.tile? vt = some t →
    (t.ldr.frecs = f :: fs → exec (.engineFaultDrop vt 4) s =
      .next (s.mapTile vt fun t => { t.resume (t.ldr.frecs.take 1) with ldr := { t.ldr with frecs := t.ldr.frecs.drop 1 } })) ∧
    (t.str.frecs = f :: fs → exec (.engineFaultDrop vt 5) s =
      .next (s.mapTile vt fun t => { t.resume (t.str.frecs.take 1) with str := { t.str with frecs := t.str.frecs.drop 1 } }))) ∧
  (∀ (s : State) (vt : Nat), (s.tile? vt).isSome = true →
    exec (.lashcfgWrite vt) s = .next (s.mapTile vt fun t => { t with lash := { t.lash with disag := 0, early := 0 } }) ∧
    exec (.belaycfgWrite vt) s = .next (s.mapTile vt fun t => { t with belay := { t.belay with rollbk := 0 } }))

/-- R31 to R34, R97, R144, R232, R239, R357, R361, R364, R386 and R393: deferred faults, interrupts, the timer, the end of a turn, and the register
writes that act as events. -/
def Obligations.CoreEventsHappen : Prop := InterruptsAndFaultsEnter ∧ InterruptEntrySaves ∧ TurnsAndTimers ∧ RegisterEventsAct

/-! ## Messages -/

/-- Nothing of the tile is held for replay, its messages are delivered, and nothing is logged. -/
def Sys2Proof.Says.Open (s : State) (vt : Nat) : Prop := s.heldBack vt = false ∧ s.g.parks vt = false ∧ s.g.rr ≠ 1

/-- R234, R247, R248, R285, R314, R318, R319, R375, R376 and R384: a message that may arrive does what it carries at its tile: a port entry joins the back of its
direction queue, a window store writes its bytes, units join the back of their stream, a window load reads, all at once or one part at a time (R313); one for an absent gang joins the gang's parked queue.
What fails its carry code is marked where it lands. -/
def Obligations.MessagesArrive : Prop :=
  (∀ (s s1 : State) (k : Nat) (m : Msg), takeMsg s k = some (m, s1) → Open s m.dst →
    (∀ c (dir : Fin 4) e s2 x, m.body = .port c dir e → (before s m).any (·.samePort m) = false →
      (if s.g.gangs.any (·.parked.contains m) then some s1 else released s1 m) = some s2 → s2.ctx? m.dst c = some x →
      x.inq[dir].length < 16 → s2.g.rr ≠ 1 →
        exec (.portEntryArrival k) s = .next ((s2.mapCtx m.dst c fun x =>
          { x with inq := x.inq.set dir (x.inq[dir] ++ [if m.sound then e else .bad e.isVec]) }).mapTile m.dst (·.keepMsg m))) ∧
    (∀ o bs, m.body = .store o bs → winBusy s m.dst o bs.length = false → s1.g.rr ≠ 1 →
      (before s m).any (·.touches [⟨.tile m.dst o, bs.length, 0⟩]) = false →
        let t := winWrite s1 m.dst o bs
        exec (.windowStoreArrival k) s = .next (if m.sound then t else carryBad m.src m.dst t (o, bs))) ∧
    (∀ c q us x, m.body = .stream c q us → (before s m).any (·.sameStream m) = false → s1.ctx? m.dst c = some x →
      (x.stream q).length + us.length ≤ 128 →
        let failed := if m.sound then [] else (List.range us.length).map fun k => (q, (x.stream q).length + k)
        exec (.streamWindowWrite k) s =
          .next ((s1.mapCtx m.dst c fun x => { x.setStream q (x.stream q ++ us) with
            qbad := x.qbad ++ failed }).mapTile m.dst (·.keepMsg m)))) ∧
  (∀ (s : State) (src vt o : Nat) (bs : List Byte) (t : Tile), s.tile? vt = some t → bs ≠ [] → o + bs.length ≤ 0x200000 →
    let u := carryBad src vt s (o, bs)
    u.m = s.m.logErr errCarry (.ofNat 64 src) ∧ ∃ t', u.tile? vt = some t' ∧
      ∀ y, y ∈ t'.bad ↔ y ∈ t.bad ∨ (y.1 = srcSp ∧ 8 * y.2 < o + bs.length ∧ o < 8 * y.2 + 8)) ∧
  (∀ (s : State) (vt c k : Nat) (t : Tile) (x : Ctx) (a : Access), s.tile? vt = some t → t.lash.role = 0 → s.ctx? vt c = some x →
    x.accs[k]? = some a → k < 16 → storesAhead s vt c a = false → a.performed = false → a.reissue = false → a.pieces ≠ [] → s.g.still vt = false →
    (∀ p ∈ a.pieces, ∃ u o, p.place = .tile u o) → a.absent s = false → lashInbound s vt a.pieces = none →
    (x.accs.take k).any (fun b => !b.performed && anyOverlap a.pieces b.pieces) = false → a.agreed = false →
      let read (p : State × Access) : Out3 := .next ((noteReply p.1 vt c p.2).mapCtx vt c fun x => { x with accs := setNth x.accs k p.2 })
      exec (.windowLoadArrival vt c k) s = read (perform s vt a) ∧
      ∀ j, exec (.windowLoadArrival vt c (k + 16 * (j + 1))) s = read (performPart s vt a j)) ∧
  (∀ (s : State) (vt j : Nat) (a : Access) (p : Piece), a.pieces[j]? = some p → pieceFault s p = none → a.got.any (·.1 == j) = false →
    let q := performPart s vt a j
    q.1 = correctPiece s p ∧ q.2.got = a.got ++ [(j, readPiece (correctPiece s p) (((correctPiece s p).tile? vt).getD {}) p)] ∧
      (q.2.got.length < a.pieces.length → q.2.data = a.data)) ∧
  (∀ (s : State) (k : Nat) (m : Msg), s.g.mesh[k]? = some m → s.g.parks m.dst = true → parkOrder s m = false →
    let s1 : State := { s with g := { s.g with mesh := dropNth s.g.mesh k } }
    let parked (t : State) : State := { t with g := { t.g with gangs := t.g.gangs.map fun x =>
      if x.gr = (t.g.gangOf m.dst).1 ∧ x.gc = (t.g.gangOf m.dst).2 then x.park t.m.cycle m else x } }
    ((∀ c d e, m.body ≠ .port c d e) → exec (.parkedMessage k) s = .next (parked s1)) ∧
    (∀ c d e s2, m.body = .port c d e → released s1 m = some s2 → exec (.parkedMessage k) s = .next (parked s2))) ∧
  (∀ (s s1 : State) (k vt : Nat) (t : Tile) (n : NiRec), s.g.mesh.length ≤ k → (niHeads s)[k - s.g.mesh.length]? = some (vt, n) →
    s.tile? vt = some t → s.g.parks n.dst = true → n.loaded = true → niFirst t n = true → parkOrder s (n.msg vt) = false →
    parkRoom s.g n.dst (.record n.r) = true → released s (n.msg vt) = some s1 →
      exec (.parkedMessage k) s = .next (parkMsg (dropNi s1 vt n.id) (n.msg vt))) ∧
  (∀ (x : Gang) (cy : Nat) (m : Msg), (x.park cy m).parked = x.parked ++ [m] ∧
    (x.resident = true ∨ x.faulted = true → x.park cy m = { x with parked := x.parked ++ [m] }) ∧
    (x.resident = false → x.faulted = false → (x.park cy m).summon = true ∧ (x.park cy m).faulted = true ∧
      (x.park cy m).faults = x.faults + 1 ∧ (x.park cy m).asked = x.asked ∧ (x.summon = false → (x.park cy m).summonAt = cy))) ∧
  (∀ (s : State) (vt o : Nat) (t : Tile) (bs : List Byte), s.tile? vt = some t → t.sp.wf = true → o + bs.length ≤ 0x200000 →
    spRead (winWrite s vt o bs) vt o bs.length = bs)

/-! ## Work records -/

/-- R264, R265, R270 and R384: a record, whose carry code may have failed, folds into the entry of its class and key, or else takes a free way of its set, or else joins the spill ring, or else is refused. -/
def Sys2Proof.Says.RecordsAreAccepted : Prop :=
  ∀ (t : Tile) (g : Grid) (r : Rec) (bad : Bool),
    let d := g.cls r.cls
    let x := convert d r bad
    let hit := if d.op = 0 then none else findNth (fun e => e.cls == r.cls && e.key == r.key) t.sq 0
    let ways := (t.sq.filter fun e => e.set == spliceSet r.cls r.key).length
    (∀ i e, hit = some (i, e) → ∃ u, t.accept g r bad = some u ∧ u.sq = setNth t.sq i (e.fold d x.lanes x.ovf false bad).1 ∧
      u.spill = t.spill ∧ u.seqNext = t.seqNext) ∧
    (hit = none → ways < 4 → ∃ u, t.accept g r bad = some u ∧ u.seqNext = t.seqNext + 1 ∧ u.spill = t.spill ∧
      u.sq = t.sq ++ [{ cls := r.cls, key := r.key, lanes := x.lanes, folds := 1, ovf := x.ovf, spilled := false, bad := bad, seq := t.seqNext }]) ∧
    (hit = none → 4 ≤ ways → t.spill.length < g.spillCap →
      ∃ u, t.accept g r bad = some u ∧ u.sq = t.sq ∧ u.spill = t.spill ++ [x] ∧ u.seqNext = t.seqNext) ∧
    (hit = none → 4 ≤ ways → g.spillCap ≤ t.spill.length → t.accept g r bad = none) ∧
    (∀ (e : SEntry) (l : List Int) (o p : Bool), (e.fold d l o p bad).1.bad = (e.bad || bad))

/-- R266: dispatch takes an entry of a priority class before any other, and otherwise the one created first. -/
def Sys2Proof.Says.DispatchOrder : Prop :=
  ∀ (g : Grid) (q : List SEntry) (e : SEntry), chosen g q = some e → e ∈ q ∧ ∀ f ∈ q,
    ((g.cls f.cls).prio = true → (g.cls e.cls).prio = true) ∧
    ((g.cls f.cls).prio = (g.cls e.cls).prio → e.seq ≤ f.seq)

/-- R110 to R112: the folds. Integer elements, of code `et`, have 8 to 64 bits and are signed where the code is odd; `add_sat` and the sums of `fadd_fixed` take the
nearer bound, and say so, where they leave their range. A float that `fadd_fixed` cannot convert takes 0 or a bound. -/
def Sys2Proof.Says.FoldsAreRight : Prop :=
  (∀ (d : ClassD) (et : Nat), et < 8 → d.et = et →
    let w := 8 * 2 ^ (et / 2)
    let num (x : BitVec w) : Int := number (et % 2 == 1) x
    ∀ a b : BitVec w,
      let is (x : BitVec w) (o : Bool) : Prop := laneFold d a.toNat b.toNat = ((x.toNat : Int), o)
      let sum := num a + num b
      (d.op = 1 → is (a + b) false) ∧
      (d.op = 2 → is (clamped (et % 2 == 1) w sum)
        (if et % 2 = 1 then decide (sum < -2 ^ (w - 1) ∨ 2 ^ (w - 1) ≤ sum) else decide ((2 : Int) ^ w ≤ sum))) ∧
      (d.op = 3 → is (if num a ≤ num b then a else b) false) ∧ (d.op = 4 → is (if num a ≤ num b then b else a) false) ∧
      (d.op = 5 → is (a ||| b) false) ∧ (d.op = 6 → is (a &&& b) false) ∧ (d.op = 7 → is (a ^^^ b) false)) ∧
  (∀ (d : ClassD) (f : FEt) (a b : Nat), (d.et, f) ∈ [(8, FEt.f16), (9, .bf16), (10, .f32), (11, .f64)] →
    (d.op = 3 → laneFold d a b = (((minmaxF (fmtOf f) false a b).1 : Int), false)) ∧
    (d.op = 4 → laneFold d a b = (((minmaxF (fmtOf f) true a b).1 : Int), false))) ∧
  (∀ (d : ClassD) (a b : Int), d.op = 8 →
    laneFold d a b = (max (-2 ^ 71) (min (2 ^ 71 - 1) (a + b)), decide (a + b < -2 ^ 71 ∨ 2 ^ 71 ≤ a + b))) ∧
  (∀ (d : ClassD) (w : W64), d.op = 8 →
    let x := f32.decode (w.toNat % 2 ^ 32)
    (x.isNan = true → laneIn d w = (0, true)) ∧
    (∀ n, x = .inf n → laneIn d w = (if n then -2 ^ 63 else 2 ^ 63 - 1, true)) ∧
    (∀ n m e, x = .fin n m e →
      let q := (toInt 0 n m (e + d.scale)).1
      laneIn d w = (max (-2 ^ 63) (min (2 ^ 63 - 1) q), decide (q < -2 ^ 63 ∨ 2 ^ 63 ≤ q)))) ∧
  (∀ (d : ClassD) (w : W64) (et : Nat), d.op ≠ 8 → et < 8 → d.et = et → laneIn d w = (((w.setWidth (8 * 2 ^ (et / 2))).toNat : Int), false))

/-- Record `n` of the NI of tile `vt` may be offered to its destination, tile `u`, on its first try or again (R262, R264, R266). -/
def Sys2Proof.Says.Offered (s s1 : State) (vt : Nat) (t u : Tile) (n : NiRec) : Prop :=
  n.loaded = true ∧ niFirst t n = true ∧ parkedFirst s (n.msg vt) = true ∧ s.g.parks n.dst = false ∧ s.heldBack n.dst = false ∧
    released s (n.msg vt) = some s1 ∧ s.tile? n.dst = some u ∧ portFree s u n.refused = true

/-- R249 and R262 to R267: a record goes from the network interface into its tile, from the spill ring back into the queue, and from the queue to the context
that has waited longest. -/
def Sys2Proof.Says.RecordsMove : Prop :=
  (∀ (s s1 : State) (vt k : Nat) (t u u' : Tile) (n : NiRec), s.tile? vt = some t → t.ni[k]? = some n → Offered s s1 vt t u n →
    u.accept s.g n.r false = some u' →
    let next : State := usePort n.dst (logInsert ((dropNi s1 vt n.id).mapTile n.dst fun u =>
      ((u.accept s.g n.r false).getD u).keepMsg (n.msg vt)) n.dst vt n.r.cls n.r.key n.ldk)
    (n.refused = false → exec (.spliceInsert vt k) s = .next next) ∧ (n.refused = true → exec (.recordRetry vt k) s = .next next)) ∧
  (∀ (s s1 : State) (vt k : Nat) (t u : Tile) (n : NiRec), s.tile? vt = some t → t.ni[k]? = some n → Offered s s1 vt t u n →
    u.accept s.g n.r false = none → n.refused = false →
      exec (.spliceInsert vt k) s = .next (usePort n.dst
        (s1.mapTile vt fun t => { t with ni := t.ni.map fun x => if x.id = n.id then { x with refused := true } else x }))) ∧
  (∀ (s s1 : State) (vt k : Nat) (t u u' : Tile) (m : Msg) (r : Rec), s.tile? vt = some t → takeMsg s k = some (m, s1) →
    m.body = .record r → m.dst = vt → s.g.parks vt = false → s.heldBack vt = false → s1.tile? vt = some u → s1.g.rr ≠ 1 →
    parkedFirst s m = true → portFree s u true = true → u.accept s1.g r (!m.sound) = some u' →
      exec (.spliceInsert vt (t.ni.length + k)) s = .next (usePort vt (s1.mapTile vt fun _ => u'.keepMsg m))) ∧
  (∀ (s : State) (vt : Nat) (t t' : Tile) (x : Spill) (r : List Spill), s.tile? vt = some t → t.spill = x :: r → t.sq.length < 512 →
    s.g.still vt = false → s.heldBack vt = false → portFree s t false = true →
    { t with spill := r, ringAt := t.ringAt + 1 }.insert (s.g.cls x.cls) x true true = some t' → s.g.rr ≠ 1 →
      exec (.spliceRefill vt) s = .next (usePort vt (s.mapTile vt fun _ => t'))) ∧
  (∀ (s : State) (vt i : Nat) (t : Tile) (e : SEntry), s.tile? vt = some t → s.g.stopped vt = false → s.g.parks vt = false → s.heldBack vt = false →
    t.portUsed s = false → chosen s.g t.sq = some e → s.g.rr ≠ 1 →
    (t.recWait.find? fun i => match s.ctx? vt i with | some c => c.awaitsRecord | none => false) = some i →
    let d := s.g.cls e.cls
    exec (.spliceDispatch vt) s = .next (usePort vt
      ((s.mapTile vt fun t => { t with sq := t.sq.filter (fun x => x.seq != e.seq), recWait := t.recWait.filter (· != i) }).mapCtx
        vt i fun c => { c with recv := some (e.cls, e.key, e.lanes.map (laneOut d), e.metaWord d), recvBad := e.bad }))) ∧
  (∀ (s : State) (t : Tile) (old : Bool), s.g.rr ≠ 2 → (portFree s t old = true ↔
    t.sqCycle ≠ some s.m.cycle ∧ dispatchReady s t = false ∧ (old = true ∨ retryReady s t = false)))

/-- R110, R112, R249, R262 to R267: work records on their way. -/
def Obligations.RecordsAreHandled : Prop := RecordsAreAccepted ∧ DispatchOrder ∧ FoldsAreRight ∧ RecordsMove

/-! ## Barriers -/

/-- R240 to R246: a generation whose members have all arrived, with their accesses performed and their messages delivered, completes with the combined
value of a vote, and the next one opens; one whose first deadline has passed is abandoned with the count of those who had arrived. -/
def Obligations.GenerationsCompleteAndTimeOut : Prop :=
  (∀ (s : State) (lv : Level) (id : Nat) (remote : W64), lv ≠ .ctx →
    let i := levelIdx lv
    let s1 := forInst i (releaseAll i id) s
    allInst i (barFull true i id) s1 = true → anyLate i id s1 = false →
    (allInst i (fun s => (lashOpen i id s).isEmpty) s1 = false →
      exec (.barrierCompletion lv id remote) s = .next (forInst i (endIntervals i id) s1)) ∧
    (allInst i (fun s => (lashOpen i id s).isEmpty) s1 = true →
    let l := instVotes i id s1 ++ (if lv = .dom ∧ groupHere s1 = false then [remote] else [])
    let v : W64 := match kindOf s1 i id with
      | some .voteAnd => l.foldl (· &&& ·) (BitVec.allOnes 64)
      | some .voteOr => l.foldl (· ||| ·) 0
      | some .voteAdd => l.foldl (· + ·) 0
      | _ => 0
    exec (.barrierCompletion lv id remote) s = .next (completeBar i id v s1))) ∧
  (∀ (s : State) (lv : WLevel) (id : Nat),
    let i := wlevelIdx lv
    barFull false i id s = true → anyLate i id s = false →
      exec (.wireBarrierCompletion lv id) s = .next (openBar (passAll i id (s.g.bar i id).gen 0 s) i id ((s.g.bar i id).gen + 1))) ∧
  (∀ (c : Ctx) (i gen : Nat) (v : W64) (halting : Bool), i < 7 → (c.bar i).gen = gen →
    let d := c.passBar i gen v halting
    (d.bar i).gen = gen + 1 ∧ (d.bar i).after = halting ∧ ((c.bar i).arr = .waiting → (d.bar i).arr = .done v)) ∧
  (∀ (s : State) (lv : Level) (id : Nat), ((barLevels lv).filter fun i => anyLate i id s) ≠ [] →
    exec (.barrierTimeout lv id) s = .next (((barLevels lv).filter fun i => anyLate i id s).foldl (fun s i => abandonBar i id s) s)) ∧
  (∀ (s : State) (i id : Nat), i ≠ 3 →
    let b := s.g.bar i id
    let b' := (abandonBar i id s).g.bar i id
    b'.gen = b.gen + 1 ∧ b'.abandoned = b.abandoned ++ [(b.gen, arrivedCount i id s)] ∧ b'.arrivals = [])

/-! ## Engines -/

/-- Command `c` stands at the head of queue `q` of tile `vt`, is good and not finished, its event is `op`, and its engine runs: no halt of its gang
has begun, or a copy is inside a chunk. -/
def Sys2Proof.Says.Headed (s : State) (vt q op : Nat) (t : Tile) (c : Cmd) : Prop :=
  s.tile? vt = some t ∧ engStopped s vt = false ∧ (engHalting s vt = false ∨ c.midChunk = true) ∧ (t.queue q).halted = false ∧
    (t.queue q).cmds.head? = some c ∧ c.finished = false ∧ c.event q = op ∧
    (c.started = true ∨ (c.isColl = true ∧ q = 6) ∨ badCmd q c = false)

/-- The head command once it has been taken up. -/
def Sys2Proof.Says.begun (c : Cmd) : Cmd := { c with started := true }

/-- The head command has finished: it completes when its messages have arrived. -/
def Sys2Proof.Says.ended (s : State) (vt q : Nat) (c : Cmd) : Out3 := .next (setHead s vt q { begun c with finished := true })

/-- R344 and R348: a command enters its queue, and a finished one leaves it, counts, and lets its follow-on into the array queue. R294: a JOIN
ends when the commands that it waits for are gone. R347: a command that its queue or its fields do not allow fails with BADCMD. -/
def Sys2Proof.Says.QueuesMove : Prop :=
  (∀ (s : State) (vt r q i k : Nat) (t : Tile) (c : Cmd), s.tile? vt = some t → findNth (fun x => x.1 == q) t.pushed 0 = some (i, k, c) →
    c.agent = r → engStopped s vt = false →
      exec (.engineCommandEnqueue vt r q) s = .next (s.mapTile vt fun t =>
        { t.mapQueue q fun e => { e with cmds := e.cmds ++ [c] } with pushed := dropNth t.pushed i })) ∧
  (∀ (s : State) (vt q : Nat) (t : Tile) (c : Cmd), s.tile? vt = some t → (t.queue q).cmds.head? = some c → c.finished = true →
    engStopped s vt = false → s.heldBack vt = false → s.msgsOf vt (8 + q) = [] → t.ni.any (fun n => n.c == 8 + q) = false →
    (c.follow = none ∨ t.arrq.length < 8) → s.g.rr ≠ 1 →
      exec (.engineCompletion vt q) s = .next ((finishCmd (popCmd s vt q c) vt c).mapTile vt fun t =>
        if t.lash.role = 0 then t else { t with lash := { t.lash with fin := t.lash.fin ++ [(q, c)] } })) ∧
  (∀ (s : State) (vt : Nat) (c : Cmd) (x : Ctx), c.agent < 4 → c.follow = none → c.csel < 7 → s.ctx? vt c.agent = some x →
    ∃ y, (finishCmd s vt c).ctx? vt c.agent = some y ∧ y.cnt.toList.getD c.csel 0 = x.cnt.toList.getD c.csel 0 + 1 ∧
      y.evt = (x.evt || c.notify) ∧ y.x = x.x) ∧
  (∀ (s : State) (vt q : Nat) (t : Tile) (c : Cmd), Headed s vt q 5 t c → s.m.pullWait = false →
    (∀ p ∈ c.join, ∀ d ∈ t.cmdsOf p.1, d.seq = p.2 → p.1 = q ∧ d.seq = c.seq) → exec (.joinCmd vt q) s = ended s vt q c) ∧
  (∀ (s : State) (vt q : Nat) (t : Tile) (c : Cmd), s.tile? vt = some t → engStopped s vt = false → engHalting s vt = false →
    (t.queue q).halted = false → (t.queue q).cmds.head? = some c → c.finished = false → c.started = false → badCmd q c = true →
      let bad : Out3 := .next (failCmd s vt q c 1 0 0 0)
      (q < 4 → c.event q = 1 → exec (.copyUnit vt q) s = bad) ∧ ((q = 4 ∨ q = 5) → c.event q = 3 → exec (.gather vt q) s = bad) ∧
      (q = 6 → c.isColl = false → c.event q = 8 → exec (.mcastSt vt) s = bad))

/-- R348, R349 and R355: a copy moves its next 128 bytes, the whole unit at once, and its CRC goes on; a gather or a scatter moves its next selected element. -/
def Sys2Proof.Says.CopiesAndGathersMove : Prop :=
  (∀ (s s1 : State) (vt q op : Nat) (t : Tile) (c : Cmd) (bs : List Byte), Headed s vt q op t c → c.event q = c.op →
    let b := c.done * c.unit
    b < c.copyV.total → c.skip ≠ some (b / 4096) →
    copyUnit s vt q (begun c) b (min c.unit (c.copyV.total - b)) = .moved s1 bs → s1.m.pullWait = false →
      let next : Out3 := .next (copyNext s1 vt q { begun c with done := c.done + 1, crc := .ofNat 32 (crc32c c.crc.toNat bs) })
      (op = 1 → exec (.copyUnit vt q) s = next) ∧ (op = 2 → exec (.copy2d vt q) s = next)) ∧
  (∀ (s : State) (vt q : Nat) (t : Tile) (c : Cmd) (n : Nat), s.tile? vt = some t → t.bad = [] → t.soft = [] →
    s.msgsOf vt (8 + q) = [] → s.g.parks vt = false → c.op = 1 → c.stream = false → 0 < n → n ≤ 128 → c.done * 128 + n ≤ c.len → c.len < 2 ^ 21 →
    ∀ src dst : Nat, c.lo 1 = 0xFF00000000000000 + src → c.hi 1 = 0xFF00000000000000 + dst → src + c.len ≤ 0x200000 → dst + c.len ≤ 0x200000 →
    src % 128 = 0 → dst % 128 = 0 →
      copyUnit s vt q c (c.done * 128) n =
        .moved (winWrite s vt (dst + c.done * 128) (t.sp.read (src + c.done * 128) n)) (t.sp.read (src + c.done * 128) n)) ∧
  (∀ (s s1 s2 : State) (vt q op : Nat) (t : Tile) (c : Cmd) (bs : List Byte), Headed s vt q op t c → c.event q = c.op →
    let iv : W64 := .ofNat 64 (c.lo 2)
    let i := c.done
    listPlaced iv (4 * c.len) 4 = true → i ∈ c.selected →
    engRead s [⟨.tile vt ((iv + .ofNat 64 (4 * i)).toNat - 0xFF00000000000000), 4, 0⟩] = some (s1, bs) →
    let ea : W64 := .ofNat 64 (c.lo 1) + (BitVec.ofNat 32 (natOf bs)).signExtend 64 <<< (c.hi 2 % 16)
    let pk : W64 := .ofNat 64 (c.hi 1) + .ofNat 64 (i * etBytes c.et)
    let next : Out3 := .next (gatherNext s2 vt q { begun c with done := i + 1 })
    s2.m.pullWait = false →
      (op = 3 → moveElem s1 vt q (begun c) ea pk (etBytes c.et) = .moved s2 → exec (.gather vt q) s = next) ∧
      (op = 4 → moveElem s1 vt q (begun c) pk ea (etBytes c.et) = .moved s2 → exec (.scatter vt q) s = next))

/-- R348 and R354: SIGNAL adds its LEN to an aligned dword; RED_ST reduces its next elements into memory, element after element where source and
destination overlap, and MCAST_ST stores its source to its destinations, in chunks of at most 64 pages. What they write they write with its pages dirty (R330).
A source whose first fault in stream order is a byte that cannot be read fails with that (R355). -/
def Sys2Proof.Says.SignalsAndMulticasts : Prop :=
  (∀ (s s1 s2 s3 : State) (vt q : Nat) (t : Tile) (c : Cmd) (ps qs : List Piece), Headed s vt q 10 t c → c.event q = c.op →
    let a : W64 := .ofNat 64 (c.hi 1)
    a.toNat % 8 = 0 → engRange s vt .e (cmdSpace s c) .amo .amo false a 8 = .ok s1 ps → engHeld s1 vt (8 + q) ps = false → s1.g.belay = 0 →
    faultOff s1 ps = none → engRange s1 vt .e (cmdSpace s c) .dirty .amo false a 8 = .ok s2 qs →
    engModify s2 vt qs (fun old => bytesOf 8 (natOf old + c.len)) = some s3 → s3.m.pullWait = false →
      exec (.signal vt q) s = ended s3 vt q c) ∧
  (∀ (s : State) (vt pa key : Nat) (f : List Byte → List Byte), s.g.belay = 0 → s.m.badRange pa 8 = false →
    s.m.codeBad pa 8 = false → s.m.softMem = [] → s.m.softHome = [] →
      engModify s vt [⟨.glob pa, 8, key⟩] f = some { s with m := s.m.writeBy vt key pa ((f (s.m.readGlob key pa 8)).take 8) }) ∧
  (∀ (s s1 s2 s3 s4 s5 : State) (vt : Nat) (t : Tile) (c : Cmd) (qs ps rs : List Piece) (data : List Byte), Headed s vt 6 9 t c → c.event 6 = c.op →
    let n := etBytes c.et
    let src : W64 := .ofNat 64 (c.lo 1)
    let dst : W64 := .ofNat 64 (c.hi 1)
    src.toNat % n = 0 → dst.toNat % n = 0 → c.done < c.len →
    let d := dst + .ofNat 64 (c.done * n)
    let k := min (c.len - c.done) ((64 * 65536 - d.toNat % 65536) / n)
    engRanges vt .e (cmdSpace s c) .amo .amo false (cutRun 0 d (k * n)) s [] = .ok s1 qs →
    engRanges vt .e (cmdSpace s1 c) .load .load false (cutRun 0 (src + .ofNat 64 (c.done * n)) (k * n)) s1 [] = .ok s2 ps →
    engHeld s2 vt 14 (ps ++ qs) = false → engRead s2 ps = some (s3, data) → s3.g.belay = 0 →
    engRanges vt .e (cmdSpace s3 c) .dirty .amo false (cutRun 0 d (k * n)) s3 [] = .ok s4 rs →
    (if anyOverlap ps rs then redElems vt c.rop c.et ps rs k 0 s4
      else engModify s4 vt rs fun old => reduceBytes c.rop c.et n k old data) = some s5 → s5.m.pullWait = false →
      exec (.redSt vt) s = .next (setHead s5 vt 6 { begun c with
        done := c.done + k, base := c.base + 1, finished := c.len ≤ c.done + k })) ∧
  (∀ (rop et : Nat) (s s1 s2 : State) (vt i k : Nat) (ps qs : List Piece) (x : List Byte),
    engRead s (subPieces ps (etBytes et * i) (etBytes et)) = some (s1, x) →
    engModify s1 vt (subPieces qs (etBytes et * i) (etBytes et)) (fun old => bytesOf (etBytes et) (ropApply rop et (natOf old) (natOf x))) = some s2 →
      redElems vt rop et ps qs (k + 1) i s = redElems vt rop et ps qs k (i + 1) s2) ∧
  (∀ (s u : State) (vt p st : Nat) (c : Cmd) (a : W64) (srcs : List (Nat × W64 × Nat)),
    engRanges vt .e (cmdSpace s c) .load .load false srcs s [] = .err u p st a →
      sourceCheck s vt c srcs = match dataFault u vt (cmdSpace u c) srcs with
        | some x => .err u x.1 8 x.2
        | none => .err u p st a) ∧
  (∀ (s s1 s2 s3 s4 s5 : State) (vt : Nat) (t : Tile) (c : Cmd) (ls data : List Byte) (qs ps rs : List Piece), Headed s vt 6 8 t c → c.event 6 = c.op →
    let la : W64 := .ofNat 64 (c.lo 2)
    let nd := c.hi 2
    listPlaced la (8 * nd) 8 = true → engRead s [⟨.tile vt (la.toNat - 0xFF00000000000000), 8 * nd, 0⟩] = some (s1, ls) →
    let all := mcastParts (bytesUnits ls) c.len (nd * (c.len / 65536 + 3)) 0 0
    let parts := takePages (fun (x : W64 × Nat × Nat) => x.1.toNat / 65536) [] (all.drop c.done)
    let lo := (parts.map fun x => x.2.1).foldl min c.len
    let hi := (parts.map fun x => x.2.1 + x.2.2).foldl max 0
    (parts = [] → s1.m.pullWait = false → exec (.mcastSt vt) s = ended s1 vt 6 c) ∧
    (parts ≠ [] → engRanges vt .e (cmdSpace s1 c) .store (.store false) false (parts.map fun (a, o, n) => (o, a, n)) s1 [] = .ok s2 qs →
      engRanges vt .e (cmdSpace s2 c) .load .load false (cutRun 0 (.ofNat 64 (c.lo 1) + .ofNat 64 lo) (hi - lo)) s2 [] = .ok s3 ps →
      engHeld s3 vt 14 ps = false → engRoom s3 vt qs = true → (s3.msgsOf vt 14).any (·.touches qs) = false →
      qs.any (fun p => match p.place with | .tile u o => winBusy s3 u o p.len | .glob _ => false) = false →
      engRead s3 ps = some (s4, data) →
      engRanges vt .e (cmdSpace s4 c) .dirty (.store false) false (parts.map fun (a, o, n) => (o, a, n)) s4 [] = .ok s5 rs →
      let u := engWrite s5 vt 14 rs (parts.flatMap fun (_, o, n) => slice data (o - lo) n)
      u.m.pullWait = false → exec (.mcastSt vt) s = .next (setHead u vt 6 { begun c with
        done := c.done + parts.length, base := c.base + 1, finished := all.length ≤ c.done + parts.length })))

/-- R351 to R353: a collective at its queue head stands for the open generation of its instance with its source; when every tile of the instance stands there
and all agree, each destination gets the result, and else all fail with ABORTED; one whose source holds an uncorrectable error starts the rollback of a
repeatable superstep (R392); at a deadline those that stand there fail with TIMEOUT. A result that
depends on tiles of other modules is a free value (log 13). The tree adds up unsigned sums. -/
def Sys2Proof.Says.CollectivesAct : Prop :=
  (∀ (s : State) (vt op : Nat) (t : Tile) (c : Cmd), Headed s vt 6 op t c → c.event 6 = c.op → c.isColl = true → badCmd 6 c = false →
    s.m.pullWait = false →
    let lvl := c.lo 2 % 8
    let k := s.g.coll lvl (collId s.g lvl vt)
    (lvl = 3 ∨ lvl = 4 ∨ lvl = 6) → collLate lvl (collId s.g lvl vt) s = false →
    t.collGen.toList.getD (collIdx lvl) 0 ∉ k.abandoned → k.arrived.any (·.1 == vt) = false →
    collBad t (begun c) = none →
    let data := if op = 6 ∨ c.hi 2 % 2 ^ 24 = vt then t.sp.read (c.lo 1 - 0xFF00000000000000) c.collBytes else []
    let u := setHead s vt 6 { begun c with fva := none, deadline := c.deadline <|> if c.bto = 0 then none else some (s.m.cycle + c.bto) }
    let next : Out3 := .next { u with g := u.g.setColl { k with arrived := k.arrived ++ [(vt, true, data)] } }
    (op = 6 → exec (.allred vt) s = next) ∧ (op = 7 → exec (.bcast vt) s = next)) ∧
  (∀ (s : State) (vt op : Nat) (t : Tile) (c : Cmd) (a : W64), Headed s vt 6 op t c → c.event 6 = c.op → c.isColl = true → s.m.pullWait = false →
    let lvl := c.level
    let k := s.g.coll lvl (collId s.g lvl vt)
    isCollLevel lvl = true → collLate lvl (collId s.g lvl vt) s = false →
    ((op = 6 → t.collGen.toList.getD (collIdx lvl) 0 ∈ k.abandoned → exec (.allred vt) s = .next (failCmd s vt 6 (begun c) stTimeout 0 0 0)) ∧
      (op = 7 → t.collGen.toList.getD (collIdx lvl) 0 ∈ k.abandoned → exec (.bcast vt) s = .next (failCmd s vt 6 (begun c) stTimeout 0 0 0))) ∧
    (t.collGen.toList.getD (collIdx lvl) 0 ∉ k.abandoned → k.arrived.any (·.1 == vt) = false →
      (badCmd 6 (begun c) = true ∧ a = 0 ∨ badCmd 6 (begun c) = false ∧ collBad t (begun c) = some a) →
      (repeatableAt s vt && !badCmd 6 (begun c) && collUncorr t (begun c)) = false →
      let u := setHead s vt 6 { begun c with fva := some a, deadline := c.deadline <|> if c.bto = 0 then none else some (s.m.cycle + c.bto) }
      let next : Out3 := .next { u with g := u.g.setColl { k with arrived := k.arrived ++ [(vt, false, [])] } }
      (op = 6 → exec (.allred vt) s = next) ∧ (op = 7 → exec (.bcast vt) s = next)) ∧
    (t.collGen.toList.getD (collIdx lvl) 0 ∉ k.abandoned → k.arrived.any (·.1 == vt) = false → badCmd 6 (begun c) = false →
      repeatableAt s vt = true → collUncorr t (begun c) = true →
        (op = 6 → exec (.allred vt) s = .next (askRollbackAt s vt)) ∧ (op = 7 → exec (.bcast vt) s = .next (askRollbackAt s vt)))) ∧
  (∀ (s : State) (lv : Level) (id : Nat) (x : Nat × Cmd × Bool × List Byte) (r : List (Nat × Cmd × Bool × List Byte)),
    lv = .gang ∨ lv = .grid ∨ lv = .dom →
    let lvl := levelCode lv
    let all (f : State → State) (s : State) : State := if lv = .dom then forGroup f s else f s
    collAll s lvl id = x :: r → (if lv = .dom then allGroup (collReady lvl id) s else collReady lvl id s) = true → collLate lvl id s = false →
    let c := x.2.1
    let u : State := { s with free := s.free + c.collBytes }
    let good := ∀ y ∈ x :: r, y.2.2.1 = true ∧ c.agrees y.2.1 = true
    (good → (lv = .dom → groupHere s = true) → c.op = 6 → exec (.collectiveGeneration lv id) s =
      .next (all (collEnd lvl id (some (combine c.rop c.et c.len ((x :: r).map fun y => y.2.2.2)))) u)) ∧
    (∀ y, good → (lv = .dom → groupHere s = true) → c.op = 7 → (x :: r).find? (·.1 == c.hi 2 % 2 ^ 24) = some y →
      exec (.collectiveGeneration lv id) s = .next (all (collEnd lvl id (some y.2.2.2)) u)) ∧
    (¬ good → exec (.collectiveGeneration lv id) s = .next (all (collEnd lvl id none) u)) ∧
    (c.op = 7 → (lv = .dom → groupHere s = true) → (x :: r).any (·.1 == c.hi 2 % 2 ^ 24) = false →
      exec (.collectiveGeneration lv id) s = .next (all (collEnd lvl id none) u)) ∧
    (good → lv = .dom → groupHere s = false → ∃ bs, exec (.collectiveGeneration lv id) s = .next (all (collEnd lvl id (some bs)) u))) ∧
  (∀ (s : State) (lv : Level) (id : Nat), lv = .gang ∨ lv = .grid ∨ lv = .dom → collLate (levelCode lv) id s = true →
    exec (.collectiveTimeout lv id) s =
      .next (if lv = .dom then forGroup (collAbandon 6 id) s else collAbandon (levelCode lv) id s)) ∧
  (∀ l : List Nat, (∀ x ∈ l, x < 2 ^ 64) → collFold (ropApply 0 6) (l.length + 1) l = l.sum % 2 ^ 64)

/-- R340: a helper core that may be interrupted takes its ENGINE interrupt. -/
def Sys2Proof.Says.HelperInterruptEnters : Prop :=
  ∀ (s : State) (vt r : Nat) (t : Tile), s.tile? vt = some t → (r = 4 ∨ r = 5) → s.heldBack vt = false →
    let h := if r = 5 then t.str else t.ldr
    { h with stall := none }.runs s t = true → h.irq = true →
      exec (.helperEngineInterrupt vt r) s = .next (hInterrupt (focusHelper s vt (r == 5)))

/-- R294, R340, R344 to R359: commands enter their queues, move data, reduce, signal and complete. -/
def Obligations.EnginesAct : Prop :=
  QueuesMove ∧ CopiesAndGathersMove ∧ SignalsAndMulticasts ∧ CollectivesAct ∧ HelperInterruptEnters

/-! ## Gangs, the debugger and page requests -/

/-- The gang (gr, gc) with `f` applied. -/
def Sys2Proof.Says.withGang (s : State) (gr gc : Nat) (f : Gang → Gang) : State :=
  { s with g := { s.g with gangs := s.g.gangs.map fun x => if x.gr = gr ∧ x.gc = gc then f x else x } }

/-- R367, R369, R371, R373, R376 and R416: a resident gang is asked to yield at the end of its quantum while another waits for clusters, or when the
immediate summon policy chooses it; at the end of its grace time its halt begins, with PREEMPT pending on every context; the halt is complete when all
have come to rest, their accesses that are not performed abandoned into the reissue lists; the gang then leaves its clusters with its image written; a
gang that waits is placed. -/
def Sys2Proof.Says.GangsAreSwapped : Prop :=
  (∀ (s : State) (gr gc : Nat) (x : Gang), s.g.gang? (gr, gc) = some x → s.g.live = true → s.m.restart = false → x.resident = true →
    x.yieldReq = false → x.halting = false → x.halted = false → gangHalted s (gr, gc) = false →
    (x.quantum ≤ s.m.cycle ∧ asking s s.g.vf ≠ [] ∨
      summonWaits s s.g.vf = true ∧ ∃ y, victim s s.g.vf = some (s.g, y) ∧ y.gr = gr ∧ y.gc = gc) →
      exec (.quantumExpiry gr gc) s = .next (withGang s gr gc fun x =>
        { x with yieldReq := true, grace := some (s.m.cycle + 1900 * s.vf.grace.toNat) })) ∧
  (∀ (s : State) (gr gc d : Nat) (x : Gang), s.g.gang? (gr, gc) = some x → x.resident = true → x.yieldReq = true → x.grace = some d →
    d ≤ s.m.cycle → s.m.restart = false → gangHalted s (gr, gc) = false → softReady s x = false →
      exec (.graceExpiry gr gc) s = .next (squallHalt s (gr, gc)) ∧
      (∀ vt c, s.g.gangOf vt = (gr, gc) → (vt, c) ∈ s.allCtxs → (vt, { c with ipPre := true }) ∈ (squallHalt s (gr, gc)).allCtxs)) ∧
  (∀ (s : State) (gr gc : Nat) (x : Gang), s.g.gang? (gr, gc) = some x → x.resident = true → x.halting = true →
    (∀ y ∈ s.allCtxs, s.g.gangOf y.1 = (gr, gc) → y.2.atRest s y.1 x.soft = true ∧ ∀ a ∈ y.2.accs, a.performed = false) →
    (∀ t ∈ s.allTiles, s.g.gangOf t.vt = (gr, gc) → niDrained s t = true ∧ copyMoves s t = false) →
    let mine (vt : Nat) : Bool := s.g.gangOf vt == (gr, gc)
    collCombining mine s = false →
    let u := collWithdraw mine ((s.allTiles.filter fun t => mine t.vt).foldl (fun s t => settleTile s t.vt) s)
    let w := u.mapAllCtxs fun vt c => if mine vt then
      { c with ipPre := false, accs := c.accs.map (fun a => if a.performed then a else { a with reissue := true, got := [] })
               bars := c.bars.map fun b => { b with after := false } } else c
    exec (.haltComplete gr gc) s = .next (withGang w gr gc fun x => { x with halting := false, soft := false, halted := true })) ∧
  (∀ (s : State) (gr gc : Nat) (x : Gang), s.g.gang? (gr, gc) = some x → x.resident = true → x.halted = true → s.m.restart = false →
    gangHalted s (gr, gc) = false →
      exec (.swapOut gr gc) s = .next (Machine.swapOut s (gr, gc)) ∧
      ∃ y, (Machine.swapOut s (gr, gc)).g.gang? (gr, gc) = some y ∧ y.resident = false ∧ y.clusters = [] ∧ y.parked = x.parked ∧ y.image = gangImage s x) ∧
  (∀ (s : State) (gr gc : Nat) (x y : Gang) (cl : List Nat), s.g.gang? (gr, gc) = some x → nextAsking s s.g.vf = some (s.g, y) →
    y.gr = gr → y.gc = gc → s.g.live = true → s.m.restart = false → x.resident = false → servedVf s = some s.g.vf → roomFor s s.g x = some cl →
      exec (.swapIn gr gc) s = .next (grantSwap (Machine.swapIn s (gr, gc) cl) s.g.vf))

/-- R378 to R380 and R418: the debugger halts a role at its boundary (until then the request is PENDING), writes its pc and registers, and lets it go on
for one unit or for good: behind its `brk` word if it stands at one, and with DEBUG pending if NOTIFY asks for it. -/
def Sys2Proof.Says.DebuggerActs : Prop :=
  (∀ (s : State) (vt r : Nat) (c : Ctx), r < 4 → s.ctx? vt r = some c → selectable s vt r = true → c.dbg.halted = false →
    let u := s.mapTile vt fun t => if t.lash.role = 0 then t else { t with lash := { t.lash with due := true } }
    (u.g.parks vt = false → c.atBoundary = true → exec (.debugHalt vt r) s =
      .next (u.mapCtx vt r fun c => { c with dbg := { c.dbg with halted := true, pending := false, step := false } })) ∧
    ((u.g.parks vt = true ∨ c.atBoundary = false) →
      exec (.debugHalt vt r) s = .next (u.mapCtx vt r fun c => { c with dbg := { c.dbg with pending := true } }))) ∧
  (∀ (s : State) (vt r : Nat) (t : Tile), r = 4 ∨ r = 5 → s.tile? vt = some t → selectable s vt r = true →
    let d := (if r = 4 then t.ldr else t.str).dbg
    let u := s.mapTile vt fun t => if t.lash.role = 0 then t else { t with lash := { t.lash with due := true } }
    (d.halted = false → exec (.debugHalt vt r) s = .next (u.mapDbg vt r fun d =>
      if u.g.parks vt then { d with pending := true } else { d with halted := true, pending := false, step := false })) ∧
    (d.halted = true → d.brkHit = false →
      let go (step : Bool) : Out3 := .next (s.mapDbg vt r fun d => { d with halted := false, brkHit := false, step := step })
      exec (.debugResume vt r) s = go false ∧ exec (.debugStep vt r) s = go true ∧
      ∀ x, s.ctxsOf t ≠ [] → ∃ u, exec (.debugRoleWrite vt r (.pc x)) s = .next u ∧
        (∀ w, u.tile? vt = some w → (if r = 4 then w.ldr else w.str).pc = x &&& ~~~3))) ∧
  (∀ (s : State) (vt r : Nat) (c : Ctx), r < 4 → s.ctx? vt r = some c → selectable s vt r = true → c.dbg.halted = true →
    (∀ x, exec (.debugRoleWrite vt r (.pc x)) s = .next (s.mapCtx vt r fun c => { c with
      pc := x &&& ~~~3, pos := if x.getLsbD 0 then .aWord else .unit, inPair := false, run := if c.run = .ended then c.run else .ready })) ∧
    (∀ x, exec (.debugRoleWrite vt r (.csr 6 x)) s = .next (withFocus s vt r fun u => { u with c := { u.c with scratch := x } })) ∧
    (let w := if c.dbg.brkHit then withFocus s vt r retire else s
      let go (step : Bool) : Out3 := .next (w.mapCtx vt r fun d => { d with
        ipDebug := d.ipDebug || c.dbg.notify, dbg := { d.dbg with halted := false, brkHit := false, step := step, notify := false } })
      exec (.debugResume vt r) s = go false ∧ exec (.debugStep vt r) s = go true))

/-- R332, R381, R384, R406, R419 and R435: a reply serves the request that its tag names, and an unknown tag is logged; the head of the ring moves; the host
reaches rim memory of a function that is not protected, and reads poison of one that is, or where the data is uncorrectable; an access to a page that the pool of a
migration lacks waits. -/
def Sys2Proof.Says.HostServesPages : Prop :=
  (∀ (s : State) (v : Nat) (grant : Bool) (tag : W16), s.hasVf v = true →
    (∀ r, (s.vfAt v).reqs.find? (·.tag == tag) = some r →
      exec (.pageRequestReply v grant tag) s = .next (forVf v (replyGrid tag.toNat r grant)
        (s.mapVf v fun f => { f with reqs := f.reqs.filter (·.tag != tag) }))) ∧
    ((s.vfAt v).reqs.find? (·.tag == tag) = none → ∃ code, exec (.pageRequestReply v grant tag) s =
      .next { s with m := { s.m with errLog := s.m.errLog ++ [(code, tag.setWidth 64)] } })) ∧
  (∀ (s : State) (v : Nat) (x : W64), s.hasVf v = true →
    exec (.prqheadWrite v x) s = .next (forVf v (retryAccs .prqFull) (s.mapVf v fun f => { f with prqHead := x.toNat % 256 }))) ∧
  (∀ (s : State) (v gpa n : Nat) (data : Option (List Byte)), s.hasVf v = true → s.m.pullWait = false →
    ((s.vfAt v).prot = true →
      (data = none → exec (.cxlMemAccess v gpa n data) s = .next { s with m := { s.m with cxlOut := some ([], true) } }) ∧
      (∀ bs, data = some bs → exec (.cxlMemAccess v gpa n data) s = .next s)) ∧
    ((s.vfAt v).prot = false → (s.vfAt v).s2en = false → paRim s.m gpa = true →
      let pa := s.m.home gpa
      (∀ b, data = some [b] → exec (.cxlMemAccess v gpa n data) s = .next { s with m := s.m.writeBy byHost 0 pa [b] }) ∧
      (data = none → n = 1 →
        (s.m.badRange pa 1 = false → s.m.codeBad pa 1 = false → exec (.cxlMemAccess v gpa n data) s =
          .next { s with m := { s.m.correctRange pa 1 with cxlOut := some (s.m.readGlob 0 pa 1, false) } }) ∧
        (s.m.badRange pa 1 = true ∨ s.m.codeBad pa 1 = true →
          exec (.cxlMemAccess v gpa n data) s = .next { s with m := { s.m with cxlOut := some ([], true) } }))) ∧
    ((s.vfAt v).prot = false → data = none →
      let m := cxlRead v (pageParts gpa n) s.m []
      (m.pullWait = false → exec (.cxlMemAccess v gpa n data) s = .next { s with m := m }) ∧
      (m.pullWait = true → ∀ t, exec (.cxlMemAccess v gpa n data) s ≠ .next t)))

/-- R332, R367 to R373, R378, R379, R406, R416, R418 and R419: swaps of gangs, the debugger and the host's side of paging. -/
def Obligations.GangsDebuggerAndPages : Prop := GangsAreSwapped ∧ DebuggerActs ∧ HostServesPages

/-! ## Integrity, recovery and power -/

/-- Entries `(code, detail)` appended to the module error log. -/
def Sys2Proof.Says.logged (m : Module) (code : Nat) (detail : W64) : Module := { m with errLog := m.errLog ++ [(code, detail)] }

/-- R382, R387, R388, R392, R394 and R396: the scrubber repairs and counts a correctable error and logs an uncorrectable one; a lashed interval ends and is exchanged;
a superstep is rolled back; the command processors restart; a replayed event happens when it is next. -/
def Sys2Proof.Says.RecoveryActs : Prop :=
  (∀ (s : State) (k : Nat) (raced : Bool),
    (k ∈ s.m.softMem → k ∉ s.m.badMem → exec (.scrubPass (.rim k) raced) s = .next { s with m := { s.m with
      softMem := s.m.softMem.filter (· != k), corrErr := s.m.corrErr + 1 } }) ∧
    (k ∈ s.m.badMem → k ∉ s.m.softMem → k ∉ s.m.seenMem → ∃ code, exec (.scrubPass (.rim k) raced) s =
      .next { s with m := logged { s.m with seenMem := k :: s.m.seenMem, uncErr := s.m.uncErr + 1 } code (.ofNat 64 (64 * k)) }) ∧
    (k ∈ s.m.seenMem → k ∉ s.m.softMem → exec (.scrubPass (.rim k) raced) s = .next s) ∧
    (k ∉ s.m.badMem → k ∉ s.m.softMem → exec (.scrubPass (.rim k) raced) s = .next s)) ∧
  (∀ (s : State) (vt st k : Nat) (t : Tile) (raced : Bool), s.tile? vt = some t → (st, k) ∈ t.soft → (st, k) ∉ t.bad →
    exec (.scrubPass (.tile vt st k) raced) s = .next { s.mapTile vt fun t => { t with soft := t.soft.filter (· != (st, k)) } with
      m := { s.m with corrErr := s.m.corrErr + 1 } }) ∧
  (∀ (s : State) (vt st k : Nat) (t : Tile) (raced : Bool), s.tile? vt = some t → (st, k) ∈ t.bad → (st, k) ∉ t.soft →
    ((st, k) ∉ t.seen → ∃ code d, exec (.scrubPass (.tile vt st k) raced) s = .next { s.mapTile vt fun t => { t with seen := (st, k) :: t.seen } with
      m := logged { s.m with uncErr := s.m.uncErr + 1 } code d }) ∧
    ((st, k) ∈ t.seen → exec (.scrubPass (.tile vt st k) raced) s = .next s)) ∧
  (∀ (s : State) (vt : Nat) (t : Tile), s.tile? vt = some t → t.lash.role ≠ 0 → t.lash.waiting = false →
    (4096 ≤ t.lash.count → exec (.lashIntervalEnd vt) s =
      .next (s.mapTile vt fun t => { t with lash := { t.lash with waiting := true, due := false } })) ∧
    (t.lash.count < 4096 → t.lash.due = true ∨ t.lash.full = true → exec (.lashIntervalEnd vt) s =
      .next (s.mapTile vt fun t => { t with lash := { t.lash with
        waiting := true, due := false, early := if t.lash.early = 0xFFFF then 0xFFFF else t.lash.early + 1 } }))) ∧
  (∀ (s : State) (vt : Nat) (t : Tile), s.whole? vt = some t → t.lash.role ≠ 0 → t.lash.waiting = true →
    (t.lash.fp = t.lash.pfp → exec (.lashExchange vt true) s = .next (lashAgree s vt t)) ∧
    (t.lash.fp ≠ t.lash.pfp → ∀ u, exec (.lashExchange vt true) s ≠ .next u) ∧
    (t.lash.second = false → exec (.lashExchange vt false) s = .next (lashRestore s vt t)) ∧
    (t.lash.second = true → exec (.lashExchange vt false) s = .next (lashCheckpoint (t.others.foldl (fun s c => lashTrap s vt c.id)
      ((lashRestore s vt t).mapTile vt fun u => { u with lash := { u.lash with second := false } })) vt))) ∧
  (∀ (s : State) (vt : Nat) (r : List Nat), s.g.rollReq = vt :: r →
    (s.g.belay = 3 → exec .belayRollback s = .next (rollBack (fun u => s.g.gangOf vt == s.g.gangOf u) s)) ∧
    (s.g.belay = 4 → exec .belayRollback s = .next (rollBack (fun _ => true) s)) ∧
    (s.g.belay = 6 → exec .belayRollback s = .next (forGroup (rollBack fun _ => true) s))) ∧
  (∀ (s : State) (p : Nat → Bool), (rollBack p s).g.rollReq = (s.g.rollReq.filter fun u => !p u) ∧ (rollBack p s).g.rollbks = s.g.rollbks + 1) ∧
  (∀ s : State,
    (s.m.restart = false → s.m.power.isReady = true → ∃ code, exec .cpLockstepMismatch s =
      .next { s with m := logged { s.m with restart := true, restarts := s.m.restarts + 1 } code (s.m.restarts + 1) }) ∧
    (s.m.restart = true → sha512 s.m.fwImage = s.m.fwHash → exec .firmwareRestartComplete s = .next { s with m := { s.m with restart := false } })) ∧
  (∀ (s s1 : State) (vt : Nat) (t : Tile) (e : LogE) (r : List LogE), s.tile? vt = some t → t.log = e :: r → s.g.rr = 2 →
    s.g.still vt = false → e.at_.toNat ≤ rolePos s vt e.role.toNat →
    releaseKind (s.mapTile vt fun t => { t with log := [] }) vt { t with log := [] } e = some s1 →
      exec (.replayRelease vt) s = .next (s1.mapTile vt fun t => { t with log := r }))

/-- R442 to R447: bring-up, which the coolant must let begin and which verifies both signatures, the scrub of a DIRTY cluster, the thermal limits, and the loss of power. -/
def Sys2Proof.Says.PowerActs : Prop :=
  (∀ (s : State) (b : BringUp), s.m.power.isReady = false → 60 ≤ b.flow → 20 ≤ b.inlet → b.inlet ≤ 40 →
    let fw : Prop := b.fwKey = some s.m.keyHash
    let rt : Prop := b.rtKey = some s.m.keyHash
    let fails (n why : Nat) : Prop := exec (.bringup b) s = .next { s with m := { s.m with power := .failed n why } }
    (∀ n why, b.failAt = some (n, why) → 1 ≤ n → n ≤ 7 → n ≤ 2 ∨ fw → n ≤ 3 ∨ rt → fails n why) ∧
    (¬ fw → (∀ n why, b.failAt = some (n, why) → 2 < n) → ∃ why, fails 2 why) ∧
    (fw → ¬ rt → (∀ n why, b.failAt = some (n, why) → 3 < n) → ∃ why, fails 3 why) ∧
    (b.failAt = none → fw → rt → ∃ t, exec (.bringup b) s = .next t ∧ t.m.power = .ready ∧ t.m.cxlUp = b.ports ∧ t.m.linkUp = b.linksUp ∧
      t.m.linkRet = 0 ∧ t.m.farDown = [] ∧ t.m.fwImage = b.firmware ∧ t.m.rtImage = b.runtime ∧ t.m.fwHash = sha512 b.firmware ∧
      t.m.rtHash = sha512 b.runtime ∧ t.c = s.c ∧ t.t = s.t ∧ t.tiles = s.tiles ∧
      t.m.clusters.length = s.m.clusters.length ∧
      ∀ i c, s.m.clusters[i]? = some c → ∃ d, t.m.clusters[i]? = some d ∧ d.dirty = c.dirty ∧ d.defects = b.defects.getD i 0 ∧
        d.pool = if 2 ≤ d.defects then .excluded else if c.dirty then .dirty else .free)) ∧
  (∀ (s : State) (b : BringUp), b.flow < 60 ∨ b.inlet < 20 ∨ 40 < b.inlet → ∀ t, exec (.bringup b) s ≠ .next t) ∧
  (∀ (s : State) (k : Nat) (c : Cluster), s.m.clusters[k]? = some c → c.dirty = true → s.m.power.isReady = true →
    (∀ f ∈ s.m.vfs.toList, k ∈ f.owned → f.st = .scrubbing) →
    ∃ t d, exec (.dirtyClusterScrub k) s = .next t ∧ t.m.clusters[k]? = some d ∧ d.dirty = false ∧
      d.pool = (if c.defects < 2 then .free else .excluded) ∧ (∀ f ∈ t.m.vfs.toList, k ∉ f.owned) ∧ t.c = s.c ∧ t.t = s.t ∧ t.tiles = s.tiles) ∧
  (∀ s : State,
    (∀ (outlet : Int) (flow : Nat), scheduled (.measure outlet flow) s = .next { s with m := { s.m with
        outlet := outlet, flow := flow
        critAt := if 65 < outlet ∨ flow < 30 then some (s.m.critAt.getD s.m.bmc) else none } }) ∧
    (55 < s.m.outlet ∨ s.m.flow < 60 → exec .thermalWarning s = .next { s with m := { s.m with warn := true } }) ∧
    (s.m.warn = true → s.m.outlet ≤ 55 → 60 ≤ s.m.flow → exec .thermalWarningCleared s = .next { s with m := { s.m with warn := false } }) ∧
    (∀ c, s.m.critAt = some c → c + 1900000000 ≤ s.m.bmc → s.m.power ≠ .off → exec .thermalCritical s = .next (powerDown s)) ∧
    (∀ c, s.m.critAt = some c → s.m.bmc < c + 1900000000 → ∀ t, exec .thermalCritical s ≠ .next t) ∧
    (∀ n, (advance n s).m.bmc = s.m.bmc + n) ∧
    exec .powerLoss s = .next (powerDown s) ∧
    (powerDown s).m.power = .off ∧ (powerDown s).m.keys = [] ∧ (powerDown s).g.live = false ∧ (powerDown s).bg = [] ∧
    (powerDown s).m.clusters.map (·.dirty) = s.m.clusters.map (·.dirty)) ∧
  (∀ (m : Module) (v : Nat), m.kOf v = if m.warn then min 4 (m.vfs.toList.getD v {}).k else (m.vfs.toList.getD v {}).k)

/-- R382, R387, R388, R392, R394, R396 and R442 to R447: integrity, recovery, power and cooling. -/
def Obligations.RecoveryAndPower : Prop := RecoveryActs ∧ PowerActs

/-! ## Launch -/

/-- R410, R411 and R414: a notify makes its queue pending and keeps the first time; a free slot takes the queue with the oldest notify; an empty pinned queue and
a busy one that has been held too long give up their slot; a fence counter takes the host's value. -/
def Sys2Proof.Says.SlotsAreShared : Prop :=
  (∀ (s : State) (v q : Nat), s.hasVf v = true → q < 64 →
    exec (.notifyWrite v q) s = .next (s.mapQueue v q fun x => { x with notify := some (x.notify.getD s.m.cycle) })) ∧
  (∀ (s : State) (k v q c : Nat), s.m.restart = false → s.m.power = .ready → k < 256 → (∀ x ∈ s.m.slots, x.n ≠ k) →
    oldestPending s = some (v, q, c) →
      let late := (s.vfAt v).quantumCycles < s.m.cycle - c
      let u := (s.mapVf v fun f => { f with starve := if late then (if f.starve = 0xFFFF then 0xFFFF else f.starve + 1) else f.starve }).mapQueue v q
        fun x => { x with notify := none }
      exec (.slotMapping k) s = .next (settleSlots { u with m := { u.m with slots := u.m.slots ++ [⟨k, v, q, s.m.cycle⟩] } })) ∧
  (∀ (s : State) (e : Nat × Nat × Nat), oldestPending s = some e → e ∈ pendingQueues s ∧ ∀ f ∈ pendingQueues s, e.2.2 ≤ f.2.2) ∧
  (∀ (s : State) (k : Nat) (x : LSlot), s.m.slots.find? (·.n == k) = some x → slotOver s x = true →
    let q := (s.vfAt x.v).queue x.q
    let freed : State := { s with m := { s.m with slots := s.m.slots.filter (·.n != k) } }
    (q.head = q.tail → q.pin = true → exec (.pinExpiry k) s = .next freed) ∧
    (q.head ≠ q.tail → s.inGroup x.v x.q = false →
      exec (.slotRotation k) s = .next (freed.mapQueue x.v x.q fun y => { y with notify := some s.m.cycle }))) ∧
  (∀ (s : State) (v i : Nat) (x : W64), s.hasVf v = true → i < 256 →
    ∃ t, exec (.fenceCounterWrite v i x) s = .next t ∧ (t.vfAt v).fence i = x ∧ (∀ j, j ≠ i → (t.vfAt v).fence j = (s.vfAt v).fence j) ∧
      (∀ u, u ≠ v → t.vfAt u = s.vfAt u))

/-- A record at the head of the queue of slot `k` can be dispatched. -/
def Sys2Proof.Says.Dispatches (s : State) (k v q : Nat) : Prop :=
  (∃ x, s.m.slots.find? (·.n == k) = some x ∧ x.v = v ∧ x.q = q) ∧ s.m.restart = false ∧ s.m.power = .ready ∧ s.takesLaunches v = true ∧
    ((s.vfAt v).queue q).on = true ∧ ((s.vfAt v).queue q).empty = false ∧ s.inGroup v q = false

/-- A member of a domain launch group commits its launch (R434). -/
def Sys2Proof.Says.commitMember (s : State) (x : GroupWait) : State :=
  if waitsForPool s ⟨x.v, x.q, x.dw, x.w, x.h⟩ then { s with m := { s.m with pullWait := true } }
  else match readImages ⟨x.v, x.q, x.dw, x.w, x.h⟩ s.m with
  | none => endLaunch s ⟨x.v, x.q, x.dw, x.w, x.h⟩ 6
  | some im => match readClasses im.classes with
    | none => endLaunch s ⟨x.v, x.q, x.dw, x.w, x.h⟩ 3
    | some cl => commitLaunch s ⟨x.v, x.q, x.dw, x.w, x.h⟩ im cl

/-- R412 to R415, R434 and R250: a record whose fence has come is dispatched with its size, ends with a status or becomes a grid; the members of a domain launch group
commit together or end together; a grid whose work is done completes; a waiting completion record is written. -/
def Sys2Proof.Says.LaunchesRun : Prop :=
  (∀ (s : State) (k v q : Nat), Dispatches s k v q →
    let d := (s.vfAt v).queue q
    (readRecord s v d = none → exec (.launchDispatch k) s = .next (endLaunch s ⟨v, q, [], 0, 0⟩ 6)) ∧
    (∀ m r m' w h, readRecord s v d = some (m, r) → m.pullWait = false →
      (dwN r 12 / 256 % 2 = 1 → r.getD 11 0 ≤ (s.vfAt v).fence (dwN r 12 % 256)) → launchSize ⟨v, q, r, 0, 0⟩ m = some (m', w, h) →
      let t := dispatchSized { s with m := m' } ⟨v, q, r, w, h⟩
      (t.m.pullWait = false → exec (.launchDispatch k) s = .next t) ∧ (t.m.pullWait = true → ∀ u, exec (.launchDispatch k) s ≠ .next u))) ∧
  (∀ (s : State) (l : Launch),
    (l.w = 0 ∨ l.h = 0 → dispatchSized s l = endLaunch s l 1) ∧
    (l.w ≠ 0 → l.h ≠ 0 → l.badRec = true → dispatchSized s l = endLaunch { s with free := s.free + 1 } l 2) ∧
    (l.w ≠ 0 → l.h ≠ 0 → waitsForPool s l = true → (dispatchSized s l).m.pullWait = true) ∧
    (∀ im cl, l.w ≠ 0 → l.h ≠ 0 → waitsForPool s l = false → checkLaunch s l = .ok im cl → l.domgrp = false → dispatchSized s l = commitLaunch s l im cl)) ∧
  (∀ (i : Nat) (pc args : W64) (root : BitVec 41) (asid : W16) (belay lashed dom : Bool), i < 4 →
    let c := startCtx i true pc args root asid belay lashed dom
    c.run = .ready ∧ c.pc = pc ∧ c.x[2].val = .ofNat 64 (0xFF00000000200000 - i * 0x4000) ∧ c.x[3].val = args ∧
      (∀ r : Fin 32, r ∉ [1, 2, 3, 4] → c.x[r] = { val := 0, tag := .full, v := true }) ∧ c.status.mode = false ∧ c.mDom = dom ∧ c.id = i) ∧
  (∀ (s : State) (gid : Nat) (a : GroupWait) (r : List GroupWait), groupMembers s gid = a :: r → s.m.restart = false →
    (∀ x ∈ a :: r, x.idx < x.count) →
    let u := (a :: r).foldl commitMember { s with m := { s.m with groups := s.m.groups.filter (·.gid != gid) } }
    let opens (u : State) : Prop := u.g.live = true ∧ u.g.domgrp = true ∧ u.g.group = gid
    let w := if opens u then forGroup (fun u => { u with g := { u.g with grpHere := (a :: r).map (·.idx) } }) u else u
    let t := if opens w then openBar w 3 0 0 else w
    let remote := decide ((a :: r).length < a.count)
    (t.m.pullWait = false → exec (.launchGroupCommit gid remote) s = .next t) ∧
      (t.m.pullWait = true → ∀ u, exec (.launchGroupCommit gid remote) s ≠ .next u)) ∧
  (∀ (s : State) (gid : Nat) (x : GroupWait), x ∈ s.m.groups → x.gid = gid →
    (x.since + 190000000 < s.m.cycle → exec (.launchGroupTimeout gid) s = .next (failGroup s gid)) ∧
    ((groupMembers s gid).length < x.count → exec (.launchGroupTimeout gid) s = .next (failGroup s gid))) ∧
  (∀ s : State, s.g.live = true → s.g.diverged = none → (∀ x ∈ s.allCtxs, x.2.active = false ∧ x.2.accs = []) →
    (∀ t ∈ s.allTiles, t.arrq = [] ∧ t.ni = [] ∧ t.lash.gated = [] ∧ t.lash.waiting = false ∧ t.lash.due = false ∧
      t.ldr.posted = [] ∧ t.str.posted = [] ∧ ∀ q < 7, t.cmdsOf q = []) → (∀ m ∈ s.g.mesh, m.body = .loadReq) →
      exec .gridCompletion s = .next (dropDead (endGrid 0 (flushLogs (performAllHeld s))))) ∧
  (∀ (s : State) (v : Nat) (c : Compl) (r : List Compl), v < 64 → (s.vfAt v).cwait = c :: r → (s.vfAt v).complRoom = true →
    let m := writeCompl (s.m.mapVf v fun f => { f with cwait := r }) v c
    m.pullWait = false → exec (.completionRecordRelease v) s = .next { s with m := m })

/-- R38, R250, R410 to R415 and R434: launch queues and slots, dispatch, and the end of grids. -/
def Obligations.LaunchesAreServed : Prop := SlotsAreShared ∧ LaunchesRun

/-! ## Functions, meters and the domain -/

/-- R290, R408, R420 and R422 to R424: the life of a partition, with what it does to the function's state and the pool; INVAL2 and scope limits; attestation. -/
def Sys2Proof.Says.PartitionsLive : Prop :=
  (∀ (s : State) (v : Nat), s.hasVf v = true →
    ((s.vfAt v).st = .free → exec (.partitionCreate v) s = .next (let u := s.mapVf v fun f => { f with st := .creating }
      if s.m.restart then u else assignClusters v u)) ∧
    ((s.vfAt v).st ≠ .free → exec (.partitionCreate v) s = .next s) ∧
    ((s.vfAt v).st ≠ .ready → (s.vfAt v).st ≠ .failed → exec (.partitionTeardown v) s = .next s) ∧
    ((s.vfAt v).st = .ready ∨ (s.vfAt v).st = .failed →
      ∃ t, exec (.partitionTeardown v) s = .next t ∧ (t.vfAt v).st = .scrubbing ∧ (∀ x ∈ t.m.keys, x.2 ≠ v) ∧ (∀ x ∈ t.m.slots, x.v ≠ v) ∧ (∀ x ∈ t.m.groups, x.v ≠ v) ∧
        (∀ i c, (abortGrids v s).m.clusters[i]? = some c → ∃ d, t.m.clusters[i]? = some d ∧
          (i ∈ (s.vfAt v).owned → d = { c with pool := .dirty }) ∧ (i ∉ (s.vfAt v).owned → d = c)) ∧
        ((s.vfAt v).prot = false → (t.vfAt v).scrubPgs = [])) ∧
    exec (.inval2 v) s = .next (s.mapVf v fun f => { f with inval2 := true }) ∧
    ∀ x, exec (.scopectlWrite v x) s = .next (s.mapVf v fun f =>
      { f with scopeAct := x.getLsbD 8, scopeCap := max 4 (x.toNat % 8), clamps := 0 })) ∧
  (∀ (s : State) (v : Nat), v < 64 →
    (rootValid s.m (s.vfAt v) = false ∨ takeClusters s.m (s.vfAt v) = none → assignClusters v s = s) ∧
    (∀ cs, rootValid s.m (s.vfAt v) = true → takeClusters s.m (s.vfAt v) = some cs →
      let t := assignClusters v s
      (t.vfAt v).owned = cs ∧ ∀ i c, s.m.clusters[i]? = some c → ∃ d, t.m.clusters[i]? = some d ∧
        (i ∈ cs → d.pool = .assigned v ∧ d.dirty = true) ∧ (i ∉ cs → d = c))) ∧
  (∀ (s : State) (v : Nat), s.hasVf v = true → (s.vfAt v).st = .creating → s.m.restart = false →
    let u := if (s.vfAt v).owned = [] then assignClusters v s else s
    ((u.vfAt v).owned = [] → exec (.partitionReady v) s = .next (u.mapVf v fun f => { f with st := .failed })) ∧
    ((u.vfAt v).owned ≠ [] →
      ∃ t, exec (.partitionReady v) s = .next t ∧ (t.vfAt v).st = .ready ∧ (t.vfAt v).owned = (u.vfAt v).owned ∧
        (t.vfAt v).reqs = [] ∧ (t.vfAt v).mig.st = 0 ∧ t.m.clusters = u.m.clusters)) ∧
  (∀ (s : State) (v : Nat), v < 64 → (s.vfAt v).st = .scrubbing →
    let u := scrubStep v s
    exec (.partitionScrubDone v) s =
      .next (if (u.vfAt v).owned = [] ∧ (u.vfAt v).scrubPgs = [] then u.mapVf v fun f => { f with st := .free } else u)) ∧
  (∀ (s : State) (v : Nat), v < 64 →
    (∀ k r, (s.vfAt v).owned = k :: r → ((scrubStep v s).vfAt v).owned = r ∧
      ∀ i c, s.m.clusters[i]? = some c → ∃ d, (scrubStep v s).m.clusters[i]? = some d ∧
        (i = k → d.dirty = false ∧ d.pool = if c.defects < 2 then .free else .excluded) ∧ (i ≠ k → d = c)) ∧
    (∀ p r, (s.vfAt v).owned = [] → (s.vfAt v).scrubPgs = p :: r → ((scrubStep v s).vfAt v).scrubPgs = r ∧
      ∀ a, p ≤ a → a < p + 65536 → (scrubStep v s).m.mem.get a = 0)) ∧
  (∀ (s : State) (v : Nat), v < 64 → (s.vfAt v).inval2 = true →
    exec (.inval2Complete v) s =
      .next (settleMig v (forVf v (flushTlbs fun e => e.vf == v) (s.mapVf v fun f => { f with inval2 := false })))) ∧
  (∀ (s : State) (v : Nat) (nonce : W512) (buf : W64), s.hasVf v = true → exec (.attestationRequest v nonce buf) s =
    .next (s.mapVf v fun f => { f with attNonce := nonce, attBuf := buf, attDone := false, attPend := true })) ∧
  (∀ (s : State) (v : Nat), v < 64 → (s.vfAt v).attPend = true →
    let f := s.vfAt v
    (gpaWrite v (pageParts f.attBuf.toNat 1024) s.m (attReport s.m f v)).pullWait = false → exec (.attestationReport v) s = .next (({ s with m := gpaWrite v (pageParts f.attBuf.toNat 1024) s.m (attReport s.m f v) } : State).mapVf v fun f =>
      { f with attDone := true, attPend := false }))

/-- R407, R417 and R421: a millisecond's power sets the issue fraction, a metering period writes usage records, and a word without behaviour of its own takes its value. -/
def Sys2Proof.Says.MetersRun : Prop :=
  (∀ (s : State) (v p : Nat), v < 64 → (s.vfAt v).winAt < s.m.cycle / 1900000 →
    exec (.energyWindow v p) s = .next (s.mapVf v fun f => { f.addMeter 3 p with
      winAt := f.winAt + 1, k := if f.budget.toNat = 0 ∨ p = 0 then 8 else min 8 (max 1 (8 * f.budget.toNat / p)) })) ∧
  (∀ (s : State), s.m.perStart + s.m.period * 1900000 ≤ s.m.cycle →
    let u := (List.range 64).foldl (meterOne (s.m.perStart * 1000 / 1900) (s.m.cycle * 1000 / 1900)) s
    exec .meterPeriod s = .next { u with m := { u.m with perStart := s.m.cycle } }) ∧
  (∀ (s : State) (v a b : Nat), v < 64 →
    let u := meterOne a b s v
    ((s.vfAt v).st = .free → u = s) ∧
    ((s.vfAt v).st ≠ .free → ∃ f : Vf, (∀ i : Fin 7, i ≠ 4 → i ≠ 5 → f.meters[i] = (s.vfAt v).meters[i]) ∧
      f.chainN = (s.vfAt v).chainN ∧ f.chainH = (s.vfAt v).chainH ∧
      let r := usageRecord f (recordId f v) a b
      (u.vfAt v).chainN = f.chainN + 1 ∧ (u.vfAt v).chainH = sha512 r ∧ u.c = s.c ∧ u.t = s.t ∧
      (s.m.usageW = [] ∧ s.m.usageRoom = true → u.m.mem = (writeUsage s.m r).mem ∧ u.m.usageT = s.m.usageT + 1 ∧ u.m.usageW = []) ∧
      (s.m.usageW ≠ [] ∨ s.m.usageRoom = false → u.m.mem = s.m.mem ∧ u.m.usageW = s.m.usageW ++ [r]))) ∧
  (∀ (s : State) (b : List Byte) (r : List (List Byte)), s.m.usageW = b :: r → s.m.usageRoom = true →
    exec .usageRecordRelease s = .next { s with m := writeUsage { s.m with usageW := r } b }) ∧
  (∀ (s : State) (off : Nat) (x : W64), s.hasVf 0 = true →
    exec (.registerWrite .pf off x) s = .next (writePfReg s off x) ∧
    (∀ v < 64, exec (.registerWrite (.vf v) off x) s = .next (writeVfReg s v off x)) ∧
    (writePfReg s 0x200000 x).m.dbgSel = x ∧ (writePfReg s 0x10000 x).m.usageB = x)

/-- R427, R428, R430 and R435: strand links count their resent beats and go down; a migration starts, pulls its pages and takes pool pages. -/
def Sys2Proof.Says.DomainRuns : Prop :=
  (∀ s : State, s.m.power = .ready → exec .linkstatWrite s = .next { s with m := { s.m with linkRet := 0 } }) ∧
  (∀ (s : State) (l : Nat), l < 32 → s.m.linkUp.getLsbD l = true →
    exec (.linkBeat l true) s = .next s ∧
    exec (.linkBeat l false) s = .next { s with m := { s.m with linkRet := if s.m.linkRet = 0xFFFFFFFF then 0xFFFFFFFF else s.m.linkRet + 1 } }) ∧
  (∀ (s : State) (l : Nat), s.m.power = .ready → l < 544 →
    let m := s.m.markDown l
    let gone := (List.range 16).filter fun p => s.m.remoteOk p && p != s.m.modId.toNat && s.m.reaches p && !m.reaches p
    exec (.linkDown l) s = .next (checkMigs (abortLost gone { s with m := m })) ∧
      (l < 32 → m.linkUp.getLsbD l = false) ∧ (∀ k < 32, k ≠ l → m.linkUp.getLsbD k = s.m.linkUp.getLsbD k)) ∧
  (∀ (s : State) (v : Nat), s.hasVf v = true →
    ((s.vfAt v).mig.st ≠ 0 → exec (.migrationStart v) s = .next s) ∧
    ((s.vfAt v).mig.st = 0 → exec (.migrationStart v) s =
      .next (checkMigs (settleMig v (forVf v (flushTlbs fun e => e.vf == v && !cacheable s.m e)
        (s.mapVf v fun f => { f with mig := { f.mig with st := 1, pulling := [] } }))))) ∧
    ∀ n, exec (.poolpagesWrite v n) s = .next (s.mapVf v fun f => { f with mig := { f.mig with poolN := n } })) ∧
  (∀ (s : State) (v a : Nat) (r : List Nat), v < 64 → (s.vfAt v).mig.st = 1 ∨ (s.vfAt v).mig.st = 2 → (s.vfAt v).mig.pulling = a :: r →
    let found := (leavesLeft s.m v).find? fun l => l.leaf.pa == a && l.leaf.shift == 16
    let done (u : State) : Out3 := .next (retryPulls v [a] (settleMig v (u.mapVf v fun f => { f with mig := { f.mig with pulling := r } })))
    (found = none → exec (.pagePull v) s = done s) ∧
    (∀ l, found = some l → (s.vfAt v).mig.poolN ≠ 0 → exec (.pagePull v) s = done { s with m := pullPage s.m v l.leaf })) ∧
  (∀ (m : Module) (v : Nat) (l : Leaf), v < 64 →
    let g := (m.vfs.toList.getD v {}).mig
    let h := ((pullPage m v l).vfs.toList.getD v {}).mig
    h.poolBase = g.poolBase + 65536 ∧ h.poolN = g.poolN - 1 ∧ h.pulling = g.pulling ∧ h.st = g.st) ∧
  (∀ (s : State) (v : Nat) (l : Leaf2), v < 64 → (s.vfAt v).mig.st = 1 →
    (leavesLeft s.m v).find? (fun l => l.leaf.shift == 16 && !(s.vfAt v).mig.pulling.contains l.leaf.pa) = some l →
      exec (.backgroundPull v) s = .next { s with m := startPull s.m v l.leaf.pa })

/-- R290, R407, R408, R417, R420 to R424, R427, R428, R430 and R435: partitions, meters, attestation, links and migration. -/
def Obligations.FunctionsAndDomain : Prop := PartitionsLive ∧ MetersRun ∧ DomainRuns

/-! ## What words leave alone -/

/-- `P`, or `P` with the repeat of the superstep then requested in every grid of the launch group: an uncorrectable error in a repeatable superstep
of BELAY = 6 (R392). -/
def Sys2Proof.Says.OrRollback (P : State → State → Prop) (s t : State) : Prop := P s t ∨ (s.g.belay = 6 ∧ ∃ u, P s u ∧ t = askRollback u)

/-- The tile's memories, the other tiles and grids and the module are as before; a correctable error that was read is counted (R381). -/
def Sys2Proof.Says.KeptAround (s t : State) : Prop :=
  { t.m with corrErr := s.m.corrErr } = s.m ∧ t.tiles = s.tiles ∧ t.bg = s.bg ∧ t.t.sp = s.t.sp ∧ t.t.slots = s.t.slots ∧ t.t.rmem = s.t.rmem ∧ t.t.tab8 = s.t.tab8 ∧
    t.t.tab4 = s.t.tab4 ∧ t.t.others = s.t.others ∧ t.t.sq = s.t.sq ∧ t.t.spill = s.t.spill ∧ t.t.eq = s.t.eq ∧ t.t.ldr = s.t.ldr ∧ t.t.str = s.t.str

/-- The special registers that no register word writes are as before. -/
def Sys2Proof.Says.KeptSpecial (s t : State) : Prop :=
  t.c.tvec = s.c.tvec ∧ t.c.scratch = s.c.scratch ∧ t.c.ie = s.c.ie ∧ t.c.runcap = s.c.runcap ∧ t.c.portcfg = s.c.portcfg ∧
    t.c.pitch = s.c.pitch ∧ t.c.cnt = s.c.cnt ∧ t.c.bto = s.c.bto ∧ t.c.tmatch = s.c.tmatch ∧ t.c.ptroot = s.c.ptroot ∧ t.c.asid = s.c.asid ∧
    t.c.frecs = s.c.frecs ∧ t.c.qin = s.c.qin ∧ t.c.qout = s.c.qout ∧ t.c.accs = s.c.accs ∧ t.c.status.rm = s.c.status.rm ∧
    t.c.mGang = s.c.mGang ∧ t.c.mGrid = s.c.mGrid ∧ t.c.mTile = s.c.mTile ∧ t.c.mDom = s.c.mDom

/-- The exception registers are as before, or the word has trapped: they then hold its pc, and the pc is the handler's (R34). -/
def Sys2Proof.Says.KeptOrTrapped (s t : State) : Prop :=
  (t.c.epc = s.c.epc ∧ t.c.cause = s.c.cause ∧ t.c.tval = s.c.tval ∧ t.c.tval2 = s.c.tval2 ∧ t.c.xtarget = s.c.xtarget ∧
    { t.c.status with xfer := false } = { s.c.status with xfer := false }) ∨
  (t.c.epc = s.c.pc ∧ t.c.pc = s.c.tvec ∧ t.c.status.mode = true ∧ t.c.status.pmode = s.c.status.mode)

/-- Scalar registers outside `xs`, vector registers outside `vs`, hypervector registers outside `hs` and tile registers outside `ts` are as before. -/
def Sys2Proof.Says.KeptRegisters (s t : State) (xs vs : List (Fin 32)) (hs ts : List (Fin 8)) : Prop :=
  (∀ r, r ∉ xs → t.c.x[r] = s.c.x[r]) ∧ (∀ r, r ∉ vs → t.c.v[r] = s.c.v[r]) ∧ (∀ r, r ∉ hs → t.c.h[r] = s.c.h[r]) ∧
    ∀ r, r ∉ ts → t.c.t[r] = s.c.t[r]

/-- What a register word with those destinations leaves alone, however it ends. -/
def Sys2Proof.Says.RegisterFrame (s t : State) (xs vs : List (Fin 32)) (hs : List (Fin 8)) : Prop :=
  OrRollback (fun s t => KeptAround s t ∧ KeptSpecial s t ∧ KeptOrTrapped s t ∧ KeptRegisters s t xs vs hs [] ∧ t.c.b = s.c.b ∧
    t.c.sat = s.c.sat ∧ t.c.fflags &&& s.c.fflags = s.c.fflags) s t

/-- The floating-point flags are as before. -/
def Sys2Proof.Says.FlagsKept (s t : State) : Prop := OrRollback (fun s t => t.c.fflags = s.c.fflags) s t

/-- The integer words among `rWords`. -/
def Sys2Proof.Says.intWords : List (Fin 32 → Fin 32 → Fin 32 → Bool → Bool → Instr) :=
  [Sz32.w64, .w32].flatMap (fun sz => (aluTable.map fun p => p.1 sz) ++ (cmpTable.map fun p => p.1 sz) ++ [.bfx sz, .bfi sz, .pack sz]) ++
    [.tst, .gate, .gaten, .selv]

/-- The frame of the register words: whether it completes, is nullified, blocks or traps, a word changes no register but its destination, no
memory, and no special register but those of the trap; integer and hypervector words change no floating-point flag, and the others only set some. -/
def Obligations.RegisterWordsChangeNothingElse : Prop :=
  (∀ w ∈ rWords ++ intWords, ∀ (s t : State) (d a b : Fin 32) (wa wb : Bool), exec (w d a b wa wb) s = .next t → RegisterFrame s t [d] [] []) ∧
  (∀ w ∈ intWords, ∀ (s t : State) (d a b : Fin 32) (wa wb : Bool), exec (w d a b wa wb) s = .next t → FlagsKept s t) ∧
  (∀ w ∈ uWords ++ [.setv, .clrv, .isv, .movv], ∀ (s t : State) (d a : Fin 32) (wa : Bool), exec (w d a wa) s = .next t →
    RegisterFrame s t [d] [] []) ∧
  (∀ p ∈ immTable, ∀ (s t : State) (d a : Fin 32) (wa : Bool) (imm : BitVec 14), exec (p.1 d a wa imm) s = .next t →
    RegisterFrame s t [d] [] [] ∧ FlagsKept s t) ∧
  (∀ p ∈ shiTable, ∀ (s t : State) (d a : Fin 32) (wa : Bool) (k : BitVec 6), exec (p.1 d a wa k) s = .next t →
    RegisterFrame s t [d] [] [] ∧ FlagsKept s t) ∧
  (∀ p ∈ cmpiTable, ∀ (s t : State) (d a : Fin 32) (wa : Bool) (imm : BitVec 11), exec (p.1 d a wa imm) s = .next t →
    RegisterFrame s t [d] [] [] ∧ FlagsKept s t) ∧
  (∀ (s t : State) (d : Fin 32) (imm : BitVec 20), ∀ i ∈ [Instr.li d imm, .lih d imm], exec i s = .next t →
    RegisterFrame s t [d] [] [] ∧ FlagsKept s t) ∧
  (∀ p ∈ vintTable, ∀ (s t : State) (e : IEt) (d a b : Fin 32), exec (p.1 e d a b) s = .next t → RegisterFrame s t [] [d] []) ∧
  (∀ p ∈ vfltTable, ∀ (s t : State) (e : FEt) (d a b : Fin 32), exec (p.1 e d a b) s = .next t → RegisterFrame s t [] [d] []) ∧
  (∀ p ∈ redTable, ∀ (s t : State) (e : LEt) (d a : Fin 32), exec (p.1 e d a) s = .next t → RegisterFrame s t [d] [] []) ∧
  (∀ p ∈ moveTable, ∀ (s t : State) (e : LEt) (d a b : Fin 32), exec (p.1 e d a b) s = .next t → RegisterFrame s t [] [d] []) ∧
  (∀ p ∈ hvTable, ∀ (s t : State) (d a b : Fin 8), exec (p.1 d a b) s = .next t → RegisterFrame s t [] [] [d] ∧ FlagsKept s t)

/-- No byte of global memory is changed, nor of a scratchpad but those of the own one whose offsets satisfy `P`. -/
def Sys2Proof.Says.MemoryBut (s t : State) (P : Nat → Prop) : Prop :=
  OrRollback (fun s t => t.m.mem = s.m.mem ∧ t.m.blockKey = s.m.blockKey ∧ t.m.keys = s.m.keys ∧
    ∀ vt k, ¬ (vt = s.t.vt ∧ P k) → spRead t vt k 1 = spRead s vt k 1) s t

/-- The `n` bytes from `o` on. -/
def Sys2Proof.Says.bytesAt (o n k : Nat) : Prop := o ≤ k ∧ k < o + n

/-- What a memory word leaves alone of the context. -/
def Sys2Proof.Says.MemoryFrame (s t : State) (xs vs : List (Fin 32)) (hs ts : List (Fin 8)) : Prop :=
  OrRollback (fun s t => KeptOrTrapped s t ∧ KeptRegisters s t xs vs hs ts ∧ t.c.b = s.c.b ∧ t.c.sat = s.c.sat ∧ t.c.fflags = s.c.fflags ∧
    t.c.tvec = s.c.tvec ∧ t.c.scratch = s.c.scratch ∧ t.c.ie = s.c.ie ∧ t.c.ptroot = s.c.ptroot ∧ t.c.asid = s.c.asid ∧ t.c.cnt = s.c.cnt ∧
    t.c.pitch = s.c.pitch) s t

/-- Wherever its address lies, and whether it completes, is nullified, waits or traps, a memory word changes no register of the context but its
destination, and no special register but those of a trap. -/
def Sys2Proof.Says.MemoryWordsKeepTheContext : Prop :=
  ∀ (s t : State), s.c.accs = [] →
    (∀ z ∈ sizes, ∀ (d a b : Fin 32) (w wd nw : Bool) (off : BitVec 11) (sc : Scope),
      (∀ i ∈ [Instr.st z.1 d b w wd off, .stRel z.1 d a sc w, .vsca z.1 d a b w], exec i s = .next t → MemoryFrame s t [] [] [] []) ∧
      (∀ i ∈ [Instr.ld z.1 d b w nw off, .lds z.1 d b w nw off, .ldAcq z.1 d a sc w], exec i s = .next t → MemoryFrame s t [d] [] [] []) ∧
      (∀ i ∈ [Instr.vldb z.1 d a w, .vgat z.1 d a b w], exec i s = .next t → MemoryFrame s t [] [d] [] [])) ∧
    (∀ (d a b : Fin 32) (w : Bool) (off : BitVec 11),
      (∀ i ∈ [Instr.stQ d a w, .vst d b w off, .touch a w], exec i s = .next t → MemoryFrame s t [] [] [] []) ∧
      (exec (.ldQ d a w) s = .next t → MemoryFrame s t [d, d + 1] [] [] []) ∧
      (∀ i ∈ [Instr.vld d b w off, .vldNw d b w off], exec i s = .next t → MemoryFrame s t [] [d] [] [])) ∧
    (∀ (d : Fin 8) (b : Fin 32) (w wd nw : Bool) (off : BitVec 11),
      (exec (.hst d b w wd off) s = .next t → MemoryFrame s t [] [] [] []) ∧ (exec (.hld d b w nw off) s = .next t → MemoryFrame s t [] [] [d] [])) ∧
    (∀ (d a b : Fin 32) (o : Ord) (sc : Scope),
      (∀ p ∈ amoWords, exec (p.1 d a b o sc) s = .next t → MemoryFrame s t [d] [] [] []) ∧
      (exec (.casD d a b o sc) s = .next t → MemoryFrame s t [d] [] [] []) ∧
      (exec (.casQ d a b o sc) s = .next t → MemoryFrame s t [d, d + 1] [] [] [])) ∧
    (∀ (d : Fin 8) (x a b c : Fin 32) (e : Bool) (len : WLen),
      (∀ i ∈ [Instr.mld e d a b, .mepi d a b c], exec i s = .next t → MemoryFrame s t [] [] [] [d]) ∧
      (∀ i ∈ [Instr.mst d a b, .wbld len e x a], exec i s = .next t → MemoryFrame s t [] [] [] []))

/-- In the own scratchpad a store changes no byte but those at its address, a vector store those of its lanes, a matrix store those of its rows, and a
load none. -/
def Sys2Proof.Says.OwnWordsChangeTheirBytes : Prop :=
  ∀ (s t : State), s.c.accs = [] → s.c.posted = [] → s.t.sp.wf = true →
    (∀ z ∈ sizes, ∀ (d b : Fin 32) (w wd nw : Bool) (off : BitVec 11) (x : W64) (v : Bool), scalar s [] b = some (x, v) →
      let ea := x + off.signExtend 64 * .ofNat 64 z.2
      Own ea z.2 → (exec (.st z.1 d b w wd off) s = .next t → MemoryBut s t (bytesAt (offset ea) z.2)) ∧
        ∀ i ∈ [Instr.ld z.1 d b w nw off, .lds z.1 d b w nw off], exec i s = .next t → MemoryBut s t fun _ => False) ∧
    (∀ z ∈ sizes, ∀ (d a : Fin 32) (w : Bool) (sc : Scope) (ea : W64) (v : Bool), scalar s [] a = some (ea, v) → Own ea z.2 →
      (exec (.stRel z.1 d a sc w) s = .next t → MemoryBut s t (bytesAt (offset ea) z.2)) ∧
      ∀ i ∈ [Instr.ldAcq z.1 d a sc w, .vldb z.1 d a w], exec i s = .next t → MemoryBut s t fun _ => False) ∧
    (∀ (d a : Fin 32) (w : Bool) (ea : W64) (v : Bool), scalar s [] a = some (ea, v) → Own ea 16 →
      (exec (.stQ d a w) s = .next t → MemoryBut s t (bytesAt (offset ea) 16)) ∧
      (exec (.ldQ d a w) s = .next t → MemoryBut s t fun _ => False)) ∧
    (∀ (d b : Fin 32) (w : Bool) (off : BitVec 11) (x : W64) (v : Bool), scalar s [] b = some (x, v) →
      let ea := x + off.signExtend 64 * 64
      Own ea 64 → (exec (.vst d b w off) s = .next t → MemoryBut s t (bytesAt (offset ea) 64)) ∧
        ∀ i ∈ [Instr.vld d b w off, .vldNw d b w off], exec i s = .next t → MemoryBut s t fun _ => False) ∧
    (∀ (d : Fin 8) (b : Fin 32) (w wd nw : Bool) (off : BitVec 11) (x : W64) (v : Bool), scalar s [] b = some (x, v) →
      let ea := x + off.signExtend 64 * 1024
      Own ea 1024 → (exec (.hst d b w wd off) s = .next t → MemoryBut s t (bytesAt (offset ea) 1024)) ∧
        (exec (.hld d b w nw off) s = .next t → MemoryBut s t fun _ => False)) ∧
    (∀ z ∈ sizes, ∀ (d a b : Fin 32) (w : Bool),
      (exec (.vgat z.1 d a b w) s = .next t → MemoryBut s t fun _ => False) ∧
      ∀ (x : W64) (idx y : W512) (k : Bool) (v u : BitVec 8), scalar s [] a = some (x, k) → vector s [a] b = some (idx, v) →
        vector s [a, b] d = some (y, u) → exec (.vsca z.1 d a b w) s = .next t → MemoryBut s t fun o => ∃ i < 64 / z.2,
          (v &&& u).getLsbD (i * z.2 / 8) = true ∧
            bytesAt (offset (x + .ofNat 64 (idx.toNat / 2 ^ (8 * z.2 * i) % 2 ^ (8 * z.2) * z.2))) z.2 o) ∧
    (∀ (d : Fin 8) (a b c : Fin 32) (e : Bool) (ea p : W64) (j k : Bool), scalar s [] a = some (ea, j) → scalar s [a] b = some (p, k) →
      (exec (.mld e d a b) s = .next t → MemoryBut s t fun _ => False) ∧
      (exec (.mst d a b) s = .next t → MemoryBut s t fun o => ∃ i < 32, bytesAt (offset (row ea (if b = 0 then 128 else p.toNat) i)) 128 o) ∧
      ∀ (x : W64) (l : Bool) (m : MepiCtl), scalar s [a, b] c = some (x, l) → mepiCtl x.toNat = some m → exec (.mepi d a b c) s = .next t →
        let n := m.width * 4
        let pitch := if m.dpitch = 0 then n else m.dpitch
        MemoryBut s t fun o => (∃ i < 32, bytesAt (offset (row ea pitch i)) n o) ∨ m.ovfw = true ∧ bytesAt (offset (row ea pitch 32)) 4 o) ∧
    (∀ (d a : Fin 32) (len : WLen) (e : Bool) (ea : W64) (j : Bool), scalar s [] a = some (ea, j) → Own ea 1 →
      exec (.wbld len e d a) s = .next t → MemoryBut s t fun _ => False)

/-- Every byte that piece `q` reaches but its `n` bytes that satisfy `P`, by their position, reads as before, and so does every other byte: in global memory
under the key of the piece (R406), and in every scratchpad. -/
def Sys2Proof.Says.BytesBut (u t : State) (q : Piece) (P : Nat → Prop) : Prop :=
  (match q.place with
    | .glob pa => ∀ a, ¬ (pa ≤ a ∧ P (a - pa)) → t.m.getByte q.key a = u.m.getByte q.key a
    | .tile _ _ => t.m.mem = u.m.mem ∧ t.m.blockKey = u.m.blockKey) ∧
  ∀ vt k, ¬ (∃ o, q.place = .tile vt o ∧ o ≤ k ∧ P (k - o)) → spRead t vt k 1 = spRead u vt k 1

/-- No byte of memory is changed. -/
def Sys2Proof.Says.NoByte (u t : State) : Prop := t.m.mem = u.m.mem ∧ t.m.blockKey = u.m.blockKey ∧ ∀ vt k, spRead t vt k 1 = spRead u vt k 1

/-- Wherever its address lies, a load changes no byte of memory: what it leaves is what stood before it, or what the walks of its address have
left (R330). -/
def Sys2Proof.Says.LoadsChangeNoByte : Prop :=
  ∀ (s s' t : State) (b : Fin 32) (x : W64) (ps : List Piece), s.c.accs = [] → s.c.posted = [] → s.g.belay = 0 → One s b x →
    let Keeps (ea : W64) (n align : Nat) (i : Instr) : Prop :=
      checkAddr s ea n align .load .load = .ok s' ps → exec i s = .next t → NoByte s t ∨ NoByte s' t
    (∀ z ∈ sizes, ∀ (d : Fin 32) (w nw : Bool) (off : BitVec 11) (sc : Scope),
      (∀ i ∈ [Instr.ld z.1 d b w nw off, .lds z.1 d b w nw off], Keeps (x + off.signExtend 64 * .ofNat 64 z.2) z.2 z.2 i) ∧
      (∀ i ∈ [Instr.ldAcq z.1 d b sc w, .vldb z.1 d b w], Keeps x z.2 z.2 i)) ∧
    (∀ (d : Fin 32) (h : Fin 8) (w nw : Bool) (off : BitVec 11), Keeps x 16 16 (.ldQ d b w) ∧
      (∀ i ∈ [Instr.vld d b w off, .vldNw d b w off], Keeps (x + off.signExtend 64 * 64) 64 64 i) ∧
      Keeps (x + off.signExtend 64 * 1024) 1024 64 (.hld h b w nw off)) ∧
    (∀ (d : Fin 32) (len : WLen) (e : Bool),
      Keeps x ((match len with | .b512 => 512 | .k1 => 1024 | .k2 => 2048) + if e then 256 else 0) 64 (.wbld len e d b))

/-- A store off the core changes no byte but its own at the place that its address is translated to, with the page dirty (R330). -/
def Sys2Proof.Says.OffCoreStoresChangeTheirBytes : Prop :=
  ∀ (s u t : State) (q : Piece),
    (∀ z ∈ sizes, ∀ (d b : Fin 32) (w wd : Bool) (off : BitVec 11) (x y : W64), Two s b d x y →
      Sends s (x + off.signExtend 64 * .ofNat 64 z.2) z.2 z.2 false true u [q] → exec (.st z.1 d b w wd off) s = .next t → BytesBut u t q (· < z.2)) ∧
    (∀ z ∈ sizes, ∀ (d a : Fin 32) (w : Bool) (sc : Scope) (ea y : W64), Two s a d ea y → NothingBefore s → Sends s ea z.2 z.2 false true u [q] →
      exec (.stRel z.1 d a sc w) s = .next t → BytesBut u t q (· < z.2) ∨ NoByte s t) ∧
    (∀ (d a : Fin 32) (w : Bool) (ea y z : W64), Two s a d ea y → scalar s [a, d] (d + 1) = some (z, true) → Sends s ea 16 16 false true u [q] →
      exec (.stQ d a w) s = .next t → BytesBut u t q (· < 16)) ∧
    (∀ (d b : Fin 32) (w : Bool) (off : BitVec 11) (x : W64) (y : W512) (v : BitVec 8), One s b x → vector s [b] d = some (y, v) → v ≠ 0 →
      Sends s (x + off.signExtend 64 * 64) 64 64 true false u [q] → exec (.vst d b w off) s = .next t →
        BytesBut u t q fun o => ∃ k < 8, v.getLsbD k = true ∧ bytesAt (8 * k) 8 o) ∧
    (∀ (d : Fin 8) (b : Fin 32) (w wd : Bool) (off : BitVec 11) (x : W64) (y : W8192), One s b x → hyper s d = some y →
      Sends s (x + off.signExtend 64 * 1024) 1024 64 false true u [q] → exec (.hst d b w wd off) s = .next t → BytesBut u t q (· < 1024))

/-- An atomic changes no byte but those of its place, and none at its own word unless it is an acquire, which is performed there (R285, R298). -/
def Sys2Proof.Says.AtomicsChangeTheirPlace : Prop :=
  ∀ (s s' t : State) (d a b : Fin 32) (o : Ord) (sc : Scope) (ea : W64) (q : Piece), s.c.accs = [] → s.c.posted = [] → s.g.belay = 0 →
    let early : Prop := o = .rlx ∨ o = .rel
    (∀ p ∈ amoWords, ∀ (u : State) (v : W64) (ps : List Piece), Two s a b ea v → Writable s d →
      let n := if p.2.2 then 8 else 4
      Atomic s s' ea n .amo o sc ps → DirtyAt s' ea ps u [q] → exec (p.1 d a b o sc) s = .next t → BytesBut u t q (· < n) ∧ (early → NoByte u t)) ∧
    (∀ new e : W64, Three s a b d ea new e → Writable s d → Atomic s s' ea 8 .cas o sc [q] → exec (.casD d a b o sc) s = .next t →
      (early → NoByte s' t) ∧ ((∃ vt i, q.place = .tile vt i) → BytesBut s' t q (· < 8))) ∧
    (∀ n0 n1 e0 e1 : W64, Two s a b ea n0 → scalar s [a, b] (b + 1) = some (n1, true) → scalar s [a, b, b + 1] d = some (e0, true) →
      scalar s [a, b, b + 1, d] (d + 1) = some (e1, true) → Writable s d → Writable s (d + 1) → Atomic s s' ea 16 .cas o sc [q] →
      exec (.casQ d a b o sc) s = .next t → (early → NoByte s' t) ∧ ((∃ vt i, q.place = .tile vt i) → BytesBut s' t q (· < 16)))

/-- The frame of the memory words, with nothing outstanding: a store changes no register, and no byte of memory but those it stores to; a load changes no byte
of memory, and no register but its destinations; an atomic its destinations and its place; and the matrix memory words likewise. -/
def Obligations.MemoryWordsChangeNothingElse : Prop :=
  MemoryWordsKeepTheContext ∧ OwnWordsChangeTheirBytes ∧ LoadsChangeNoByte ∧ OffCoreStoresChangeTheirBytes ∧ AtomicsChangeTheirPlace

/-! ## A step -/

/-- What the fetch of the four bytes at a global address answers: the bytes at the address it is translated to, in memory or in a cached line of
the tile's instruction cache (R44). -/
def Sys2Proof.Says.FetchReadsMemory : Prop :=
  ∀ (s u : State) (va : W64) (pa key : Nat), va.toNat < 2 ^ 56 → translate s s.t.vt .i (s.c.space s) .fetch va.toNat = .ok u pa key →
    u.m.paExists pa = true → pa % 64 ≤ 60 →
    ((∀ l ∈ u.t.icache, l.base ≠ pa / 64 * 64) → u.m.badRange (pa / 64 * 64) 64 = false →
      u.m.codeBad (pa / 64 * 64) 64 = false →
      ∃ t, fetchWord s va = .ok t (natOf (u.m.readGlob key pa 4)) ∧ t.c = u.c) ∧
    (∀ (l : ILine) (r : List ILine), u.t.icache = l :: r → l.base = pa / 64 * 64 →
      fetchWord s va = .ok u (natOf ((l.bytes.drop (pa - l.base)).take 4)))

/-- A lone word, the C word of an aligned pair and the A word after it are run; bit 31 of a word is its L bit and bit 30 its class (R46, R47, R49). The
two words of a pair that does not stop are one access: its A word is the one that was read with its C word (R52). -/
def Sys2Proof.Says.FramedWordsAreRun : Prop :=
  (∀ (s t u : State) (w z : Nat) (i : Instr), s.c.pos = .unit → fetchWord s s.c.pc = .ok t w → bits w 31 1 = 1 → decode w = .ok i →
    (if s.c.pc.toNat % 8 = 0 then fetchWord t (s.c.pc + 4) = .ok u z else u = t) →
      fetchUnit s = .run { u with c := { u.c with fetched := none, inPair := false, run := .ready } } i) ∧
  (∀ (s t u : State) (w z : Nat) (i : Instr), s.c.pos = .unit → s.c.pc.toNat % 8 = 0 → fetchWord s s.c.pc = .ok t w →
    fetchWord t (s.c.pc + 4) = .ok u z → w ≠ 0 → bits w 30 2 = 0 → bits z 30 2 = 1 → decode w = .ok i → i ≠ .sret → i ≠ .endCtx →
      fetchUnit s = .run { u with c := { u.c with fetched := some (.ofNat 32 z), inPair := true, run := .ready } } i) ∧
  (∀ (s : State) (z : BitVec 32) (i : Instr), s.c.pos = .aWord → s.c.fetched = some z → bits z.toNat 30 1 = 1 → decode z.toNat = .ok i →
    fetchUnit s = .run { s with c := { s.c with inPair := false, run := .ready } } i) ∧
  (∀ (s u : State) (w : Nat) (i : Instr), s.c.pos = .aWord → s.c.fetched = none → fetchWord s s.c.pc = .ok u w → bits w 30 1 = 1 → decode w = .ok i →
    fetchUnit s = .run { u with c := { u.c with inPair := false, run := .ready } } i)

/-- Tile `vt` is scheduled and its core may issue this cycle: `u` is the machine when its turn has been settled, and `f` the same with the context
in focus that issues (R231, R232, R417). -/
def Sys2Proof.Says.Issues (s u f : State) (vt : Nat) : Prop :=
  s.m.cycle % 8 < s.m.kOf s.g.vf ∧ u = expireTurn s vt ∧
    ∃ t c, u.tile? vt = some t ∧ nextTurn u t = some c ∧ f = switchTo (u.focus vt c) c

/-- Nothing is taken before the word that comes to `o`: no debugger's halt, no denied page, no deferred fault, and no interrupt unless the word itself
raises a synchronous trap, which goes first (R34, R332, R364, R378); and no access that everything after it waits for is outstanding (R285, R286). -/
def Sys2Proof.Says.Undisturbed (f : State) (o : Out3) : Prop :=
  (f.c.dbg.pending && f.c.atBoundary) = false ∧ dueDenial f = none ∧ dueFault f = none ∧
    (f.heldBack f.t.vt = true ∨ dueIrq f = none ∨ trapped f o = true) ∧ f.c.inHandler = false ∧ f.c.atEndStub = false ∧
    f.c.accs.any Access.ahead = false

/-- The machine once the head of its schedule is taken. -/
def Sys2Proof.Says.rest (s : State) : State := { s with sched := s.sched.drop 1 }

/-- R44, R46, R49, R231, R338: a step of a tile core or of a helper core is `exec` of the instruction that the bytes at its program counter decode
to, and a step that an event makes is `exec` of the event; around it stand the accounts of the cycle, what the partners of lashed tiles do beside it (R385),
and the flush of the log. A partner does what its primary does, in the primary's place. -/
def Obligations.StepRunsTheDecodedInstruction : Prop :=
  FetchReadsMemory ∧ FramedWordsAreRun ∧
  (∀ (s u f g : State) (vt : Nat) (r : List Sched) (i : Instr), s.sched = .turn vt :: r → Issues (rest s) u f vt →
    fetchUnit f = .run g i → Undisturbed f (exec i g) → step s = flushed (paired s (settle u.m.cycle (unitDone (exec i g))))) ∧
  (∀ (s : State) (o : Out3), s.g.partners = [] → paired s o = o) ∧
  (∀ (s r : State) (u : Tile) (e : Sched) (l : List Sched), s.sched = e :: l → (∀ k, e ≠ .grid k) → s.g.partners = [u] → r.g.partners = [u] →
    r.bg.length = s.bg.length → paired s (.next r) = .next (r.notePartner (afterTurn (s.asPartner u)) u.vt)) ∧
  (∀ o : Out3, (∀ t, o = .next t → t.c.dbg.step = false ∧ t.c.dbg.pending = false) → unitDone o = o) ∧
  (∀ (s : State) (e : Instr) (r : List Sched), s.sched = .event e :: r → trapsFirst (rest s) e = false →
    step s = flushed (paired s (passOver (rest s) (exec e (rest s))))) ∧
  (∀ (s : State) (vt : Nat) (storer : Bool) (r : List Sched) (t : Tile) (i : Instr), s.sched = .helper vt storer :: r →
    (rest s).tile? vt = some t → (if storer then t.str else t.ldr).runs (rest s) t = true →
      let f := focusHelper (rest s) vt storer
      let a := f.helper.pc.toNat
      f.helper.dbg.pending = false → hDenial f = none → replayStop f vt f.hrole = false → f.helper.irq = false → a % 4 = 0 → iBase ≤ a → a + 4 ≤ iBase + 0x8000 →
        f.t.badRange (srcHelper f.storer false) (a - iBase) 4 = false → decodeHelper (natOf (f.helper.istore.read (a - iBase) 4)) = .ok i →
          step s = flushed (paired s (exec i (repairMarks f f.t.vt (srcHelper f.storer false) (unitsOf 8 (a - iBase) 4)))))

/-! ## Encodings -/

/-- Words written out from the tables of the encoding (R53 to R69, R74, R342), and what they stand for: an integer, immediate, compare, validity and
float word, memory and atomic words, vector and hypervector words, and the system words. -/
noncomputable def Sys2Proof.Says.specWords : List (Nat × Instr) :=
  [(0b11000000001100101001100000010101, .sub .w32 3 5 6 true false),
   (0b11000010011101000011111111111111, .addi 7 8 false 0x3FFF),
   (0b11001010100101010010000000000101, .srai 9 10 false 5),
   (0b11001100000100010000110000111000, .cmpLtn .w64 1 2 3 false true),
   (0b11001110010000101010011111111101, .cmpiGt 4 5 false 0x7FD),
   (0b11010000000100010010001101000101, .li 1 0x12345),
   (0b11010100001000011000000000110001, .bswap .w32 2 3 false),
   (0b11010110000100010000110000010000, .gaten 1 2 3 false false),
   (0b11011000000100010000110001110010, .fma .f32 1 2 3 false false),
   (0b10000110010100100011000000001000, .st .w 5 4 false true 8),
   (0b10001000000100010001000000000011, .ldAcq .d 1 2 .grid false),
   (0b10001010000100010000110001111101, .amoadd true 1 2 3 .acqRel .dom),
   (0b11100000000100010000110000010011, .vsub .s16 1 2 3),
   (0xE230883A, .vfma .f32 3 1 2), (0xE651808A, .vredAdd (.flt .f32) 5 3), (0xE64098B9, .vpack24 .bf16 4 1 6),
   (0b11111000010100001000100000001010, .hdist 5 1 2),
   (0b11111010010100001000100000000011, .hrecall 5 1 2),
   (0b10100100000100010101000000000110, .csrw 1 2 true 6),
   (0b10011010000000000000110000000000, .sync .gang),
   (0x9AF00C40, .fence .gang true true true true), (0xA2000010, .sret), (0xA2000020, .endCtx)]

/-- R53 to R69: the decoder reads those words, with the L bit and without, as the tables of the spec do; and the words of a helper core (R338, R342). -/
def Obligations.DecodeReadsSpecWords : Prop :=
  (∀ p ∈ specWords, decode p.1 = .ok p.2 ∧ decode (p.1 % 2 ^ 31) = .ok p.2) ∧
  decodeHelper 0b00000110000000110011001110001011 = .ok (.dkWcnt 3 6 7) ∧
  decodeHelper 0xFFF30293 = .ok (.rv64imInstruction 0xFFF30293) ∧ decodeHelper 0x73 = .ok .ecall ∧ decodeHelper 0x100073 = .ok .ebreak

/-- R53 to R69, R342: decoding is the inverse of encoding, for every well-formed instruction of the tile core and of the helper cores and every
operand that the encoding admits; the L bit is no part of the instruction. -/
def Obligations.DecodeAfterEncode : Prop :=
  (∀ (i : Instr) (w : Nat), i.wf = true → encode i = some w → w < 2 ^ 31 ∧ decode w = .ok i ∧ decode (w + 2 ^ 31) = .ok i) ∧
  (∀ (i : Instr) (w : Nat), i.wf = true → encodeHelper i = some w → w < 2 ^ 32 ∧ decodeHelper w = .ok i)

/-! ## Invariants -/

/-- The memories of the tile are in their canonical form. -/
def Sys2Proof.Says.TileForm (t : Tile) : Prop :=
  t.sp.wf = true ∧ t.ldr.istore.wf = true ∧ t.ldr.dstore.wf = true ∧ t.str.istore.wf = true ∧ t.str.dstore.wf = true

/-- So are those of the checkpoints that the grid keeps, and of the partner tiles (R385, R387, R390). -/
def Sys2Proof.Says.GridForm (g : Grid) : Prop := ∀ t ∈ g.lashChk ++ g.belayChk ++ g.partners ++ g.partnerChk, TileForm t

/-- Every memory of the machine is in its canonical form, addresses rising and no zero listed: global memory, scratchpads, the stores of
the helper cores, and their copies. -/
def Sys2Proof.Says.MemoryForm (s : State) : Prop :=
  s.m.mem.wf = true ∧ TileForm s.t ∧ (∀ t ∈ s.tiles, TileForm t) ∧ GridForm s.g ∧ ∀ b ∈ s.bg, GridForm b.g ∧ ∀ t ∈ b.tiles, TileForm t

/-- Every step keeps the canonical form of every memory (log 6). -/
def Obligations.StepKeepsMemoryForm : Prop := ∀ s t : State, MemoryForm s → step s = .next t → MemoryForm t

/-- The state after reset meets the invariant and has the module off with nothing launched and no byte of memory listed; its one context has not
started, and holds the values of R29 to R33, R38, R96, R175, R182, R204, R232, R235, R238 and R274 at context start, which the model takes for reset too (log 4). -/
def Obligations.ResetHoldsWhatTheSpecStates : Prop :=
  let s := State.reset
  MemoryForm s ∧ s.m.mem.cells = [] ∧ s.g.live = false ∧ s.bg = [] ∧ s.m.power = .off ∧ s.m.slots = [] ∧ s.m.cycle = 0 ∧ s.c.run = .notStarted ∧
    (∀ r : Fin 32, 5 ≤ r.val → s.c.x[r].val = 0 ∧ s.c.x[r].tag = .full ∧ s.c.x[r].v = true) ∧
    (∀ r : Fin 32, s.c.v[r].val = 0 ∧ s.c.v[r].tag = .full ∧ s.c.v[r].v = BitVec.allOnes 8) ∧
    (∀ r : Fin 8, s.c.t[r].valid = false ∧ s.c.t[r].dirty = false ∧ s.c.t[r].inflight = 0 ∧ s.c.t[r].ovf = 0 ∧
      s.c.h[r].val = 0 ∧ s.c.h[r].tag = .full) ∧
    (∀ r : Fin 2, s.c.b[r] = 0) ∧ (∀ d : Fin 4, s.c.inq[d] = []) ∧ (∀ e : Fin 256, s.t.rmem[e].valid = false) ∧
    (s.c.epc = 0 ∧ s.c.cause = 0 ∧ s.c.tval = 0 ∧ s.c.tval2 = 0 ∧ s.c.scratch = 0 ∧ s.c.instret = 0 ∧ s.c.ie = 0b11101 ∧ s.c.fflags = 0 ∧
      s.c.tmatch = BitVec.allOnes 64 ∧ s.c.status.mode = false ∧ s.c.status.ie = false ∧ s.c.status.pie = false ∧ s.c.status.rm = 0 ∧
      s.c.runcap = 0 ∧ s.c.portcfg = 0 ∧ s.c.pitch = 4 ∧ s.c.sat = 0 ∧ s.c.bto = 0x00100000) ∧
    s.t.nan8 = 0x80 ∧ s.t.nan4 = 0x8

/-- R48, R361: no word of the tile core stops the machine: whatever the state, it completes, waits, is nullified or traps. -/
def Obligations.EveryWordGoesOn : Prop :=
  ∀ (i : Instr) (w : Nat) (s : State), encode i = some w ∨ encodeHelper i = some w → ∃ t, exec i s = .next t
end

