-- ==== Sys2Proof/Laws/Encode.lean ====
section
/-! SUPPORT. Each field of a word that the encoder lays out reads back as it was put there (R53, R342). -/

namespace Sys2Proof.Laws

theorem encR_fields (maj d a b fn wb wa sz : Nat)
    (h0 : maj < 64) (h1 : d < 32) (h2 : a < 32) (h3 : b < 32) (h4 : fn < 64)
    (h5 : wb < 2) (h6 : wa < 2) (h7 : sz < 4) :
    fld (encR maj d a b fn wb wa sz) 25 6 = maj ∧
    fld (encR maj d a b fn wb wa sz) 20 5 = d ∧
    fld (encR maj d a b fn wb wa sz) 15 5 = a ∧
    fld (encR maj d a b fn wb wa sz) 10 5 = b ∧
    fld (encR maj d a b fn wb wa sz) 4 6 = fn ∧
    fld (encR maj d a b fn wb wa sz) 3 1 = wb ∧
    fld (encR maj d a b fn wb wa sz) 2 1 = wa ∧
    fld (encR maj d a b fn wb wa sz) 0 2 = sz := by
  unfold encR fld
  refine ⟨?_, ?_, ?_, ?_, ?_, ?_, ?_, ?_⟩ <;> omega

theorem encI_fields (maj d a wa imm : Nat)
    (h0 : maj < 64) (h1 : d < 32) (h2 : a < 32) (h3 : wa < 2) (h4 : imm < 16384) :
    fld (encI maj d a wa imm) 25 6 = maj ∧
    fld (encI maj d a wa imm) 20 5 = d ∧
    fld (encI maj d a wa imm) 15 5 = a ∧
    fld (encI maj d a wa imm) 14 1 = wa ∧
    fld (encI maj d a wa imm) 0 14 = imm := by
  unfold encI fld
  refine ⟨?_, ?_, ?_, ?_, ?_⟩ <;> omega

theorem encU_fields (maj d imm : Nat)
    (h0 : maj < 64) (h1 : d < 32) (h2 : imm < 1048576) :
    fld (encU maj d imm) 25 6 = maj ∧
    fld (encU maj d imm) 20 5 = d ∧
    fld (encU maj d imm) 0 20 = imm := by
  unfold encU fld
  refine ⟨?_, ?_, ?_⟩ <;> omega

theorem encB_fields (maj a cc off : Nat)
    (h0 : maj < 64) (h1 : a < 32) (h2 : cc < 4) (h3 : off < 262144) :
    fld (encB maj a cc off) 25 6 = maj ∧
    fld (encB maj a cc off) 20 5 = a ∧
    fld (encB maj a cc off) 18 2 = cc ∧
    fld (encB maj a cc off) 0 18 = off := by
  unfold encB fld
  refine ⟨?_, ?_, ?_, ?_⟩ <;> omega

theorem encM_fields (maj d a wa nw sz off : Nat)
    (h0 : maj < 64) (h1 : d < 32) (h2 : a < 32) (h3 : wa < 2) (h4 : nw < 2)
    (h5 : sz < 4) (h6 : off < 2048) :
    fld (encM maj d a wa nw sz off) 25 6 = maj ∧
    fld (encM maj d a wa nw sz off) 20 5 = d ∧
    fld (encM maj d a wa nw sz off) 15 5 = a ∧
    fld (encM maj d a wa nw sz off) 14 1 = wa ∧
    fld (encM maj d a wa nw sz off) 13 1 = nw ∧
    fld (encM maj d a wa nw sz off) 11 2 = sz ∧
    fld (encM maj d a wa nw sz off) 0 11 = off := by
  unfold encM fld
  refine ⟨?_, ?_, ?_, ?_, ?_, ?_, ?_⟩ <;> omega

theorem encRA_fields (maj d a b op ord sc width : Nat)
    (h0 : maj < 64) (h1 : d < 32) (h2 : a < 32) (h3 : b < 32) (h4 : op < 16)
    (h5 : ord < 4) (h6 : sc < 8) (h7 : width < 2) :
    fld (encRA maj d a b op ord sc width) 25 6 = maj ∧
    fld (encRA maj d a b op ord sc width) 20 5 = d ∧
    fld (encRA maj d a b op ord sc width) 15 5 = a ∧
    fld (encRA maj d a b op ord sc width) 10 5 = b ∧
    fld (encRA maj d a b op ord sc width) 6 4 = op ∧
    fld (encRA maj d a b op ord sc width) 4 2 = ord ∧
    fld (encRA maj d a b op ord sc width) 1 3 = sc ∧
    fld (encRA maj d a b op ord sc width) 0 1 = width := by
  unfold encRA fld
  refine ⟨?_, ?_, ?_, ?_, ?_, ?_, ?_, ?_⟩ <;> omega

theorem encV_fields (maj d a b fn et : Nat)
    (h0 : maj < 64) (h1 : d < 32) (h2 : a < 32) (h3 : b < 32) (h4 : fn < 64)
    (h5 : et < 16) :
    fld (encV maj d a b fn et) 25 6 = maj ∧
    fld (encV maj d a b fn et) 20 5 = d ∧
    fld (encV maj d a b fn et) 15 5 = a ∧
    fld (encV maj d a b fn et) 10 5 = b ∧
    fld (encV maj d a b fn et) 4 6 = fn ∧
    fld (encV maj d a b fn et) 0 4 = et := by
  unfold encV fld
  refine ⟨?_, ?_, ?_, ?_, ?_, ?_⟩ <;> omega

theorem encX_fields (maj d a b c fn : Nat)
    (h0 : maj < 64) (h1 : d < 32) (h2 : a < 32) (h3 : b < 32) (h4 : c < 32)
    (h5 : fn < 32) :
    fld (encX maj d a b c fn) 25 6 = maj ∧
    fld (encX maj d a b c fn) 20 5 = d ∧
    fld (encX maj d a b c fn) 15 5 = a ∧
    fld (encX maj d a b c fn) 10 5 = b ∧
    fld (encX maj d a b c fn) 5 5 = c ∧
    fld (encX maj d a b c fn) 0 5 = fn := by
  unfold encX fld
  refine ⟨?_, ?_, ?_, ?_, ?_, ?_⟩ <;> omega

theorem encDk_fields (f7 rs2 rs1 f3 rd : Nat)
    (h0 : f7 < 128) (h1 : rs2 < 32) (h2 : rs1 < 32) (h3 : f3 < 8) (h4 : rd < 32) :
    fld (encDk f7 rs2 rs1 f3 rd) 25 7 = f7 ∧
    fld (encDk f7 rs2 rs1 f3 rd) 20 5 = rs2 ∧
    fld (encDk f7 rs2 rs1 f3 rd) 15 5 = rs1 ∧
    fld (encDk f7 rs2 rs1 f3 rd) 12 3 = f3 ∧
    fld (encDk f7 rs2 rs1 f3 rd) 7 5 = rd := by
  unfold encDk fld
  refine ⟨?_, ?_, ?_, ?_, ?_⟩ <;> omega

/-- A field within a field. -/
theorem fld_part (w lo n k m x : Nat) (h : fld w lo n = x) (hk : k + m ≤ n) : fld w (lo + k) m = x / 2 ^ k % 2 ^ m := by
  subst h
  simp only [fld]
  apply Nat.eq_of_testBit_eq
  intro i
  simp only [Nat.testBit_mod_two_pow, Nat.testBit_div_two_pow]
  by_cases hi : i < m
  · simp only [hi, decide_true, Bool.true_and, show i + k < n by omega, show i + k + lo = i + (lo + k) by omega]
  · simp [hi]

/-! What each reader of a field answers. -/

theorem fixed_of (w lo len v : Nat) (r : Dec) (h : fld w lo len = v) : fixed w lo len v r = r := if_pos h
theorem fin32_of (w lo : Nat) (d : Fin 32) (h : fld w lo 5 = d.val) : fin32 w lo = d := Fin.ext h
theorem fin4_of (w lo : Nat) (d : Fin 4) (h : fld w lo 2 = d.val) : fin4 w lo = d := Fin.ext h
theorem bit_of (w lo : Nat) (b : Bool) (h : fld w lo 1 = b.toNat) : bit w lo = b := by unfold bit; rw [h]; cases b <;> rfl
theorem bv_of (n w lo : Nat) (d : BitVec n) (h : fld w lo n = d.toNat) : BitVec.ofNat n (fld w lo n) = d := by rw [h]; simp
theorem fmt2_of (w lo : Nat) (x : FEt) (h : fld w lo 2 = x.code) : fmt2 w lo = x := by unfold fmt2; rw [h]; cases x <;> rfl
theorem msz_of (w lo : Nat) (x : MSz) (h : fld w lo 2 = x.code) : msz w lo = x := by unfold msz; rw [h]; cases x <;> rfl
theorem scope_of (w lo : Nat) (x : Scope) (h : fld w lo 3 = x.code) : scope w lo = x := by unfold scope; rw [h]; cases x <;> rfl
theorem ord_of (w lo : Nat) (x : Ord) (h : fld w lo 2 = x.code) : ord w lo = x := by unfold ord; rw [h]; cases x <;> rfl
theorem sz32_of (w lo : Nat) (x : Sz32) (k : Sz32 → Dec) (h : fld w lo 2 = x.code) : sz32 w lo k = k x := by
  unfold sz32; rw [h]; cases x <;> rfl
theorem wlen_of (w lo : Nat) (x : WLen) (k : WLen → Dec) (h : fld w lo 2 = x.code) : wlen w lo k = k x := by
  unfold wlen; rw [h]; cases x <;> rfl
theorem level_of (w lo : Nat) (x : Level) (k : Level → Dec) (h : fld w lo 3 = x.code) : level w lo k = k x := by
  unfold level; rw [h]; cases x <;> rfl
theorem wlevel_of (w lo : Nat) (x : WLevel) (k : WLevel → Dec) (h : fld w lo 3 = x.code) : wlevel w lo k = k x := by
  unfold wlevel; rw [h]; cases x <;> rfl
theorem fet_of (w lo : Nat) (x : FEt) (k : FEt → Dec) (h : fld w lo 4 = x.code + 8) : fet w lo k = k x := by
  unfold fet; rw [h]; cases x <;> rfl
theorem iet_of (w lo : Nat) (x : IEt) (k : IEt → Dec) (h : fld w lo 4 = x.code) : iet w lo k = k x := by
  unfold iet; rw [h]; cases x <;> rfl
theorem anyEt_of (w lo : Nat) (x : LEt) (k : LEt → Dec) (h : fld w lo 4 = x.code) : anyEt w lo k = k x := by
  unfold anyEt; rw [h]; cases x <;> rename_i t <;> cases t <;> rfl
theorem pair_of (w lo : Nat) (x : Pair) (k : Pair → Dec) (h : fld w lo 5 = x.code) : pair w lo k = k x := by
  unfold pair; rw [h]; cases x <;> rfl
theorem rdSel_of (w lo : Nat) (x : RdSel) (k : RdSel → Dec) (h : fld w lo 7 = x.code) : rdSel w lo k = k x := by
  unfold rdSel; rw [h]; cases x <;> rfl
theorem reg8_of (w lo : Nat) (x : Fin 8) (k : Fin 8 → Dec) (h : fld w lo 5 = x.val) : reg8 w lo k = k x := by
  unfold reg8; rw [dif_pos (by omega)]; congr 1; exact Fin.ext h
theorem reg2_of (w lo : Nat) (x : Fin 2) (k : Fin 2 → Dec) (h : fld w lo 5 = x.val) : reg2 w lo k = k x := by
  unfold reg2; rw [dif_pos (by omega)]; congr 1; exact Fin.ext h
theorem reg16_of (w lo : Nat) (x : Fin 16) (k : Fin 16 → Dec) (h : fld w lo 5 = x.val) : reg16 w lo k = k x := by
  unfold reg16; rw [dif_pos (by omega)]; congr 1; exact Fin.ext h

/-- The decoder answers what the major's reader does, where that is well-formed. -/
theorem decode_of {w : Nat} {i : Instr} (h : decodeMajor w = .ok i) (hi : i.wf = true) : decode w = .ok i := by
  unfold decode; rw [h]; simp only [hi, if_true]

/-- An instruction that the decoder answers is well-formed. -/
theorem decode_wf {w : Nat} {i : Instr} (h : decode w = .ok i) : i.wf = true := by
  unfold decode at h
  split at h
  · split at h
    · cases h; assumption
    · cases h
  · cases h

end Sys2Proof.Laws
end

