-- ==== Sys2Proof/Laws/Exec.lean ====
section
/-! SUPPORT. The meaning that each instruction has. -/

namespace Sys2Proof.Laws

open Sys2Proof Sys2Proof.Machine

@[simp] theorem exec_add (sz : Sz32) (d : Fin 32) (a : Fin 32) (b : Fin 32) (wa : Bool) (wb : Bool) (s : State) :
    exec (.add sz d a b wa wb) s = execAdd sz d a b wa wb s := rfl
@[simp] theorem exec_sub (sz : Sz32) (d : Fin 32) (a : Fin 32) (b : Fin 32) (wa : Bool) (wb : Bool) (s : State) :
    exec (.sub sz d a b wa wb) s = execSub sz d a b wa wb s := rfl
@[simp] theorem exec_and (sz : Sz32) (d : Fin 32) (a : Fin 32) (b : Fin 32) (wa : Bool) (wb : Bool) (s : State) :
    exec (.and sz d a b wa wb) s = execAnd sz d a b wa wb s := rfl
@[simp] theorem exec_or (sz : Sz32) (d : Fin 32) (a : Fin 32) (b : Fin 32) (wa : Bool) (wb : Bool) (s : State) :
    exec (.or sz d a b wa wb) s = execOr sz d a b wa wb s := rfl
@[simp] theorem exec_xor (sz : Sz32) (d : Fin 32) (a : Fin 32) (b : Fin 32) (wa : Bool) (wb : Bool) (s : State) :
    exec (.xor sz d a b wa wb) s = execXor sz d a b wa wb s := rfl
@[simp] theorem exec_andn (sz : Sz32) (d : Fin 32) (a : Fin 32) (b : Fin 32) (wa : Bool) (wb : Bool) (s : State) :
    exec (.andn sz d a b wa wb) s = execAndn sz d a b wa wb s := rfl
@[simp] theorem exec_orn (sz : Sz32) (d : Fin 32) (a : Fin 32) (b : Fin 32) (wa : Bool) (wb : Bool) (s : State) :
    exec (.orn sz d a b wa wb) s = execOrn sz d a b wa wb s := rfl
@[simp] theorem exec_sll (sz : Sz32) (d : Fin 32) (a : Fin 32) (b : Fin 32) (wa : Bool) (wb : Bool) (s : State) :
    exec (.sll sz d a b wa wb) s = execSll sz d a b wa wb s := rfl
@[simp] theorem exec_srl (sz : Sz32) (d : Fin 32) (a : Fin 32) (b : Fin 32) (wa : Bool) (wb : Bool) (s : State) :
    exec (.srl sz d a b wa wb) s = execSrl sz d a b wa wb s := rfl
@[simp] theorem exec_sra (sz : Sz32) (d : Fin 32) (a : Fin 32) (b : Fin 32) (wa : Bool) (wb : Bool) (s : State) :
    exec (.sra sz d a b wa wb) s = execSra sz d a b wa wb s := rfl
@[simp] theorem exec_rol (sz : Sz32) (d : Fin 32) (a : Fin 32) (b : Fin 32) (wa : Bool) (wb : Bool) (s : State) :
    exec (.rol sz d a b wa wb) s = execRol sz d a b wa wb s := rfl
@[simp] theorem exec_ror (sz : Sz32) (d : Fin 32) (a : Fin 32) (b : Fin 32) (wa : Bool) (wb : Bool) (s : State) :
    exec (.ror sz d a b wa wb) s = execRor sz d a b wa wb s := rfl
@[simp] theorem exec_min (sz : Sz32) (d : Fin 32) (a : Fin 32) (b : Fin 32) (wa : Bool) (wb : Bool) (s : State) :
    exec (.min sz d a b wa wb) s = execMin sz d a b wa wb s := rfl
@[simp] theorem exec_max (sz : Sz32) (d : Fin 32) (a : Fin 32) (b : Fin 32) (wa : Bool) (wb : Bool) (s : State) :
    exec (.max sz d a b wa wb) s = execMax sz d a b wa wb s := rfl
@[simp] theorem exec_minn (sz : Sz32) (d : Fin 32) (a : Fin 32) (b : Fin 32) (wa : Bool) (wb : Bool) (s : State) :
    exec (.minn sz d a b wa wb) s = execMinn sz d a b wa wb s := rfl
@[simp] theorem exec_maxn (sz : Sz32) (d : Fin 32) (a : Fin 32) (b : Fin 32) (wa : Bool) (wb : Bool) (s : State) :
    exec (.maxn sz d a b wa wb) s = execMaxn sz d a b wa wb s := rfl
@[simp] theorem exec_mul (sz : Sz32) (d : Fin 32) (a : Fin 32) (b : Fin 32) (wa : Bool) (wb : Bool) (s : State) :
    exec (.mul sz d a b wa wb) s = execMul sz d a b wa wb s := rfl
@[simp] theorem exec_mulh (sz : Sz32) (d : Fin 32) (a : Fin 32) (b : Fin 32) (wa : Bool) (wb : Bool) (s : State) :
    exec (.mulh sz d a b wa wb) s = execMulh sz d a b wa wb s := rfl
@[simp] theorem exec_mulhn (sz : Sz32) (d : Fin 32) (a : Fin 32) (b : Fin 32) (wa : Bool) (wb : Bool) (s : State) :
    exec (.mulhn sz d a b wa wb) s = execMulhn sz d a b wa wb s := rfl
@[simp] theorem exec_mulhsn (sz : Sz32) (d : Fin 32) (a : Fin 32) (b : Fin 32) (wa : Bool) (wb : Bool) (s : State) :
    exec (.mulhsn sz d a b wa wb) s = execMulhsn sz d a b wa wb s := rfl
@[simp] theorem exec_div (sz : Sz32) (d : Fin 32) (a : Fin 32) (b : Fin 32) (wa : Bool) (wb : Bool) (s : State) :
    exec (.div sz d a b wa wb) s = execDiv sz d a b wa wb s := rfl
@[simp] theorem exec_divn (sz : Sz32) (d : Fin 32) (a : Fin 32) (b : Fin 32) (wa : Bool) (wb : Bool) (s : State) :
    exec (.divn sz d a b wa wb) s = execDivn sz d a b wa wb s := rfl
@[simp] theorem exec_rem (sz : Sz32) (d : Fin 32) (a : Fin 32) (b : Fin 32) (wa : Bool) (wb : Bool) (s : State) :
    exec (.rem sz d a b wa wb) s = execRem sz d a b wa wb s := rfl
@[simp] theorem exec_remn (sz : Sz32) (d : Fin 32) (a : Fin 32) (b : Fin 32) (wa : Bool) (wb : Bool) (s : State) :
    exec (.remn sz d a b wa wb) s = execRemn sz d a b wa wb s := rfl
@[simp] theorem exec_addsat (sz : Sz32) (d : Fin 32) (a : Fin 32) (b : Fin 32) (wa : Bool) (wb : Bool) (s : State) :
    exec (.addsat sz d a b wa wb) s = execAddsat sz d a b wa wb s := rfl
@[simp] theorem exec_subsat (sz : Sz32) (d : Fin 32) (a : Fin 32) (b : Fin 32) (wa : Bool) (wb : Bool) (s : State) :
    exec (.subsat sz d a b wa wb) s = execSubsat sz d a b wa wb s := rfl
@[simp] theorem exec_addi (d : Fin 32) (a : Fin 32) (wa : Bool) (imm : BitVec 14) (s : State) :
    exec (.addi d a wa imm) s = execAddi d a wa imm s := rfl
@[simp] theorem exec_andi (d : Fin 32) (a : Fin 32) (wa : Bool) (imm : BitVec 14) (s : State) :
    exec (.andi d a wa imm) s = execAndi d a wa imm s := rfl
@[simp] theorem exec_ori (d : Fin 32) (a : Fin 32) (wa : Bool) (imm : BitVec 14) (s : State) :
    exec (.ori d a wa imm) s = execOri d a wa imm s := rfl
@[simp] theorem exec_xori (d : Fin 32) (a : Fin 32) (wa : Bool) (imm : BitVec 14) (s : State) :
    exec (.xori d a wa imm) s = execXori d a wa imm s := rfl
@[simp] theorem exec_slli (d : Fin 32) (a : Fin 32) (wa : Bool) (k : BitVec 6) (s : State) :
    exec (.slli d a wa k) s = execSlli d a wa k s := rfl
@[simp] theorem exec_srli (d : Fin 32) (a : Fin 32) (wa : Bool) (k : BitVec 6) (s : State) :
    exec (.srli d a wa k) s = execSrli d a wa k s := rfl
@[simp] theorem exec_srai (d : Fin 32) (a : Fin 32) (wa : Bool) (k : BitVec 6) (s : State) :
    exec (.srai d a wa k) s = execSrai d a wa k s := rfl
@[simp] theorem exec_rori (d : Fin 32) (a : Fin 32) (wa : Bool) (k : BitVec 6) (s : State) :
    exec (.rori d a wa k) s = execRori d a wa k s := rfl
@[simp] theorem exec_cmpEq (sz : Sz32) (d : Fin 32) (a : Fin 32) (b : Fin 32) (wa : Bool) (wb : Bool) (s : State) :
    exec (.cmpEq sz d a b wa wb) s = execCmpEq sz d a b wa wb s := rfl
@[simp] theorem exec_cmpNe (sz : Sz32) (d : Fin 32) (a : Fin 32) (b : Fin 32) (wa : Bool) (wb : Bool) (s : State) :
    exec (.cmpNe sz d a b wa wb) s = execCmpNe sz d a b wa wb s := rfl
@[simp] theorem exec_cmpLt (sz : Sz32) (d : Fin 32) (a : Fin 32) (b : Fin 32) (wa : Bool) (wb : Bool) (s : State) :
    exec (.cmpLt sz d a b wa wb) s = execCmpLt sz d a b wa wb s := rfl
@[simp] theorem exec_cmpLtn (sz : Sz32) (d : Fin 32) (a : Fin 32) (b : Fin 32) (wa : Bool) (wb : Bool) (s : State) :
    exec (.cmpLtn sz d a b wa wb) s = execCmpLtn sz d a b wa wb s := rfl
@[simp] theorem exec_cmpLe (sz : Sz32) (d : Fin 32) (a : Fin 32) (b : Fin 32) (wa : Bool) (wb : Bool) (s : State) :
    exec (.cmpLe sz d a b wa wb) s = execCmpLe sz d a b wa wb s := rfl
@[simp] theorem exec_cmpLen (sz : Sz32) (d : Fin 32) (a : Fin 32) (b : Fin 32) (wa : Bool) (wb : Bool) (s : State) :
    exec (.cmpLen sz d a b wa wb) s = execCmpLen sz d a b wa wb s := rfl
@[simp] theorem exec_cmpGt (sz : Sz32) (d : Fin 32) (a : Fin 32) (b : Fin 32) (wa : Bool) (wb : Bool) (s : State) :
    exec (.cmpGt sz d a b wa wb) s = execCmpGt sz d a b wa wb s := rfl
@[simp] theorem exec_cmpGtn (sz : Sz32) (d : Fin 32) (a : Fin 32) (b : Fin 32) (wa : Bool) (wb : Bool) (s : State) :
    exec (.cmpGtn sz d a b wa wb) s = execCmpGtn sz d a b wa wb s := rfl
@[simp] theorem exec_cmpGe (sz : Sz32) (d : Fin 32) (a : Fin 32) (b : Fin 32) (wa : Bool) (wb : Bool) (s : State) :
    exec (.cmpGe sz d a b wa wb) s = execCmpGe sz d a b wa wb s := rfl
@[simp] theorem exec_cmpGen (sz : Sz32) (d : Fin 32) (a : Fin 32) (b : Fin 32) (wa : Bool) (wb : Bool) (s : State) :
    exec (.cmpGen sz d a b wa wb) s = execCmpGen sz d a b wa wb s := rfl
@[simp] theorem exec_fcmpEq (f : FEt) (d : Fin 32) (a : Fin 32) (b : Fin 32) (wa : Bool) (wb : Bool) (s : State) :
    exec (.fcmpEq f d a b wa wb) s = execFcmpEq f d a b wa wb s := rfl
@[simp] theorem exec_fcmpLt (f : FEt) (d : Fin 32) (a : Fin 32) (b : Fin 32) (wa : Bool) (wb : Bool) (s : State) :
    exec (.fcmpLt f d a b wa wb) s = execFcmpLt f d a b wa wb s := rfl
@[simp] theorem exec_fcmpLe (f : FEt) (d : Fin 32) (a : Fin 32) (b : Fin 32) (wa : Bool) (wb : Bool) (s : State) :
    exec (.fcmpLe f d a b wa wb) s = execFcmpLe f d a b wa wb s := rfl
@[simp] theorem exec_fcmpUn (f : FEt) (d : Fin 32) (a : Fin 32) (b : Fin 32) (wa : Bool) (wb : Bool) (s : State) :
    exec (.fcmpUn f d a b wa wb) s = execFcmpUn f d a b wa wb s := rfl
@[simp] theorem exec_tst (d : Fin 32) (a : Fin 32) (b : Fin 32) (wa : Bool) (wb : Bool) (s : State) :
    exec (.tst d a b wa wb) s = execTst d a b wa wb s := rfl
@[simp] theorem exec_cmpiEq (d : Fin 32) (a : Fin 32) (wa : Bool) (imm : BitVec 11) (s : State) :
    exec (.cmpiEq d a wa imm) s = execCmpiEq d a wa imm s := rfl
@[simp] theorem exec_cmpiNe (d : Fin 32) (a : Fin 32) (wa : Bool) (imm : BitVec 11) (s : State) :
    exec (.cmpiNe d a wa imm) s = execCmpiNe d a wa imm s := rfl
@[simp] theorem exec_cmpiLt (d : Fin 32) (a : Fin 32) (wa : Bool) (imm : BitVec 11) (s : State) :
    exec (.cmpiLt d a wa imm) s = execCmpiLt d a wa imm s := rfl
@[simp] theorem exec_cmpiLtn (d : Fin 32) (a : Fin 32) (wa : Bool) (imm : BitVec 11) (s : State) :
    exec (.cmpiLtn d a wa imm) s = execCmpiLtn d a wa imm s := rfl
@[simp] theorem exec_cmpiGt (d : Fin 32) (a : Fin 32) (wa : Bool) (imm : BitVec 11) (s : State) :
    exec (.cmpiGt d a wa imm) s = execCmpiGt d a wa imm s := rfl
@[simp] theorem exec_cmpiGtn (d : Fin 32) (a : Fin 32) (wa : Bool) (imm : BitVec 11) (s : State) :
    exec (.cmpiGtn d a wa imm) s = execCmpiGtn d a wa imm s := rfl
@[simp] theorem exec_li (d : Fin 32) (imm : BitVec 20) (s : State) :
    exec (.li d imm) s = execLi d imm s := rfl
@[simp] theorem exec_lih (d : Fin 32) (imm : BitVec 20) (s : State) :
    exec (.lih d imm) s = execLih d imm s := rfl
@[simp] theorem exec_clz (sz : Sz32) (d : Fin 32) (a : Fin 32) (wa : Bool) (s : State) :
    exec (.clz sz d a wa) s = execClz sz d a wa s := rfl
@[simp] theorem exec_ctz (sz : Sz32) (d : Fin 32) (a : Fin 32) (wa : Bool) (s : State) :
    exec (.ctz sz d a wa) s = execCtz sz d a wa s := rfl
@[simp] theorem exec_popc (sz : Sz32) (d : Fin 32) (a : Fin 32) (wa : Bool) (s : State) :
    exec (.popc sz d a wa) s = execPopc sz d a wa s := rfl
@[simp] theorem exec_bswap (sz : Sz32) (d : Fin 32) (a : Fin 32) (wa : Bool) (s : State) :
    exec (.bswap sz d a wa) s = execBswap sz d a wa s := rfl
@[simp] theorem exec_sextB (d : Fin 32) (a : Fin 32) (wa : Bool) (s : State) :
    exec (.sextB d a wa) s = execSextB d a wa s := rfl
@[simp] theorem exec_sextH (d : Fin 32) (a : Fin 32) (wa : Bool) (s : State) :
    exec (.sextH d a wa) s = execSextH d a wa s := rfl
@[simp] theorem exec_sextW (d : Fin 32) (a : Fin 32) (wa : Bool) (s : State) :
    exec (.sextW d a wa) s = execSextW d a wa s := rfl
@[simp] theorem exec_zextB (d : Fin 32) (a : Fin 32) (wa : Bool) (s : State) :
    exec (.zextB d a wa) s = execZextB d a wa s := rfl
@[simp] theorem exec_zextH (d : Fin 32) (a : Fin 32) (wa : Bool) (s : State) :
    exec (.zextH d a wa) s = execZextH d a wa s := rfl
@[simp] theorem exec_zextW (d : Fin 32) (a : Fin 32) (wa : Bool) (s : State) :
    exec (.zextW d a wa) s = execZextW d a wa s := rfl
@[simp] theorem exec_bfx (sz : Sz32) (d : Fin 32) (a : Fin 32) (b : Fin 32) (wa : Bool) (wb : Bool) (s : State) :
    exec (.bfx sz d a b wa wb) s = execBfx sz d a b wa wb s := rfl
@[simp] theorem exec_bfi (sz : Sz32) (d : Fin 32) (a : Fin 32) (b : Fin 32) (wa : Bool) (wb : Bool) (s : State) :
    exec (.bfi sz d a b wa wb) s = execBfi sz d a b wa wb s := rfl
@[simp] theorem exec_brev (sz : Sz32) (d : Fin 32) (a : Fin 32) (wa : Bool) (s : State) :
    exec (.brev sz d a wa) s = execBrev sz d a wa s := rfl
@[simp] theorem exec_pack (sz : Sz32) (d : Fin 32) (a : Fin 32) (b : Fin 32) (wa : Bool) (wb : Bool) (s : State) :
    exec (.pack sz d a b wa wb) s = execPack sz d a b wa wb s := rfl
@[simp] theorem exec_gate (d : Fin 32) (a : Fin 32) (b : Fin 32) (wa : Bool) (wb : Bool) (s : State) :
    exec (.gate d a b wa wb) s = execGate d a b wa wb s := rfl
@[simp] theorem exec_gaten (d : Fin 32) (a : Fin 32) (b : Fin 32) (wa : Bool) (wb : Bool) (s : State) :
    exec (.gaten d a b wa wb) s = execGaten d a b wa wb s := rfl
@[simp] theorem exec_setv (d : Fin 32) (a : Fin 32) (wa : Bool) (s : State) :
    exec (.setv d a wa) s = execSetv d a wa s := rfl
@[simp] theorem exec_clrv (d : Fin 32) (a : Fin 32) (wa : Bool) (s : State) :
    exec (.clrv d a wa) s = execClrv d a wa s := rfl
@[simp] theorem exec_isv (d : Fin 32) (a : Fin 32) (wa : Bool) (s : State) :
    exec (.isv d a wa) s = execIsv d a wa s := rfl
@[simp] theorem exec_selv (d : Fin 32) (a : Fin 32) (b : Fin 32) (wa : Bool) (wb : Bool) (s : State) :
    exec (.selv d a b wa wb) s = execSelv d a b wa wb s := rfl
@[simp] theorem exec_movv (d : Fin 32) (a : Fin 32) (wa : Bool) (s : State) :
    exec (.movv d a wa) s = execMovv d a wa s := rfl
@[simp] theorem exec_fadd (f : FEt) (d : Fin 32) (a : Fin 32) (b : Fin 32) (wa : Bool) (wb : Bool) (s : State) :
    exec (.fadd f d a b wa wb) s = execFadd f d a b wa wb s := rfl
@[simp] theorem exec_fsub (f : FEt) (d : Fin 32) (a : Fin 32) (b : Fin 32) (wa : Bool) (wb : Bool) (s : State) :
    exec (.fsub f d a b wa wb) s = execFsub f d a b wa wb s := rfl
@[simp] theorem exec_fmul (f : FEt) (d : Fin 32) (a : Fin 32) (b : Fin 32) (wa : Bool) (wb : Bool) (s : State) :
    exec (.fmul f d a b wa wb) s = execFmul f d a b wa wb s := rfl
@[simp] theorem exec_fdiv (f : FEt) (d : Fin 32) (a : Fin 32) (b : Fin 32) (wa : Bool) (wb : Bool) (s : State) :
    exec (.fdiv f d a b wa wb) s = execFdiv f d a b wa wb s := rfl
@[simp] theorem exec_fsqrt (f : FEt) (d : Fin 32) (a : Fin 32) (wa : Bool) (s : State) :
    exec (.fsqrt f d a wa) s = execFsqrt f d a wa s := rfl
@[simp] theorem exec_fmin (f : FEt) (d : Fin 32) (a : Fin 32) (b : Fin 32) (wa : Bool) (wb : Bool) (s : State) :
    exec (.fmin f d a b wa wb) s = execFmin f d a b wa wb s := rfl
@[simp] theorem exec_fmax (f : FEt) (d : Fin 32) (a : Fin 32) (b : Fin 32) (wa : Bool) (wb : Bool) (s : State) :
    exec (.fmax f d a b wa wb) s = execFmax f d a b wa wb s := rfl
@[simp] theorem exec_fma (f : FEt) (d : Fin 32) (a : Fin 32) (b : Fin 32) (wa : Bool) (wb : Bool) (s : State) :
    exec (.fma f d a b wa wb) s = execFma f d a b wa wb s := rfl
@[simp] theorem exec_fnma (f : FEt) (d : Fin 32) (a : Fin 32) (b : Fin 32) (wa : Bool) (wb : Bool) (s : State) :
    exec (.fnma f d a b wa wb) s = execFnma f d a b wa wb s := rfl
@[simp] theorem exec_fabs (f : FEt) (d : Fin 32) (a : Fin 32) (wa : Bool) (s : State) :
    exec (.fabs f d a wa) s = execFabs f d a wa s := rfl
@[simp] theorem exec_fneg (f : FEt) (d : Fin 32) (a : Fin 32) (wa : Bool) (s : State) :
    exec (.fneg f d a wa) s = execFneg f d a wa s := rfl
@[simp] theorem exec_fsgnj (f : FEt) (d : Fin 32) (a : Fin 32) (b : Fin 32) (wa : Bool) (wb : Bool) (s : State) :
    exec (.fsgnj f d a b wa wb) s = execFsgnj f d a b wa wb s := rfl
@[simp] theorem exec_fclass (f : FEt) (d : Fin 32) (a : Fin 32) (wa : Bool) (s : State) :
    exec (.fclass f d a wa) s = execFclass f d a wa s := rfl
@[simp] theorem exec_fcvtS (f : FEt) (d : Fin 32) (a : Fin 32) (wa : Bool) (s : State) :
    exec (.fcvtS f d a wa) s = execFcvtS f d a wa s := rfl
@[simp] theorem exec_fcvtN (f : FEt) (d : Fin 32) (a : Fin 32) (wa : Bool) (s : State) :
    exec (.fcvtN f d a wa) s = execFcvtN f d a wa s := rfl
@[simp] theorem exec_scvtF (f : FEt) (d : Fin 32) (a : Fin 32) (wa : Bool) (s : State) :
    exec (.scvtF f d a wa) s = execScvtF f d a wa s := rfl
@[simp] theorem exec_ncvtF (f : FEt) (d : Fin 32) (a : Fin 32) (wa : Bool) (s : State) :
    exec (.ncvtF f d a wa) s = execNcvtF f d a wa s := rfl
@[simp] theorem exec_fcvtF (dst : FEt) (src : FEt) (d : Fin 32) (a : Fin 32) (wa : Bool) (s : State) :
    exec (.fcvtF dst src d a wa) s = execFcvtF dst src d a wa s := rfl
@[simp] theorem exec_ld (sz : MSz) (d : Fin 32) (b : Fin 32) (wa : Bool) (nw : Bool) (off : BitVec 11) (s : State) :
    exec (.ld sz d b wa nw off) s = execLd sz d b wa nw off s := rfl
@[simp] theorem exec_lds (sz : MSz) (d : Fin 32) (b : Fin 32) (wa : Bool) (nw : Bool) (off : BitVec 11) (s : State) :
    exec (.lds sz d b wa nw off) s = execLds sz d b wa nw off s := rfl
@[simp] theorem exec_st (sz : MSz) (d : Fin 32) (b : Fin 32) (wa : Bool) (wd : Bool) (off : BitVec 11) (s : State) :
    exec (.st sz d b wa wd off) s = execSt sz d b wa wd off s := rfl
@[simp] theorem exec_ldAcq (sz : MSz) (d : Fin 32) (a : Fin 32) (sc : Scope) (wa : Bool) (s : State) :
    exec (.ldAcq sz d a sc wa) s = execLdAcq sz d a sc wa s := rfl
@[simp] theorem exec_stRel (sz : MSz) (d : Fin 32) (a : Fin 32) (sc : Scope) (wa : Bool) (s : State) :
    exec (.stRel sz d a sc wa) s = execStRel sz d a sc wa s := rfl
@[simp] theorem exec_ldQ (d : Fin 32) (a : Fin 32) (wa : Bool) (s : State) :
    exec (.ldQ d a wa) s = execLdQ d a wa s := rfl
@[simp] theorem exec_stQ (d : Fin 32) (a : Fin 32) (wa : Bool) (s : State) :
    exec (.stQ d a wa) s = execStQ d a wa s := rfl
@[simp] theorem exec_touch (a : Fin 32) (wa : Bool) (s : State) :
    exec (.touch a wa) s = execTouch a wa s := rfl
@[simp] theorem exec_sbwait (a : Fin 32) (s : State) :
    exec (.sbwait a) s = execSbwait a s := rfl
@[simp] theorem exec_mkempty (d : Fin 32) (s : State) :
    exec (.mkempty d) s = execMkempty d s := rfl
@[simp] theorem exec_amoswap (w64 : Bool) (d : Fin 32) (a : Fin 32) (b : Fin 32) (ord : Ord) (sc : Scope) (s : State) :
    exec (.amoswap w64 d a b ord sc) s = execAmoswap w64 d a b ord sc s := rfl
@[simp] theorem exec_amoadd (w64 : Bool) (d : Fin 32) (a : Fin 32) (b : Fin 32) (ord : Ord) (sc : Scope) (s : State) :
    exec (.amoadd w64 d a b ord sc) s = execAmoadd w64 d a b ord sc s := rfl
@[simp] theorem exec_amoand (w64 : Bool) (d : Fin 32) (a : Fin 32) (b : Fin 32) (ord : Ord) (sc : Scope) (s : State) :
    exec (.amoand w64 d a b ord sc) s = execAmoand w64 d a b ord sc s := rfl
@[simp] theorem exec_amoor (w64 : Bool) (d : Fin 32) (a : Fin 32) (b : Fin 32) (ord : Ord) (sc : Scope) (s : State) :
    exec (.amoor w64 d a b ord sc) s = execAmoor w64 d a b ord sc s := rfl
@[simp] theorem exec_amoxor (w64 : Bool) (d : Fin 32) (a : Fin 32) (b : Fin 32) (ord : Ord) (sc : Scope) (s : State) :
    exec (.amoxor w64 d a b ord sc) s = execAmoxor w64 d a b ord sc s := rfl
@[simp] theorem exec_amomin (w64 : Bool) (d : Fin 32) (a : Fin 32) (b : Fin 32) (ord : Ord) (sc : Scope) (s : State) :
    exec (.amomin w64 d a b ord sc) s = execAmomin w64 d a b ord sc s := rfl
@[simp] theorem exec_amomax (w64 : Bool) (d : Fin 32) (a : Fin 32) (b : Fin 32) (ord : Ord) (sc : Scope) (s : State) :
    exec (.amomax w64 d a b ord sc) s = execAmomax w64 d a b ord sc s := rfl
@[simp] theorem exec_amominn (w64 : Bool) (d : Fin 32) (a : Fin 32) (b : Fin 32) (ord : Ord) (sc : Scope) (s : State) :
    exec (.amominn w64 d a b ord sc) s = execAmominn w64 d a b ord sc s := rfl
@[simp] theorem exec_amomaxn (w64 : Bool) (d : Fin 32) (a : Fin 32) (b : Fin 32) (ord : Ord) (sc : Scope) (s : State) :
    exec (.amomaxn w64 d a b ord sc) s = execAmomaxn w64 d a b ord sc s := rfl
@[simp] theorem exec_amofadd (d : Fin 32) (a : Fin 32) (b : Fin 32) (ord : Ord) (sc : Scope) (s : State) :
    exec (.amofadd d a b ord sc) s = execAmofadd d a b ord sc s := rfl
@[simp] theorem exec_casD (d : Fin 32) (a : Fin 32) (b : Fin 32) (ord : Ord) (sc : Scope) (s : State) :
    exec (.casD d a b ord sc) s = execCasD d a b ord sc s := rfl
@[simp] theorem exec_casQ (d : Fin 32) (a : Fin 32) (b : Fin 32) (ord : Ord) (sc : Scope) (s : State) :
    exec (.casQ d a b ord sc) s = execCasQ d a b ord sc s := rfl
@[simp] theorem exec_vld (d : Fin 32) (b : Fin 32) (wa : Bool) (off : BitVec 11) (s : State) :
    exec (.vld d b wa off) s = execVld d b wa off s := rfl
@[simp] theorem exec_vst (d : Fin 32) (b : Fin 32) (wa : Bool) (off : BitVec 11) (s : State) :
    exec (.vst d b wa off) s = execVst d b wa off s := rfl
@[simp] theorem exec_vldNw (d : Fin 32) (b : Fin 32) (wa : Bool) (off : BitVec 11) (s : State) :
    exec (.vldNw d b wa off) s = execVldNw d b wa off s := rfl
@[simp] theorem exec_vgat (sz : MSz) (d : Fin 32) (a : Fin 32) (b : Fin 32) (wa : Bool) (s : State) :
    exec (.vgat sz d a b wa) s = execVgat sz d a b wa s := rfl
@[simp] theorem exec_vsca (sz : MSz) (d : Fin 32) (a : Fin 32) (b : Fin 32) (wa : Bool) (s : State) :
    exec (.vsca sz d a b wa) s = execVsca sz d a b wa s := rfl
@[simp] theorem exec_vldb (sz : MSz) (d : Fin 32) (a : Fin 32) (wa : Bool) (s : State) :
    exec (.vldb sz d a wa) s = execVldb sz d a wa s := rfl
@[simp] theorem exec_br (off : BitVec 18) (s : State) :
    exec (.br off) s = execBr off s := rfl
@[simp] theorem exec_call (a : Fin 32) (off : BitVec 18) (s : State) :
    exec (.call a off) s = execCall a off s := rfl
@[simp] theorem exec_bv (a : Fin 32) (off : BitVec 18) (s : State) :
    exec (.bv a off) s = execBv a off s := rfl
@[simp] theorem exec_bnv (a : Fin 32) (off : BitVec 18) (s : State) :
    exec (.bnv a off) s = execBnv a off s := rfl
@[simp] theorem exec_bnz (a : Fin 32) (off : BitVec 18) (s : State) :
    exec (.bnz a off) s = execBnz a off s := rfl
@[simp] theorem exec_bz (a : Fin 32) (off : BitVec 18) (s : State) :
    exec (.bz a off) s = execBz a off s := rfl
@[simp] theorem exec_jr (d : Fin 32) (a : Fin 32) (wa : Bool) (imm : BitVec 14) (s : State) :
    exec (.jr d a wa imm) s = execJr d a wa imm s := rfl
@[simp] theorem exec_ldk (sz : MSz) (d : Fin 32) (a : Fin 32) (b : Fin 32) (wa : Bool) (wb : Bool) (s : State) :
    exec (.ldk sz d a b wa wb) s = execLdk sz d a b wa wb s := rfl
@[simp] theorem exec_wput (d : Fin 32) (b : Fin 32) (wb : Bool) (s : State) :
    exec (.wput d b wb) s = execWput d b wb s := rfl
@[simp] theorem exec_wwait (s : State) :
    exec (.wwait) s = execWwait s := rfl
@[simp] theorem exec_wdisp (s : State) :
    exec (.wdisp) s = execWdisp s := rfl
@[simp] theorem exec_wdone (s : State) :
    exec (.wdone) s = execWdone s := rfl
@[simp] theorem exec_sync (lv : Level) (s : State) :
    exec (.sync lv) s = execSync lv s := rfl
@[simp] theorem exec_voteAnd (lv : Level) (d : Fin 32) (a : Fin 32) (wa : Bool) (s : State) :
    exec (.voteAnd lv d a wa) s = execVoteAnd lv d a wa s := rfl
@[simp] theorem exec_voteOr (lv : Level) (d : Fin 32) (a : Fin 32) (wa : Bool) (s : State) :
    exec (.voteOr lv d a wa) s = execVoteOr lv d a wa s := rfl
@[simp] theorem exec_voteAdd (lv : Level) (d : Fin 32) (a : Fin 32) (wa : Bool) (s : State) :
    exec (.voteAdd lv d a wa) s = execVoteAdd lv d a wa s := rfl
@[simp] theorem exec_fence (sc : Scope) (pr : Bool) (pw : Bool) (sr : Bool) (sw : Bool) (s : State) :
    exec (.fence sc pr pw sr sw) s = execFence sc pr pw sr sw s := rfl
@[simp] theorem exec_hwbarArrive (lv : WLevel) (s : State) :
    exec (.hwbarArrive lv) s = execHwbarArrive lv s := rfl
@[simp] theorem exec_hwbarWait (lv : WLevel) (s : State) :
    exec (.hwbarWait lv) s = execHwbarWait lv s := rfl
@[simp] theorem exec_watch (a : Fin 32) (wa : Bool) (s : State) :
    exec (.watch a wa) s = execWatch a wa s := rfl
@[simp] theorem exec_wfe (s : State) :
    exec (.wfe) s = execWfe s := rfl
@[simp] theorem exec_sev (s : State) :
    exec (.sev) s = execSev s := rfl
@[simp] theorem exec_qget (q : Fin 16) (a : Fin 32) (s : State) :
    exec (.qget q a) s = execQget q a s := rfl
@[simp] theorem exec_qput (q : Fin 16) (a : Fin 32) (wa : Bool) (s : State) :
    exec (.qput q a wa) s = execQput q a wa s := rfl
@[simp] theorem exec_vqget (q : Fin 16) (a : Fin 32) (s : State) :
    exec (.vqget q a) s = execVqget q a s := rfl
@[simp] theorem exec_vqput (q : Fin 16) (a : Fin 32) (s : State) :
    exec (.vqput q a) s = execVqput q a s := rfl
@[simp] theorem exec_ecmd (q : Fin 16) (a : Fin 32) (b : Fin 32) (wa : Bool) (wb : Bool) (s : State) :
    exec (.ecmd q a b wa wb) s = execEcmd q a b wa wb s := rfl
@[simp] theorem exec_ebusy (q : Fin 16) (a : Fin 32) (s : State) :
    exec (.ebusy q a) s = execEbusy q a s := rfl
@[simp] theorem exec_efence (lo : BitVec 5) (hi : BitVec 2) (s : State) :
    exec (.efence lo hi) s = execEfence lo hi s := rfl
@[simp] theorem exec_qlen (q : Fin 16) (a : Fin 32) (s : State) :
    exec (.qlen q a) s = execQlen q a s := rfl
@[simp] theorem exec_hld (d : Fin 8) (b : Fin 32) (wa : Bool) (nw : Bool) (off : BitVec 11) (s : State) :
    exec (.hld d b wa nw off) s = execHld d b wa nw off s := rfl
@[simp] theorem exec_hst (d : Fin 8) (b : Fin 32) (wa : Bool) (wd : Bool) (off : BitVec 11) (s : State) :
    exec (.hst d b wa wd off) s = execHst d b wa wd off s := rfl
@[simp] theorem exec_mld (s32 : Bool) (d : Fin 8) (a : Fin 32) (b : Fin 32) (s : State) :
    exec (.mld s32 d a b) s = execMld s32 d a b s := rfl
@[simp] theorem exec_mst (d : Fin 8) (a : Fin 32) (b : Fin 32) (s : State) :
    exec (.mst d a b) s = execMst d a b s := rfl
@[simp] theorem exec_wbld (len : WLen) (sp : Bool) (d : Fin 32) (a : Fin 32) (s : State) :
    exec (.wbld len sp d a) s = execWbld len sp d a s := rfl
@[simp] theorem exec_mepi (d : Fin 8) (a : Fin 32) (b : Fin 32) (c : Fin 32) (s : State) :
    exec (.mepi d a b c) s = execMepi d a b c s := rfl
@[simp] theorem exec_wbinv (a : Fin 32) (b : Fin 32) (s : State) :
    exec (.wbinv a b) s = execWbinv a b s := rfl
@[simp] theorem exec_syscall (a : Fin 32) (wa : Bool) (s : State) :
    exec (.syscall a wa) s = execSyscall a wa s := rfl
@[simp] theorem exec_sret (s : State) :
    exec (.sret) s = execSret s := rfl
@[simp] theorem exec_endCtx (s : State) :
    exec (.endCtx) s = execEndCtx s := rfl
@[simp] theorem exec_brk (code : BitVec 5) (s : State) :
    exec (.brk code) s = execBrk code s := rfl
@[simp] theorem exec_ifence (s : State) :
    exec (.ifence) s = execIfence s := rfl
@[simp] theorem exec_tlbinvAll (s : State) :
    exec (.tlbinvAll) s = execTlbinvAll s := rfl
@[simp] theorem exec_tlbinvAsid (b : Fin 32) (wb : Bool) (s : State) :
    exec (.tlbinvAsid b wb) s = execTlbinvAsid b wb s := rfl
@[simp] theorem exec_tlbinvVa (a : Fin 32) (b : Fin 32) (wa : Bool) (wb : Bool) (s : State) :
    exec (.tlbinvVa a b wa wb) s = execTlbinvVa a b wa wb s := rfl
@[simp] theorem exec_tlbinvVaall (a : Fin 32) (wa : Bool) (s : State) :
    exec (.tlbinvVaall a wa) s = execTlbinvVaall a wa s := rfl
@[simp] theorem exec_wfi (s : State) :
    exec (.wfi) s = execWfi s := rfl
@[simp] theorem exec_rdfe (d : Fin 32) (s : State) :
    exec (.rdfe d) s = execRdfe d s := rfl
@[simp] theorem exec_wrfe (a : Fin 32) (wa : Bool) (s : State) :
    exec (.wrfe a wa) s = execWrfe a wa s := rfl
@[simp] theorem exec_rdvb (d : Fin 32) (s : State) :
    exec (.rdvb d) s = execRdvb d s := rfl
@[simp] theorem exec_wrvb (a : Fin 32) (wa : Bool) (s : State) :
    exec (.wrvb a wa) s = execWrvb a wa s := rfl
@[simp] theorem exec_yield (s : State) :
    exec (.yield) s = execYield s := rfl
@[simp] theorem exec_csrr (d : Fin 32) (n : BitVec 12) (s : State) :
    exec (.csrr d n) s = execCsrr d n s := rfl
@[simp] theorem exec_csrw (d : Fin 32) (a : Fin 32) (wa : Bool) (n : BitVec 12) (s : State) :
    exec (.csrw d a wa n) s = execCsrw d a wa n s := rfl
@[simp] theorem exec_csrs (d : Fin 32) (a : Fin 32) (wa : Bool) (n : BitVec 12) (s : State) :
    exec (.csrs d a wa n) s = execCsrs d a wa n s := rfl
@[simp] theorem exec_csrc (d : Fin 32) (a : Fin 32) (wa : Bool) (n : BitVec 12) (s : State) :
    exec (.csrc d a wa n) s = execCsrc d a wa n s := rfl
@[simp] theorem exec_vadd (e : IEt) (d : Fin 32) (a : Fin 32) (b : Fin 32) (s : State) :
    exec (.vadd e d a b) s = execVadd e d a b s := rfl
@[simp] theorem exec_vsub (e : IEt) (d : Fin 32) (a : Fin 32) (b : Fin 32) (s : State) :
    exec (.vsub e d a b) s = execVsub e d a b s := rfl
@[simp] theorem exec_vmul (e : IEt) (d : Fin 32) (a : Fin 32) (b : Fin 32) (s : State) :
    exec (.vmul e d a b) s = execVmul e d a b s := rfl
@[simp] theorem exec_vmulh (e : IEt) (d : Fin 32) (a : Fin 32) (b : Fin 32) (s : State) :
    exec (.vmulh e d a b) s = execVmulh e d a b s := rfl
@[simp] theorem exec_vmin (e : IEt) (d : Fin 32) (a : Fin 32) (b : Fin 32) (s : State) :
    exec (.vmin e d a b) s = execVmin e d a b s := rfl
@[simp] theorem exec_vmax (e : IEt) (d : Fin 32) (a : Fin 32) (b : Fin 32) (s : State) :
    exec (.vmax e d a b) s = execVmax e d a b s := rfl
@[simp] theorem exec_vabs (e : IEt) (d : Fin 32) (a : Fin 32) (s : State) :
    exec (.vabs e d a) s = execVabs e d a s := rfl
@[simp] theorem exec_vneg (e : IEt) (d : Fin 32) (a : Fin 32) (s : State) :
    exec (.vneg e d a) s = execVneg e d a s := rfl
@[simp] theorem exec_vand (e : IEt) (d : Fin 32) (a : Fin 32) (b : Fin 32) (s : State) :
    exec (.vand e d a b) s = execVand e d a b s := rfl
@[simp] theorem exec_vor (e : IEt) (d : Fin 32) (a : Fin 32) (b : Fin 32) (s : State) :
    exec (.vor e d a b) s = execVor e d a b s := rfl
@[simp] theorem exec_vxor (e : IEt) (d : Fin 32) (a : Fin 32) (b : Fin 32) (s : State) :
    exec (.vxor e d a b) s = execVxor e d a b s := rfl
@[simp] theorem exec_vandn (e : IEt) (d : Fin 32) (a : Fin 32) (b : Fin 32) (s : State) :
    exec (.vandn e d a b) s = execVandn e d a b s := rfl
@[simp] theorem exec_vsll (e : IEt) (d : Fin 32) (a : Fin 32) (b : Fin 32) (s : State) :
    exec (.vsll e d a b) s = execVsll e d a b s := rfl
@[simp] theorem exec_vsrl (e : IEt) (d : Fin 32) (a : Fin 32) (b : Fin 32) (s : State) :
    exec (.vsrl e d a b) s = execVsrl e d a b s := rfl
@[simp] theorem exec_vsra (e : IEt) (d : Fin 32) (a : Fin 32) (b : Fin 32) (s : State) :
    exec (.vsra e d a b) s = execVsra e d a b s := rfl
@[simp] theorem exec_vaddsat (e : IEt) (d : Fin 32) (a : Fin 32) (b : Fin 32) (s : State) :
    exec (.vaddsat e d a b) s = execVaddsat e d a b s := rfl
@[simp] theorem exec_vsubsat (e : IEt) (d : Fin 32) (a : Fin 32) (b : Fin 32) (s : State) :
    exec (.vsubsat e d a b) s = execVsubsat e d a b s := rfl
@[simp] theorem exec_vavg (e : IEt) (d : Fin 32) (a : Fin 32) (b : Fin 32) (s : State) :
    exec (.vavg e d a b) s = execVavg e d a b s := rfl
@[simp] theorem exec_vcmpEq (e : IEt) (d : Fin 32) (a : Fin 32) (b : Fin 32) (s : State) :
    exec (.vcmpEq e d a b) s = execVcmpEq e d a b s := rfl
@[simp] theorem exec_vcmpLt (e : IEt) (d : Fin 32) (a : Fin 32) (b : Fin 32) (s : State) :
    exec (.vcmpLt e d a b) s = execVcmpLt e d a b s := rfl
@[simp] theorem exec_vcmpLe (e : IEt) (d : Fin 32) (a : Fin 32) (b : Fin 32) (s : State) :
    exec (.vcmpLe e d a b) s = execVcmpLe e d a b s := rfl
@[simp] theorem exec_vbsel (e : IEt) (d : Fin 32) (a : Fin 32) (b : Fin 32) (s : State) :
    exec (.vbsel e d a b) s = execVbsel e d a b s := rfl
@[simp] theorem exec_vpopc (e : IEt) (d : Fin 32) (a : Fin 32) (s : State) :
    exec (.vpopc e d a) s = execVpopc e d a s := rfl
@[simp] theorem exec_vclz (e : IEt) (d : Fin 32) (a : Fin 32) (s : State) :
    exec (.vclz e d a) s = execVclz e d a s := rfl
@[simp] theorem exec_vfadd (e : FEt) (d : Fin 32) (a : Fin 32) (b : Fin 32) (s : State) :
    exec (.vfadd e d a b) s = execVfadd e d a b s := rfl
@[simp] theorem exec_vfsub (e : FEt) (d : Fin 32) (a : Fin 32) (b : Fin 32) (s : State) :
    exec (.vfsub e d a b) s = execVfsub e d a b s := rfl
@[simp] theorem exec_vfmul (e : FEt) (d : Fin 32) (a : Fin 32) (b : Fin 32) (s : State) :
    exec (.vfmul e d a b) s = execVfmul e d a b s := rfl
@[simp] theorem exec_vfma (e : FEt) (d : Fin 32) (a : Fin 32) (b : Fin 32) (s : State) :
    exec (.vfma e d a b) s = execVfma e d a b s := rfl
@[simp] theorem exec_vfnma (e : FEt) (d : Fin 32) (a : Fin 32) (b : Fin 32) (s : State) :
    exec (.vfnma e d a b) s = execVfnma e d a b s := rfl
@[simp] theorem exec_vfdiv (e : FEt) (d : Fin 32) (a : Fin 32) (b : Fin 32) (s : State) :
    exec (.vfdiv e d a b) s = execVfdiv e d a b s := rfl
@[simp] theorem exec_vfsqrt (e : FEt) (d : Fin 32) (a : Fin 32) (s : State) :
    exec (.vfsqrt e d a) s = execVfsqrt e d a s := rfl
@[simp] theorem exec_vfmin (e : FEt) (d : Fin 32) (a : Fin 32) (b : Fin 32) (s : State) :
    exec (.vfmin e d a b) s = execVfmin e d a b s := rfl
@[simp] theorem exec_vfmax (e : FEt) (d : Fin 32) (a : Fin 32) (b : Fin 32) (s : State) :
    exec (.vfmax e d a b) s = execVfmax e d a b s := rfl
@[simp] theorem exec_vfabs (e : FEt) (d : Fin 32) (a : Fin 32) (s : State) :
    exec (.vfabs e d a) s = execVfabs e d a s := rfl
@[simp] theorem exec_vfneg (e : FEt) (d : Fin 32) (a : Fin 32) (s : State) :
    exec (.vfneg e d a) s = execVfneg e d a s := rfl
@[simp] theorem exec_vfcmpEq (e : FEt) (d : Fin 32) (a : Fin 32) (b : Fin 32) (s : State) :
    exec (.vfcmpEq e d a b) s = execVfcmpEq e d a b s := rfl
@[simp] theorem exec_vfcmpLt (e : FEt) (d : Fin 32) (a : Fin 32) (b : Fin 32) (s : State) :
    exec (.vfcmpLt e d a b) s = execVfcmpLt e d a b s := rfl
@[simp] theorem exec_vfcmpLe (e : FEt) (d : Fin 32) (a : Fin 32) (b : Fin 32) (s : State) :
    exec (.vfcmpLe e d a b) s = execVfcmpLe e d a b s := rfl
@[simp] theorem exec_vfdot (e : FEt) (d : Fin 32) (a : Fin 32) (b : Fin 32) (s : State) :
    exec (.vfdot e d a b) s = execVfdot e d a b s := rfl
@[simp] theorem exec_vcvt (dst : LEt) (src : LEt) (d : Fin 32) (a : Fin 32) (s : State) :
    exec (.vcvt dst src d a) s = execVcvt dst src d a s := rfl
@[simp] theorem exec_venc (t4 : Bool) (d : Fin 32) (a : Fin 32) (s : State) :
    exec (.venc t4 d a) s = execVenc t4 d a s := rfl
@[simp] theorem exec_vdec (t4 : Bool) (d : Fin 32) (a : Fin 32) (s : State) :
    exec (.vdec t4 d a) s = execVdec t4 d a s := rfl
@[simp] theorem exec_vcvtSat (dst : LEt) (src : LEt) (d : Fin 32) (a : Fin 32) (s : State) :
    exec (.vcvtSat dst src d a) s = execVcvtSat dst src d a s := rfl
@[simp] theorem exec_vperm (e : LEt) (d : Fin 32) (a : Fin 32) (b : Fin 32) (s : State) :
    exec (.vperm e d a b) s = execVperm e d a b s := rfl
@[simp] theorem exec_vbcast (e : LEt) (d : Fin 32) (a : Fin 32) (s : State) :
    exec (.vbcast e d a) s = execVbcast e d a s := rfl
@[simp] theorem exec_vext (e : LEt) (d : Fin 32) (a : Fin 32) (b : Fin 32) (s : State) :
    exec (.vext e d a b) s = execVext e d a b s := rfl
@[simp] theorem exec_vins (e : LEt) (d : Fin 32) (a : Fin 32) (b : Fin 32) (s : State) :
    exec (.vins e d a b) s = execVins e d a b s := rfl
@[simp] theorem exec_vslide (e : LEt) (d : Fin 32) (a : Fin 32) (b : Fin 32) (s : State) :
    exec (.vslide e d a b) s = execVslide e d a b s := rfl
@[simp] theorem exec_vrot (e : LEt) (d : Fin 32) (a : Fin 32) (b : Fin 32) (s : State) :
    exec (.vrot e d a b) s = execVrot e d a b s := rfl
@[simp] theorem exec_vzip (e : LEt) (d : Fin 32) (a : Fin 32) (b : Fin 32) (s : State) :
    exec (.vzip e d a b) s = execVzip e d a b s := rfl
@[simp] theorem exec_vunzip (e : LEt) (d : Fin 32) (a : Fin 32) (b : Fin 32) (s : State) :
    exec (.vunzip e d a b) s = execVunzip e d a b s := rfl
@[simp] theorem exec_vredAdd (e : LEt) (d : Fin 32) (a : Fin 32) (s : State) :
    exec (.vredAdd e d a) s = execVredAdd e d a s := rfl
@[simp] theorem exec_vredMax (e : LEt) (d : Fin 32) (a : Fin 32) (s : State) :
    exec (.vredMax e d a) s = execVredMax e d a s := rfl
@[simp] theorem exec_vredMin (e : LEt) (d : Fin 32) (a : Fin 32) (s : State) :
    exec (.vredMin e d a) s = execVredMin e d a s := rfl
@[simp] theorem exec_vpack24 (e : FEt) (d : Fin 32) (a : Fin 32) (b : Fin 32) (s : State) :
    exec (.vpack24 e d a b) s = execVpack24 e d a b s := rfl
@[simp] theorem exec_vunpack24 (e : FEt) (d : Fin 32) (a : Fin 32) (b : Fin 32) (s : State) :
    exec (.vunpack24 e d a b) s = execVunpack24 e d a b s := rfl
@[simp] theorem exec_vcompress (e : LEt) (d : Fin 32) (a : Fin 32) (b : Fin 32) (s : State) :
    exec (.vcompress e d a b) s = execVcompress e d a b s := rfl
@[simp] theorem exec_vexpand (e : LEt) (d : Fin 32) (a : Fin 32) (b : Fin 32) (s : State) :
    exec (.vexpand e d a b) s = execVexpand e d a b s := rfl
@[simp] theorem exec_vrcp (e : FEt) (d : Fin 32) (a : Fin 32) (s : State) :
    exec (.vrcp e d a) s = execVrcp e d a s := rfl
@[simp] theorem exec_vrsqrt (e : FEt) (d : Fin 32) (a : Fin 32) (s : State) :
    exec (.vrsqrt e d a) s = execVrsqrt e d a s := rfl
@[simp] theorem exec_vexp2 (e : FEt) (d : Fin 32) (a : Fin 32) (s : State) :
    exec (.vexp2 e d a) s = execVexp2 e d a s := rfl
@[simp] theorem exec_vlog2 (e : FEt) (d : Fin 32) (a : Fin 32) (s : State) :
    exec (.vlog2 e d a) s = execVlog2 e d a s := rfl
@[simp] theorem exec_mma (p : Pair) (d : Fin 8) (a : Fin 32) (b : Fin 32) (c : Fin 32) (s : State) :
    exec (.mma p d a b c) s = execMma p d a b c s := rfl
@[simp] theorem exec_mmas (p : Pair) (d : Fin 8) (a : Fin 32) (b : Fin 32) (c : Fin 32) (s : State) :
    exec (.mmas p d a b c) s = execMmas p d a b c s := rfl
@[simp] theorem exec_mz (s32 : Bool) (d : Fin 8) (s : State) :
    exec (.mz s32 d) s = execMz s32 d s := rfl
@[simp] theorem exec_mstat (d : Fin 32) (a : Fin 8) (s : State) :
    exec (.mstat d a) s = execMstat d a s := rfl
@[simp] theorem exec_mcpy (d : Fin 8) (a : Fin 8) (s : State) :
    exec (.mcpy d a) s = execMcpy d a s := rfl
@[simp] theorem exec_madd (d : Fin 8) (a : Fin 8) (s : State) :
    exec (.madd d a) s = execMadd d a s := rfl
@[simp] theorem exec_mscale (d : Fin 8) (a : Fin 32) (s : State) :
    exec (.mscale d a) s = execMscale d a s := rfl
@[simp] theorem exec_mrow (d : Fin 32) (a : Fin 8) (b : Fin 32) (s : State) :
    exec (.mrow d a b) s = execMrow d a b s := rfl
@[simp] theorem exec_mwait (d : Fin 8) (s : State) :
    exec (.mwait d) s = execMwait d s := rfl
@[simp] theorem exec_movf (clr : Bool) (d : Fin 32) (a : Fin 8) (s : State) :
    exec (.movf clr d a) s = execMovf clr d a s := rfl
@[simp] theorem exec_hxor (d : Fin 8) (a : Fin 8) (b : Fin 8) (s : State) :
    exec (.hxor d a b) s = execHxor d a b s := rfl
@[simp] theorem exec_hand (d : Fin 8) (a : Fin 8) (b : Fin 8) (s : State) :
    exec (.hand d a b) s = execHand d a b s := rfl
@[simp] theorem exec_hor (d : Fin 8) (a : Fin 8) (b : Fin 8) (s : State) :
    exec (.hor d a b) s = execHor d a b s := rfl
@[simp] theorem exec_hnot (d : Fin 8) (a : Fin 8) (s : State) :
    exec (.hnot d a) s = execHnot d a s := rfl
@[simp] theorem exec_hrot (d : Fin 8) (a : Fin 8) (b : Fin 32) (s : State) :
    exec (.hrot d a b) s = execHrot d a b s := rfl
@[simp] theorem exec_hbund (d : Fin 2) (a : Fin 8) (s : State) :
    exec (.hbund d a) s = execHbund d a s := rfl
@[simp] theorem exec_hbunw (d : Fin 2) (a : Fin 8) (b : Fin 32) (s : State) :
    exec (.hbunw d a b) s = execHbunw d a b s := rfl
@[simp] theorem exec_hbclr (d : Fin 2) (s : State) :
    exec (.hbclr d) s = execHbclr d s := rfl
@[simp] theorem exec_hthr (d : Fin 8) (a : Fin 2) (b : Fin 8) (s : State) :
    exec (.hthr d a b) s = execHthr d a b s := rfl
@[simp] theorem exec_hpopc (d : Fin 32) (a : Fin 8) (s : State) :
    exec (.hpopc d a) s = execHpopc d a s := rfl
@[simp] theorem exec_hdist (d : Fin 32) (a : Fin 8) (b : Fin 8) (s : State) :
    exec (.hdist d a b) s = execHdist d a b s := rfl
@[simp] theorem exec_hbcast (d : Fin 8) (a : Fin 32) (s : State) :
    exec (.hbcast d a) s = execHbcast d a s := rfl
@[simp] theorem exec_hins (d : Fin 8) (a : Fin 32) (b : Fin 32) (s : State) :
    exec (.hins d a b) s = execHins d a b s := rfl
@[simp] theorem exec_hext (d : Fin 32) (a : Fin 8) (b : Fin 32) (s : State) :
    exec (.hext d a b) s = execHext d a b s := rfl
@[simp] theorem exec_hmov (d : Fin 8) (a : Fin 8) (s : State) :
    exec (.hmov d a) s = execHmov d a s := rfl
@[simp] theorem exec_hmst (a : Fin 8) (b : Fin 32) (s : State) :
    exec (.hmst a b) s = execHmst a b s := rfl
@[simp] theorem exec_hmld (d : Fin 8) (b : Fin 32) (s : State) :
    exec (.hmld d b) s = execHmld d b s := rfl
@[simp] theorem exec_hmclr (b : Fin 32) (s : State) :
    exec (.hmclr b) s = execHmclr b s := rfl
@[simp] theorem exec_hmclrAll (s : State) :
    exec (.hmclrAll) s = execHmclrAll s := rfl
@[simp] theorem exec_hrecall (d : Fin 32) (a : Fin 8) (b : Fin 32) (s : State) :
    exec (.hrecall d a b) s = execHrecall d a b s := rfl
@[simp] theorem exec_hrecall2 (d : Fin 32) (a : Fin 8) (b : Fin 32) (s : State) :
    exec (.hrecall2 d a b) s = execHrecall2 d a b s := rfl
@[simp] theorem exec_dkEcmd (q : Fin 7) (rs1 : Fin 32) (rs2 : Fin 32) (s : State) :
    exec (.dkEcmd q rs1 rs2) s = execDkEcmd q rs1 rs2 s := rfl
@[simp] theorem exec_dkQput (c : Fin 4) (p : Fin 4) (rs1 : Fin 32) (s : State) :
    exec (.dkQput c p rs1) s = execDkQput c p rs1 s := rfl
@[simp] theorem exec_dkQget (c : Fin 4) (rd : Fin 32) (s : State) :
    exec (.dkQget c rd) s = execDkQget c rd s := rfl
@[simp] theorem exec_dkWcnt (n : Fin 7) (rs1 : Fin 32) (rd : Fin 32) (s : State) :
    exec (.dkWcnt n rs1 rd) s = execDkWcnt n rs1 rd s := rfl
@[simp] theorem exec_dkSev (s : State) :
    exec (.dkSev) s = execDkSev s := rfl
@[simp] theorem exec_dkWfe (s : State) :
    exec (.dkWfe) s = execDkWfe s := rfl
@[simp] theorem exec_dkWfeWatch (rs1 : Fin 32) (s : State) :
    exec (.dkWfeWatch rs1) s = execDkWfeWatch rs1 s := rfl
@[simp] theorem exec_dkRdst (n : RdSel) (rd : Fin 32) (s : State) :
    exec (.dkRdst n rd) s = execDkRdst n rd s := rfl
@[simp] theorem exec_dkWput (rs1 : Fin 32) (rs2 : Fin 32) (s : State) :
    exec (.dkWput rs1 rs2) s = execDkWput rs1 rs2 s := rfl
@[simp] theorem exec_ecall (s : State) :
    exec (.ecall) s = execEcall s := rfl
@[simp] theorem exec_ebreak (s : State) :
    exec (.ebreak) s = execEbreak s := rfl
@[simp] theorem exec_fillLand (vt : Nat) (c : Nat) (k : Nat) (s : State) :
    exec (.fillLand vt c k) s = execFillLand vt c k s := rfl
@[simp] theorem exec_interruptEntry (vt : Nat) (c : Nat) (s : State) :
    exec (.interruptEntry vt c) s = execInterruptEntry vt c s := rfl
@[simp] theorem exec_deferredFault (vt : Nat) (c : Nat) (s : State) :
    exec (.deferredFault vt c) s = execDeferredFault vt c s := rfl
@[simp] theorem exec_runcapExpiry (vt : Nat) (s : State) :
    exec (.runcapExpiry vt) s = execRuncapExpiry vt s := rfl
@[simp] theorem exec_timerMatch (vt : Nat) (c : Nat) (s : State) :
    exec (.timerMatch vt c) s = execTimerMatch vt c s := rfl
@[simp] theorem exec_runcapWrite (vt : Nat) (c : Nat) (v : W64) (s : State) :
    exec (.runcapWrite vt c v) s = execRuncapWrite vt c v s := rfl
@[simp] theorem exec_membWrite (vt : Nat) (c : Nat) (v : W64) (s : State) :
    exec (.membWrite vt c v) s = execMembWrite vt c v s := rfl
@[simp] theorem exec_tableLoadT8 (vt : Nat) (toff : BitVec 21) (s : State) :
    exec (.tableLoadT8 vt toff) s = execTableLoadT8 vt toff s := rfl
@[simp] theorem exec_tableLoadT4 (vt : Nat) (toff : BitVec 21) (s : State) :
    exec (.tableLoadT4 vt toff) s = execTableLoadT4 vt toff s := rfl
@[simp] theorem exec_engineFaultDrop (vt : Nat) (r : Nat) (s : State) :
    exec (.engineFaultDrop vt r) s = execEngineFaultDrop vt r s := rfl
@[simp] theorem exec_windowStoreArrival (k : Nat) (s : State) :
    exec (.windowStoreArrival k) s = execWindowStoreArrival k s := rfl
@[simp] theorem exec_windowLoadArrival (vt : Nat) (c : Nat) (k : Nat) (s : State) :
    exec (.windowLoadArrival vt c k) s = execWindowLoadArrival vt c k s := rfl
@[simp] theorem exec_portEntryArrival (k : Nat) (s : State) :
    exec (.portEntryArrival k) s = execPortEntryArrival k s := rfl
@[simp] theorem exec_streamWindowWrite (k : Nat) (s : State) :
    exec (.streamWindowWrite k) s = execStreamWindowWrite k s := rfl
@[simp] theorem exec_parkedMessage (k : Nat) (s : State) :
    exec (.parkedMessage k) s = execParkedMessage k s := rfl
@[simp] theorem exec_spliceInsert (vt : Nat) (k : Nat) (s : State) :
    exec (.spliceInsert vt k) s = execSpliceInsert vt k s := rfl
@[simp] theorem exec_recordRetry (vt : Nat) (k : Nat) (s : State) :
    exec (.recordRetry vt k) s = execRecordRetry vt k s := rfl
@[simp] theorem exec_spliceRefill (vt : Nat) (s : State) :
    exec (.spliceRefill vt) s = execSpliceRefill vt s := rfl
@[simp] theorem exec_spliceDispatch (vt : Nat) (s : State) :
    exec (.spliceDispatch vt) s = execSpliceDispatch vt s := rfl
@[simp] theorem exec_barrierCompletion (lv : Level) (id : Nat) (remote : W64) (s : State) :
    exec (.barrierCompletion lv id remote) s = execBarrierCompletion lv id remote s := rfl
@[simp] theorem exec_barrierTimeout (lv : Level) (id : Nat) (s : State) :
    exec (.barrierTimeout lv id) s = execBarrierTimeout lv id s := rfl
@[simp] theorem exec_wireBarrierCompletion (lv : WLevel) (id : Nat) (s : State) :
    exec (.wireBarrierCompletion lv id) s = execWireBarrierCompletion lv id s := rfl
@[simp] theorem exec_arrayPass (vt : Nat) (s : State) :
    exec (.arrayPass vt) s = execArrayPass vt s := rfl
@[simp] theorem exec_wbldLanded (vt : Nat) (slot : Nat) (s : State) :
    exec (.wbldLanded vt slot) s = execWbldLanded vt slot s := rfl
@[simp] theorem exec_engineCommandEnqueue (vt : Nat) (r : Nat) (q : Nat) (s : State) :
    exec (.engineCommandEnqueue vt r q) s = execEngineCommandEnqueue vt r q s := rfl
@[simp] theorem exec_copyUnit (vt : Nat) (q : Nat) (s : State) :
    exec (.copyUnit vt q) s = execCopyUnit vt q s := rfl
@[simp] theorem exec_copy2d (vt : Nat) (q : Nat) (s : State) :
    exec (.copy2d vt q) s = execCopy2d vt q s := rfl
@[simp] theorem exec_gather (vt : Nat) (q : Nat) (s : State) :
    exec (.gather vt q) s = execGather vt q s := rfl
@[simp] theorem exec_scatter (vt : Nat) (q : Nat) (s : State) :
    exec (.scatter vt q) s = execScatter vt q s := rfl
@[simp] theorem exec_joinCmd (vt : Nat) (q : Nat) (s : State) :
    exec (.joinCmd vt q) s = execJoinCmd vt q s := rfl
@[simp] theorem exec_allred (vt : Nat) (s : State) :
    exec (.allred vt) s = execAllred vt s := rfl
@[simp] theorem exec_bcast (vt : Nat) (s : State) :
    exec (.bcast vt) s = execBcast vt s := rfl
@[simp] theorem exec_mcastSt (vt : Nat) (s : State) :
    exec (.mcastSt vt) s = execMcastSt vt s := rfl
@[simp] theorem exec_redSt (vt : Nat) (s : State) :
    exec (.redSt vt) s = execRedSt vt s := rfl
@[simp] theorem exec_signal (vt : Nat) (q : Nat) (s : State) :
    exec (.signal vt q) s = execSignal vt q s := rfl
@[simp] theorem exec_engineCompletion (vt : Nat) (q : Nat) (s : State) :
    exec (.engineCompletion vt q) s = execEngineCompletion vt q s := rfl
@[simp] theorem exec_collectiveGeneration (lv : Level) (id : Nat) (s : State) :
    exec (.collectiveGeneration lv id) s = execCollectiveGeneration lv id s := rfl
@[simp] theorem exec_collectiveTimeout (lv : Level) (id : Nat) (s : State) :
    exec (.collectiveTimeout lv id) s = execCollectiveTimeout lv id s := rfl
@[simp] theorem exec_pageRequestReply (v : Nat) (grant : Bool) (tag : BitVec 16) (s : State) :
    exec (.pageRequestReply v grant tag) s = execPageRequestReply v grant tag s := rfl
@[simp] theorem exec_quantumExpiry (gr : Nat) (gc : Nat) (s : State) :
    exec (.quantumExpiry gr gc) s = execQuantumExpiry gr gc s := rfl
@[simp] theorem exec_graceExpiry (gr : Nat) (gc : Nat) (s : State) :
    exec (.graceExpiry gr gc) s = execGraceExpiry gr gc s := rfl
@[simp] theorem exec_haltComplete (gr : Nat) (gc : Nat) (s : State) :
    exec (.haltComplete gr gc) s = execHaltComplete gr gc s := rfl
@[simp] theorem exec_swapOut (gr : Nat) (gc : Nat) (s : State) :
    exec (.swapOut gr gc) s = execSwapOut gr gc s := rfl
@[simp] theorem exec_swapIn (gr : Nat) (gc : Nat) (s : State) :
    exec (.swapIn gr gc) s = execSwapIn gr gc s := rfl
@[simp] theorem exec_debugHalt (vt : Nat) (r : Nat) (s : State) :
    exec (.debugHalt vt r) s = execDebugHalt vt r s := rfl
@[simp] theorem exec_debugResume (vt : Nat) (r : Nat) (s : State) :
    exec (.debugResume vt r) s = execDebugResume vt r s := rfl
@[simp] theorem exec_debugStep (vt : Nat) (r : Nat) (s : State) :
    exec (.debugStep vt r) s = execDebugStep vt r s := rfl
@[simp] theorem exec_debugRoleWrite (vt : Nat) (r : Nat) (w : RoleWrite) (s : State) :
    exec (.debugRoleWrite vt r w) s = execDebugRoleWrite vt r w s := rfl
@[simp] theorem exec_scrubPass (g : Granule) (raced : Bool) (s : State) :
    exec (.scrubPass g raced) s = execScrubPass g raced s := rfl
@[simp] theorem exec_lashIntervalEnd (vt : Nat) (s : State) :
    exec (.lashIntervalEnd vt) s = execLashIntervalEnd vt s := rfl
@[simp] theorem exec_lashExchange (vt : Nat) (agree : Bool) (s : State) :
    exec (.lashExchange vt agree) s = execLashExchange vt agree s := rfl
@[simp] theorem exec_belayRollback (s : State) :
    exec (.belayRollback) s = execBelayRollback s := rfl
@[simp] theorem exec_lashcfgWrite (vt : Nat) (s : State) :
    exec (.lashcfgWrite vt) s = execLashcfgWrite vt s := rfl
@[simp] theorem exec_belaycfgWrite (vt : Nat) (s : State) :
    exec (.belaycfgWrite vt) s = execBelaycfgWrite vt s := rfl
@[simp] theorem exec_cpLockstepMismatch (s : State) :
    exec (.cpLockstepMismatch) s = execCpLockstepMismatch s := rfl
@[simp] theorem exec_replayRelease (vt : Nat) (s : State) :
    exec (.replayRelease vt) s = execReplayRelease vt s := rfl
@[simp] theorem exec_notifyWrite (v : Nat) (q : Nat) (s : State) :
    exec (.notifyWrite v q) s = execNotifyWrite v q s := rfl
@[simp] theorem exec_slotMapping (k : Nat) (s : State) :
    exec (.slotMapping k) s = execSlotMapping k s := rfl
@[simp] theorem exec_pinExpiry (k : Nat) (s : State) :
    exec (.pinExpiry k) s = execPinExpiry k s := rfl
@[simp] theorem exec_slotRotation (k : Nat) (s : State) :
    exec (.slotRotation k) s = execSlotRotation k s := rfl
@[simp] theorem exec_launchDispatch (k : Nat) (s : State) :
    exec (.launchDispatch k) s = execLaunchDispatch k s := rfl
@[simp] theorem exec_launchGroupCommit (gid : Nat) (remote : Bool) (s : State) :
    exec (.launchGroupCommit gid remote) s = execLaunchGroupCommit gid remote s := rfl
@[simp] theorem exec_launchGroupTimeout (gid : Nat) (s : State) :
    exec (.launchGroupTimeout gid) s = execLaunchGroupTimeout gid s := rfl
@[simp] theorem exec_gridCompletion (s : State) :
    exec (.gridCompletion) s = execGridCompletion s := rfl
@[simp] theorem exec_completionRecordRelease (v : Nat) (s : State) :
    exec (.completionRecordRelease v) s = execCompletionRecordRelease v s := rfl
@[simp] theorem exec_fenceCounterWrite (v : Nat) (k : Nat) (x : W64) (s : State) :
    exec (.fenceCounterWrite v k x) s = execFenceCounterWrite v k x s := rfl
@[simp] theorem exec_inval2 (v : Nat) (s : State) :
    exec (.inval2 v) s = execInval2 v s := rfl
@[simp] theorem exec_inval2Complete (v : Nat) (s : State) :
    exec (.inval2Complete v) s = execInval2Complete v s := rfl
@[simp] theorem exec_scopectlWrite (v : Nat) (x : W64) (s : State) :
    exec (.scopectlWrite v x) s = execScopectlWrite v x s := rfl
@[simp] theorem exec_energyWindow (v : Nat) (p : Nat) (s : State) :
    exec (.energyWindow v p) s = execEnergyWindow v p s := rfl
@[simp] theorem exec_partitionCreate (v : Nat) (s : State) :
    exec (.partitionCreate v) s = execPartitionCreate v s := rfl
@[simp] theorem exec_partitionReady (v : Nat) (s : State) :
    exec (.partitionReady v) s = execPartitionReady v s := rfl
@[simp] theorem exec_partitionTeardown (v : Nat) (s : State) :
    exec (.partitionTeardown v) s = execPartitionTeardown v s := rfl
@[simp] theorem exec_partitionScrubDone (v : Nat) (s : State) :
    exec (.partitionScrubDone v) s = execPartitionScrubDone v s := rfl
@[simp] theorem exec_attestationRequest (v : Nat) (nonce : BitVec 512) (buf : W64) (s : State) :
    exec (.attestationRequest v nonce buf) s = execAttestationRequest v nonce buf s := rfl
@[simp] theorem exec_attestationReport (v : Nat) (s : State) :
    exec (.attestationReport v) s = execAttestationReport v s := rfl
@[simp] theorem exec_meterPeriod (s : State) :
    exec (.meterPeriod) s = execMeterPeriod s := rfl
@[simp] theorem exec_usageRecordRelease (s : State) :
    exec (.usageRecordRelease) s = execUsageRecordRelease s := rfl
@[simp] theorem exec_linkstatWrite (s : State) :
    exec (.linkstatWrite) s = execLinkstatWrite s := rfl
@[simp] theorem exec_registerWrite (p : HostPage) (off : Nat) (x : W64) (s : State) :
    exec (.registerWrite p off x) s = execRegisterWrite p off x s := rfl
@[simp] theorem exec_linkBeat (l : Nat) (ok : Bool) (s : State) :
    exec (.linkBeat l ok) s = execLinkBeat l ok s := rfl
@[simp] theorem exec_linkDown (l : Nat) (s : State) :
    exec (.linkDown l) s = execLinkDown l s := rfl
@[simp] theorem exec_migrationStart (v : Nat) (s : State) :
    exec (.migrationStart v) s = execMigrationStart v s := rfl
@[simp] theorem exec_pagePull (v : Nat) (s : State) :
    exec (.pagePull v) s = execPagePull v s := rfl
@[simp] theorem exec_backgroundPull (v : Nat) (s : State) :
    exec (.backgroundPull v) s = execBackgroundPull v s := rfl
@[simp] theorem exec_poolpagesWrite (v : Nat) (n : W64) (s : State) :
    exec (.poolpagesWrite v n) s = execPoolpagesWrite v n s := rfl
@[simp] theorem exec_bringup (b : BringUp) (s : State) :
    exec (.bringup b) s = execBringup b s := rfl
@[simp] theorem exec_dirtyClusterScrub (k : Nat) (s : State) :
    exec (.dirtyClusterScrub k) s = execDirtyClusterScrub k s := rfl
@[simp] theorem exec_thermalWarning (s : State) :
    exec (.thermalWarning) s = execThermalWarning s := rfl
@[simp] theorem exec_thermalCritical (s : State) :
    exec (.thermalCritical) s = execThermalCritical s := rfl
@[simp] theorem exec_rv64imInstruction (w : BitVec 32) (s : State) :
    exec (.rv64imInstruction w) s = execRv64imInstruction w s := rfl
@[simp] theorem exec_helperEngineInterrupt (vt : Nat) (r : Nat) (s : State) :
    exec (.helperEngineInterrupt vt r) s = execHelperEngineInterrupt vt r s := rfl
@[simp] theorem exec_cxlMemAccess (v : Nat) (gpa : Nat) (n : Nat) (data : Option (List (BitVec 8))) (s : State) :
    exec (.cxlMemAccess v gpa n data) s = execCxlMemAccess v gpa n data s := rfl
@[simp] theorem exec_prqheadWrite (v : Nat) (x : W64) (s : State) :
    exec (.prqheadWrite v x) s = execPrqheadWrite v x s := rfl
@[simp] theorem exec_firmwareRestartComplete (s : State) :
    exec (.firmwareRestartComplete) s = execFirmwareRestartComplete s := rfl
@[simp] theorem exec_thermalWarningCleared (s : State) :
    exec (.thermalWarningCleared) s = execThermalWarningCleared s := rfl
@[simp] theorem exec_powerLoss (s : State) :
    exec (.powerLoss) s = execPowerLoss s := rfl

end Sys2Proof.Laws
end

