-- ==== Sys2Proof/Laws/Memory.lean ====
section
/-! SUPPORT. The byte store of a memory: its canonical form, which every operation keeps, and reading after writing. -/

namespace Sys2Proof.Laws

open Sys2Proof Sys2Proof.Machine

theorem cellsWf_cons (k : Nat) (b : Byte) (r : List Host.Cell) :
    cellsWf ((k, b) :: r) = true ↔ b ≠ 0 ∧ (∀ p ∈ r, k < p.1) ∧ cellsWf r = true := by
  induction r generalizing k b with
  | nil => simp [cellsWf]
  | cons q r ih =>
    obtain ⟨k', c⟩ := q
    have h := ih k' c
    rw [cellsWf]
    simp only [Bool.and_eq_true, bne_iff_ne, ne_eq, decide_eq_true_eq]
    constructor
    · rintro ⟨⟨hb, hk⟩, hr⟩
      refine ⟨hb, ?_, hr⟩
      intro p hp
      rcases List.mem_cons.1 hp with rfl | hp
      · exact hk
      · exact Nat.lt_trans hk ((h.1 hr).2.1 p hp)
    · rintro ⟨hb, hk, hr⟩
      exact ⟨⟨hb, hk _ (List.mem_cons_self ..)⟩, hr⟩

theorem cellsGet_above (l : List Host.Cell) (a : Nat) (h : ∀ p ∈ l, a < p.1) : cellsGet l a = 0 := by
  induction l with
  | nil => rfl
  | cons q r ih =>
    obtain ⟨k, c⟩ := q
    have hk : a < k := h (k, c) (List.mem_cons_self ..)
    rw [cellsGet, if_neg (by omega)]
    exact ih fun p hp => h p (List.mem_cons_of_mem _ hp)

theorem cellsSet_mem (l : List Host.Cell) (a : Nat) (b : Byte) (p : Host.Cell) (h : p ∈ cellsSet l a b) :
    p ∈ l ∨ p = (a, b) := by
  induction l with
  | nil => rw [cellsSet] at h; split at h <;> simp_all
  | cons q r ih =>
    obtain ⟨k, c⟩ := q
    rw [cellsSet] at h
    split at h
    · rcases List.mem_cons.1 h with h | h
      · exact .inl (h ▸ List.mem_cons_self ..)
      · exact (ih h).imp (List.mem_cons_of_mem _) id
    · split at h
      · split at h
        · exact .inl (List.mem_cons_of_mem _ h)
        · rcases List.mem_cons.1 h with h | h
          · exact .inr h
          · exact .inl (List.mem_cons_of_mem _ h)
      · split at h
        · exact .inl h
        · rcases List.mem_cons.1 h with h | h
          · exact .inr h
          · exact .inl h

/-- Writing a byte keeps the canonical form. -/
theorem cellsSet_wf (l : List Host.Cell) (a : Nat) (b : Byte) (h : cellsWf l = true) : cellsWf (cellsSet l a b) = true := by
  induction l with
  | nil =>
    rw [cellsSet]
    split
    · rfl
    · rw [cellsWf_cons]; exact ⟨‹_›, by simp, rfl⟩
  | cons q r ih =>
    obtain ⟨k, c⟩ := q
    obtain ⟨hc, hr, hw⟩ := (cellsWf_cons k c r).1 h
    rw [cellsSet]
    split
    · rw [cellsWf_cons]
      refine ⟨hc, ?_, ih hw⟩
      intro p hp
      rcases cellsSet_mem r a b p hp with hp | rfl
      · exact hr p hp
      · assumption
    · split
      · next hka =>
        subst hka
        split
        · exact hw
        · rw [cellsWf_cons]; exact ⟨‹_›, hr, hw⟩
      · split
        · exact h
        · rw [cellsWf_cons]
          refine ⟨‹_›, ?_, h⟩
          intro p hp
          rcases List.mem_cons.1 hp with rfl | hp
          · show a < k; omega
          · have := hr p hp; omega

/-- A byte reads as what was last written to it, and every other byte as before. -/
theorem cellsGet_set (l : List Host.Cell) (a k : Nat) (b : Byte) (h : cellsWf l = true) :
    cellsGet (cellsSet l a b) k = if k = a then b else cellsGet l k := by
  induction l with
  | nil =>
    rw [cellsSet]
    by_cases hb : b = 0
    · rw [if_pos hb, hb, cellsGet, ite_self]
    · rw [if_neg hb, cellsGet, cellsGet]
      by_cases hk : k = a
      · rw [if_pos hk, if_pos hk.symm]
      · rw [if_neg hk, if_neg (fun h => hk h.symm)]; rfl
  | cons q r ih =>
    obtain ⟨j, c⟩ := q
    obtain ⟨hc, hr, hw⟩ := (cellsWf_cons j c r).1 h
    rw [cellsSet]
    by_cases h1 : j < a
    · rw [if_pos h1, cellsGet, cellsGet, ih hw]
      split <;> split <;> first | rfl | omega
    · rw [if_neg h1]
      by_cases h2 : j = a
      · subst h2
        rw [if_pos rfl]
        by_cases h3 : b = 0
        · rw [if_pos h3]
          by_cases h4 : k = j
          · subst h4; rw [if_pos rfl, h3]; exact cellsGet_above r k hr
          · rw [if_neg h4, cellsGet, if_neg (fun h => h4 h.symm)]
        · rw [if_neg h3, cellsGet, cellsGet]
          by_cases h4 : k = j
          · subst h4; simp
          · rw [if_neg (fun h => h4 h.symm), if_neg h4, if_neg (fun h => h4 h.symm)]
      · rw [if_neg h2]
        by_cases h3 : b = 0
        · rw [if_pos h3]
          by_cases h4 : k = a
          · subst h4
            rw [if_pos rfl, h3]
            refine cellsGet_above _ _ ?_
            intro p hp
            rcases List.mem_cons.1 hp with rfl | hp
            · show k < j; omega
            · have := hr p hp; omega
          · rw [if_neg h4]
        · rw [if_neg h3, cellsGet]
          by_cases h4 : k = a
          · subst h4; simp
          · rw [if_neg (fun h => h4 h.symm), if_neg h4]

/-- Two canonical lists that read alike are the same list. -/
theorem cells_ext (l m : List Host.Cell) (hl : cellsWf l = true) (hm : cellsWf m = true)
    (h : ∀ a, cellsGet l a = cellsGet m a) : l = m := by
  induction l generalizing m with
  | nil =>
    cases m with
    | nil => rfl
    | cons q r =>
      obtain ⟨k, c⟩ := q
      have := h k
      rw [cellsGet, cellsGet, if_pos rfl] at this
      exact absurd this.symm ((cellsWf_cons k c r).1 hm).1
  | cons p l ih =>
    obtain ⟨k, b⟩ := p
    obtain ⟨hb, hk, hl'⟩ := (cellsWf_cons k b l).1 hl
    cases m with
    | nil =>
      have := h k
      rw [cellsGet, cellsGet, if_pos rfl] at this
      exact absurd this hb
    | cons q r =>
      obtain ⟨j, c⟩ := q
      obtain ⟨hc, hj, hr'⟩ := (cellsWf_cons j c r).1 hm
      have hkj : k = j := by
        rcases Nat.lt_trichotomy k j with hlt | heq | hgt
        · exfalso
          have := h k
          rw [cellsGet, if_pos rfl, cellsGet, if_neg (by omega), cellsGet_above r k (fun p hp => Nat.lt_trans hlt (hj p hp))] at this
          exact hb this
        · exact heq
        · exfalso
          have := h j
          rw [cellsGet, if_neg (by omega), cellsGet_above l j (fun p hp => Nat.lt_trans hgt (hk p hp)), cellsGet, if_pos rfl] at this
          exact hc this.symm
      subst hkj
      have hbc : b = c := by have := h k; rwa [cellsGet, cellsGet, if_pos rfl, if_pos rfl] at this
      subst hbc
      congr 1
      refine ih r hl' hr' fun a => ?_
      by_cases ha : a = k
      · subst ha; rw [cellsGet_above l a hk, cellsGet_above r a hj]
      · have := h a
        rwa [cellsGet, cellsGet, if_neg (fun h => ha h.symm), if_neg (fun h => ha h.symm)] at this

/-! ## Memories -/

theorem empty_wf : ({} : Memory).wf = true := rfl

theorem set_wf (m : Memory) (a : Nat) (b : Byte) (h : m.wf = true) : (m.set a b).wf = true := cellsSet_wf _ _ _ h

theorem write_wf (m : Memory) (a : Nat) (bs : List Byte) (h : m.wf = true) : (m.write a bs).wf = true := by
  induction bs generalizing m a with
  | nil => exact h
  | cons b r ih => exact ih _ _ (set_wf m a b h)

theorem writeNat_wf (m : Memory) (a n v : Nat) (h : m.wf = true) : (m.writeNat a n v).wf = true := write_wf _ _ _ h

theorem get_set (m : Memory) (a k : Nat) (b : Byte) (h : m.wf = true) :
    (m.set a b).get k = if k = a then b else m.get k := cellsGet_set _ _ _ _ h

/-- Bytes outside the written range read as before; those inside read as written. -/
theorem get_write (m : Memory) (a k : Nat) (bs : List Byte) (h : m.wf = true) :
    (m.write a bs).get k = if h : a ≤ k ∧ k < a + bs.length then bs[k - a] else m.get k := by
  induction bs generalizing m a with
  | nil => rw [Memory.write, dif_neg (by simp)]
  | cons b r ih =>
    rw [Memory.write, ih _ _ (set_wf m a b h), get_set m a k b h]
    by_cases h1 : a + 1 ≤ k ∧ k < a + 1 + r.length
    · rw [dif_pos h1, dif_pos (by simp; omega)]
      obtain ⟨j, rfl⟩ : ∃ j, k = a + 1 + j := ⟨k - (a + 1), by omega⟩
      simp [show a + 1 + j - a = j + 1 by omega]
    · rw [dif_neg h1]
      by_cases h2 : k = a
      · subst h2; rw [if_pos rfl, dif_pos (by simp)]; simp
      · rw [if_neg h2, dif_neg (by simp; omega)]

theorem get_write_outside (m : Memory) (a k : Nat) (bs : List Byte) (h : m.wf = true)
    (hk : k < a ∨ a + bs.length ≤ k) : (m.write a bs).get k = m.get k := by
  rw [get_write m a k bs h, dif_neg (by omega)]

@[simp] theorem read_length (m : Memory) (a n : Nat) : (m.read a n).length = n := by
  induction n generalizing a with
  | zero => rfl
  | succ n ih => rw [Memory.read, List.length_cons, ih]

theorem read_getElem (m : Memory) (a n i : Nat) (h : i < (m.read a n).length) : (m.read a n)[i] = m.get (a + i) := by
  induction n generalizing a i with
  | zero => simp [Memory.read] at h
  | succ n ih =>
    cases i with
    | zero => simp [Memory.read]
    | succ i =>
      simp only [Memory.read, List.getElem_cons_succ]
      rw [ih]; congr 1; omega

/-- Reading back a range just written gives the bytes written. -/
theorem read_write (m : Memory) (a : Nat) (bs : List Byte) (h : m.wf = true) : (m.write a bs).read a bs.length = bs := by
  refine List.ext_getElem (by simp) fun i h1 h2 => ?_
  rw [read_getElem, get_write m a _ bs h, dif_pos (by omega)]
  congr 1; omega

theorem memory_ext (m n : Memory) (hm : m.wf = true) (hn : n.wf = true) (h : ∀ a, m.get a = n.get a) : m = n := by
  cases m; cases n; congr 1; exact cells_ext _ _ hm hn h

@[simp] theorem bytesOf_length (n v : Nat) : (bytesOf n v).length = n := by
  induction n generalizing v with
  | zero => rfl
  | succ n ih => rw [bytesOf, List.length_cons, ih]

/-- The bytes of a number, read back as a number. -/
theorem natOf_bytesOf (n v : Nat) : natOf (bytesOf n v) = v % 256 ^ n := by
  induction n generalizing v with
  | zero => simp [bytesOf, natOf, Nat.mod_one]
  | succ n ih =>
    rw [bytesOf, natOf, ih, BitVec.toNat_ofNat, Nat.pow_succ' (m := 256)]
    exact Nat.mod_mul.symm

end Sys2Proof.Laws
end

