-- ==== Sys2Proof/Laws/State.lean ====
section
/-! SUPPORT. What each named update of the state leaves in each field, by `rfl`, so that no proof unfolds a record update. -/

namespace Sys2Proof.Laws

open Sys2Proof Sys2Proof.Machine

/-! ## `Ctx.setX` -/

@[simp] theorem setX_id (c : Ctx) (r : Fin 32) (y : XReg) : (c.setX r y).id = c.id := rfl
@[simp] theorem setX_run (c : Ctx) (r : Fin 32) (y : XReg) : (c.setX r y).run = c.run := rfl
@[simp] theorem setX_x (c : Ctx) (r : Fin 32) (y : XReg) : (c.setX r y).x = c.x.set r y := rfl
@[simp] theorem setX_v (c : Ctx) (r : Fin 32) (y : XReg) : (c.setX r y).v = c.v := rfl
@[simp] theorem setX_t (c : Ctx) (r : Fin 32) (y : XReg) : (c.setX r y).t = c.t := rfl
@[simp] theorem setX_h (c : Ctx) (r : Fin 32) (y : XReg) : (c.setX r y).h = c.h := rfl
@[simp] theorem setX_b (c : Ctx) (r : Fin 32) (y : XReg) : (c.setX r y).b = c.b := rfl
@[simp] theorem setX_pc (c : Ctx) (r : Fin 32) (y : XReg) : (c.setX r y).pc = c.pc := rfl
@[simp] theorem setX_pos (c : Ctx) (r : Fin 32) (y : XReg) : (c.setX r y).pos = c.pos := rfl
@[simp] theorem setX_inPair (c : Ctx) (r : Fin 32) (y : XReg) : (c.setX r y).inPair = c.inPair := rfl
@[simp] theorem setX_xfer (c : Ctx) (r : Fin 32) (y : XReg) : (c.setX r y).xfer = c.xfer := rfl
@[simp] theorem setX_viaSret (c : Ctx) (r : Fin 32) (y : XReg) : (c.setX r y).viaSret = c.viaSret := rfl
@[simp] theorem setX_status (c : Ctx) (r : Fin 32) (y : XReg) : (c.setX r y).status = c.status := rfl
@[simp] theorem setX_epc (c : Ctx) (r : Fin 32) (y : XReg) : (c.setX r y).epc = c.epc := rfl
@[simp] theorem setX_cause (c : Ctx) (r : Fin 32) (y : XReg) : (c.setX r y).cause = c.cause := rfl
@[simp] theorem setX_tval (c : Ctx) (r : Fin 32) (y : XReg) : (c.setX r y).tval = c.tval := rfl
@[simp] theorem setX_tval2 (c : Ctx) (r : Fin 32) (y : XReg) : (c.setX r y).tval2 = c.tval2 := rfl
@[simp] theorem setX_tvec (c : Ctx) (r : Fin 32) (y : XReg) : (c.setX r y).tvec = c.tvec := rfl
@[simp] theorem setX_scratch (c : Ctx) (r : Fin 32) (y : XReg) : (c.setX r y).scratch = c.scratch := rfl
@[simp] theorem setX_ie (c : Ctx) (r : Fin 32) (y : XReg) : (c.setX r y).ie = c.ie := rfl
@[simp] theorem setX_ipSoft (c : Ctx) (r : Fin 32) (y : XReg) : (c.setX r y).ipSoft = c.ipSoft := rfl
@[simp] theorem setX_ipDebug (c : Ctx) (r : Fin 32) (y : XReg) : (c.setX r y).ipDebug = c.ipDebug := rfl
@[simp] theorem setX_ipPre (c : Ctx) (r : Fin 32) (y : XReg) : (c.setX r y).ipPre = c.ipPre := rfl
@[simp] theorem setX_xtarget (c : Ctx) (r : Fin 32) (y : XReg) : (c.setX r y).xtarget = c.xtarget := rfl
@[simp] theorem setX_fflags (c : Ctx) (r : Fin 32) (y : XReg) : (c.setX r y).fflags = c.fflags := rfl
@[simp] theorem setX_mDom (c : Ctx) (r : Fin 32) (y : XReg) : (c.setX r y).mDom = c.mDom := rfl
@[simp] theorem setX_mGrid (c : Ctx) (r : Fin 32) (y : XReg) : (c.setX r y).mGrid = c.mGrid := rfl
@[simp] theorem setX_mGang (c : Ctx) (r : Fin 32) (y : XReg) : (c.setX r y).mGang = c.mGang := rfl
@[simp] theorem setX_mTile (c : Ctx) (r : Fin 32) (y : XReg) : (c.setX r y).mTile = c.mTile := rfl
@[simp] theorem setX_runcap (c : Ctx) (r : Fin 32) (y : XReg) : (c.setX r y).runcap = c.runcap := rfl
@[simp] theorem setX_turn (c : Ctx) (r : Fin 32) (y : XReg) : (c.setX r y).turn = c.turn := rfl
@[simp] theorem setX_portcfg (c : Ctx) (r : Fin 32) (y : XReg) : (c.setX r y).portcfg = c.portcfg := rfl
@[simp] theorem setX_pitch (c : Ctx) (r : Fin 32) (y : XReg) : (c.setX r y).pitch = c.pitch := rfl
@[simp] theorem setX_sat (c : Ctx) (r : Fin 32) (y : XReg) : (c.setX r y).sat = c.sat := rfl
@[simp] theorem setX_frecs (c : Ctx) (r : Fin 32) (y : XReg) : (c.setX r y).frecs = c.frecs := rfl
@[simp] theorem setX_cnt (c : Ctx) (r : Fin 32) (y : XReg) : (c.setX r y).cnt = c.cnt := rfl
@[simp] theorem setX_bto (c : Ctx) (r : Fin 32) (y : XReg) : (c.setX r y).bto = c.bto := rfl
@[simp] theorem setX_bars (c : Ctx) (r : Fin 32) (y : XReg) : (c.setX r y).bars = c.bars := rfl
@[simp] theorem setX_instret (c : Ctx) (r : Fin 32) (y : XReg) : (c.setX r y).instret = c.instret := rfl
@[simp] theorem setX_tmatch (c : Ctx) (r : Fin 32) (y : XReg) : (c.setX r y).tmatch = c.tmatch := rfl
@[simp] theorem setX_ptroot (c : Ctx) (r : Fin 32) (y : XReg) : (c.setX r y).ptroot = c.ptroot := rfl
@[simp] theorem setX_asid (c : Ctx) (r : Fin 32) (y : XReg) : (c.setX r y).asid = c.asid := rfl
@[simp] theorem setX_inq (c : Ctx) (r : Fin 32) (y : XReg) : (c.setX r y).inq = c.inq := rfl
@[simp] theorem setX_qin (c : Ctx) (r : Fin 32) (y : XReg) : (c.setX r y).qin = c.qin := rfl
@[simp] theorem setX_qbad (c : Ctx) (r : Fin 32) (y : XReg) : (c.setX r y).qbad = c.qbad := rfl
@[simp] theorem setX_qout (c : Ctx) (r : Fin 32) (y : XReg) : (c.setX r y).qout = c.qout := rfl
@[simp] theorem setX_watch (c : Ctx) (r : Fin 32) (y : XReg) : (c.setX r y).watch = c.watch := rfl
@[simp] theorem setX_evt (c : Ctx) (r : Fin 32) (y : XReg) : (c.setX r y).evt = c.evt := rfl
@[simp] theorem setX_accs (c : Ctx) (r : Fin 32) (y : XReg) : (c.setX r y).accs = c.accs := rfl
@[simp] theorem setX_dfaults (c : Ctx) (r : Fin 32) (y : XReg) : (c.setX r y).dfaults = c.dfaults := rfl
@[simp] theorem setX_denial (c : Ctx) (r : Fin 32) (y : XReg) : (c.setX r y).denial = c.denial := rfl
@[simp] theorem setX_kept (c : Ctx) (r : Fin 32) (y : XReg) : (c.setX r y).kept = c.kept := rfl
@[simp] theorem setX_fetched (c : Ctx) (r : Fin 32) (y : XReg) : (c.setX r y).fetched = c.fetched := rfl
@[simp] theorem setX_frame (c : Ctx) (r : Fin 32) (y : XReg) : (c.setX r y).frame = c.frame := rfl
@[simp] theorem setX_posted (c : Ctx) (r : Fin 32) (y : XReg) : (c.setX r y).posted = c.posted := rfl
@[simp] theorem setX_slow (c : Ctx) (r : Fin 32) (y : XReg) : (c.setX r y).slow = c.slow := rfl
@[simp] theorem setX_outside (c : Ctx) (r : Fin 32) (y : XReg) : (c.setX r y).outside = c.outside := rfl
@[simp] theorem setX_passed (c : Ctx) (r : Fin 32) (y : XReg) : (c.setX r y).passed = c.passed := rfl
@[simp] theorem setX_contBar (c : Ctx) (r : Fin 32) (y : XReg) : (c.setX r y).contBar = c.contBar := rfl
@[simp] theorem setX_contEng (c : Ctx) (r : Fin 32) (y : XReg) : (c.setX r y).contEng = c.contEng := rfl
@[simp] theorem setX_recv (c : Ctx) (r : Fin 32) (y : XReg) : (c.setX r y).recv = c.recv := rfl
@[simp] theorem setX_recvBad (c : Ctx) (r : Fin 32) (y : XReg) : (c.setX r y).recvBad = c.recvBad := rfl
@[simp] theorem setX_dbg (c : Ctx) (r : Fin 32) (y : XReg) : (c.setX r y).dbg = c.dbg := rfl

/-! ## `Ctx.setV` -/

@[simp] theorem setV_id (c : Ctx) (r : Fin 32) (y : VReg) : (c.setV r y).id = c.id := rfl
@[simp] theorem setV_run (c : Ctx) (r : Fin 32) (y : VReg) : (c.setV r y).run = c.run := rfl
@[simp] theorem setV_x (c : Ctx) (r : Fin 32) (y : VReg) : (c.setV r y).x = c.x := rfl
@[simp] theorem setV_v (c : Ctx) (r : Fin 32) (y : VReg) : (c.setV r y).v = c.v.set r y := rfl
@[simp] theorem setV_t (c : Ctx) (r : Fin 32) (y : VReg) : (c.setV r y).t = c.t := rfl
@[simp] theorem setV_h (c : Ctx) (r : Fin 32) (y : VReg) : (c.setV r y).h = c.h := rfl
@[simp] theorem setV_b (c : Ctx) (r : Fin 32) (y : VReg) : (c.setV r y).b = c.b := rfl
@[simp] theorem setV_pc (c : Ctx) (r : Fin 32) (y : VReg) : (c.setV r y).pc = c.pc := rfl
@[simp] theorem setV_pos (c : Ctx) (r : Fin 32) (y : VReg) : (c.setV r y).pos = c.pos := rfl
@[simp] theorem setV_inPair (c : Ctx) (r : Fin 32) (y : VReg) : (c.setV r y).inPair = c.inPair := rfl
@[simp] theorem setV_xfer (c : Ctx) (r : Fin 32) (y : VReg) : (c.setV r y).xfer = c.xfer := rfl
@[simp] theorem setV_viaSret (c : Ctx) (r : Fin 32) (y : VReg) : (c.setV r y).viaSret = c.viaSret := rfl
@[simp] theorem setV_status (c : Ctx) (r : Fin 32) (y : VReg) : (c.setV r y).status = c.status := rfl
@[simp] theorem setV_epc (c : Ctx) (r : Fin 32) (y : VReg) : (c.setV r y).epc = c.epc := rfl
@[simp] theorem setV_cause (c : Ctx) (r : Fin 32) (y : VReg) : (c.setV r y).cause = c.cause := rfl
@[simp] theorem setV_tval (c : Ctx) (r : Fin 32) (y : VReg) : (c.setV r y).tval = c.tval := rfl
@[simp] theorem setV_tval2 (c : Ctx) (r : Fin 32) (y : VReg) : (c.setV r y).tval2 = c.tval2 := rfl
@[simp] theorem setV_tvec (c : Ctx) (r : Fin 32) (y : VReg) : (c.setV r y).tvec = c.tvec := rfl
@[simp] theorem setV_scratch (c : Ctx) (r : Fin 32) (y : VReg) : (c.setV r y).scratch = c.scratch := rfl
@[simp] theorem setV_ie (c : Ctx) (r : Fin 32) (y : VReg) : (c.setV r y).ie = c.ie := rfl
@[simp] theorem setV_ipSoft (c : Ctx) (r : Fin 32) (y : VReg) : (c.setV r y).ipSoft = c.ipSoft := rfl
@[simp] theorem setV_ipDebug (c : Ctx) (r : Fin 32) (y : VReg) : (c.setV r y).ipDebug = c.ipDebug := rfl
@[simp] theorem setV_ipPre (c : Ctx) (r : Fin 32) (y : VReg) : (c.setV r y).ipPre = c.ipPre := rfl
@[simp] theorem setV_xtarget (c : Ctx) (r : Fin 32) (y : VReg) : (c.setV r y).xtarget = c.xtarget := rfl
@[simp] theorem setV_fflags (c : Ctx) (r : Fin 32) (y : VReg) : (c.setV r y).fflags = c.fflags := rfl
@[simp] theorem setV_mDom (c : Ctx) (r : Fin 32) (y : VReg) : (c.setV r y).mDom = c.mDom := rfl
@[simp] theorem setV_mGrid (c : Ctx) (r : Fin 32) (y : VReg) : (c.setV r y).mGrid = c.mGrid := rfl
@[simp] theorem setV_mGang (c : Ctx) (r : Fin 32) (y : VReg) : (c.setV r y).mGang = c.mGang := rfl
@[simp] theorem setV_mTile (c : Ctx) (r : Fin 32) (y : VReg) : (c.setV r y).mTile = c.mTile := rfl
@[simp] theorem setV_runcap (c : Ctx) (r : Fin 32) (y : VReg) : (c.setV r y).runcap = c.runcap := rfl
@[simp] theorem setV_turn (c : Ctx) (r : Fin 32) (y : VReg) : (c.setV r y).turn = c.turn := rfl
@[simp] theorem setV_portcfg (c : Ctx) (r : Fin 32) (y : VReg) : (c.setV r y).portcfg = c.portcfg := rfl
@[simp] theorem setV_pitch (c : Ctx) (r : Fin 32) (y : VReg) : (c.setV r y).pitch = c.pitch := rfl
@[simp] theorem setV_sat (c : Ctx) (r : Fin 32) (y : VReg) : (c.setV r y).sat = c.sat := rfl
@[simp] theorem setV_frecs (c : Ctx) (r : Fin 32) (y : VReg) : (c.setV r y).frecs = c.frecs := rfl
@[simp] theorem setV_cnt (c : Ctx) (r : Fin 32) (y : VReg) : (c.setV r y).cnt = c.cnt := rfl
@[simp] theorem setV_bto (c : Ctx) (r : Fin 32) (y : VReg) : (c.setV r y).bto = c.bto := rfl
@[simp] theorem setV_bars (c : Ctx) (r : Fin 32) (y : VReg) : (c.setV r y).bars = c.bars := rfl
@[simp] theorem setV_instret (c : Ctx) (r : Fin 32) (y : VReg) : (c.setV r y).instret = c.instret := rfl
@[simp] theorem setV_tmatch (c : Ctx) (r : Fin 32) (y : VReg) : (c.setV r y).tmatch = c.tmatch := rfl
@[simp] theorem setV_ptroot (c : Ctx) (r : Fin 32) (y : VReg) : (c.setV r y).ptroot = c.ptroot := rfl
@[simp] theorem setV_asid (c : Ctx) (r : Fin 32) (y : VReg) : (c.setV r y).asid = c.asid := rfl
@[simp] theorem setV_inq (c : Ctx) (r : Fin 32) (y : VReg) : (c.setV r y).inq = c.inq := rfl
@[simp] theorem setV_qin (c : Ctx) (r : Fin 32) (y : VReg) : (c.setV r y).qin = c.qin := rfl
@[simp] theorem setV_qbad (c : Ctx) (r : Fin 32) (y : VReg) : (c.setV r y).qbad = c.qbad := rfl
@[simp] theorem setV_qout (c : Ctx) (r : Fin 32) (y : VReg) : (c.setV r y).qout = c.qout := rfl
@[simp] theorem setV_watch (c : Ctx) (r : Fin 32) (y : VReg) : (c.setV r y).watch = c.watch := rfl
@[simp] theorem setV_evt (c : Ctx) (r : Fin 32) (y : VReg) : (c.setV r y).evt = c.evt := rfl
@[simp] theorem setV_accs (c : Ctx) (r : Fin 32) (y : VReg) : (c.setV r y).accs = c.accs := rfl
@[simp] theorem setV_dfaults (c : Ctx) (r : Fin 32) (y : VReg) : (c.setV r y).dfaults = c.dfaults := rfl
@[simp] theorem setV_denial (c : Ctx) (r : Fin 32) (y : VReg) : (c.setV r y).denial = c.denial := rfl
@[simp] theorem setV_kept (c : Ctx) (r : Fin 32) (y : VReg) : (c.setV r y).kept = c.kept := rfl
@[simp] theorem setV_fetched (c : Ctx) (r : Fin 32) (y : VReg) : (c.setV r y).fetched = c.fetched := rfl
@[simp] theorem setV_frame (c : Ctx) (r : Fin 32) (y : VReg) : (c.setV r y).frame = c.frame := rfl
@[simp] theorem setV_posted (c : Ctx) (r : Fin 32) (y : VReg) : (c.setV r y).posted = c.posted := rfl
@[simp] theorem setV_slow (c : Ctx) (r : Fin 32) (y : VReg) : (c.setV r y).slow = c.slow := rfl
@[simp] theorem setV_outside (c : Ctx) (r : Fin 32) (y : VReg) : (c.setV r y).outside = c.outside := rfl
@[simp] theorem setV_passed (c : Ctx) (r : Fin 32) (y : VReg) : (c.setV r y).passed = c.passed := rfl
@[simp] theorem setV_contBar (c : Ctx) (r : Fin 32) (y : VReg) : (c.setV r y).contBar = c.contBar := rfl
@[simp] theorem setV_contEng (c : Ctx) (r : Fin 32) (y : VReg) : (c.setV r y).contEng = c.contEng := rfl
@[simp] theorem setV_recv (c : Ctx) (r : Fin 32) (y : VReg) : (c.setV r y).recv = c.recv := rfl
@[simp] theorem setV_recvBad (c : Ctx) (r : Fin 32) (y : VReg) : (c.setV r y).recvBad = c.recvBad := rfl
@[simp] theorem setV_dbg (c : Ctx) (r : Fin 32) (y : VReg) : (c.setV r y).dbg = c.dbg := rfl

/-! ## `Ctx.setH` -/

@[simp] theorem setH_id (c : Ctx) (r : Fin 8) (y : HReg) : (c.setH r y).id = c.id := rfl
@[simp] theorem setH_run (c : Ctx) (r : Fin 8) (y : HReg) : (c.setH r y).run = c.run := rfl
@[simp] theorem setH_x (c : Ctx) (r : Fin 8) (y : HReg) : (c.setH r y).x = c.x := rfl
@[simp] theorem setH_v (c : Ctx) (r : Fin 8) (y : HReg) : (c.setH r y).v = c.v := rfl
@[simp] theorem setH_t (c : Ctx) (r : Fin 8) (y : HReg) : (c.setH r y).t = c.t := rfl
@[simp] theorem setH_h (c : Ctx) (r : Fin 8) (y : HReg) : (c.setH r y).h = c.h.set r y := rfl
@[simp] theorem setH_b (c : Ctx) (r : Fin 8) (y : HReg) : (c.setH r y).b = c.b := rfl
@[simp] theorem setH_pc (c : Ctx) (r : Fin 8) (y : HReg) : (c.setH r y).pc = c.pc := rfl
@[simp] theorem setH_pos (c : Ctx) (r : Fin 8) (y : HReg) : (c.setH r y).pos = c.pos := rfl
@[simp] theorem setH_inPair (c : Ctx) (r : Fin 8) (y : HReg) : (c.setH r y).inPair = c.inPair := rfl
@[simp] theorem setH_xfer (c : Ctx) (r : Fin 8) (y : HReg) : (c.setH r y).xfer = c.xfer := rfl
@[simp] theorem setH_viaSret (c : Ctx) (r : Fin 8) (y : HReg) : (c.setH r y).viaSret = c.viaSret := rfl
@[simp] theorem setH_status (c : Ctx) (r : Fin 8) (y : HReg) : (c.setH r y).status = c.status := rfl
@[simp] theorem setH_epc (c : Ctx) (r : Fin 8) (y : HReg) : (c.setH r y).epc = c.epc := rfl
@[simp] theorem setH_cause (c : Ctx) (r : Fin 8) (y : HReg) : (c.setH r y).cause = c.cause := rfl
@[simp] theorem setH_tval (c : Ctx) (r : Fin 8) (y : HReg) : (c.setH r y).tval = c.tval := rfl
@[simp] theorem setH_tval2 (c : Ctx) (r : Fin 8) (y : HReg) : (c.setH r y).tval2 = c.tval2 := rfl
@[simp] theorem setH_tvec (c : Ctx) (r : Fin 8) (y : HReg) : (c.setH r y).tvec = c.tvec := rfl
@[simp] theorem setH_scratch (c : Ctx) (r : Fin 8) (y : HReg) : (c.setH r y).scratch = c.scratch := rfl
@[simp] theorem setH_ie (c : Ctx) (r : Fin 8) (y : HReg) : (c.setH r y).ie = c.ie := rfl
@[simp] theorem setH_ipSoft (c : Ctx) (r : Fin 8) (y : HReg) : (c.setH r y).ipSoft = c.ipSoft := rfl
@[simp] theorem setH_ipDebug (c : Ctx) (r : Fin 8) (y : HReg) : (c.setH r y).ipDebug = c.ipDebug := rfl
@[simp] theorem setH_ipPre (c : Ctx) (r : Fin 8) (y : HReg) : (c.setH r y).ipPre = c.ipPre := rfl
@[simp] theorem setH_xtarget (c : Ctx) (r : Fin 8) (y : HReg) : (c.setH r y).xtarget = c.xtarget := rfl
@[simp] theorem setH_fflags (c : Ctx) (r : Fin 8) (y : HReg) : (c.setH r y).fflags = c.fflags := rfl
@[simp] theorem setH_mDom (c : Ctx) (r : Fin 8) (y : HReg) : (c.setH r y).mDom = c.mDom := rfl
@[simp] theorem setH_mGrid (c : Ctx) (r : Fin 8) (y : HReg) : (c.setH r y).mGrid = c.mGrid := rfl
@[simp] theorem setH_mGang (c : Ctx) (r : Fin 8) (y : HReg) : (c.setH r y).mGang = c.mGang := rfl
@[simp] theorem setH_mTile (c : Ctx) (r : Fin 8) (y : HReg) : (c.setH r y).mTile = c.mTile := rfl
@[simp] theorem setH_runcap (c : Ctx) (r : Fin 8) (y : HReg) : (c.setH r y).runcap = c.runcap := rfl
@[simp] theorem setH_turn (c : Ctx) (r : Fin 8) (y : HReg) : (c.setH r y).turn = c.turn := rfl
@[simp] theorem setH_portcfg (c : Ctx) (r : Fin 8) (y : HReg) : (c.setH r y).portcfg = c.portcfg := rfl
@[simp] theorem setH_pitch (c : Ctx) (r : Fin 8) (y : HReg) : (c.setH r y).pitch = c.pitch := rfl
@[simp] theorem setH_sat (c : Ctx) (r : Fin 8) (y : HReg) : (c.setH r y).sat = c.sat := rfl
@[simp] theorem setH_frecs (c : Ctx) (r : Fin 8) (y : HReg) : (c.setH r y).frecs = c.frecs := rfl
@[simp] theorem setH_cnt (c : Ctx) (r : Fin 8) (y : HReg) : (c.setH r y).cnt = c.cnt := rfl
@[simp] theorem setH_bto (c : Ctx) (r : Fin 8) (y : HReg) : (c.setH r y).bto = c.bto := rfl
@[simp] theorem setH_bars (c : Ctx) (r : Fin 8) (y : HReg) : (c.setH r y).bars = c.bars := rfl
@[simp] theorem setH_instret (c : Ctx) (r : Fin 8) (y : HReg) : (c.setH r y).instret = c.instret := rfl
@[simp] theorem setH_tmatch (c : Ctx) (r : Fin 8) (y : HReg) : (c.setH r y).tmatch = c.tmatch := rfl
@[simp] theorem setH_ptroot (c : Ctx) (r : Fin 8) (y : HReg) : (c.setH r y).ptroot = c.ptroot := rfl
@[simp] theorem setH_asid (c : Ctx) (r : Fin 8) (y : HReg) : (c.setH r y).asid = c.asid := rfl
@[simp] theorem setH_inq (c : Ctx) (r : Fin 8) (y : HReg) : (c.setH r y).inq = c.inq := rfl
@[simp] theorem setH_qin (c : Ctx) (r : Fin 8) (y : HReg) : (c.setH r y).qin = c.qin := rfl
@[simp] theorem setH_qbad (c : Ctx) (r : Fin 8) (y : HReg) : (c.setH r y).qbad = c.qbad := rfl
@[simp] theorem setH_qout (c : Ctx) (r : Fin 8) (y : HReg) : (c.setH r y).qout = c.qout := rfl
@[simp] theorem setH_watch (c : Ctx) (r : Fin 8) (y : HReg) : (c.setH r y).watch = c.watch := rfl
@[simp] theorem setH_evt (c : Ctx) (r : Fin 8) (y : HReg) : (c.setH r y).evt = c.evt := rfl
@[simp] theorem setH_accs (c : Ctx) (r : Fin 8) (y : HReg) : (c.setH r y).accs = c.accs := rfl
@[simp] theorem setH_dfaults (c : Ctx) (r : Fin 8) (y : HReg) : (c.setH r y).dfaults = c.dfaults := rfl
@[simp] theorem setH_denial (c : Ctx) (r : Fin 8) (y : HReg) : (c.setH r y).denial = c.denial := rfl
@[simp] theorem setH_kept (c : Ctx) (r : Fin 8) (y : HReg) : (c.setH r y).kept = c.kept := rfl
@[simp] theorem setH_fetched (c : Ctx) (r : Fin 8) (y : HReg) : (c.setH r y).fetched = c.fetched := rfl
@[simp] theorem setH_frame (c : Ctx) (r : Fin 8) (y : HReg) : (c.setH r y).frame = c.frame := rfl
@[simp] theorem setH_posted (c : Ctx) (r : Fin 8) (y : HReg) : (c.setH r y).posted = c.posted := rfl
@[simp] theorem setH_slow (c : Ctx) (r : Fin 8) (y : HReg) : (c.setH r y).slow = c.slow := rfl
@[simp] theorem setH_outside (c : Ctx) (r : Fin 8) (y : HReg) : (c.setH r y).outside = c.outside := rfl
@[simp] theorem setH_passed (c : Ctx) (r : Fin 8) (y : HReg) : (c.setH r y).passed = c.passed := rfl
@[simp] theorem setH_contBar (c : Ctx) (r : Fin 8) (y : HReg) : (c.setH r y).contBar = c.contBar := rfl
@[simp] theorem setH_contEng (c : Ctx) (r : Fin 8) (y : HReg) : (c.setH r y).contEng = c.contEng := rfl
@[simp] theorem setH_recv (c : Ctx) (r : Fin 8) (y : HReg) : (c.setH r y).recv = c.recv := rfl
@[simp] theorem setH_recvBad (c : Ctx) (r : Fin 8) (y : HReg) : (c.setH r y).recvBad = c.recvBad := rfl
@[simp] theorem setH_dbg (c : Ctx) (r : Fin 8) (y : HReg) : (c.setH r y).dbg = c.dbg := rfl

/-! ## `Ctx.setT` -/

@[simp] theorem setT_id (c : Ctx) (r : Fin 8) (y : TReg) : (c.setT r y).id = c.id := rfl
@[simp] theorem setT_run (c : Ctx) (r : Fin 8) (y : TReg) : (c.setT r y).run = c.run := rfl
@[simp] theorem setT_x (c : Ctx) (r : Fin 8) (y : TReg) : (c.setT r y).x = c.x := rfl
@[simp] theorem setT_v (c : Ctx) (r : Fin 8) (y : TReg) : (c.setT r y).v = c.v := rfl
@[simp] theorem setT_t (c : Ctx) (r : Fin 8) (y : TReg) : (c.setT r y).t = c.t.set r y := rfl
@[simp] theorem setT_h (c : Ctx) (r : Fin 8) (y : TReg) : (c.setT r y).h = c.h := rfl
@[simp] theorem setT_b (c : Ctx) (r : Fin 8) (y : TReg) : (c.setT r y).b = c.b := rfl
@[simp] theorem setT_pc (c : Ctx) (r : Fin 8) (y : TReg) : (c.setT r y).pc = c.pc := rfl
@[simp] theorem setT_pos (c : Ctx) (r : Fin 8) (y : TReg) : (c.setT r y).pos = c.pos := rfl
@[simp] theorem setT_inPair (c : Ctx) (r : Fin 8) (y : TReg) : (c.setT r y).inPair = c.inPair := rfl
@[simp] theorem setT_xfer (c : Ctx) (r : Fin 8) (y : TReg) : (c.setT r y).xfer = c.xfer := rfl
@[simp] theorem setT_viaSret (c : Ctx) (r : Fin 8) (y : TReg) : (c.setT r y).viaSret = c.viaSret := rfl
@[simp] theorem setT_status (c : Ctx) (r : Fin 8) (y : TReg) : (c.setT r y).status = c.status := rfl
@[simp] theorem setT_epc (c : Ctx) (r : Fin 8) (y : TReg) : (c.setT r y).epc = c.epc := rfl
@[simp] theorem setT_cause (c : Ctx) (r : Fin 8) (y : TReg) : (c.setT r y).cause = c.cause := rfl
@[simp] theorem setT_tval (c : Ctx) (r : Fin 8) (y : TReg) : (c.setT r y).tval = c.tval := rfl
@[simp] theorem setT_tval2 (c : Ctx) (r : Fin 8) (y : TReg) : (c.setT r y).tval2 = c.tval2 := rfl
@[simp] theorem setT_tvec (c : Ctx) (r : Fin 8) (y : TReg) : (c.setT r y).tvec = c.tvec := rfl
@[simp] theorem setT_scratch (c : Ctx) (r : Fin 8) (y : TReg) : (c.setT r y).scratch = c.scratch := rfl
@[simp] theorem setT_ie (c : Ctx) (r : Fin 8) (y : TReg) : (c.setT r y).ie = c.ie := rfl
@[simp] theorem setT_ipSoft (c : Ctx) (r : Fin 8) (y : TReg) : (c.setT r y).ipSoft = c.ipSoft := rfl
@[simp] theorem setT_ipDebug (c : Ctx) (r : Fin 8) (y : TReg) : (c.setT r y).ipDebug = c.ipDebug := rfl
@[simp] theorem setT_ipPre (c : Ctx) (r : Fin 8) (y : TReg) : (c.setT r y).ipPre = c.ipPre := rfl
@[simp] theorem setT_xtarget (c : Ctx) (r : Fin 8) (y : TReg) : (c.setT r y).xtarget = c.xtarget := rfl
@[simp] theorem setT_fflags (c : Ctx) (r : Fin 8) (y : TReg) : (c.setT r y).fflags = c.fflags := rfl
@[simp] theorem setT_mDom (c : Ctx) (r : Fin 8) (y : TReg) : (c.setT r y).mDom = c.mDom := rfl
@[simp] theorem setT_mGrid (c : Ctx) (r : Fin 8) (y : TReg) : (c.setT r y).mGrid = c.mGrid := rfl
@[simp] theorem setT_mGang (c : Ctx) (r : Fin 8) (y : TReg) : (c.setT r y).mGang = c.mGang := rfl
@[simp] theorem setT_mTile (c : Ctx) (r : Fin 8) (y : TReg) : (c.setT r y).mTile = c.mTile := rfl
@[simp] theorem setT_runcap (c : Ctx) (r : Fin 8) (y : TReg) : (c.setT r y).runcap = c.runcap := rfl
@[simp] theorem setT_turn (c : Ctx) (r : Fin 8) (y : TReg) : (c.setT r y).turn = c.turn := rfl
@[simp] theorem setT_portcfg (c : Ctx) (r : Fin 8) (y : TReg) : (c.setT r y).portcfg = c.portcfg := rfl
@[simp] theorem setT_pitch (c : Ctx) (r : Fin 8) (y : TReg) : (c.setT r y).pitch = c.pitch := rfl
@[simp] theorem setT_sat (c : Ctx) (r : Fin 8) (y : TReg) : (c.setT r y).sat = c.sat := rfl
@[simp] theorem setT_frecs (c : Ctx) (r : Fin 8) (y : TReg) : (c.setT r y).frecs = c.frecs := rfl
@[simp] theorem setT_cnt (c : Ctx) (r : Fin 8) (y : TReg) : (c.setT r y).cnt = c.cnt := rfl
@[simp] theorem setT_bto (c : Ctx) (r : Fin 8) (y : TReg) : (c.setT r y).bto = c.bto := rfl
@[simp] theorem setT_bars (c : Ctx) (r : Fin 8) (y : TReg) : (c.setT r y).bars = c.bars := rfl
@[simp] theorem setT_instret (c : Ctx) (r : Fin 8) (y : TReg) : (c.setT r y).instret = c.instret := rfl
@[simp] theorem setT_tmatch (c : Ctx) (r : Fin 8) (y : TReg) : (c.setT r y).tmatch = c.tmatch := rfl
@[simp] theorem setT_ptroot (c : Ctx) (r : Fin 8) (y : TReg) : (c.setT r y).ptroot = c.ptroot := rfl
@[simp] theorem setT_asid (c : Ctx) (r : Fin 8) (y : TReg) : (c.setT r y).asid = c.asid := rfl
@[simp] theorem setT_inq (c : Ctx) (r : Fin 8) (y : TReg) : (c.setT r y).inq = c.inq := rfl
@[simp] theorem setT_qin (c : Ctx) (r : Fin 8) (y : TReg) : (c.setT r y).qin = c.qin := rfl
@[simp] theorem setT_qbad (c : Ctx) (r : Fin 8) (y : TReg) : (c.setT r y).qbad = c.qbad := rfl
@[simp] theorem setT_qout (c : Ctx) (r : Fin 8) (y : TReg) : (c.setT r y).qout = c.qout := rfl
@[simp] theorem setT_watch (c : Ctx) (r : Fin 8) (y : TReg) : (c.setT r y).watch = c.watch := rfl
@[simp] theorem setT_evt (c : Ctx) (r : Fin 8) (y : TReg) : (c.setT r y).evt = c.evt := rfl
@[simp] theorem setT_accs (c : Ctx) (r : Fin 8) (y : TReg) : (c.setT r y).accs = c.accs := rfl
@[simp] theorem setT_dfaults (c : Ctx) (r : Fin 8) (y : TReg) : (c.setT r y).dfaults = c.dfaults := rfl
@[simp] theorem setT_denial (c : Ctx) (r : Fin 8) (y : TReg) : (c.setT r y).denial = c.denial := rfl
@[simp] theorem setT_kept (c : Ctx) (r : Fin 8) (y : TReg) : (c.setT r y).kept = c.kept := rfl
@[simp] theorem setT_fetched (c : Ctx) (r : Fin 8) (y : TReg) : (c.setT r y).fetched = c.fetched := rfl
@[simp] theorem setT_frame (c : Ctx) (r : Fin 8) (y : TReg) : (c.setT r y).frame = c.frame := rfl
@[simp] theorem setT_posted (c : Ctx) (r : Fin 8) (y : TReg) : (c.setT r y).posted = c.posted := rfl
@[simp] theorem setT_slow (c : Ctx) (r : Fin 8) (y : TReg) : (c.setT r y).slow = c.slow := rfl
@[simp] theorem setT_outside (c : Ctx) (r : Fin 8) (y : TReg) : (c.setT r y).outside = c.outside := rfl
@[simp] theorem setT_passed (c : Ctx) (r : Fin 8) (y : TReg) : (c.setT r y).passed = c.passed := rfl
@[simp] theorem setT_contBar (c : Ctx) (r : Fin 8) (y : TReg) : (c.setT r y).contBar = c.contBar := rfl
@[simp] theorem setT_contEng (c : Ctx) (r : Fin 8) (y : TReg) : (c.setT r y).contEng = c.contEng := rfl
@[simp] theorem setT_recv (c : Ctx) (r : Fin 8) (y : TReg) : (c.setT r y).recv = c.recv := rfl
@[simp] theorem setT_recvBad (c : Ctx) (r : Fin 8) (y : TReg) : (c.setT r y).recvBad = c.recvBad := rfl
@[simp] theorem setT_dbg (c : Ctx) (r : Fin 8) (y : TReg) : (c.setT r y).dbg = c.dbg := rfl

/-! ## `State.setX` -/

@[simp] theorem stateSetX_c (s : State) (r : Fin 32) (y : XReg) : (s.setX r y).c = s.c.setX r y := rfl
@[simp] theorem stateSetX_t (s : State) (r : Fin 32) (y : XReg) : (s.setX r y).t = s.t := rfl
@[simp] theorem stateSetX_tiles (s : State) (r : Fin 32) (y : XReg) : (s.setX r y).tiles = s.tiles := rfl
@[simp] theorem stateSetX_g (s : State) (r : Fin 32) (y : XReg) : (s.setX r y).g = s.g := rfl
@[simp] theorem stateSetX_bg (s : State) (r : Fin 32) (y : XReg) : (s.setX r y).bg = s.bg := rfl
@[simp] theorem stateSetX_m (s : State) (r : Fin 32) (y : XReg) : (s.setX r y).m = s.m := rfl
@[simp] theorem stateSetX_storer (s : State) (r : Fin 32) (y : XReg) : (s.setX r y).storer = s.storer := rfl
@[simp] theorem stateSetX_sched (s : State) (r : Fin 32) (y : XReg) : (s.setX r y).sched = s.sched := rfl
@[simp] theorem stateSetX_free (s : State) (r : Fin 32) (y : XReg) : (s.setX r y).free = s.free := rfl

/-! ## `State.mapVf` -/

@[simp] theorem mapVf_c (s : State) (v : Nat) (f : Vf → Vf) : (s.mapVf v f).c = s.c := rfl
@[simp] theorem mapVf_t (s : State) (v : Nat) (f : Vf → Vf) : (s.mapVf v f).t = s.t := rfl
@[simp] theorem mapVf_tiles (s : State) (v : Nat) (f : Vf → Vf) : (s.mapVf v f).tiles = s.tiles := rfl
@[simp] theorem mapVf_g (s : State) (v : Nat) (f : Vf → Vf) : (s.mapVf v f).g = s.g := rfl
@[simp] theorem mapVf_bg (s : State) (v : Nat) (f : Vf → Vf) : (s.mapVf v f).bg = s.bg := rfl
@[simp] theorem mapVf_m (s : State) (v : Nat) (f : Vf → Vf) : (s.mapVf v f).m = s.m.mapVf v f := rfl
@[simp] theorem mapVf_storer (s : State) (v : Nat) (f : Vf → Vf) : (s.mapVf v f).storer = s.storer := rfl
@[simp] theorem mapVf_sched (s : State) (v : Nat) (f : Vf → Vf) : (s.mapVf v f).sched = s.sched := rfl
@[simp] theorem mapVf_free (s : State) (v : Nat) (f : Vf → Vf) : (s.mapVf v f).free = s.free := rfl

/-! ## `State.mapTiles` -/

@[simp] theorem mapTiles_c (s : State) (f : Tile → Tile) : (s.mapTiles f).c = s.c := rfl
@[simp] theorem mapTiles_t (s : State) (f : Tile → Tile) : (s.mapTiles f).t = f s.t := rfl
@[simp] theorem mapTiles_tiles (s : State) (f : Tile → Tile) : (s.mapTiles f).tiles = s.tiles.map f := rfl
@[simp] theorem mapTiles_g (s : State) (f : Tile → Tile) : (s.mapTiles f).g = s.g := rfl
@[simp] theorem mapTiles_bg (s : State) (f : Tile → Tile) : (s.mapTiles f).bg = s.bg := rfl
@[simp] theorem mapTiles_m (s : State) (f : Tile → Tile) : (s.mapTiles f).m = s.m := rfl
@[simp] theorem mapTiles_storer (s : State) (f : Tile → Tile) : (s.mapTiles f).storer = s.storer := rfl
@[simp] theorem mapTiles_sched (s : State) (f : Tile → Tile) : (s.mapTiles f).sched = s.sched := rfl
@[simp] theorem mapTiles_free (s : State) (f : Tile → Tile) : (s.mapTiles f).free = s.free := rfl

/-! ## `atSwitch` -/

@[simp] theorem atSwitch_c (s : State) : (atSwitch s).c = s.c := rfl
@[simp] theorem atSwitch_t (s : State) : (atSwitch s).t = { s.t with switch := true } := rfl
@[simp] theorem atSwitch_tiles (s : State) : (atSwitch s).tiles = s.tiles := rfl
@[simp] theorem atSwitch_g (s : State) : (atSwitch s).g = s.g := rfl
@[simp] theorem atSwitch_bg (s : State) : (atSwitch s).bg = s.bg := rfl
@[simp] theorem atSwitch_m (s : State) : (atSwitch s).m = s.m := rfl
@[simp] theorem atSwitch_storer (s : State) : (atSwitch s).storer = s.storer := rfl
@[simp] theorem atSwitch_sched (s : State) : (atSwitch s).sched = s.sched := rfl
@[simp] theorem atSwitch_free (s : State) : (atSwitch s).free = s.free := rfl

/-! ## `blockAt` -/

@[simp] theorem blockAt_c (s : State) (b : Block) : (blockAt s b).c = { s.c with run := .blocked b } := rfl
@[simp] theorem blockAt_t (s : State) (b : Block) : (blockAt s b).t = { s.t with switch := true } := rfl
@[simp] theorem blockAt_tiles (s : State) (b : Block) : (blockAt s b).tiles = s.tiles := rfl
@[simp] theorem blockAt_g (s : State) (b : Block) : (blockAt s b).g = s.g := rfl
@[simp] theorem blockAt_bg (s : State) (b : Block) : (blockAt s b).bg = s.bg := rfl
@[simp] theorem blockAt_m (s : State) (b : Block) : (blockAt s b).m = s.m := rfl
@[simp] theorem blockAt_storer (s : State) (b : Block) : (blockAt s b).storer = s.storer := rfl
@[simp] theorem blockAt_sched (s : State) (b : Block) : (blockAt s b).sched = s.sched := rfl
@[simp] theorem blockAt_free (s : State) (b : Block) : (blockAt s b).free = s.free := rfl

/-! ## `stampNext` -/

@[simp] theorem stampNext_c (s : State) : (stampNext s).c = s.c := rfl
@[simp] theorem stampNext_t (s : State) : (stampNext s).t = s.t := rfl
@[simp] theorem stampNext_tiles (s : State) : (stampNext s).tiles = s.tiles := rfl
@[simp] theorem stampNext_g (s : State) : (stampNext s).g = { s.g with sendNext := s.g.sendNext + 1 } := rfl
@[simp] theorem stampNext_bg (s : State) : (stampNext s).bg = s.bg := rfl
@[simp] theorem stampNext_m (s : State) : (stampNext s).m = s.m := rfl
@[simp] theorem stampNext_storer (s : State) : (stampNext s).storer = s.storer := rfl
@[simp] theorem stampNext_sched (s : State) : (stampNext s).sched = s.sched := rfl
@[simp] theorem stampNext_free (s : State) : (stampNext s).free = s.free := rfl

/-! ## `post` -/

@[simp] theorem post_c (s : State) (src c dst : Nat) (b : Body) : (post s src c dst b).c = s.c := rfl
@[simp] theorem post_t (s : State) (src c dst : Nat) (b : Body) : (post s src c dst b).t = s.t := rfl
@[simp] theorem post_tiles (s : State) (src c dst : Nat) (b : Body) : (post s src c dst b).tiles = s.tiles := rfl
@[simp] theorem post_g (s : State) (src c dst : Nat) (b : Body) : (post s src c dst b).g = { s.g with mesh := s.g.mesh ++ [{ src := src, c := c, dst := dst, body := b, code := b.codes, seq := s.g.sendNext, loose := s.awayAt (s.msgScope dst) }], sendNext := s.g.sendNext + 1 } := rfl
@[simp] theorem post_bg (s : State) (src c dst : Nat) (b : Body) : (post s src c dst b).bg = s.bg := rfl
@[simp] theorem post_m (s : State) (src c dst : Nat) (b : Body) : (post s src c dst b).m = s.m := rfl
@[simp] theorem post_storer (s : State) (src c dst : Nat) (b : Body) : (post s src c dst b).storer = s.storer := rfl
@[simp] theorem post_sched (s : State) (src c dst : Nat) (b : Body) : (post s src c dst b).sched = s.sched := rfl
@[simp] theorem post_free (s : State) (src c dst : Nat) (b : Body) : (post s src c dst b).free = s.free := rfl

/-! ## `accrue` -/

@[simp] theorem accrue_c (s : State) (k : Nat) : (accrue s k).c = { s.c with fflags := s.c.fflags ||| .ofNat 5 k } := rfl
@[simp] theorem accrue_t (s : State) (k : Nat) : (accrue s k).t = s.t := rfl
@[simp] theorem accrue_tiles (s : State) (k : Nat) : (accrue s k).tiles = s.tiles := rfl
@[simp] theorem accrue_g (s : State) (k : Nat) : (accrue s k).g = s.g := rfl
@[simp] theorem accrue_bg (s : State) (k : Nat) : (accrue s k).bg = s.bg := rfl
@[simp] theorem accrue_m (s : State) (k : Nat) : (accrue s k).m = s.m := rfl
@[simp] theorem accrue_storer (s : State) (k : Nat) : (accrue s k).storer = s.storer := rfl
@[simp] theorem accrue_sched (s : State) (k : Nat) : (accrue s k).sched = s.sched := rfl
@[simp] theorem accrue_free (s : State) (k : Nat) : (accrue s k).free = s.free := rfl

/-! ## `popAll` -/

@[simp] theorem popAll_c (s : State) (k : Cur) : (popAll s k).c = { s.c with inq := Vector.ofFn fun (i : Fin 4) => (s.c.inq[i]).drop k.pops[i] } := rfl
@[simp] theorem popAll_t (s : State) (k : Cur) : (popAll s k).t = s.t := rfl
@[simp] theorem popAll_tiles (s : State) (k : Cur) : (popAll s k).tiles = s.tiles := rfl
@[simp] theorem popAll_g (s : State) (k : Cur) : (popAll s k).g = s.g := rfl
@[simp] theorem popAll_bg (s : State) (k : Cur) : (popAll s k).bg = s.bg := rfl
@[simp] theorem popAll_m (s : State) (k : Cur) : (popAll s k).m = s.m := rfl
@[simp] theorem popAll_storer (s : State) (k : Cur) : (popAll s k).storer = s.storer := rfl
@[simp] theorem popAll_sched (s : State) (k : Cur) : (popAll s k).sched = s.sched := rfl
@[simp] theorem popAll_free (s : State) (k : Cur) : (popAll s k).free = s.free := rfl

end Sys2Proof.Laws
end

