-- ==== Sys2Proof/Laws/Operands.lean ====
section
/-! SUPPORT. What the examination of an operand, of a destination and the end of a word come to, in the terms of
Safety.lean. -/

namespace Sys2Proof.Laws

open Sys2Proof Sys2Proof.Machine Sys2Proof.Safety

/-- How far the examination of the operands `rs` has come, all valid so far. -/
def curOf (rs : List (Fin 32)) : Cur := { pops := Vector.ofFn fun i => portReads rs i }

theorem curOf_nil : curOf [] = {} := by
  unfold curOf
  congr 1

theorem regBad_of {s : State} (h : Sound s) (off n : Nat) : regBad s off n = false := by
  unfold regBad Tile.badRange
  split
  · rfl
  · rw [List.any_eq_false]
    intro u _ hu
    have : (srcReg, u) ∈ s.t.bad := by simpa using hu
    exact h _ (List.mem_append_left _ this) rfl

theorem regSoft_of {s : State} (h : Sound s) (off n : Nat) : regSoft s off n = [] := by
  unfold regSoft
  split
  · rfl
  · rw [List.filter_eq_nil_iff]
    intro u _ hu
    have : (srcReg, u) ∈ s.t.soft := by simpa using hu
    exact h _ (List.mem_append_right _ this) rfl

@[simp] theorem see_of {s : State} (h : Sound s) (off n : Nat) (k : Cur) : Cur.see s off n k = k := by
  unfold Cur.see; rw [regBad_of h, regSoft_of h]; rfl

theorem portReads_append (rs : List (Fin 32)) (r : Fin 32) (d : Fin 4) :
    portReads (rs ++ [r]) d = portReads rs d + if 28 ≤ r.val ∧ dirOf r = d then 1 else 0 := by
  unfold portReads
  rw [List.countP_append, List.countP_singleton]
  congr 1
  by_cases h : 28 ≤ r.val ∧ dirOf r = d <;> simp [h]

theorem curOf_low (rs : List (Fin 32)) (r : Fin 32) (h : r.val < 28) : curOf (rs ++ [r]) = curOf rs := by
  unfold curOf
  congr 1
  ext i hi
  simp only [Vector.getElem_ofFn]
  rw [portReads_append, if_neg (by omega), Nat.add_zero]

theorem curOf_port (rs : List (Fin 32)) (r : Fin 32) (h : ¬ r.val < 28) : curOf (rs ++ [r]) = (curOf rs).take (dirOf r) := by
  unfold curOf Cur.take
  congr 1
  ext i hi
  simp only [Vector.getElem_ofFn, Fin.getElem_fin, Vector.getElem_set]
  rw [portReads_append]
  by_cases hd : dirOf r = ⟨i, hi⟩
  · rw [if_pos ⟨by omega, hd⟩, if_pos (by rw [hd]), hd]
  · rw [if_neg (by tauto), if_neg (by intro hc; exact hd (Fin.ext hc)), Nat.add_zero]

@[simp] theorem curOf_valid (rs : List (Fin 32)) : (curOf rs).valid = true := rfl
@[simp] theorem curOf_bad (rs : List (Fin 32)) : (curOf rs).bad = none := rfl

theorem curOf_pops (rs : List (Fin 32)) (d : Fin 4) : (curOf rs).pops[d] = portReads rs d := by
  simp [curOf, Fin.getElem_fin]

/-- An operand that can be read is read, whatever its V. -/
theorem examX_of {s : State} (hs : Sound s) {rs : List (Fin 32)} {r : Fin 32} {x : W64} {v : Bool}
    (h : scalar s rs r = some (x, v)) (field : Nat) (w : Bool) (k : W64 → Bool → Cur → Res) :
    examX s r field w (curOf rs) k = k x v (curOf (rs ++ [r])) := by
  unfold scalar at h
  unfold examX
  by_cases h0 : r.val = 0
  · rw [if_pos h0] at h
    rw [if_pos h0, curOf_low _ _ (by omega)]
    cases h; rfl
  · rw [if_neg h0] at h ⊢
    by_cases h1 : r.val < 28
    · rw [if_pos h1] at h ⊢
      split at h
      · next ht =>
        cases h
        simp only [ht, see_of hs]
        rw [curOf_low _ _ h1]
      · cases h
    · rw [if_neg h1] at h ⊢
      unfold examPort
      split at h
      · next vt x' v' hn hq =>
        cases h
        rw [hn]
        simp only [curOf_pops, hq]
        rw [curOf_port _ _ h1]
      · cases h

theorem srcX_of {s : State} (hs : Sound s) {rs : List (Fin 32)} {r : Fin 32} {x : W64}
    (h : scalar s rs r = some (x, true)) (field : Nat) (w : Bool) (k : W64 → Cur → Res) :
    srcX s r field w (curOf rs) k = k x (curOf (rs ++ [r])) := by
  unfold srcX
  rw [examX_of hs h]
  rfl

/-- An invalid operand leaves the word nullified (R21). -/
theorem srcX_invalid {s : State} (hs : Sound s) {rs : List (Fin 32)} {r : Fin 32} {x : W64}
    (h : scalar s rs r = some (x, false)) (field : Nat) (w : Bool) (k : W64 → Cur → Res) :
    srcX s r field w (curOf rs) k = k x { curOf (rs ++ [r]) with valid := false } := by
  unfold srcX
  rw [examX_of hs h]
  simp

theorem srcV_of {s : State} (hs : Sound s) {rs : List (Fin 32)} {r : Fin 32} {x : W512} {v : BitVec 8}
    (h : vector s rs r = some (x, v)) (field : Nat) (k : W512 → BitVec 8 → Cur → Res) :
    srcV s r field (curOf rs) k = k x v (curOf (rs ++ [r])) := by
  unfold vector at h
  unfold srcV
  by_cases h1 : r.val < 28
  · rw [if_pos h1] at h ⊢
    split at h
    · next ht =>
      cases h
      simp only [ht, see_of hs]
      rw [curOf_low _ _ h1]
    · cases h
  · rw [if_neg h1] at h ⊢
    unfold examPort
    split at h
    · next vt x' v' hn hq =>
      cases h
      rw [hn]
      simp only [curOf_pops, hq]
      rw [curOf_port _ _ h1]
    · cases h

theorem srcH_of {s : State} (hs : Sound s) {r : Fin 8} {x : W8192} (h : hyper s r = some x) (field : Nat) (w : Bool)
    (cur : Cur) (k : W8192 → Cur → Res) : srcH s r field w cur k = k x cur := by
  unfold hyper at h
  split at h
  · next ht => cases h; unfold srcH; simp only [ht, see_of hs]
  · cases h

theorem dstX_of {s : State} {d : Fin 32} (h : Writable s d) (k : Res) : dstX s d anyWord k = k := by
  unfold Writable at h
  unfold dstX
  by_cases h0 : d.val = 0
  · rw [if_pos h0]
  · rw [if_neg h0] at h ⊢
    by_cases h1 : d.val < 28
    · rw [if_pos h1] at h ⊢
      split
      · next ht => exact absurd ht h
      · rfl
    · rw [if_neg h1] at h ⊢
      obtain ⟨vt, hn, hc⟩ := h
      simp only [hn, hc, if_true]

theorem dstV_of {s : State} {d : Fin 32} (h : WritableV s d) (k : Res) : dstV s d k = k := by
  unfold WritableV at h
  unfold dstV
  by_cases h1 : d.val < 28
  · rw [if_pos h1] at h ⊢
    split
    · next ht => exact absurd ht h
    · rfl
  · rw [if_neg h1] at h ⊢
    obtain ⟨vt, hn, hc⟩ := h
    unfold dstX
    rw [if_neg (by omega), if_neg h1]
    simp only [hn, hc, if_true]

theorem dstH_of {s : State} {d : Fin 8} (h : WritableH s d) (k : Res) : dstH s d k = k := by
  unfold dstH
  split
  · next ht => exact absurd ht h
  · rfl

theorem popAll_curOf (s : State) (rs : List (Fin 32)) : popAll s (curOf rs) = popped s rs := by
  unfold popAll popped
  congr 2

@[simp] theorem accept_curOf (s : State) (rs : List (Fin 32)) (r : Res) : accept s (curOf rs) r = r.pop (curOf rs) := rfl

@[simp] theorem commit_curOf (s : State) (rs : List (Fin 32)) (r : Res) : commit s (curOf rs) r = r.pop (curOf rs) := rfl

@[simp] theorem finish_pop_done (s s' : State) (rs : List (Fin 32)) : finish s ((Res.done s').pop (curOf rs)) = done s' rs := by
  simp only [Res.pop, finish, popAll_curOf]; rfl

@[simp] theorem finish_pop_jump (s s' : State) (rs : List (Fin 32)) (t : W64) :
    finish s ((Res.jump s' t).pop (curOf rs)) = jumped s' rs t := by
  simp only [Res.pop, finish, popAll_curOf]; rfl

theorem putResult_of {s : State} {d : Fin 32} (h : Writable s d) (x : W64) (v : Bool) :
    putResult s d x v = .done (writeX s d x v) := dstX_of h _

theorem popped_nil (s : State) : popped s [] = s := by
  unfold popped
  have : (Vector.ofFn fun (i : Fin 4) => (s.c.inq[i]).drop (portReads [] i)) = s.c.inq := by
    ext i hi
    simp [portReads]
  rw [this]

end Sys2Proof.Laws
end

