-- ==== Sys2Proof/Laws/Ops.lean ====
section
/-! SUPPORT. What the shared operations can do, said once: the fingerprint and the log touch only their own fields, a word goes
on however it ends, and the writes of memory keep its canonical form. -/

namespace Sys2Proof.Laws

open Sys2Proof Sys2Proof.Machine

/-- The states differ at most in the fingerprints, bundle counts and log of the focused tile, and in the mark that a log is full. -/
def SameButLog (s t : State) : Prop :=
  ∃ l f p q n b, t = { s with
    t := { s.t with lash := l, log := f, fps := p, rfp := q, rcount := n }, g := { s.g with logFull := b } }

theorem sameButLog_refl (s : State) : SameButLog s s := ⟨s.t.lash, s.t.log, s.t.fps, s.t.rfp, s.t.rcount, s.g.logFull, rfl⟩

theorem sameButLog_trans {s t u : State} (h : SameButLog s t) (k : SameButLog t u) : SameButLog s u := by
  obtain ⟨l, f, p, q, n, b, rfl⟩ := h
  obtain ⟨l', f', p', q', n', b', rfl⟩ := k
  exact ⟨l', f', p', q', n', b', rfl⟩

theorem sameButLog_c {s t : State} (h : SameButLog s t) : t.c = s.c := by obtain ⟨l, f, p, q, n, b, rfl⟩ := h; rfl
theorem sameButLog_m {s t : State} (h : SameButLog s t) : t.m = s.m := by obtain ⟨l, f, p, q, n, b, rfl⟩ := h; rfl
theorem sameButLog_tiles {s t : State} (h : SameButLog s t) : t.tiles = s.tiles := by obtain ⟨l, f, p, q, n, b, rfl⟩ := h; rfl
theorem sameButLog_bg {s t : State} (h : SameButLog s t) : t.bg = s.bg := by obtain ⟨l, f, p, q, n, b, rfl⟩ := h; rfl
theorem sameButLog_sp {s t : State} (h : SameButLog s t) : t.t.sp = s.t.sp := by obtain ⟨l, f, p, q, n, b, rfl⟩ := h; rfl

/-- Bytes that enter the fingerprints of the focused tile change nothing else. -/
theorem take_same (s : State) (rr : Nat) (bs : List Byte) : SameButLog s { s with t := s.t.take rr bs } :=
  ⟨_, s.t.log, s.t.fps, _, s.t.rcount, s.g.logFull, rfl⟩

theorem absorb_same (s : State) (role code : Nat) (bs : List Byte) (tag : Nat) : SameButLog s (absorb s role code bs tag) := by
  unfold absorb
  split
  · exact take_same ..
  · exact sameButLog_refl s

theorem absorbOut_same (s : State) (a : Nat) (bs : List Byte) : SameButLog s (absorbOut s a bs) := by
  unfold absorbOut
  split
  · exact take_same ..
  · exact sameButLog_refl s

theorem absorbTrapCsrs_same (s : State) : SameButLog s (absorbTrapCsrs s) := by
  have key (u : State) (c n : Nat) : SameButLog u (absorbCsr u c n) := absorb_same ..
  have five := sameButLog_trans (key s 0 s.c.status.toNat) <| sameButLog_trans (key _ 1 s.c.epc.toNat) <|
    sameButLog_trans (key _ 2 s.c.cause.toNat) <| sameButLog_trans (key _ 3 s.c.tval.toNat) (key _ 4 s.c.tval2.toNat)
  have ctx : ∀ (u : State) (c n : Nat), (absorbCsr u c n).c = u.c := fun u c n => sameButLog_c (key u c n)
  unfold absorbTrapCsrs
  simp only [ctx] at five ⊢
  split
  · exact sameButLog_trans five (key ..)
  · exact five

theorem logEvent_own_same (s : State) (kind role pos : Nat) (arg : W64) : SameButLog s (logEvent s s.t.vt kind role pos arg) := by
  unfold logEvent
  split
  · simp only [State.tile?, if_true]
    split
    · exact ⟨s.t.lash, s.t.log, s.t.fps, s.t.rfp, s.t.rcount, true, rfl⟩
    · simp only [State.mapTile, if_true]
      exact ⟨s.t.lash, _, s.t.fps, s.t.rfp, s.t.rcount, s.g.logFull, rfl⟩
  · exact sameButLog_refl s

theorem countBundle_same (s : State) (role pos : Nat) : SameButLog s (countBundle s role pos) := by
  unfold countBundle
  split
  · have key (u : State) : SameButLog u
        (if u.g.rr = 0 then u
         else if u.t.rcount + 1 < 4096 then { u with t := { u.t with rcount := u.t.rcount + 1 } }
         else
           let f := u.t.rfp ^^^ BitVec.allOnes 64
           let u := logEvent u u.t.vt 8 role pos f
           { u with t := { u.t with
               fps := if u.g.rr = 2 then u.t.fps ++ [f] else u.t.fps, rcount := 0, rfp := BitVec.allOnes 64 } }) := by
      split
      · exact sameButLog_refl u
      · split
        · exact ⟨u.t.lash, u.t.log, u.t.fps, u.t.rfp, _, u.g.logFull, rfl⟩
        · dsimp only
          obtain ⟨l, f, p, q, n, b, h⟩ := logEvent_own_same u 8 role pos (u.t.rfp ^^^ BitVec.allOnes 64)
          rw [h]
          exact ⟨l, f, _, _, _, b, rfl⟩
    dsimp only
    split
    · exact key s
    · exact sameButLog_trans ⟨_, s.t.log, s.t.fps, s.t.rfp, s.t.rcount, s.g.logFull, rfl⟩ (key _)
  · exact sameButLog_refl s

/-- A word that retires moves its context on, and changes nothing else but the tile's accounts. -/
theorem retire_same (s : State) : SameButLog { s with c := s.c.retired } (retire s) := by
  unfold retire
  dsimp only
  split
  · exact sameButLog_refl _
  · exact countBundle_same _ _ _

/-- However a word ends, the machine goes on. -/
theorem finish_next (s : State) (r : Res) : ∃ t, finish s r = .next t := by cases r <;> exact ⟨_, rfl⟩

/-! Memory. -/

theorem rekey_wf (m : Module) (key blk : Nat) (h : m.mem.wf = true) : (m.rekey key blk).mem.wf = true := by
  unfold Module.rekey
  split
  · exact h
  · exact write_wf _ _ _ h

theorem setByte_wf (m : Module) (key pa : Nat) (b : Byte) (h : m.mem.wf = true) : (m.setByte key pa b).mem.wf = true :=
  set_wf _ _ _ (rekey_wf m key (pa / 64) h)

theorem putBytes_wf (m : Module) (key pa : Nat) (bs : List Byte) (h : m.mem.wf = true) : (m.putBytes key pa bs).mem.wf = true := by
  induction bs generalizing m pa with
  | nil => exact h
  | cons b r ih => exact ih _ _ (setByte_wf m key pa b h)

@[simp] theorem recode_mem (m : Module) (who pa n : Nat) : (m.recode who pa n).mem = m.mem := by
  unfold Module.recode
  split <;> rfl

@[simp] theorem healGlob_mem (m : Module) (pa n : Nat) : (m.healGlob pa n).mem = m.mem := by
  unfold Module.healGlob
  split <;> rfl

/-- A write to global memory keeps the canonical form, whoever writes. -/
theorem writeBy_wf (m : Module) (who key pa : Nat) (bs : List Byte) (h : m.mem.wf = true) : (m.writeBy who key pa bs).mem.wf = true := by
  unfold Module.writeBy
  split
  · exact h
  · simpa using putBytes_wf m key pa bs h

theorem writeGlob_wf (m : Module) (key pa : Nat) (bs : List Byte) (h : m.mem.wf = true) : (m.writeGlob key pa bs).mem.wf = true :=
  writeBy_wf m byDevice key pa bs h

theorem writeCoded_wf (m : Module) (who key pa : Nat) (bs : List Byte) (code : List W32) (h : m.mem.wf = true) :
    (m.writeCoded who key pa bs code).mem.wf = true := by
  unfold Module.writeCoded
  dsimp only
  split <;> exact writeBy_wf m who key pa bs h

/-! Partner tiles. -/

/-- A grid with no lashed tile has no partners, so nothing is done beside its step. -/
theorem mirrored_none (f : State → State) (s r : State) (h : s.g.partners = []) : mirrored f s r = r := by
  simp [mirrored, h]

/-- What a partner does changes the memory of no primary. -/
theorem notePartner_mem (s p : State) (vt : Nat) : (s.notePartner p vt).m = s.m := by
  unfold State.notePartner
  split
  · rfl
  · simp only [State.mapTile]
    split <;> rfl

theorem mirrored_mem (f : State → State) (s r : State) : (mirrored f s r).m = r.m := by
  unfold mirrored
  induction s.g.partners generalizing r with
  | nil => rfl
  | cons u l ih => exact (ih _).trans (notePartner_mem _ _ _)

/-- Keeping only some of the listed addresses keeps the canonical form. -/
theorem cells_filter_wf (l : List Host.Cell) (p : Host.Cell → Bool) (h : cellsWf l = true) : cellsWf (l.filter p) = true := by
  induction l with
  | nil => rfl
  | cons q r ih =>
    obtain ⟨k, b⟩ := q
    obtain ⟨hb, hk, hr⟩ := (cellsWf_cons k b r).1 h
    rw [List.filter_cons]
    split
    · exact (cellsWf_cons k b _).2 ⟨hb, fun x hx => hk x (List.mem_filter.1 hx).1, ih hr⟩
    · exact ih hr

theorem heal_sp (t : Tile) (src off n : Nat) : (t.heal src off n).sp = t.sp := by
  unfold Tile.heal
  split <;> rfl

/-- A write to a scratchpad keeps the canonical form. -/
theorem spWrite_wf (t : Tile) (belay : Bool) (o : Nat) (bs : List Byte) (h : t.sp.wf = true) : (t.spWrite belay o bs).sp.wf = true := by
  unfold Tile.spWrite
  dsimp only
  rw [heal_sp]
  exact write_wf _ _ _ h

end Sys2Proof.Laws
end

