-- ==== Sys2Proof/Laws/PerInstr.lean ====
section
/-! SUPPORT. Statements made once for each instruction as syntax. -/

namespace Sys2Proof.Laws

theorem Sz32.code_lt (x : Sz32) : x.code < 2 := by cases x <;> decide
theorem FEt.code_lt (x : FEt) : x.code < 4 := by cases x <;> decide
theorem IEt.code_lt (x : IEt) : x.code < 8 := by cases x <;> decide
theorem MSz.code_lt (x : MSz) : x.code < 4 := by cases x <;> decide
theorem Scope.code_lt (x : Scope) : x.code < 8 := by cases x <;> decide
theorem Ord.code_lt (x : Ord) : x.code < 4 := by cases x <;> decide
theorem Level.code_lt (x : Level) : x.code < 7 := by cases x <;> decide
theorem WLevel.code_lt (x : WLevel) : x.code < 5 := by cases x <;> decide
theorem WLen.code_lt (x : WLen) : x.code < 3 := by cases x <;> decide
theorem Pair.code_lt (x : Pair) : x.code < 12 := by cases x <;> decide
theorem RdSel.code_lt (x : RdSel) : x.code < 8 := by cases x <;> decide
theorem LEt.code_lt (x : LEt) : x.code < 12 := by cases x <;> rename_i t <;> cases t <;> decide

theorem encR_lt (maj d a b fn wb wa sz : Nat) (h0 : maj < 64) (h1 : d < 32) (h2 : a < 32) (h3 : b < 32) (h4 : fn < 64) (h5 : wb < 2) (h6 : wa < 2) (h7 : sz < 4) :
    encR maj d a b fn wb wa sz < 2 ^ 31 := by unfold encR; omega
theorem encI_lt (maj d a wa imm : Nat) (h0 : maj < 64) (h1 : d < 32) (h2 : a < 32) (h3 : wa < 2) (h4 : imm < 16384) :
    encI maj d a wa imm < 2 ^ 31 := by unfold encI; omega
theorem encU_lt (maj d imm : Nat) (h0 : maj < 64) (h1 : d < 32) (h2 : imm < 1048576) :
    encU maj d imm < 2 ^ 31 := by unfold encU; omega
theorem encB_lt (maj a cc off : Nat) (h0 : maj < 64) (h1 : a < 32) (h2 : cc < 4) (h3 : off < 262144) :
    encB maj a cc off < 2 ^ 31 := by unfold encB; omega
theorem encM_lt (maj d a wa nw sz off : Nat) (h0 : maj < 64) (h1 : d < 32) (h2 : a < 32) (h3 : wa < 2) (h4 : nw < 2) (h5 : sz < 4) (h6 : off < 2048) :
    encM maj d a wa nw sz off < 2 ^ 31 := by unfold encM; omega
theorem encRA_lt (maj d a b op ord sc width : Nat) (h0 : maj < 64) (h1 : d < 32) (h2 : a < 32) (h3 : b < 32) (h4 : op < 16) (h5 : ord < 4) (h6 : sc < 8) (h7 : width < 2) :
    encRA maj d a b op ord sc width < 2 ^ 31 := by unfold encRA; omega
theorem encV_lt (maj d a b fn et : Nat) (h0 : maj < 64) (h1 : d < 32) (h2 : a < 32) (h3 : b < 32) (h4 : fn < 64) (h5 : et < 16) :
    encV maj d a b fn et < 2 ^ 31 := by unfold encV; omega
theorem encX_lt (maj d a b c fn : Nat) (h0 : maj < 64) (h1 : d < 32) (h2 : a < 32) (h3 : b < 32) (h4 : c < 32) (h5 : fn < 32) :
    encX maj d a b c fn < 2 ^ 31 := by unfold encX; omega
theorem encDk_lt (f7 rs2 rs1 f3 rd : Nat) (h0 : f7 < 128) (h1 : rs2 < 32) (h2 : rs1 < 32) (h3 : f3 < 8) (h4 : rd < 32) :
    encDk f7 rs2 rs1 f3 rd < 2 ^ 32 := by unfold encDk; omega

namespace EncodeFits

/-- The word of the instruction fits into the 31 bits below L for a tile core, and into 32 for a helper core. -/
def Statement (i : Instr) : Prop := (∀ w, encode i = some w → w < 2 ^ 31) ∧ ∀ w, encodeHelper i = some w → w < 2 ^ 32

theorem intro1 {i : Instr} {n : Nat} (he : encode i = some n) (hh : encodeHelper i = none) (h : n < 2 ^ 31) : Statement i :=
  ⟨fun _ h1 => Option.some.inj (he.symm.trans h1) ▸ h, fun _ h2 => (nomatch hh.symm.trans h2)⟩

theorem intro2 {i : Instr} {n : Nat} (he : encode i = none) (hh : encodeHelper i = some n) (h : n < 2 ^ 32) : Statement i :=
  ⟨fun _ h1 => (nomatch he.symm.trans h1), fun _ h2 => Option.some.inj (hh.symm.trans h2) ▸ h⟩

theorem intro0 {i : Instr} (he : encode i = none) (hh : encodeHelper i = none) : Statement i :=
  ⟨fun _ h1 => (nomatch he.symm.trans h1), fun _ h2 => (nomatch hh.symm.trans h2)⟩

theorem add (sz : Sz32) (d : Fin 32) (a : Fin 32) (b : Fin 32) (wa : Bool) (wb : Bool) : Statement (.add sz d a b wa wb) :=
  intro1 rfl rfl (encR_lt _ _ _ _ _ _ _ _ (by decide) d.isLt a.isLt b.isLt (by decide) (Bool.toNat_lt wb) (Bool.toNat_lt wa) (by have h0 := Sz32.code_lt sz; omega))
theorem sub (sz : Sz32) (d : Fin 32) (a : Fin 32) (b : Fin 32) (wa : Bool) (wb : Bool) : Statement (.sub sz d a b wa wb) :=
  intro1 rfl rfl (encR_lt _ _ _ _ _ _ _ _ (by decide) d.isLt a.isLt b.isLt (by decide) (Bool.toNat_lt wb) (Bool.toNat_lt wa) (by have h0 := Sz32.code_lt sz; omega))
theorem and (sz : Sz32) (d : Fin 32) (a : Fin 32) (b : Fin 32) (wa : Bool) (wb : Bool) : Statement (.and sz d a b wa wb) :=
  intro1 rfl rfl (encR_lt _ _ _ _ _ _ _ _ (by decide) d.isLt a.isLt b.isLt (by decide) (Bool.toNat_lt wb) (Bool.toNat_lt wa) (by have h0 := Sz32.code_lt sz; omega))
theorem or (sz : Sz32) (d : Fin 32) (a : Fin 32) (b : Fin 32) (wa : Bool) (wb : Bool) : Statement (.or sz d a b wa wb) :=
  intro1 rfl rfl (encR_lt _ _ _ _ _ _ _ _ (by decide) d.isLt a.isLt b.isLt (by decide) (Bool.toNat_lt wb) (Bool.toNat_lt wa) (by have h0 := Sz32.code_lt sz; omega))
theorem xor (sz : Sz32) (d : Fin 32) (a : Fin 32) (b : Fin 32) (wa : Bool) (wb : Bool) : Statement (.xor sz d a b wa wb) :=
  intro1 rfl rfl (encR_lt _ _ _ _ _ _ _ _ (by decide) d.isLt a.isLt b.isLt (by decide) (Bool.toNat_lt wb) (Bool.toNat_lt wa) (by have h0 := Sz32.code_lt sz; omega))
theorem andn (sz : Sz32) (d : Fin 32) (a : Fin 32) (b : Fin 32) (wa : Bool) (wb : Bool) : Statement (.andn sz d a b wa wb) :=
  intro1 rfl rfl (encR_lt _ _ _ _ _ _ _ _ (by decide) d.isLt a.isLt b.isLt (by decide) (Bool.toNat_lt wb) (Bool.toNat_lt wa) (by have h0 := Sz32.code_lt sz; omega))
theorem orn (sz : Sz32) (d : Fin 32) (a : Fin 32) (b : Fin 32) (wa : Bool) (wb : Bool) : Statement (.orn sz d a b wa wb) :=
  intro1 rfl rfl (encR_lt _ _ _ _ _ _ _ _ (by decide) d.isLt a.isLt b.isLt (by decide) (Bool.toNat_lt wb) (Bool.toNat_lt wa) (by have h0 := Sz32.code_lt sz; omega))
theorem sll (sz : Sz32) (d : Fin 32) (a : Fin 32) (b : Fin 32) (wa : Bool) (wb : Bool) : Statement (.sll sz d a b wa wb) :=
  intro1 rfl rfl (encR_lt _ _ _ _ _ _ _ _ (by decide) d.isLt a.isLt b.isLt (by decide) (Bool.toNat_lt wb) (Bool.toNat_lt wa) (by have h0 := Sz32.code_lt sz; omega))
theorem srl (sz : Sz32) (d : Fin 32) (a : Fin 32) (b : Fin 32) (wa : Bool) (wb : Bool) : Statement (.srl sz d a b wa wb) :=
  intro1 rfl rfl (encR_lt _ _ _ _ _ _ _ _ (by decide) d.isLt a.isLt b.isLt (by decide) (Bool.toNat_lt wb) (Bool.toNat_lt wa) (by have h0 := Sz32.code_lt sz; omega))
theorem sra (sz : Sz32) (d : Fin 32) (a : Fin 32) (b : Fin 32) (wa : Bool) (wb : Bool) : Statement (.sra sz d a b wa wb) :=
  intro1 rfl rfl (encR_lt _ _ _ _ _ _ _ _ (by decide) d.isLt a.isLt b.isLt (by decide) (Bool.toNat_lt wb) (Bool.toNat_lt wa) (by have h0 := Sz32.code_lt sz; omega))
theorem rol (sz : Sz32) (d : Fin 32) (a : Fin 32) (b : Fin 32) (wa : Bool) (wb : Bool) : Statement (.rol sz d a b wa wb) :=
  intro1 rfl rfl (encR_lt _ _ _ _ _ _ _ _ (by decide) d.isLt a.isLt b.isLt (by decide) (Bool.toNat_lt wb) (Bool.toNat_lt wa) (by have h0 := Sz32.code_lt sz; omega))
theorem ror (sz : Sz32) (d : Fin 32) (a : Fin 32) (b : Fin 32) (wa : Bool) (wb : Bool) : Statement (.ror sz d a b wa wb) :=
  intro1 rfl rfl (encR_lt _ _ _ _ _ _ _ _ (by decide) d.isLt a.isLt b.isLt (by decide) (Bool.toNat_lt wb) (Bool.toNat_lt wa) (by have h0 := Sz32.code_lt sz; omega))
theorem min (sz : Sz32) (d : Fin 32) (a : Fin 32) (b : Fin 32) (wa : Bool) (wb : Bool) : Statement (.min sz d a b wa wb) :=
  intro1 rfl rfl (encR_lt _ _ _ _ _ _ _ _ (by decide) d.isLt a.isLt b.isLt (by decide) (Bool.toNat_lt wb) (Bool.toNat_lt wa) (by have h0 := Sz32.code_lt sz; omega))
theorem max (sz : Sz32) (d : Fin 32) (a : Fin 32) (b : Fin 32) (wa : Bool) (wb : Bool) : Statement (.max sz d a b wa wb) :=
  intro1 rfl rfl (encR_lt _ _ _ _ _ _ _ _ (by decide) d.isLt a.isLt b.isLt (by decide) (Bool.toNat_lt wb) (Bool.toNat_lt wa) (by have h0 := Sz32.code_lt sz; omega))
theorem minn (sz : Sz32) (d : Fin 32) (a : Fin 32) (b : Fin 32) (wa : Bool) (wb : Bool) : Statement (.minn sz d a b wa wb) :=
  intro1 rfl rfl (encR_lt _ _ _ _ _ _ _ _ (by decide) d.isLt a.isLt b.isLt (by decide) (Bool.toNat_lt wb) (Bool.toNat_lt wa) (by have h0 := Sz32.code_lt sz; omega))
theorem maxn (sz : Sz32) (d : Fin 32) (a : Fin 32) (b : Fin 32) (wa : Bool) (wb : Bool) : Statement (.maxn sz d a b wa wb) :=
  intro1 rfl rfl (encR_lt _ _ _ _ _ _ _ _ (by decide) d.isLt a.isLt b.isLt (by decide) (Bool.toNat_lt wb) (Bool.toNat_lt wa) (by have h0 := Sz32.code_lt sz; omega))
theorem mul (sz : Sz32) (d : Fin 32) (a : Fin 32) (b : Fin 32) (wa : Bool) (wb : Bool) : Statement (.mul sz d a b wa wb) :=
  intro1 rfl rfl (encR_lt _ _ _ _ _ _ _ _ (by decide) d.isLt a.isLt b.isLt (by decide) (Bool.toNat_lt wb) (Bool.toNat_lt wa) (by have h0 := Sz32.code_lt sz; omega))
theorem mulh (sz : Sz32) (d : Fin 32) (a : Fin 32) (b : Fin 32) (wa : Bool) (wb : Bool) : Statement (.mulh sz d a b wa wb) :=
  intro1 rfl rfl (encR_lt _ _ _ _ _ _ _ _ (by decide) d.isLt a.isLt b.isLt (by decide) (Bool.toNat_lt wb) (Bool.toNat_lt wa) (by have h0 := Sz32.code_lt sz; omega))
theorem mulhn (sz : Sz32) (d : Fin 32) (a : Fin 32) (b : Fin 32) (wa : Bool) (wb : Bool) : Statement (.mulhn sz d a b wa wb) :=
  intro1 rfl rfl (encR_lt _ _ _ _ _ _ _ _ (by decide) d.isLt a.isLt b.isLt (by decide) (Bool.toNat_lt wb) (Bool.toNat_lt wa) (by have h0 := Sz32.code_lt sz; omega))
theorem mulhsn (sz : Sz32) (d : Fin 32) (a : Fin 32) (b : Fin 32) (wa : Bool) (wb : Bool) : Statement (.mulhsn sz d a b wa wb) :=
  intro1 rfl rfl (encR_lt _ _ _ _ _ _ _ _ (by decide) d.isLt a.isLt b.isLt (by decide) (Bool.toNat_lt wb) (Bool.toNat_lt wa) (by have h0 := Sz32.code_lt sz; omega))
theorem div (sz : Sz32) (d : Fin 32) (a : Fin 32) (b : Fin 32) (wa : Bool) (wb : Bool) : Statement (.div sz d a b wa wb) :=
  intro1 rfl rfl (encR_lt _ _ _ _ _ _ _ _ (by decide) d.isLt a.isLt b.isLt (by decide) (Bool.toNat_lt wb) (Bool.toNat_lt wa) (by have h0 := Sz32.code_lt sz; omega))
theorem divn (sz : Sz32) (d : Fin 32) (a : Fin 32) (b : Fin 32) (wa : Bool) (wb : Bool) : Statement (.divn sz d a b wa wb) :=
  intro1 rfl rfl (encR_lt _ _ _ _ _ _ _ _ (by decide) d.isLt a.isLt b.isLt (by decide) (Bool.toNat_lt wb) (Bool.toNat_lt wa) (by have h0 := Sz32.code_lt sz; omega))
theorem rem (sz : Sz32) (d : Fin 32) (a : Fin 32) (b : Fin 32) (wa : Bool) (wb : Bool) : Statement (.rem sz d a b wa wb) :=
  intro1 rfl rfl (encR_lt _ _ _ _ _ _ _ _ (by decide) d.isLt a.isLt b.isLt (by decide) (Bool.toNat_lt wb) (Bool.toNat_lt wa) (by have h0 := Sz32.code_lt sz; omega))
theorem remn (sz : Sz32) (d : Fin 32) (a : Fin 32) (b : Fin 32) (wa : Bool) (wb : Bool) : Statement (.remn sz d a b wa wb) :=
  intro1 rfl rfl (encR_lt _ _ _ _ _ _ _ _ (by decide) d.isLt a.isLt b.isLt (by decide) (Bool.toNat_lt wb) (Bool.toNat_lt wa) (by have h0 := Sz32.code_lt sz; omega))
theorem addsat (sz : Sz32) (d : Fin 32) (a : Fin 32) (b : Fin 32) (wa : Bool) (wb : Bool) : Statement (.addsat sz d a b wa wb) :=
  intro1 rfl rfl (encR_lt _ _ _ _ _ _ _ _ (by decide) d.isLt a.isLt b.isLt (by decide) (Bool.toNat_lt wb) (Bool.toNat_lt wa) (by have h0 := Sz32.code_lt sz; omega))
theorem subsat (sz : Sz32) (d : Fin 32) (a : Fin 32) (b : Fin 32) (wa : Bool) (wb : Bool) : Statement (.subsat sz d a b wa wb) :=
  intro1 rfl rfl (encR_lt _ _ _ _ _ _ _ _ (by decide) d.isLt a.isLt b.isLt (by decide) (Bool.toNat_lt wb) (Bool.toNat_lt wa) (by have h0 := Sz32.code_lt sz; omega))
theorem addi (d : Fin 32) (a : Fin 32) (wa : Bool) (imm : BitVec 14) : Statement (.addi d a wa imm) :=
  intro1 rfl rfl (encI_lt _ _ _ _ _ (by decide) d.isLt a.isLt (Bool.toNat_lt wa) imm.isLt)
theorem andi (d : Fin 32) (a : Fin 32) (wa : Bool) (imm : BitVec 14) : Statement (.andi d a wa imm) :=
  intro1 rfl rfl (encI_lt _ _ _ _ _ (by decide) d.isLt a.isLt (Bool.toNat_lt wa) imm.isLt)
theorem ori (d : Fin 32) (a : Fin 32) (wa : Bool) (imm : BitVec 14) : Statement (.ori d a wa imm) :=
  intro1 rfl rfl (encI_lt _ _ _ _ _ (by decide) d.isLt a.isLt (Bool.toNat_lt wa) imm.isLt)
theorem xori (d : Fin 32) (a : Fin 32) (wa : Bool) (imm : BitVec 14) : Statement (.xori d a wa imm) :=
  intro1 rfl rfl (encI_lt _ _ _ _ _ (by decide) d.isLt a.isLt (Bool.toNat_lt wa) imm.isLt)
theorem slli (d : Fin 32) (a : Fin 32) (wa : Bool) (k : BitVec 6) : Statement (.slli d a wa k) :=
  intro1 rfl rfl (encI_lt _ _ _ _ _ (by decide) d.isLt a.isLt (Bool.toNat_lt wa) (by have h0 := k.isLt; omega))
theorem srli (d : Fin 32) (a : Fin 32) (wa : Bool) (k : BitVec 6) : Statement (.srli d a wa k) :=
  intro1 rfl rfl (encI_lt _ _ _ _ _ (by decide) d.isLt a.isLt (Bool.toNat_lt wa) (by have h0 := k.isLt; omega))
theorem srai (d : Fin 32) (a : Fin 32) (wa : Bool) (k : BitVec 6) : Statement (.srai d a wa k) :=
  intro1 rfl rfl (encI_lt _ _ _ _ _ (by decide) d.isLt a.isLt (Bool.toNat_lt wa) (by have h0 := k.isLt; omega))
theorem rori (d : Fin 32) (a : Fin 32) (wa : Bool) (k : BitVec 6) : Statement (.rori d a wa k) :=
  intro1 rfl rfl (encI_lt _ _ _ _ _ (by decide) d.isLt a.isLt (Bool.toNat_lt wa) (by have h0 := k.isLt; omega))
theorem cmpEq (sz : Sz32) (d : Fin 32) (a : Fin 32) (b : Fin 32) (wa : Bool) (wb : Bool) : Statement (.cmpEq sz d a b wa wb) :=
  intro1 rfl rfl (encR_lt _ _ _ _ _ _ _ _ (by decide) d.isLt a.isLt b.isLt (by decide) (Bool.toNat_lt wb) (Bool.toNat_lt wa) (by have h0 := Sz32.code_lt sz; omega))
theorem cmpNe (sz : Sz32) (d : Fin 32) (a : Fin 32) (b : Fin 32) (wa : Bool) (wb : Bool) : Statement (.cmpNe sz d a b wa wb) :=
  intro1 rfl rfl (encR_lt _ _ _ _ _ _ _ _ (by decide) d.isLt a.isLt b.isLt (by decide) (Bool.toNat_lt wb) (Bool.toNat_lt wa) (by have h0 := Sz32.code_lt sz; omega))
theorem cmpLt (sz : Sz32) (d : Fin 32) (a : Fin 32) (b : Fin 32) (wa : Bool) (wb : Bool) : Statement (.cmpLt sz d a b wa wb) :=
  intro1 rfl rfl (encR_lt _ _ _ _ _ _ _ _ (by decide) d.isLt a.isLt b.isLt (by decide) (Bool.toNat_lt wb) (Bool.toNat_lt wa) (by have h0 := Sz32.code_lt sz; omega))
theorem cmpLtn (sz : Sz32) (d : Fin 32) (a : Fin 32) (b : Fin 32) (wa : Bool) (wb : Bool) : Statement (.cmpLtn sz d a b wa wb) :=
  intro1 rfl rfl (encR_lt _ _ _ _ _ _ _ _ (by decide) d.isLt a.isLt b.isLt (by decide) (Bool.toNat_lt wb) (Bool.toNat_lt wa) (by have h0 := Sz32.code_lt sz; omega))
theorem cmpLe (sz : Sz32) (d : Fin 32) (a : Fin 32) (b : Fin 32) (wa : Bool) (wb : Bool) : Statement (.cmpLe sz d a b wa wb) :=
  intro1 rfl rfl (encR_lt _ _ _ _ _ _ _ _ (by decide) d.isLt a.isLt b.isLt (by decide) (Bool.toNat_lt wb) (Bool.toNat_lt wa) (by have h0 := Sz32.code_lt sz; omega))
theorem cmpLen (sz : Sz32) (d : Fin 32) (a : Fin 32) (b : Fin 32) (wa : Bool) (wb : Bool) : Statement (.cmpLen sz d a b wa wb) :=
  intro1 rfl rfl (encR_lt _ _ _ _ _ _ _ _ (by decide) d.isLt a.isLt b.isLt (by decide) (Bool.toNat_lt wb) (Bool.toNat_lt wa) (by have h0 := Sz32.code_lt sz; omega))
theorem cmpGt (sz : Sz32) (d : Fin 32) (a : Fin 32) (b : Fin 32) (wa : Bool) (wb : Bool) : Statement (.cmpGt sz d a b wa wb) :=
  intro1 rfl rfl (encR_lt _ _ _ _ _ _ _ _ (by decide) d.isLt a.isLt b.isLt (by decide) (Bool.toNat_lt wb) (Bool.toNat_lt wa) (by have h0 := Sz32.code_lt sz; omega))
theorem cmpGtn (sz : Sz32) (d : Fin 32) (a : Fin 32) (b : Fin 32) (wa : Bool) (wb : Bool) : Statement (.cmpGtn sz d a b wa wb) :=
  intro1 rfl rfl (encR_lt _ _ _ _ _ _ _ _ (by decide) d.isLt a.isLt b.isLt (by decide) (Bool.toNat_lt wb) (Bool.toNat_lt wa) (by have h0 := Sz32.code_lt sz; omega))
theorem cmpGe (sz : Sz32) (d : Fin 32) (a : Fin 32) (b : Fin 32) (wa : Bool) (wb : Bool) : Statement (.cmpGe sz d a b wa wb) :=
  intro1 rfl rfl (encR_lt _ _ _ _ _ _ _ _ (by decide) d.isLt a.isLt b.isLt (by decide) (Bool.toNat_lt wb) (Bool.toNat_lt wa) (by have h0 := Sz32.code_lt sz; omega))
theorem cmpGen (sz : Sz32) (d : Fin 32) (a : Fin 32) (b : Fin 32) (wa : Bool) (wb : Bool) : Statement (.cmpGen sz d a b wa wb) :=
  intro1 rfl rfl (encR_lt _ _ _ _ _ _ _ _ (by decide) d.isLt a.isLt b.isLt (by decide) (Bool.toNat_lt wb) (Bool.toNat_lt wa) (by have h0 := Sz32.code_lt sz; omega))
theorem fcmpEq (f : FEt) (d : Fin 32) (a : Fin 32) (b : Fin 32) (wa : Bool) (wb : Bool) : Statement (.fcmpEq f d a b wa wb) :=
  intro1 rfl rfl (encR_lt _ _ _ _ _ _ _ _ (by decide) d.isLt a.isLt b.isLt (by decide) (Bool.toNat_lt wb) (Bool.toNat_lt wa) (FEt.code_lt f))
theorem fcmpLt (f : FEt) (d : Fin 32) (a : Fin 32) (b : Fin 32) (wa : Bool) (wb : Bool) : Statement (.fcmpLt f d a b wa wb) :=
  intro1 rfl rfl (encR_lt _ _ _ _ _ _ _ _ (by decide) d.isLt a.isLt b.isLt (by decide) (Bool.toNat_lt wb) (Bool.toNat_lt wa) (FEt.code_lt f))
theorem fcmpLe (f : FEt) (d : Fin 32) (a : Fin 32) (b : Fin 32) (wa : Bool) (wb : Bool) : Statement (.fcmpLe f d a b wa wb) :=
  intro1 rfl rfl (encR_lt _ _ _ _ _ _ _ _ (by decide) d.isLt a.isLt b.isLt (by decide) (Bool.toNat_lt wb) (Bool.toNat_lt wa) (FEt.code_lt f))
theorem fcmpUn (f : FEt) (d : Fin 32) (a : Fin 32) (b : Fin 32) (wa : Bool) (wb : Bool) : Statement (.fcmpUn f d a b wa wb) :=
  intro1 rfl rfl (encR_lt _ _ _ _ _ _ _ _ (by decide) d.isLt a.isLt b.isLt (by decide) (Bool.toNat_lt wb) (Bool.toNat_lt wa) (FEt.code_lt f))
theorem tst (d : Fin 32) (a : Fin 32) (b : Fin 32) (wa : Bool) (wb : Bool) : Statement (.tst d a b wa wb) :=
  intro1 rfl rfl (encR_lt _ _ _ _ _ _ _ _ (by decide) d.isLt a.isLt b.isLt (by decide) (Bool.toNat_lt wb) (Bool.toNat_lt wa) (by decide))
theorem cmpiEq (d : Fin 32) (a : Fin 32) (wa : Bool) (imm : BitVec 11) : Statement (.cmpiEq d a wa imm) :=
  intro1 rfl rfl (encI_lt _ _ _ _ _ (by decide) d.isLt a.isLt (Bool.toNat_lt wa) (by have h0 := imm.isLt; omega))
theorem cmpiNe (d : Fin 32) (a : Fin 32) (wa : Bool) (imm : BitVec 11) : Statement (.cmpiNe d a wa imm) :=
  intro1 rfl rfl (encI_lt _ _ _ _ _ (by decide) d.isLt a.isLt (Bool.toNat_lt wa) (by have h0 := imm.isLt; omega))
theorem cmpiLt (d : Fin 32) (a : Fin 32) (wa : Bool) (imm : BitVec 11) : Statement (.cmpiLt d a wa imm) :=
  intro1 rfl rfl (encI_lt _ _ _ _ _ (by decide) d.isLt a.isLt (Bool.toNat_lt wa) (by have h0 := imm.isLt; omega))
theorem cmpiLtn (d : Fin 32) (a : Fin 32) (wa : Bool) (imm : BitVec 11) : Statement (.cmpiLtn d a wa imm) :=
  intro1 rfl rfl (encI_lt _ _ _ _ _ (by decide) d.isLt a.isLt (Bool.toNat_lt wa) (by have h0 := imm.isLt; omega))
theorem cmpiGt (d : Fin 32) (a : Fin 32) (wa : Bool) (imm : BitVec 11) : Statement (.cmpiGt d a wa imm) :=
  intro1 rfl rfl (encI_lt _ _ _ _ _ (by decide) d.isLt a.isLt (Bool.toNat_lt wa) (by have h0 := imm.isLt; omega))
theorem cmpiGtn (d : Fin 32) (a : Fin 32) (wa : Bool) (imm : BitVec 11) : Statement (.cmpiGtn d a wa imm) :=
  intro1 rfl rfl (encI_lt _ _ _ _ _ (by decide) d.isLt a.isLt (Bool.toNat_lt wa) (by have h0 := imm.isLt; omega))
theorem li (d : Fin 32) (imm : BitVec 20) : Statement (.li d imm) :=
  intro1 rfl rfl (encU_lt _ _ _ (by decide) d.isLt imm.isLt)
theorem lih (d : Fin 32) (imm : BitVec 20) : Statement (.lih d imm) :=
  intro1 rfl rfl (encU_lt _ _ _ (by decide) d.isLt imm.isLt)
theorem clz (sz : Sz32) (d : Fin 32) (a : Fin 32) (wa : Bool) : Statement (.clz sz d a wa) :=
  intro1 rfl rfl (encR_lt _ _ _ _ _ _ _ _ (by decide) d.isLt a.isLt (by decide) (by decide) (by decide) (Bool.toNat_lt wa) (by have h0 := Sz32.code_lt sz; omega))
theorem ctz (sz : Sz32) (d : Fin 32) (a : Fin 32) (wa : Bool) : Statement (.ctz sz d a wa) :=
  intro1 rfl rfl (encR_lt _ _ _ _ _ _ _ _ (by decide) d.isLt a.isLt (by decide) (by decide) (by decide) (Bool.toNat_lt wa) (by have h0 := Sz32.code_lt sz; omega))
theorem popc (sz : Sz32) (d : Fin 32) (a : Fin 32) (wa : Bool) : Statement (.popc sz d a wa) :=
  intro1 rfl rfl (encR_lt _ _ _ _ _ _ _ _ (by decide) d.isLt a.isLt (by decide) (by decide) (by decide) (Bool.toNat_lt wa) (by have h0 := Sz32.code_lt sz; omega))
theorem bswap (sz : Sz32) (d : Fin 32) (a : Fin 32) (wa : Bool) : Statement (.bswap sz d a wa) :=
  intro1 rfl rfl (encR_lt _ _ _ _ _ _ _ _ (by decide) d.isLt a.isLt (by decide) (by decide) (by decide) (Bool.toNat_lt wa) (by have h0 := Sz32.code_lt sz; omega))
theorem sextB (d : Fin 32) (a : Fin 32) (wa : Bool) : Statement (.sextB d a wa) :=
  intro1 rfl rfl (encR_lt _ _ _ _ _ _ _ _ (by decide) d.isLt a.isLt (by decide) (by decide) (by decide) (Bool.toNat_lt wa) (by decide))
theorem sextH (d : Fin 32) (a : Fin 32) (wa : Bool) : Statement (.sextH d a wa) :=
  intro1 rfl rfl (encR_lt _ _ _ _ _ _ _ _ (by decide) d.isLt a.isLt (by decide) (by decide) (by decide) (Bool.toNat_lt wa) (by decide))
theorem sextW (d : Fin 32) (a : Fin 32) (wa : Bool) : Statement (.sextW d a wa) :=
  intro1 rfl rfl (encR_lt _ _ _ _ _ _ _ _ (by decide) d.isLt a.isLt (by decide) (by decide) (by decide) (Bool.toNat_lt wa) (by decide))
theorem zextB (d : Fin 32) (a : Fin 32) (wa : Bool) : Statement (.zextB d a wa) :=
  intro1 rfl rfl (encR_lt _ _ _ _ _ _ _ _ (by decide) d.isLt a.isLt (by decide) (by decide) (by decide) (Bool.toNat_lt wa) (by decide))
theorem zextH (d : Fin 32) (a : Fin 32) (wa : Bool) : Statement (.zextH d a wa) :=
  intro1 rfl rfl (encR_lt _ _ _ _ _ _ _ _ (by decide) d.isLt a.isLt (by decide) (by decide) (by decide) (Bool.toNat_lt wa) (by decide))
theorem zextW (d : Fin 32) (a : Fin 32) (wa : Bool) : Statement (.zextW d a wa) :=
  intro1 rfl rfl (encR_lt _ _ _ _ _ _ _ _ (by decide) d.isLt a.isLt (by decide) (by decide) (by decide) (Bool.toNat_lt wa) (by decide))
theorem bfx (sz : Sz32) (d : Fin 32) (a : Fin 32) (b : Fin 32) (wa : Bool) (wb : Bool) : Statement (.bfx sz d a b wa wb) :=
  intro1 rfl rfl (encR_lt _ _ _ _ _ _ _ _ (by decide) d.isLt a.isLt b.isLt (by decide) (Bool.toNat_lt wb) (Bool.toNat_lt wa) (by have h0 := Sz32.code_lt sz; omega))
theorem bfi (sz : Sz32) (d : Fin 32) (a : Fin 32) (b : Fin 32) (wa : Bool) (wb : Bool) : Statement (.bfi sz d a b wa wb) :=
  intro1 rfl rfl (encR_lt _ _ _ _ _ _ _ _ (by decide) d.isLt a.isLt b.isLt (by decide) (Bool.toNat_lt wb) (Bool.toNat_lt wa) (by have h0 := Sz32.code_lt sz; omega))
theorem brev (sz : Sz32) (d : Fin 32) (a : Fin 32) (wa : Bool) : Statement (.brev sz d a wa) :=
  intro1 rfl rfl (encR_lt _ _ _ _ _ _ _ _ (by decide) d.isLt a.isLt (by decide) (by decide) (by decide) (Bool.toNat_lt wa) (by have h0 := Sz32.code_lt sz; omega))
theorem pack (sz : Sz32) (d : Fin 32) (a : Fin 32) (b : Fin 32) (wa : Bool) (wb : Bool) : Statement (.pack sz d a b wa wb) :=
  intro1 rfl rfl (encR_lt _ _ _ _ _ _ _ _ (by decide) d.isLt a.isLt b.isLt (by decide) (Bool.toNat_lt wb) (Bool.toNat_lt wa) (by have h0 := Sz32.code_lt sz; omega))
theorem gate (d : Fin 32) (a : Fin 32) (b : Fin 32) (wa : Bool) (wb : Bool) : Statement (.gate d a b wa wb) :=
  intro1 rfl rfl (encR_lt _ _ _ _ _ _ _ _ (by decide) d.isLt a.isLt b.isLt (by decide) (Bool.toNat_lt wb) (Bool.toNat_lt wa) (by decide))
theorem gaten (d : Fin 32) (a : Fin 32) (b : Fin 32) (wa : Bool) (wb : Bool) : Statement (.gaten d a b wa wb) :=
  intro1 rfl rfl (encR_lt _ _ _ _ _ _ _ _ (by decide) d.isLt a.isLt b.isLt (by decide) (Bool.toNat_lt wb) (Bool.toNat_lt wa) (by decide))
theorem setv (d : Fin 32) (a : Fin 32) (wa : Bool) : Statement (.setv d a wa) :=
  intro1 rfl rfl (encR_lt _ _ _ _ _ _ _ _ (by decide) d.isLt a.isLt (by decide) (by decide) (by decide) (Bool.toNat_lt wa) (by decide))
theorem clrv (d : Fin 32) (a : Fin 32) (wa : Bool) : Statement (.clrv d a wa) :=
  intro1 rfl rfl (encR_lt _ _ _ _ _ _ _ _ (by decide) d.isLt a.isLt (by decide) (by decide) (by decide) (Bool.toNat_lt wa) (by decide))
theorem isv (d : Fin 32) (a : Fin 32) (wa : Bool) : Statement (.isv d a wa) :=
  intro1 rfl rfl (encR_lt _ _ _ _ _ _ _ _ (by decide) d.isLt a.isLt (by decide) (by decide) (by decide) (Bool.toNat_lt wa) (by decide))
theorem selv (d : Fin 32) (a : Fin 32) (b : Fin 32) (wa : Bool) (wb : Bool) : Statement (.selv d a b wa wb) :=
  intro1 rfl rfl (encR_lt _ _ _ _ _ _ _ _ (by decide) d.isLt a.isLt b.isLt (by decide) (Bool.toNat_lt wb) (Bool.toNat_lt wa) (by decide))
theorem movv (d : Fin 32) (a : Fin 32) (wa : Bool) : Statement (.movv d a wa) :=
  intro1 rfl rfl (encR_lt _ _ _ _ _ _ _ _ (by decide) d.isLt a.isLt (by decide) (by decide) (by decide) (Bool.toNat_lt wa) (by decide))
theorem fadd (f : FEt) (d : Fin 32) (a : Fin 32) (b : Fin 32) (wa : Bool) (wb : Bool) : Statement (.fadd f d a b wa wb) :=
  intro1 rfl rfl (encR_lt _ _ _ _ _ _ _ _ (by decide) d.isLt a.isLt b.isLt (by decide) (Bool.toNat_lt wb) (Bool.toNat_lt wa) (FEt.code_lt f))
theorem fsub (f : FEt) (d : Fin 32) (a : Fin 32) (b : Fin 32) (wa : Bool) (wb : Bool) : Statement (.fsub f d a b wa wb) :=
  intro1 rfl rfl (encR_lt _ _ _ _ _ _ _ _ (by decide) d.isLt a.isLt b.isLt (by decide) (Bool.toNat_lt wb) (Bool.toNat_lt wa) (FEt.code_lt f))
theorem fmul (f : FEt) (d : Fin 32) (a : Fin 32) (b : Fin 32) (wa : Bool) (wb : Bool) : Statement (.fmul f d a b wa wb) :=
  intro1 rfl rfl (encR_lt _ _ _ _ _ _ _ _ (by decide) d.isLt a.isLt b.isLt (by decide) (Bool.toNat_lt wb) (Bool.toNat_lt wa) (FEt.code_lt f))
theorem fdiv (f : FEt) (d : Fin 32) (a : Fin 32) (b : Fin 32) (wa : Bool) (wb : Bool) : Statement (.fdiv f d a b wa wb) :=
  intro1 rfl rfl (encR_lt _ _ _ _ _ _ _ _ (by decide) d.isLt a.isLt b.isLt (by decide) (Bool.toNat_lt wb) (Bool.toNat_lt wa) (FEt.code_lt f))
theorem fsqrt (f : FEt) (d : Fin 32) (a : Fin 32) (wa : Bool) : Statement (.fsqrt f d a wa) :=
  intro1 rfl rfl (encR_lt _ _ _ _ _ _ _ _ (by decide) d.isLt a.isLt (by decide) (by decide) (by decide) (Bool.toNat_lt wa) (FEt.code_lt f))
theorem fmin (f : FEt) (d : Fin 32) (a : Fin 32) (b : Fin 32) (wa : Bool) (wb : Bool) : Statement (.fmin f d a b wa wb) :=
  intro1 rfl rfl (encR_lt _ _ _ _ _ _ _ _ (by decide) d.isLt a.isLt b.isLt (by decide) (Bool.toNat_lt wb) (Bool.toNat_lt wa) (FEt.code_lt f))
theorem fmax (f : FEt) (d : Fin 32) (a : Fin 32) (b : Fin 32) (wa : Bool) (wb : Bool) : Statement (.fmax f d a b wa wb) :=
  intro1 rfl rfl (encR_lt _ _ _ _ _ _ _ _ (by decide) d.isLt a.isLt b.isLt (by decide) (Bool.toNat_lt wb) (Bool.toNat_lt wa) (FEt.code_lt f))
theorem fma (f : FEt) (d : Fin 32) (a : Fin 32) (b : Fin 32) (wa : Bool) (wb : Bool) : Statement (.fma f d a b wa wb) :=
  intro1 rfl rfl (encR_lt _ _ _ _ _ _ _ _ (by decide) d.isLt a.isLt b.isLt (by decide) (Bool.toNat_lt wb) (Bool.toNat_lt wa) (FEt.code_lt f))
theorem fnma (f : FEt) (d : Fin 32) (a : Fin 32) (b : Fin 32) (wa : Bool) (wb : Bool) : Statement (.fnma f d a b wa wb) :=
  intro1 rfl rfl (encR_lt _ _ _ _ _ _ _ _ (by decide) d.isLt a.isLt b.isLt (by decide) (Bool.toNat_lt wb) (Bool.toNat_lt wa) (FEt.code_lt f))
theorem fabs (f : FEt) (d : Fin 32) (a : Fin 32) (wa : Bool) : Statement (.fabs f d a wa) :=
  intro1 rfl rfl (encR_lt _ _ _ _ _ _ _ _ (by decide) d.isLt a.isLt (by decide) (by decide) (by decide) (Bool.toNat_lt wa) (FEt.code_lt f))
theorem fneg (f : FEt) (d : Fin 32) (a : Fin 32) (wa : Bool) : Statement (.fneg f d a wa) :=
  intro1 rfl rfl (encR_lt _ _ _ _ _ _ _ _ (by decide) d.isLt a.isLt (by decide) (by decide) (by decide) (Bool.toNat_lt wa) (FEt.code_lt f))
theorem fsgnj (f : FEt) (d : Fin 32) (a : Fin 32) (b : Fin 32) (wa : Bool) (wb : Bool) : Statement (.fsgnj f d a b wa wb) :=
  intro1 rfl rfl (encR_lt _ _ _ _ _ _ _ _ (by decide) d.isLt a.isLt b.isLt (by decide) (Bool.toNat_lt wb) (Bool.toNat_lt wa) (FEt.code_lt f))
theorem fclass (f : FEt) (d : Fin 32) (a : Fin 32) (wa : Bool) : Statement (.fclass f d a wa) :=
  intro1 rfl rfl (encR_lt _ _ _ _ _ _ _ _ (by decide) d.isLt a.isLt (by decide) (by decide) (by decide) (Bool.toNat_lt wa) (FEt.code_lt f))
theorem fcvtS (f : FEt) (d : Fin 32) (a : Fin 32) (wa : Bool) : Statement (.fcvtS f d a wa) :=
  intro1 rfl rfl (encR_lt _ _ _ _ _ _ _ _ (by decide) d.isLt a.isLt (by decide) (by decide) (by decide) (Bool.toNat_lt wa) (FEt.code_lt f))
theorem fcvtN (f : FEt) (d : Fin 32) (a : Fin 32) (wa : Bool) : Statement (.fcvtN f d a wa) :=
  intro1 rfl rfl (encR_lt _ _ _ _ _ _ _ _ (by decide) d.isLt a.isLt (by decide) (by decide) (by decide) (Bool.toNat_lt wa) (FEt.code_lt f))
theorem scvtF (f : FEt) (d : Fin 32) (a : Fin 32) (wa : Bool) : Statement (.scvtF f d a wa) :=
  intro1 rfl rfl (encR_lt _ _ _ _ _ _ _ _ (by decide) d.isLt a.isLt (by decide) (by decide) (by decide) (Bool.toNat_lt wa) (FEt.code_lt f))
theorem ncvtF (f : FEt) (d : Fin 32) (a : Fin 32) (wa : Bool) : Statement (.ncvtF f d a wa) :=
  intro1 rfl rfl (encR_lt _ _ _ _ _ _ _ _ (by decide) d.isLt a.isLt (by decide) (by decide) (by decide) (Bool.toNat_lt wa) (FEt.code_lt f))
theorem fcvtF (dst : FEt) (src : FEt) (d : Fin 32) (a : Fin 32) (wa : Bool) : Statement (.fcvtF dst src d a wa) :=
  intro1 rfl rfl (encR_lt _ _ _ _ _ _ _ _ (by decide) d.isLt a.isLt (by have h0 := FEt.code_lt src; omega) (by decide) (by decide) (Bool.toNat_lt wa) (FEt.code_lt dst))
theorem ld (sz : MSz) (d : Fin 32) (b : Fin 32) (wa : Bool) (nw : Bool) (off : BitVec 11) : Statement (.ld sz d b wa nw off) :=
  intro1 rfl rfl (encM_lt _ _ _ _ _ _ _ (by decide) d.isLt b.isLt (Bool.toNat_lt wa) (Bool.toNat_lt nw) (MSz.code_lt sz) off.isLt)
theorem lds (sz : MSz) (d : Fin 32) (b : Fin 32) (wa : Bool) (nw : Bool) (off : BitVec 11) : Statement (.lds sz d b wa nw off) :=
  intro1 rfl rfl (encM_lt _ _ _ _ _ _ _ (by decide) d.isLt b.isLt (Bool.toNat_lt wa) (Bool.toNat_lt nw) (MSz.code_lt sz) off.isLt)
theorem st (sz : MSz) (d : Fin 32) (b : Fin 32) (wa : Bool) (wd : Bool) (off : BitVec 11) : Statement (.st sz d b wa wd off) :=
  intro1 rfl rfl (encM_lt _ _ _ _ _ _ _ (by decide) d.isLt b.isLt (Bool.toNat_lt wa) (Bool.toNat_lt wd) (MSz.code_lt sz) off.isLt)
theorem ldAcq (sz : MSz) (d : Fin 32) (a : Fin 32) (sc : Scope) (wa : Bool) : Statement (.ldAcq sz d a sc wa) :=
  intro1 rfl rfl (encR_lt _ _ _ _ _ _ _ _ (by decide) d.isLt a.isLt (by have h0 := Scope.code_lt sc; omega) (by decide) (by decide) (Bool.toNat_lt wa) (MSz.code_lt sz))
theorem stRel (sz : MSz) (d : Fin 32) (a : Fin 32) (sc : Scope) (wa : Bool) : Statement (.stRel sz d a sc wa) :=
  intro1 rfl rfl (encR_lt _ _ _ _ _ _ _ _ (by decide) d.isLt a.isLt (by have h0 := Scope.code_lt sc; omega) (by decide) (by decide) (Bool.toNat_lt wa) (MSz.code_lt sz))
theorem ldQ (d : Fin 32) (a : Fin 32) (wa : Bool) : Statement (.ldQ d a wa) :=
  intro1 rfl rfl (encR_lt _ _ _ _ _ _ _ _ (by decide) d.isLt a.isLt (by decide) (by decide) (by decide) (Bool.toNat_lt wa) (by decide))
theorem stQ (d : Fin 32) (a : Fin 32) (wa : Bool) : Statement (.stQ d a wa) :=
  intro1 rfl rfl (encR_lt _ _ _ _ _ _ _ _ (by decide) d.isLt a.isLt (by decide) (by decide) (by decide) (Bool.toNat_lt wa) (by decide))
theorem touch (a : Fin 32) (wa : Bool) : Statement (.touch a wa) :=
  intro1 rfl rfl (encR_lt _ _ _ _ _ _ _ _ (by decide) (by decide) a.isLt (by decide) (by decide) (by decide) (Bool.toNat_lt wa) (by decide))
theorem sbwait (a : Fin 32) : Statement (.sbwait a) :=
  intro1 rfl rfl (encR_lt _ _ _ _ _ _ _ _ (by decide) (by decide) a.isLt (by decide) (by decide) (by decide) (by decide) (by decide))
theorem mkempty (d : Fin 32) : Statement (.mkempty d) :=
  intro1 rfl rfl (encR_lt _ _ _ _ _ _ _ _ (by decide) d.isLt (by decide) (by decide) (by decide) (by decide) (by decide) (by decide))
theorem amoswap (w64 : Bool) (d : Fin 32) (a : Fin 32) (b : Fin 32) (ord : Ord) (sc : Scope) : Statement (.amoswap w64 d a b ord sc) :=
  intro1 rfl rfl (encRA_lt _ _ _ _ _ _ _ _ (by decide) d.isLt a.isLt b.isLt (by decide) (Ord.code_lt ord) (Scope.code_lt sc) (Bool.toNat_lt w64))
theorem amoadd (w64 : Bool) (d : Fin 32) (a : Fin 32) (b : Fin 32) (ord : Ord) (sc : Scope) : Statement (.amoadd w64 d a b ord sc) :=
  intro1 rfl rfl (encRA_lt _ _ _ _ _ _ _ _ (by decide) d.isLt a.isLt b.isLt (by decide) (Ord.code_lt ord) (Scope.code_lt sc) (Bool.toNat_lt w64))
theorem amoand (w64 : Bool) (d : Fin 32) (a : Fin 32) (b : Fin 32) (ord : Ord) (sc : Scope) : Statement (.amoand w64 d a b ord sc) :=
  intro1 rfl rfl (encRA_lt _ _ _ _ _ _ _ _ (by decide) d.isLt a.isLt b.isLt (by decide) (Ord.code_lt ord) (Scope.code_lt sc) (Bool.toNat_lt w64))
theorem amoor (w64 : Bool) (d : Fin 32) (a : Fin 32) (b : Fin 32) (ord : Ord) (sc : Scope) : Statement (.amoor w64 d a b ord sc) :=
  intro1 rfl rfl (encRA_lt _ _ _ _ _ _ _ _ (by decide) d.isLt a.isLt b.isLt (by decide) (Ord.code_lt ord) (Scope.code_lt sc) (Bool.toNat_lt w64))
theorem amoxor (w64 : Bool) (d : Fin 32) (a : Fin 32) (b : Fin 32) (ord : Ord) (sc : Scope) : Statement (.amoxor w64 d a b ord sc) :=
  intro1 rfl rfl (encRA_lt _ _ _ _ _ _ _ _ (by decide) d.isLt a.isLt b.isLt (by decide) (Ord.code_lt ord) (Scope.code_lt sc) (Bool.toNat_lt w64))
theorem amomin (w64 : Bool) (d : Fin 32) (a : Fin 32) (b : Fin 32) (ord : Ord) (sc : Scope) : Statement (.amomin w64 d a b ord sc) :=
  intro1 rfl rfl (encRA_lt _ _ _ _ _ _ _ _ (by decide) d.isLt a.isLt b.isLt (by decide) (Ord.code_lt ord) (Scope.code_lt sc) (Bool.toNat_lt w64))
theorem amomax (w64 : Bool) (d : Fin 32) (a : Fin 32) (b : Fin 32) (ord : Ord) (sc : Scope) : Statement (.amomax w64 d a b ord sc) :=
  intro1 rfl rfl (encRA_lt _ _ _ _ _ _ _ _ (by decide) d.isLt a.isLt b.isLt (by decide) (Ord.code_lt ord) (Scope.code_lt sc) (Bool.toNat_lt w64))
theorem amominn (w64 : Bool) (d : Fin 32) (a : Fin 32) (b : Fin 32) (ord : Ord) (sc : Scope) : Statement (.amominn w64 d a b ord sc) :=
  intro1 rfl rfl (encRA_lt _ _ _ _ _ _ _ _ (by decide) d.isLt a.isLt b.isLt (by decide) (Ord.code_lt ord) (Scope.code_lt sc) (Bool.toNat_lt w64))
theorem amomaxn (w64 : Bool) (d : Fin 32) (a : Fin 32) (b : Fin 32) (ord : Ord) (sc : Scope) : Statement (.amomaxn w64 d a b ord sc) :=
  intro1 rfl rfl (encRA_lt _ _ _ _ _ _ _ _ (by decide) d.isLt a.isLt b.isLt (by decide) (Ord.code_lt ord) (Scope.code_lt sc) (Bool.toNat_lt w64))
theorem amofadd (d : Fin 32) (a : Fin 32) (b : Fin 32) (ord : Ord) (sc : Scope) : Statement (.amofadd d a b ord sc) :=
  intro1 rfl rfl (encRA_lt _ _ _ _ _ _ _ _ (by decide) d.isLt a.isLt b.isLt (by decide) (Ord.code_lt ord) (Scope.code_lt sc) (by decide))
theorem casD (d : Fin 32) (a : Fin 32) (b : Fin 32) (ord : Ord) (sc : Scope) : Statement (.casD d a b ord sc) :=
  intro1 rfl rfl (encRA_lt _ _ _ _ _ _ _ _ (by decide) d.isLt a.isLt b.isLt (by decide) (Ord.code_lt ord) (Scope.code_lt sc) (by decide))
theorem casQ (d : Fin 32) (a : Fin 32) (b : Fin 32) (ord : Ord) (sc : Scope) : Statement (.casQ d a b ord sc) :=
  intro1 rfl rfl (encRA_lt _ _ _ _ _ _ _ _ (by decide) d.isLt a.isLt b.isLt (by decide) (Ord.code_lt ord) (Scope.code_lt sc) (by decide))
theorem vld (d : Fin 32) (b : Fin 32) (wa : Bool) (off : BitVec 11) : Statement (.vld d b wa off) :=
  intro1 rfl rfl (encM_lt _ _ _ _ _ _ _ (by decide) d.isLt b.isLt (Bool.toNat_lt wa) (by decide) (by decide) off.isLt)
theorem vst (d : Fin 32) (b : Fin 32) (wa : Bool) (off : BitVec 11) : Statement (.vst d b wa off) :=
  intro1 rfl rfl (encM_lt _ _ _ _ _ _ _ (by decide) d.isLt b.isLt (Bool.toNat_lt wa) (by decide) (by decide) off.isLt)
theorem vldNw (d : Fin 32) (b : Fin 32) (wa : Bool) (off : BitVec 11) : Statement (.vldNw d b wa off) :=
  intro1 rfl rfl (encM_lt _ _ _ _ _ _ _ (by decide) d.isLt b.isLt (Bool.toNat_lt wa) (by decide) (by decide) off.isLt)
theorem vgat (sz : MSz) (d : Fin 32) (a : Fin 32) (b : Fin 32) (wa : Bool) : Statement (.vgat sz d a b wa) :=
  intro1 rfl rfl (encR_lt _ _ _ _ _ _ _ _ (by decide) d.isLt a.isLt b.isLt (by decide) (by decide) (Bool.toNat_lt wa) (MSz.code_lt sz))
theorem vsca (sz : MSz) (d : Fin 32) (a : Fin 32) (b : Fin 32) (wa : Bool) : Statement (.vsca sz d a b wa) :=
  intro1 rfl rfl (encR_lt _ _ _ _ _ _ _ _ (by decide) d.isLt a.isLt b.isLt (by decide) (by decide) (Bool.toNat_lt wa) (MSz.code_lt sz))
theorem vldb (sz : MSz) (d : Fin 32) (a : Fin 32) (wa : Bool) : Statement (.vldb sz d a wa) :=
  intro1 rfl rfl (encR_lt _ _ _ _ _ _ _ _ (by decide) d.isLt a.isLt (by decide) (by decide) (by decide) (Bool.toNat_lt wa) (MSz.code_lt sz))
theorem br (off : BitVec 18) : Statement (.br off) :=
  intro1 rfl rfl (encB_lt _ _ _ _ (by decide) (by decide) (by decide) off.isLt)
theorem call (a : Fin 32) (off : BitVec 18) : Statement (.call a off) :=
  intro1 rfl rfl (encB_lt _ _ _ _ (by decide) a.isLt (by decide) off.isLt)
theorem bv (a : Fin 32) (off : BitVec 18) : Statement (.bv a off) :=
  intro1 rfl rfl (encB_lt _ _ _ _ (by decide) a.isLt (by decide) off.isLt)
theorem bnv (a : Fin 32) (off : BitVec 18) : Statement (.bnv a off) :=
  intro1 rfl rfl (encB_lt _ _ _ _ (by decide) a.isLt (by decide) off.isLt)
theorem bnz (a : Fin 32) (off : BitVec 18) : Statement (.bnz a off) :=
  intro1 rfl rfl (encB_lt _ _ _ _ (by decide) a.isLt (by decide) off.isLt)
theorem bz (a : Fin 32) (off : BitVec 18) : Statement (.bz a off) :=
  intro1 rfl rfl (encB_lt _ _ _ _ (by decide) a.isLt (by decide) off.isLt)
theorem jr (d : Fin 32) (a : Fin 32) (wa : Bool) (imm : BitVec 14) : Statement (.jr d a wa imm) :=
  intro1 rfl rfl (encI_lt _ _ _ _ _ (by decide) d.isLt a.isLt (Bool.toNat_lt wa) imm.isLt)
theorem ldk (sz : MSz) (d : Fin 32) (a : Fin 32) (b : Fin 32) (wa : Bool) (wb : Bool) : Statement (.ldk sz d a b wa wb) :=
  intro1 rfl rfl (encR_lt _ _ _ _ _ _ _ _ (by decide) d.isLt a.isLt b.isLt (by decide) (Bool.toNat_lt wb) (Bool.toNat_lt wa) (MSz.code_lt sz))
theorem wput (d : Fin 32) (b : Fin 32) (wb : Bool) : Statement (.wput d b wb) :=
  intro1 rfl rfl (encR_lt _ _ _ _ _ _ _ _ (by decide) d.isLt (by decide) b.isLt (by decide) (Bool.toNat_lt wb) (by decide) (by decide))
theorem wwait : Statement (.wwait) :=
  intro1 rfl rfl (encR_lt _ _ _ _ _ _ _ _ (by decide) (by decide) (by decide) (by decide) (by decide) (by decide) (by decide) (by decide))
theorem wdisp : Statement (.wdisp) :=
  intro1 rfl rfl (encR_lt _ _ _ _ _ _ _ _ (by decide) (by decide) (by decide) (by decide) (by decide) (by decide) (by decide) (by decide))
theorem wdone : Statement (.wdone) :=
  intro1 rfl rfl (encR_lt _ _ _ _ _ _ _ _ (by decide) (by decide) (by decide) (by decide) (by decide) (by decide) (by decide) (by decide))
theorem sync (lv : Level) : Statement (.sync lv) :=
  intro1 rfl rfl (encR_lt _ _ _ _ _ _ _ _ (by decide) (by decide) (by decide) (by have h0 := Level.code_lt lv; omega) (by decide) (by decide) (by decide) (by decide))
theorem voteAnd (lv : Level) (d : Fin 32) (a : Fin 32) (wa : Bool) : Statement (.voteAnd lv d a wa) :=
  intro1 rfl rfl (encR_lt _ _ _ _ _ _ _ _ (by decide) d.isLt a.isLt (by have h0 := Level.code_lt lv; omega) (by decide) (by decide) (Bool.toNat_lt wa) (by decide))
theorem voteOr (lv : Level) (d : Fin 32) (a : Fin 32) (wa : Bool) : Statement (.voteOr lv d a wa) :=
  intro1 rfl rfl (encR_lt _ _ _ _ _ _ _ _ (by decide) d.isLt a.isLt (by have h0 := Level.code_lt lv; omega) (by decide) (by decide) (Bool.toNat_lt wa) (by decide))
theorem voteAdd (lv : Level) (d : Fin 32) (a : Fin 32) (wa : Bool) : Statement (.voteAdd lv d a wa) :=
  intro1 rfl rfl (encR_lt _ _ _ _ _ _ _ _ (by decide) d.isLt a.isLt (by have h0 := Level.code_lt lv; omega) (by decide) (by decide) (Bool.toNat_lt wa) (by decide))
theorem fence (sc : Scope) (pr : Bool) (pw : Bool) (sr : Bool) (sw : Bool) : Statement (.fence sc pr pw sr sw) :=
  intro1 rfl rfl (encR_lt _ _ _ _ _ _ _ _ (by decide) (by have h0 := Bool.toNat_lt pr; have h1 := Bool.toNat_lt pw; have h2 := Bool.toNat_lt sr; have h3 := Bool.toNat_lt sw; omega) (by decide) (by have h0 := Scope.code_lt sc; omega) (by decide) (by decide) (by decide) (by decide))
theorem hwbarArrive (lv : WLevel) : Statement (.hwbarArrive lv) :=
  intro1 rfl rfl (encR_lt _ _ _ _ _ _ _ _ (by decide) (by decide) (by decide) (by have h0 := WLevel.code_lt lv; omega) (by decide) (by decide) (by decide) (by decide))
theorem hwbarWait (lv : WLevel) : Statement (.hwbarWait lv) :=
  intro1 rfl rfl (encR_lt _ _ _ _ _ _ _ _ (by decide) (by decide) (by decide) (by have h0 := WLevel.code_lt lv; omega) (by decide) (by decide) (by decide) (by decide))
theorem watch (a : Fin 32) (wa : Bool) : Statement (.watch a wa) :=
  intro1 rfl rfl (encR_lt _ _ _ _ _ _ _ _ (by decide) (by decide) a.isLt (by decide) (by decide) (by decide) (Bool.toNat_lt wa) (by decide))
theorem wfe : Statement (.wfe) :=
  intro1 rfl rfl (encR_lt _ _ _ _ _ _ _ _ (by decide) (by decide) (by decide) (by decide) (by decide) (by decide) (by decide) (by decide))
theorem sev : Statement (.sev) :=
  intro1 rfl rfl (encR_lt _ _ _ _ _ _ _ _ (by decide) (by decide) (by decide) (by decide) (by decide) (by decide) (by decide) (by decide))
theorem qget (q : Fin 16) (a : Fin 32) : Statement (.qget q a) :=
  intro1 rfl rfl (encR_lt _ _ _ _ _ _ _ _ (by decide) (by have h0 := q.isLt; omega) a.isLt (by decide) (by decide) (by decide) (by decide) (by decide))
theorem qput (q : Fin 16) (a : Fin 32) (wa : Bool) : Statement (.qput q a wa) :=
  intro1 rfl rfl (encR_lt _ _ _ _ _ _ _ _ (by decide) (by have h0 := q.isLt; omega) a.isLt (by decide) (by decide) (by decide) (Bool.toNat_lt wa) (by decide))
theorem vqget (q : Fin 16) (a : Fin 32) : Statement (.vqget q a) :=
  intro1 rfl rfl (encR_lt _ _ _ _ _ _ _ _ (by decide) (by have h0 := q.isLt; omega) a.isLt (by decide) (by decide) (by decide) (by decide) (by decide))
theorem vqput (q : Fin 16) (a : Fin 32) : Statement (.vqput q a) :=
  intro1 rfl rfl (encR_lt _ _ _ _ _ _ _ _ (by decide) (by have h0 := q.isLt; omega) a.isLt (by decide) (by decide) (by decide) (by decide) (by decide))
theorem ecmd (q : Fin 16) (a : Fin 32) (b : Fin 32) (wa : Bool) (wb : Bool) : Statement (.ecmd q a b wa wb) :=
  intro1 rfl rfl (encR_lt _ _ _ _ _ _ _ _ (by decide) (by have h0 := q.isLt; omega) a.isLt b.isLt (by decide) (Bool.toNat_lt wb) (Bool.toNat_lt wa) (by decide))
theorem ebusy (q : Fin 16) (a : Fin 32) : Statement (.ebusy q a) :=
  intro1 rfl rfl (encR_lt _ _ _ _ _ _ _ _ (by decide) (by have h0 := q.isLt; omega) a.isLt (by decide) (by decide) (by decide) (by decide) (by decide))
theorem efence (lo : BitVec 5) (hi : BitVec 2) : Statement (.efence lo hi) :=
  intro1 rfl rfl (encR_lt _ _ _ _ _ _ _ _ (by decide) (by decide) (by decide) lo.isLt (by decide) (by decide) (by decide) hi.isLt)
theorem qlen (q : Fin 16) (a : Fin 32) : Statement (.qlen q a) :=
  intro1 rfl rfl (encR_lt _ _ _ _ _ _ _ _ (by decide) (by have h0 := q.isLt; omega) a.isLt (by decide) (by decide) (by decide) (by decide) (by decide))
theorem hld (d : Fin 8) (b : Fin 32) (wa : Bool) (nw : Bool) (off : BitVec 11) : Statement (.hld d b wa nw off) :=
  intro1 rfl rfl (encM_lt _ _ _ _ _ _ _ (by decide) (by have h0 := d.isLt; omega) b.isLt (Bool.toNat_lt wa) (Bool.toNat_lt nw) (by decide) off.isLt)
theorem hst (d : Fin 8) (b : Fin 32) (wa : Bool) (wd : Bool) (off : BitVec 11) : Statement (.hst d b wa wd off) :=
  intro1 rfl rfl (encM_lt _ _ _ _ _ _ _ (by decide) (by have h0 := d.isLt; omega) b.isLt (Bool.toNat_lt wa) (Bool.toNat_lt wd) (by decide) off.isLt)
theorem mld (s32 : Bool) (d : Fin 8) (a : Fin 32) (b : Fin 32) : Statement (.mld s32 d a b) :=
  intro1 rfl rfl (encX_lt _ _ _ _ _ _ (by decide) (by have h0 := d.isLt; omega) a.isLt b.isLt (by have h0 := Bool.toNat_lt s32; omega) (by decide))
theorem mst (d : Fin 8) (a : Fin 32) (b : Fin 32) : Statement (.mst d a b) :=
  intro1 rfl rfl (encX_lt _ _ _ _ _ _ (by decide) (by have h0 := d.isLt; omega) a.isLt b.isLt (by decide) (by decide))
theorem wbld (len : WLen) (sp : Bool) (d : Fin 32) (a : Fin 32) : Statement (.wbld len sp d a) :=
  intro1 rfl rfl (encX_lt _ _ _ _ _ _ (by decide) d.isLt a.isLt (by decide) (by have h0 := WLen.code_lt len; have h1 := Bool.toNat_lt sp; omega) (by decide))
theorem mepi (d : Fin 8) (a : Fin 32) (b : Fin 32) (c : Fin 32) : Statement (.mepi d a b c) :=
  intro1 rfl rfl (encX_lt _ _ _ _ _ _ (by decide) (by have h0 := d.isLt; omega) a.isLt b.isLt c.isLt (by decide))
theorem wbinv (a : Fin 32) (b : Fin 32) : Statement (.wbinv a b) :=
  intro1 rfl rfl (encX_lt _ _ _ _ _ _ (by decide) (by decide) a.isLt b.isLt (by decide) (by decide))
theorem syscall (a : Fin 32) (wa : Bool) : Statement (.syscall a wa) :=
  intro1 rfl rfl (encR_lt _ _ _ _ _ _ _ _ (by decide) (by decide) a.isLt (by decide) (by decide) (by decide) (Bool.toNat_lt wa) (by decide))
theorem sret : Statement (.sret) :=
  intro1 rfl rfl (encR_lt _ _ _ _ _ _ _ _ (by decide) (by decide) (by decide) (by decide) (by decide) (by decide) (by decide) (by decide))
theorem endCtx : Statement (.endCtx) :=
  intro1 rfl rfl (encR_lt _ _ _ _ _ _ _ _ (by decide) (by decide) (by decide) (by decide) (by decide) (by decide) (by decide) (by decide))
theorem brk (code : BitVec 5) : Statement (.brk code) :=
  intro1 rfl rfl (encR_lt _ _ _ _ _ _ _ _ (by decide) (by decide) (by decide) code.isLt (by decide) (by decide) (by decide) (by decide))
theorem ifence : Statement (.ifence) :=
  intro1 rfl rfl (encR_lt _ _ _ _ _ _ _ _ (by decide) (by decide) (by decide) (by decide) (by decide) (by decide) (by decide) (by decide))
theorem tlbinvAll : Statement (.tlbinvAll) :=
  intro1 rfl rfl (encR_lt _ _ _ _ _ _ _ _ (by decide) (by decide) (by decide) (by decide) (by decide) (by decide) (by decide) (by decide))
theorem tlbinvAsid (b : Fin 32) (wb : Bool) : Statement (.tlbinvAsid b wb) :=
  intro1 rfl rfl (encR_lt _ _ _ _ _ _ _ _ (by decide) (by decide) (by decide) b.isLt (by decide) (Bool.toNat_lt wb) (by decide) (by decide))
theorem tlbinvVa (a : Fin 32) (b : Fin 32) (wa : Bool) (wb : Bool) : Statement (.tlbinvVa a b wa wb) :=
  intro1 rfl rfl (encR_lt _ _ _ _ _ _ _ _ (by decide) (by decide) a.isLt b.isLt (by decide) (Bool.toNat_lt wb) (Bool.toNat_lt wa) (by decide))
theorem tlbinvVaall (a : Fin 32) (wa : Bool) : Statement (.tlbinvVaall a wa) :=
  intro1 rfl rfl (encR_lt _ _ _ _ _ _ _ _ (by decide) (by decide) a.isLt (by decide) (by decide) (by decide) (Bool.toNat_lt wa) (by decide))
theorem wfi : Statement (.wfi) :=
  intro1 rfl rfl (encR_lt _ _ _ _ _ _ _ _ (by decide) (by decide) (by decide) (by decide) (by decide) (by decide) (by decide) (by decide))
theorem rdfe (d : Fin 32) : Statement (.rdfe d) :=
  intro1 rfl rfl (encR_lt _ _ _ _ _ _ _ _ (by decide) d.isLt (by decide) (by decide) (by decide) (by decide) (by decide) (by decide))
theorem wrfe (a : Fin 32) (wa : Bool) : Statement (.wrfe a wa) :=
  intro1 rfl rfl (encR_lt _ _ _ _ _ _ _ _ (by decide) (by decide) a.isLt (by decide) (by decide) (by decide) (Bool.toNat_lt wa) (by decide))
theorem rdvb (d : Fin 32) : Statement (.rdvb d) :=
  intro1 rfl rfl (encR_lt _ _ _ _ _ _ _ _ (by decide) d.isLt (by decide) (by decide) (by decide) (by decide) (by decide) (by decide))
theorem wrvb (a : Fin 32) (wa : Bool) : Statement (.wrvb a wa) :=
  intro1 rfl rfl (encR_lt _ _ _ _ _ _ _ _ (by decide) (by decide) a.isLt (by decide) (by decide) (by decide) (Bool.toNat_lt wa) (by decide))
theorem yield : Statement (.yield) :=
  intro1 rfl rfl (encR_lt _ _ _ _ _ _ _ _ (by decide) (by decide) (by decide) (by decide) (by decide) (by decide) (by decide) (by decide))
theorem csrr (d : Fin 32) (n : BitVec 12) : Statement (.csrr d n) :=
  intro1 rfl rfl (encI_lt _ _ _ _ _ (by decide) d.isLt (by decide) (by decide) (by have h0 := n.isLt; omega))
theorem csrw (d : Fin 32) (a : Fin 32) (wa : Bool) (n : BitVec 12) : Statement (.csrw d a wa n) :=
  intro1 rfl rfl (encI_lt _ _ _ _ _ (by decide) d.isLt a.isLt (Bool.toNat_lt wa) (by have h0 := n.isLt; omega))
theorem csrs (d : Fin 32) (a : Fin 32) (wa : Bool) (n : BitVec 12) : Statement (.csrs d a wa n) :=
  intro1 rfl rfl (encI_lt _ _ _ _ _ (by decide) d.isLt a.isLt (Bool.toNat_lt wa) (by have h0 := n.isLt; omega))
theorem csrc (d : Fin 32) (a : Fin 32) (wa : Bool) (n : BitVec 12) : Statement (.csrc d a wa n) :=
  intro1 rfl rfl (encI_lt _ _ _ _ _ (by decide) d.isLt a.isLt (Bool.toNat_lt wa) (by have h0 := n.isLt; omega))
theorem vadd (e : IEt) (d : Fin 32) (a : Fin 32) (b : Fin 32) : Statement (.vadd e d a b) :=
  intro1 rfl rfl (encV_lt _ _ _ _ _ _ (by decide) d.isLt a.isLt b.isLt (by decide) (by have h0 := IEt.code_lt e; omega))
theorem vsub (e : IEt) (d : Fin 32) (a : Fin 32) (b : Fin 32) : Statement (.vsub e d a b) :=
  intro1 rfl rfl (encV_lt _ _ _ _ _ _ (by decide) d.isLt a.isLt b.isLt (by decide) (by have h0 := IEt.code_lt e; omega))
theorem vmul (e : IEt) (d : Fin 32) (a : Fin 32) (b : Fin 32) : Statement (.vmul e d a b) :=
  intro1 rfl rfl (encV_lt _ _ _ _ _ _ (by decide) d.isLt a.isLt b.isLt (by decide) (by have h0 := IEt.code_lt e; omega))
theorem vmulh (e : IEt) (d : Fin 32) (a : Fin 32) (b : Fin 32) : Statement (.vmulh e d a b) :=
  intro1 rfl rfl (encV_lt _ _ _ _ _ _ (by decide) d.isLt a.isLt b.isLt (by decide) (by have h0 := IEt.code_lt e; omega))
theorem vmin (e : IEt) (d : Fin 32) (a : Fin 32) (b : Fin 32) : Statement (.vmin e d a b) :=
  intro1 rfl rfl (encV_lt _ _ _ _ _ _ (by decide) d.isLt a.isLt b.isLt (by decide) (by have h0 := IEt.code_lt e; omega))
theorem vmax (e : IEt) (d : Fin 32) (a : Fin 32) (b : Fin 32) : Statement (.vmax e d a b) :=
  intro1 rfl rfl (encV_lt _ _ _ _ _ _ (by decide) d.isLt a.isLt b.isLt (by decide) (by have h0 := IEt.code_lt e; omega))
theorem vabs (e : IEt) (d : Fin 32) (a : Fin 32) : Statement (.vabs e d a) :=
  intro1 rfl rfl (encV_lt _ _ _ _ _ _ (by decide) d.isLt a.isLt (by decide) (by decide) (by have h0 := IEt.code_lt e; omega))
theorem vneg (e : IEt) (d : Fin 32) (a : Fin 32) : Statement (.vneg e d a) :=
  intro1 rfl rfl (encV_lt _ _ _ _ _ _ (by decide) d.isLt a.isLt (by decide) (by decide) (by have h0 := IEt.code_lt e; omega))
theorem vand (e : IEt) (d : Fin 32) (a : Fin 32) (b : Fin 32) : Statement (.vand e d a b) :=
  intro1 rfl rfl (encV_lt _ _ _ _ _ _ (by decide) d.isLt a.isLt b.isLt (by decide) (by have h0 := IEt.code_lt e; omega))
theorem vor (e : IEt) (d : Fin 32) (a : Fin 32) (b : Fin 32) : Statement (.vor e d a b) :=
  intro1 rfl rfl (encV_lt _ _ _ _ _ _ (by decide) d.isLt a.isLt b.isLt (by decide) (by have h0 := IEt.code_lt e; omega))
theorem vxor (e : IEt) (d : Fin 32) (a : Fin 32) (b : Fin 32) : Statement (.vxor e d a b) :=
  intro1 rfl rfl (encV_lt _ _ _ _ _ _ (by decide) d.isLt a.isLt b.isLt (by decide) (by have h0 := IEt.code_lt e; omega))
theorem vandn (e : IEt) (d : Fin 32) (a : Fin 32) (b : Fin 32) : Statement (.vandn e d a b) :=
  intro1 rfl rfl (encV_lt _ _ _ _ _ _ (by decide) d.isLt a.isLt b.isLt (by decide) (by have h0 := IEt.code_lt e; omega))
theorem vsll (e : IEt) (d : Fin 32) (a : Fin 32) (b : Fin 32) : Statement (.vsll e d a b) :=
  intro1 rfl rfl (encV_lt _ _ _ _ _ _ (by decide) d.isLt a.isLt b.isLt (by decide) (by have h0 := IEt.code_lt e; omega))
theorem vsrl (e : IEt) (d : Fin 32) (a : Fin 32) (b : Fin 32) : Statement (.vsrl e d a b) :=
  intro1 rfl rfl (encV_lt _ _ _ _ _ _ (by decide) d.isLt a.isLt b.isLt (by decide) (by have h0 := IEt.code_lt e; omega))
theorem vsra (e : IEt) (d : Fin 32) (a : Fin 32) (b : Fin 32) : Statement (.vsra e d a b) :=
  intro1 rfl rfl (encV_lt _ _ _ _ _ _ (by decide) d.isLt a.isLt b.isLt (by decide) (by have h0 := IEt.code_lt e; omega))
theorem vaddsat (e : IEt) (d : Fin 32) (a : Fin 32) (b : Fin 32) : Statement (.vaddsat e d a b) :=
  intro1 rfl rfl (encV_lt _ _ _ _ _ _ (by decide) d.isLt a.isLt b.isLt (by decide) (by have h0 := IEt.code_lt e; omega))
theorem vsubsat (e : IEt) (d : Fin 32) (a : Fin 32) (b : Fin 32) : Statement (.vsubsat e d a b) :=
  intro1 rfl rfl (encV_lt _ _ _ _ _ _ (by decide) d.isLt a.isLt b.isLt (by decide) (by have h0 := IEt.code_lt e; omega))
theorem vavg (e : IEt) (d : Fin 32) (a : Fin 32) (b : Fin 32) : Statement (.vavg e d a b) :=
  intro1 rfl rfl (encV_lt _ _ _ _ _ _ (by decide) d.isLt a.isLt b.isLt (by decide) (by have h0 := IEt.code_lt e; omega))
theorem vcmpEq (e : IEt) (d : Fin 32) (a : Fin 32) (b : Fin 32) : Statement (.vcmpEq e d a b) :=
  intro1 rfl rfl (encV_lt _ _ _ _ _ _ (by decide) d.isLt a.isLt b.isLt (by decide) (by have h0 := IEt.code_lt e; omega))
theorem vcmpLt (e : IEt) (d : Fin 32) (a : Fin 32) (b : Fin 32) : Statement (.vcmpLt e d a b) :=
  intro1 rfl rfl (encV_lt _ _ _ _ _ _ (by decide) d.isLt a.isLt b.isLt (by decide) (by have h0 := IEt.code_lt e; omega))
theorem vcmpLe (e : IEt) (d : Fin 32) (a : Fin 32) (b : Fin 32) : Statement (.vcmpLe e d a b) :=
  intro1 rfl rfl (encV_lt _ _ _ _ _ _ (by decide) d.isLt a.isLt b.isLt (by decide) (by have h0 := IEt.code_lt e; omega))
theorem vbsel (e : IEt) (d : Fin 32) (a : Fin 32) (b : Fin 32) : Statement (.vbsel e d a b) :=
  intro1 rfl rfl (encV_lt _ _ _ _ _ _ (by decide) d.isLt a.isLt b.isLt (by decide) (by have h0 := IEt.code_lt e; omega))
theorem vpopc (e : IEt) (d : Fin 32) (a : Fin 32) : Statement (.vpopc e d a) :=
  intro1 rfl rfl (encV_lt _ _ _ _ _ _ (by decide) d.isLt a.isLt (by decide) (by decide) (by have h0 := IEt.code_lt e; omega))
theorem vclz (e : IEt) (d : Fin 32) (a : Fin 32) : Statement (.vclz e d a) :=
  intro1 rfl rfl (encV_lt _ _ _ _ _ _ (by decide) d.isLt a.isLt (by decide) (by decide) (by have h0 := IEt.code_lt e; omega))
theorem vfadd (e : FEt) (d : Fin 32) (a : Fin 32) (b : Fin 32) : Statement (.vfadd e d a b) :=
  intro1 rfl rfl (encV_lt _ _ _ _ _ _ (by decide) d.isLt a.isLt b.isLt (by decide) (by have h0 := FEt.code_lt e; omega))
theorem vfsub (e : FEt) (d : Fin 32) (a : Fin 32) (b : Fin 32) : Statement (.vfsub e d a b) :=
  intro1 rfl rfl (encV_lt _ _ _ _ _ _ (by decide) d.isLt a.isLt b.isLt (by decide) (by have h0 := FEt.code_lt e; omega))
theorem vfmul (e : FEt) (d : Fin 32) (a : Fin 32) (b : Fin 32) : Statement (.vfmul e d a b) :=
  intro1 rfl rfl (encV_lt _ _ _ _ _ _ (by decide) d.isLt a.isLt b.isLt (by decide) (by have h0 := FEt.code_lt e; omega))
theorem vfma (e : FEt) (d : Fin 32) (a : Fin 32) (b : Fin 32) : Statement (.vfma e d a b) :=
  intro1 rfl rfl (encV_lt _ _ _ _ _ _ (by decide) d.isLt a.isLt b.isLt (by decide) (by have h0 := FEt.code_lt e; omega))
theorem vfnma (e : FEt) (d : Fin 32) (a : Fin 32) (b : Fin 32) : Statement (.vfnma e d a b) :=
  intro1 rfl rfl (encV_lt _ _ _ _ _ _ (by decide) d.isLt a.isLt b.isLt (by decide) (by have h0 := FEt.code_lt e; omega))
theorem vfdiv (e : FEt) (d : Fin 32) (a : Fin 32) (b : Fin 32) : Statement (.vfdiv e d a b) :=
  intro1 rfl rfl (encV_lt _ _ _ _ _ _ (by decide) d.isLt a.isLt b.isLt (by decide) (by have h0 := FEt.code_lt e; omega))
theorem vfsqrt (e : FEt) (d : Fin 32) (a : Fin 32) : Statement (.vfsqrt e d a) :=
  intro1 rfl rfl (encV_lt _ _ _ _ _ _ (by decide) d.isLt a.isLt (by decide) (by decide) (by have h0 := FEt.code_lt e; omega))
theorem vfmin (e : FEt) (d : Fin 32) (a : Fin 32) (b : Fin 32) : Statement (.vfmin e d a b) :=
  intro1 rfl rfl (encV_lt _ _ _ _ _ _ (by decide) d.isLt a.isLt b.isLt (by decide) (by have h0 := FEt.code_lt e; omega))
theorem vfmax (e : FEt) (d : Fin 32) (a : Fin 32) (b : Fin 32) : Statement (.vfmax e d a b) :=
  intro1 rfl rfl (encV_lt _ _ _ _ _ _ (by decide) d.isLt a.isLt b.isLt (by decide) (by have h0 := FEt.code_lt e; omega))
theorem vfabs (e : FEt) (d : Fin 32) (a : Fin 32) : Statement (.vfabs e d a) :=
  intro1 rfl rfl (encV_lt _ _ _ _ _ _ (by decide) d.isLt a.isLt (by decide) (by decide) (by have h0 := FEt.code_lt e; omega))
theorem vfneg (e : FEt) (d : Fin 32) (a : Fin 32) : Statement (.vfneg e d a) :=
  intro1 rfl rfl (encV_lt _ _ _ _ _ _ (by decide) d.isLt a.isLt (by decide) (by decide) (by have h0 := FEt.code_lt e; omega))
theorem vfcmpEq (e : FEt) (d : Fin 32) (a : Fin 32) (b : Fin 32) : Statement (.vfcmpEq e d a b) :=
  intro1 rfl rfl (encV_lt _ _ _ _ _ _ (by decide) d.isLt a.isLt b.isLt (by decide) (by have h0 := FEt.code_lt e; omega))
theorem vfcmpLt (e : FEt) (d : Fin 32) (a : Fin 32) (b : Fin 32) : Statement (.vfcmpLt e d a b) :=
  intro1 rfl rfl (encV_lt _ _ _ _ _ _ (by decide) d.isLt a.isLt b.isLt (by decide) (by have h0 := FEt.code_lt e; omega))
theorem vfcmpLe (e : FEt) (d : Fin 32) (a : Fin 32) (b : Fin 32) : Statement (.vfcmpLe e d a b) :=
  intro1 rfl rfl (encV_lt _ _ _ _ _ _ (by decide) d.isLt a.isLt b.isLt (by decide) (by have h0 := FEt.code_lt e; omega))
theorem vfdot (e : FEt) (d : Fin 32) (a : Fin 32) (b : Fin 32) : Statement (.vfdot e d a b) :=
  intro1 rfl rfl (encV_lt _ _ _ _ _ _ (by decide) d.isLt a.isLt b.isLt (by decide) (by have h0 := FEt.code_lt e; omega))
theorem vcvt (dst : LEt) (src : LEt) (d : Fin 32) (a : Fin 32) : Statement (.vcvt dst src d a) :=
  intro1 rfl rfl (encV_lt _ _ _ _ _ _ (by decide) d.isLt a.isLt (by have h0 := LEt.code_lt src; omega) (by decide) (by have h0 := LEt.code_lt dst; omega))
theorem venc (t4 : Bool) (d : Fin 32) (a : Fin 32) : Statement (.venc t4 d a) :=
  intro1 rfl rfl (encV_lt _ _ _ _ _ _ (by decide) d.isLt a.isLt (by decide) (by decide) (by have h0 := Bool.toNat_lt t4; omega))
theorem vdec (t4 : Bool) (d : Fin 32) (a : Fin 32) : Statement (.vdec t4 d a) :=
  intro1 rfl rfl (encV_lt _ _ _ _ _ _ (by decide) d.isLt a.isLt (by have h0 := Bool.toNat_lt t4; omega) (by decide) (by decide))
theorem vcvtSat (dst : LEt) (src : LEt) (d : Fin 32) (a : Fin 32) : Statement (.vcvtSat dst src d a) :=
  intro1 rfl rfl (encV_lt _ _ _ _ _ _ (by decide) d.isLt a.isLt (by have h0 := LEt.code_lt src; omega) (by decide) (by have h0 := LEt.code_lt dst; omega))
theorem vperm (e : LEt) (d : Fin 32) (a : Fin 32) (b : Fin 32) : Statement (.vperm e d a b) :=
  intro1 rfl rfl (encV_lt _ _ _ _ _ _ (by decide) d.isLt a.isLt b.isLt (by decide) (by have h0 := LEt.code_lt e; omega))
theorem vbcast (e : LEt) (d : Fin 32) (a : Fin 32) : Statement (.vbcast e d a) :=
  intro1 rfl rfl (encV_lt _ _ _ _ _ _ (by decide) d.isLt a.isLt (by decide) (by decide) (by have h0 := LEt.code_lt e; omega))
theorem vext (e : LEt) (d : Fin 32) (a : Fin 32) (b : Fin 32) : Statement (.vext e d a b) :=
  intro1 rfl rfl (encV_lt _ _ _ _ _ _ (by decide) d.isLt a.isLt b.isLt (by decide) (by have h0 := LEt.code_lt e; omega))
theorem vins (e : LEt) (d : Fin 32) (a : Fin 32) (b : Fin 32) : Statement (.vins e d a b) :=
  intro1 rfl rfl (encV_lt _ _ _ _ _ _ (by decide) d.isLt a.isLt b.isLt (by decide) (by have h0 := LEt.code_lt e; omega))
theorem vslide (e : LEt) (d : Fin 32) (a : Fin 32) (b : Fin 32) : Statement (.vslide e d a b) :=
  intro1 rfl rfl (encV_lt _ _ _ _ _ _ (by decide) d.isLt a.isLt b.isLt (by decide) (by have h0 := LEt.code_lt e; omega))
theorem vrot (e : LEt) (d : Fin 32) (a : Fin 32) (b : Fin 32) : Statement (.vrot e d a b) :=
  intro1 rfl rfl (encV_lt _ _ _ _ _ _ (by decide) d.isLt a.isLt b.isLt (by decide) (by have h0 := LEt.code_lt e; omega))
theorem vzip (e : LEt) (d : Fin 32) (a : Fin 32) (b : Fin 32) : Statement (.vzip e d a b) :=
  intro1 rfl rfl (encV_lt _ _ _ _ _ _ (by decide) d.isLt a.isLt b.isLt (by decide) (by have h0 := LEt.code_lt e; omega))
theorem vunzip (e : LEt) (d : Fin 32) (a : Fin 32) (b : Fin 32) : Statement (.vunzip e d a b) :=
  intro1 rfl rfl (encV_lt _ _ _ _ _ _ (by decide) d.isLt a.isLt b.isLt (by decide) (by have h0 := LEt.code_lt e; omega))
theorem vredAdd (e : LEt) (d : Fin 32) (a : Fin 32) : Statement (.vredAdd e d a) :=
  intro1 rfl rfl (encV_lt _ _ _ _ _ _ (by decide) d.isLt a.isLt (by decide) (by decide) (by have h0 := LEt.code_lt e; omega))
theorem vredMax (e : LEt) (d : Fin 32) (a : Fin 32) : Statement (.vredMax e d a) :=
  intro1 rfl rfl (encV_lt _ _ _ _ _ _ (by decide) d.isLt a.isLt (by decide) (by decide) (by have h0 := LEt.code_lt e; omega))
theorem vredMin (e : LEt) (d : Fin 32) (a : Fin 32) : Statement (.vredMin e d a) :=
  intro1 rfl rfl (encV_lt _ _ _ _ _ _ (by decide) d.isLt a.isLt (by decide) (by decide) (by have h0 := LEt.code_lt e; omega))
theorem vpack24 (e : FEt) (d : Fin 32) (a : Fin 32) (b : Fin 32) : Statement (.vpack24 e d a b) :=
  intro1 rfl rfl (encV_lt _ _ _ _ _ _ (by decide) d.isLt a.isLt b.isLt (by decide) (by have h0 := FEt.code_lt e; omega))
theorem vunpack24 (e : FEt) (d : Fin 32) (a : Fin 32) (b : Fin 32) : Statement (.vunpack24 e d a b) :=
  intro1 rfl rfl (encV_lt _ _ _ _ _ _ (by decide) d.isLt a.isLt b.isLt (by decide) (by have h0 := FEt.code_lt e; omega))
theorem vcompress (e : LEt) (d : Fin 32) (a : Fin 32) (b : Fin 32) : Statement (.vcompress e d a b) :=
  intro1 rfl rfl (encV_lt _ _ _ _ _ _ (by decide) d.isLt a.isLt b.isLt (by decide) (by have h0 := LEt.code_lt e; omega))
theorem vexpand (e : LEt) (d : Fin 32) (a : Fin 32) (b : Fin 32) : Statement (.vexpand e d a b) :=
  intro1 rfl rfl (encV_lt _ _ _ _ _ _ (by decide) d.isLt a.isLt b.isLt (by decide) (by have h0 := LEt.code_lt e; omega))
theorem vrcp (e : FEt) (d : Fin 32) (a : Fin 32) : Statement (.vrcp e d a) :=
  intro1 rfl rfl (encV_lt _ _ _ _ _ _ (by decide) d.isLt a.isLt (by decide) (by decide) (by have h0 := FEt.code_lt e; omega))
theorem vrsqrt (e : FEt) (d : Fin 32) (a : Fin 32) : Statement (.vrsqrt e d a) :=
  intro1 rfl rfl (encV_lt _ _ _ _ _ _ (by decide) d.isLt a.isLt (by decide) (by decide) (by have h0 := FEt.code_lt e; omega))
theorem vexp2 (e : FEt) (d : Fin 32) (a : Fin 32) : Statement (.vexp2 e d a) :=
  intro1 rfl rfl (encV_lt _ _ _ _ _ _ (by decide) d.isLt a.isLt (by decide) (by decide) (by have h0 := FEt.code_lt e; omega))
theorem vlog2 (e : FEt) (d : Fin 32) (a : Fin 32) : Statement (.vlog2 e d a) :=
  intro1 rfl rfl (encV_lt _ _ _ _ _ _ (by decide) d.isLt a.isLt (by decide) (by decide) (by have h0 := FEt.code_lt e; omega))
theorem mma (p : Pair) (d : Fin 8) (a : Fin 32) (b : Fin 32) (c : Fin 32) : Statement (.mma p d a b c) :=
  intro1 rfl rfl (encX_lt _ _ _ _ _ _ (by decide) (by have h0 := d.isLt; omega) a.isLt b.isLt c.isLt (by have h0 := Pair.code_lt p; omega))
theorem mmas (p : Pair) (d : Fin 8) (a : Fin 32) (b : Fin 32) (c : Fin 32) : Statement (.mmas p d a b c) :=
  intro1 rfl rfl (encX_lt _ _ _ _ _ _ (by decide) (by have h0 := d.isLt; omega) a.isLt b.isLt c.isLt (by have h0 := Pair.code_lt p; omega))
theorem mz (s32 : Bool) (d : Fin 8) : Statement (.mz s32 d) :=
  intro1 rfl rfl (encX_lt _ _ _ _ _ _ (by decide) (by have h0 := d.isLt; omega) (by decide) (by decide) (by have h0 := Bool.toNat_lt s32; omega) (by decide))
theorem mstat (d : Fin 32) (a : Fin 8) : Statement (.mstat d a) :=
  intro1 rfl rfl (encX_lt _ _ _ _ _ _ (by decide) d.isLt (by have h0 := a.isLt; omega) (by decide) (by decide) (by decide))
theorem mcpy (d : Fin 8) (a : Fin 8) : Statement (.mcpy d a) :=
  intro1 rfl rfl (encX_lt _ _ _ _ _ _ (by decide) (by have h0 := d.isLt; omega) (by have h0 := a.isLt; omega) (by decide) (by decide) (by decide))
theorem madd (d : Fin 8) (a : Fin 8) : Statement (.madd d a) :=
  intro1 rfl rfl (encX_lt _ _ _ _ _ _ (by decide) (by have h0 := d.isLt; omega) (by have h0 := a.isLt; omega) (by decide) (by decide) (by decide))
theorem mscale (d : Fin 8) (a : Fin 32) : Statement (.mscale d a) :=
  intro1 rfl rfl (encX_lt _ _ _ _ _ _ (by decide) (by have h0 := d.isLt; omega) a.isLt (by decide) (by decide) (by decide))
theorem mrow (d : Fin 32) (a : Fin 8) (b : Fin 32) : Statement (.mrow d a b) :=
  intro1 rfl rfl (encX_lt _ _ _ _ _ _ (by decide) d.isLt (by have h0 := a.isLt; omega) b.isLt (by decide) (by decide))
theorem mwait (d : Fin 8) : Statement (.mwait d) :=
  intro1 rfl rfl (encX_lt _ _ _ _ _ _ (by decide) (by have h0 := d.isLt; omega) (by decide) (by decide) (by decide) (by decide))
theorem movf (clr : Bool) (d : Fin 32) (a : Fin 8) : Statement (.movf clr d a) :=
  intro1 rfl rfl (encX_lt _ _ _ _ _ _ (by decide) d.isLt (by have h0 := a.isLt; omega) (by decide) (by have h0 := Bool.toNat_lt clr; omega) (by decide))
theorem hxor (d : Fin 8) (a : Fin 8) (b : Fin 8) : Statement (.hxor d a b) :=
  intro1 rfl rfl (encX_lt _ _ _ _ _ _ (by decide) (by have h0 := d.isLt; omega) (by have h0 := a.isLt; omega) (by have h0 := b.isLt; omega) (by decide) (by decide))
theorem hand (d : Fin 8) (a : Fin 8) (b : Fin 8) : Statement (.hand d a b) :=
  intro1 rfl rfl (encX_lt _ _ _ _ _ _ (by decide) (by have h0 := d.isLt; omega) (by have h0 := a.isLt; omega) (by have h0 := b.isLt; omega) (by decide) (by decide))
theorem hor (d : Fin 8) (a : Fin 8) (b : Fin 8) : Statement (.hor d a b) :=
  intro1 rfl rfl (encX_lt _ _ _ _ _ _ (by decide) (by have h0 := d.isLt; omega) (by have h0 := a.isLt; omega) (by have h0 := b.isLt; omega) (by decide) (by decide))
theorem hnot (d : Fin 8) (a : Fin 8) : Statement (.hnot d a) :=
  intro1 rfl rfl (encX_lt _ _ _ _ _ _ (by decide) (by have h0 := d.isLt; omega) (by have h0 := a.isLt; omega) (by decide) (by decide) (by decide))
theorem hrot (d : Fin 8) (a : Fin 8) (b : Fin 32) : Statement (.hrot d a b) :=
  intro1 rfl rfl (encX_lt _ _ _ _ _ _ (by decide) (by have h0 := d.isLt; omega) (by have h0 := a.isLt; omega) b.isLt (by decide) (by decide))
theorem hbund (d : Fin 2) (a : Fin 8) : Statement (.hbund d a) :=
  intro1 rfl rfl (encX_lt _ _ _ _ _ _ (by decide) (by have h0 := d.isLt; omega) (by have h0 := a.isLt; omega) (by decide) (by decide) (by decide))
theorem hbunw (d : Fin 2) (a : Fin 8) (b : Fin 32) : Statement (.hbunw d a b) :=
  intro1 rfl rfl (encX_lt _ _ _ _ _ _ (by decide) (by have h0 := d.isLt; omega) (by have h0 := a.isLt; omega) b.isLt (by decide) (by decide))
theorem hbclr (d : Fin 2) : Statement (.hbclr d) :=
  intro1 rfl rfl (encX_lt _ _ _ _ _ _ (by decide) (by have h0 := d.isLt; omega) (by decide) (by decide) (by decide) (by decide))
theorem hthr (d : Fin 8) (a : Fin 2) (b : Fin 8) : Statement (.hthr d a b) :=
  intro1 rfl rfl (encX_lt _ _ _ _ _ _ (by decide) (by have h0 := d.isLt; omega) (by have h0 := a.isLt; omega) (by have h0 := b.isLt; omega) (by decide) (by decide))
theorem hpopc (d : Fin 32) (a : Fin 8) : Statement (.hpopc d a) :=
  intro1 rfl rfl (encX_lt _ _ _ _ _ _ (by decide) d.isLt (by have h0 := a.isLt; omega) (by decide) (by decide) (by decide))
theorem hdist (d : Fin 32) (a : Fin 8) (b : Fin 8) : Statement (.hdist d a b) :=
  intro1 rfl rfl (encX_lt _ _ _ _ _ _ (by decide) d.isLt (by have h0 := a.isLt; omega) (by have h0 := b.isLt; omega) (by decide) (by decide))
theorem hbcast (d : Fin 8) (a : Fin 32) : Statement (.hbcast d a) :=
  intro1 rfl rfl (encX_lt _ _ _ _ _ _ (by decide) (by have h0 := d.isLt; omega) a.isLt (by decide) (by decide) (by decide))
theorem hins (d : Fin 8) (a : Fin 32) (b : Fin 32) : Statement (.hins d a b) :=
  intro1 rfl rfl (encX_lt _ _ _ _ _ _ (by decide) (by have h0 := d.isLt; omega) a.isLt b.isLt (by decide) (by decide))
theorem hext (d : Fin 32) (a : Fin 8) (b : Fin 32) : Statement (.hext d a b) :=
  intro1 rfl rfl (encX_lt _ _ _ _ _ _ (by decide) d.isLt (by have h0 := a.isLt; omega) b.isLt (by decide) (by decide))
theorem hmov (d : Fin 8) (a : Fin 8) : Statement (.hmov d a) :=
  intro1 rfl rfl (encX_lt _ _ _ _ _ _ (by decide) (by have h0 := d.isLt; omega) (by have h0 := a.isLt; omega) (by decide) (by decide) (by decide))
theorem hmst (a : Fin 8) (b : Fin 32) : Statement (.hmst a b) :=
  intro1 rfl rfl (encX_lt _ _ _ _ _ _ (by decide) (by decide) (by have h0 := a.isLt; omega) b.isLt (by decide) (by decide))
theorem hmld (d : Fin 8) (b : Fin 32) : Statement (.hmld d b) :=
  intro1 rfl rfl (encX_lt _ _ _ _ _ _ (by decide) (by have h0 := d.isLt; omega) (by decide) b.isLt (by decide) (by decide))
theorem hmclr (b : Fin 32) : Statement (.hmclr b) :=
  intro1 rfl rfl (encX_lt _ _ _ _ _ _ (by decide) (by decide) (by decide) b.isLt (by decide) (by decide))
theorem hmclrAll : Statement (.hmclrAll) :=
  intro1 rfl rfl (encX_lt _ _ _ _ _ _ (by decide) (by decide) (by decide) (by decide) (by decide) (by decide))
theorem hrecall (d : Fin 32) (a : Fin 8) (b : Fin 32) : Statement (.hrecall d a b) :=
  intro1 rfl rfl (encX_lt _ _ _ _ _ _ (by decide) d.isLt (by have h0 := a.isLt; omega) b.isLt (by decide) (by decide))
theorem hrecall2 (d : Fin 32) (a : Fin 8) (b : Fin 32) : Statement (.hrecall2 d a b) :=
  intro1 rfl rfl (encX_lt _ _ _ _ _ _ (by decide) d.isLt (by have h0 := a.isLt; omega) b.isLt (by decide) (by decide))
theorem dkEcmd (q : Fin 7) (rs1 : Fin 32) (rs2 : Fin 32) : Statement (.dkEcmd q rs1 rs2) :=
  intro2 rfl rfl (encDk_lt _ _ _ _ _ (by have h0 := q.isLt; omega) rs2.isLt rs1.isLt (by decide) (by decide))
theorem dkQput (c : Fin 4) (p : Fin 4) (rs1 : Fin 32) : Statement (.dkQput c p rs1) :=
  intro2 rfl rfl (encDk_lt _ _ _ _ _ (by have h0 := c.isLt; have h1 := p.isLt; omega) (by decide) rs1.isLt (by decide) (by decide))
theorem dkQget (c : Fin 4) (rd : Fin 32) : Statement (.dkQget c rd) :=
  intro2 rfl rfl (encDk_lt _ _ _ _ _ (by have h0 := c.isLt; omega) (by decide) (by decide) (by decide) rd.isLt)
theorem dkWcnt (n : Fin 7) (rs1 : Fin 32) (rd : Fin 32) : Statement (.dkWcnt n rs1 rd) :=
  intro2 rfl rfl (encDk_lt _ _ _ _ _ (by have h0 := n.isLt; omega) (by decide) rs1.isLt (by decide) rd.isLt)
theorem dkSev : Statement (.dkSev) :=
  intro2 rfl rfl (encDk_lt _ _ _ _ _ (by decide) (by decide) (by decide) (by decide) (by decide))
theorem dkWfe : Statement (.dkWfe) :=
  intro2 rfl rfl (encDk_lt _ _ _ _ _ (by decide) (by decide) (by decide) (by decide) (by decide))
theorem dkWfeWatch (rs1 : Fin 32) : Statement (.dkWfeWatch rs1) :=
  intro2 rfl rfl (encDk_lt _ _ _ _ _ (by decide) (by decide) rs1.isLt (by decide) (by decide))
theorem dkRdst (n : RdSel) (rd : Fin 32) : Statement (.dkRdst n rd) :=
  intro2 rfl rfl (encDk_lt _ _ _ _ _ (by have h0 := RdSel.code_lt n; omega) (by decide) (by decide) (by decide) rd.isLt)
theorem dkWput (rs1 : Fin 32) (rs2 : Fin 32) : Statement (.dkWput rs1 rs2) :=
  intro2 rfl rfl (encDk_lt _ _ _ _ _ (by decide) rs2.isLt rs1.isLt (by decide) (by decide))
theorem ecall : Statement (.ecall) := intro2 rfl rfl (by decide)
theorem ebreak : Statement (.ebreak) := intro2 rfl rfl (by decide)
theorem fillLand (vt : Nat) (c : Nat) (k : Nat) : Statement (.fillLand vt c k) := intro0 rfl rfl
theorem interruptEntry (vt : Nat) (c : Nat) : Statement (.interruptEntry vt c) := intro0 rfl rfl
theorem deferredFault (vt : Nat) (c : Nat) : Statement (.deferredFault vt c) := intro0 rfl rfl
theorem runcapExpiry (vt : Nat) : Statement (.runcapExpiry vt) := intro0 rfl rfl
theorem timerMatch (vt : Nat) (c : Nat) : Statement (.timerMatch vt c) := intro0 rfl rfl
theorem runcapWrite (vt : Nat) (c : Nat) (v : W64) : Statement (.runcapWrite vt c v) := intro0 rfl rfl
theorem membWrite (vt : Nat) (c : Nat) (v : W64) : Statement (.membWrite vt c v) := intro0 rfl rfl
theorem tableLoadT8 (vt : Nat) (toff : BitVec 21) : Statement (.tableLoadT8 vt toff) := intro0 rfl rfl
theorem tableLoadT4 (vt : Nat) (toff : BitVec 21) : Statement (.tableLoadT4 vt toff) := intro0 rfl rfl
theorem engineFaultDrop (vt : Nat) (r : Nat) : Statement (.engineFaultDrop vt r) := intro0 rfl rfl
theorem windowStoreArrival (k : Nat) : Statement (.windowStoreArrival k) := intro0 rfl rfl
theorem windowLoadArrival (vt : Nat) (c : Nat) (k : Nat) : Statement (.windowLoadArrival vt c k) := intro0 rfl rfl
theorem portEntryArrival (k : Nat) : Statement (.portEntryArrival k) := intro0 rfl rfl
theorem streamWindowWrite (k : Nat) : Statement (.streamWindowWrite k) := intro0 rfl rfl
theorem parkedMessage (k : Nat) : Statement (.parkedMessage k) := intro0 rfl rfl
theorem spliceInsert (vt : Nat) (k : Nat) : Statement (.spliceInsert vt k) := intro0 rfl rfl
theorem recordRetry (vt : Nat) (k : Nat) : Statement (.recordRetry vt k) := intro0 rfl rfl
theorem spliceRefill (vt : Nat) : Statement (.spliceRefill vt) := intro0 rfl rfl
theorem spliceDispatch (vt : Nat) : Statement (.spliceDispatch vt) := intro0 rfl rfl
theorem barrierCompletion (lv : Level) (id : Nat) (remote : W64) : Statement (.barrierCompletion lv id remote) :=
  intro0 rfl rfl
theorem barrierTimeout (lv : Level) (id : Nat) : Statement (.barrierTimeout lv id) := intro0 rfl rfl
theorem wireBarrierCompletion (lv : WLevel) (id : Nat) : Statement (.wireBarrierCompletion lv id) := intro0 rfl rfl
theorem arrayPass (vt : Nat) : Statement (.arrayPass vt) := intro0 rfl rfl
theorem wbldLanded (vt : Nat) (slot : Nat) : Statement (.wbldLanded vt slot) := intro0 rfl rfl
theorem engineCommandEnqueue (vt : Nat) (r : Nat) (q : Nat) : Statement (.engineCommandEnqueue vt r q) := intro0 rfl rfl
theorem copyUnit (vt : Nat) (q : Nat) : Statement (.copyUnit vt q) := intro0 rfl rfl
theorem copy2d (vt : Nat) (q : Nat) : Statement (.copy2d vt q) := intro0 rfl rfl
theorem gather (vt : Nat) (q : Nat) : Statement (.gather vt q) := intro0 rfl rfl
theorem scatter (vt : Nat) (q : Nat) : Statement (.scatter vt q) := intro0 rfl rfl
theorem joinCmd (vt : Nat) (q : Nat) : Statement (.joinCmd vt q) := intro0 rfl rfl
theorem allred (vt : Nat) : Statement (.allred vt) := intro0 rfl rfl
theorem bcast (vt : Nat) : Statement (.bcast vt) := intro0 rfl rfl
theorem mcastSt (vt : Nat) : Statement (.mcastSt vt) := intro0 rfl rfl
theorem redSt (vt : Nat) : Statement (.redSt vt) := intro0 rfl rfl
theorem signal (vt : Nat) (q : Nat) : Statement (.signal vt q) := intro0 rfl rfl
theorem engineCompletion (vt : Nat) (q : Nat) : Statement (.engineCompletion vt q) := intro0 rfl rfl
theorem collectiveGeneration (lv : Level) (id : Nat) : Statement (.collectiveGeneration lv id) := intro0 rfl rfl
theorem collectiveTimeout (lv : Level) (id : Nat) : Statement (.collectiveTimeout lv id) := intro0 rfl rfl
theorem pageRequestReply (v : Nat) (grant : Bool) (tag : BitVec 16) : Statement (.pageRequestReply v grant tag) :=
  intro0 rfl rfl
theorem quantumExpiry (gr : Nat) (gc : Nat) : Statement (.quantumExpiry gr gc) := intro0 rfl rfl
theorem graceExpiry (gr : Nat) (gc : Nat) : Statement (.graceExpiry gr gc) := intro0 rfl rfl
theorem haltComplete (gr : Nat) (gc : Nat) : Statement (.haltComplete gr gc) := intro0 rfl rfl
theorem swapOut (gr : Nat) (gc : Nat) : Statement (.swapOut gr gc) := intro0 rfl rfl
theorem swapIn (gr : Nat) (gc : Nat) : Statement (.swapIn gr gc) := intro0 rfl rfl
theorem debugHalt (vt : Nat) (r : Nat) : Statement (.debugHalt vt r) := intro0 rfl rfl
theorem debugResume (vt : Nat) (r : Nat) : Statement (.debugResume vt r) := intro0 rfl rfl
theorem debugStep (vt : Nat) (r : Nat) : Statement (.debugStep vt r) := intro0 rfl rfl
theorem debugRoleWrite (vt : Nat) (r : Nat) (w : RoleWrite) : Statement (.debugRoleWrite vt r w) := intro0 rfl rfl
theorem scrubPass (g : Granule) (raced : Bool) : Statement (.scrubPass g raced) := intro0 rfl rfl
theorem lashIntervalEnd (vt : Nat) : Statement (.lashIntervalEnd vt) := intro0 rfl rfl
theorem lashExchange (vt : Nat) (agree : Bool) : Statement (.lashExchange vt agree) := intro0 rfl rfl
theorem belayRollback : Statement (.belayRollback) := intro0 rfl rfl
theorem lashcfgWrite (vt : Nat) : Statement (.lashcfgWrite vt) := intro0 rfl rfl
theorem belaycfgWrite (vt : Nat) : Statement (.belaycfgWrite vt) := intro0 rfl rfl
theorem cpLockstepMismatch : Statement (.cpLockstepMismatch) := intro0 rfl rfl
theorem replayRelease (vt : Nat) : Statement (.replayRelease vt) := intro0 rfl rfl
theorem notifyWrite (v : Nat) (q : Nat) : Statement (.notifyWrite v q) := intro0 rfl rfl
theorem slotMapping (k : Nat) : Statement (.slotMapping k) := intro0 rfl rfl
theorem pinExpiry (k : Nat) : Statement (.pinExpiry k) := intro0 rfl rfl
theorem slotRotation (k : Nat) : Statement (.slotRotation k) := intro0 rfl rfl
theorem launchDispatch (k : Nat) : Statement (.launchDispatch k) := intro0 rfl rfl
theorem launchGroupCommit (gid : Nat) (remote : Bool) : Statement (.launchGroupCommit gid remote) := intro0 rfl rfl
theorem launchGroupTimeout (gid : Nat) : Statement (.launchGroupTimeout gid) := intro0 rfl rfl
theorem gridCompletion : Statement (.gridCompletion) := intro0 rfl rfl
theorem completionRecordRelease (v : Nat) : Statement (.completionRecordRelease v) := intro0 rfl rfl
theorem fenceCounterWrite (v : Nat) (k : Nat) (x : W64) : Statement (.fenceCounterWrite v k x) := intro0 rfl rfl
theorem inval2 (v : Nat) : Statement (.inval2 v) := intro0 rfl rfl
theorem inval2Complete (v : Nat) : Statement (.inval2Complete v) := intro0 rfl rfl
theorem scopectlWrite (v : Nat) (x : W64) : Statement (.scopectlWrite v x) := intro0 rfl rfl
theorem energyWindow (v : Nat) (p : Nat) : Statement (.energyWindow v p) := intro0 rfl rfl
theorem partitionCreate (v : Nat) : Statement (.partitionCreate v) := intro0 rfl rfl
theorem partitionReady (v : Nat) : Statement (.partitionReady v) := intro0 rfl rfl
theorem partitionTeardown (v : Nat) : Statement (.partitionTeardown v) := intro0 rfl rfl
theorem partitionScrubDone (v : Nat) : Statement (.partitionScrubDone v) := intro0 rfl rfl
theorem attestationRequest (v : Nat) (nonce : BitVec 512) (buf : W64) : Statement (.attestationRequest v nonce buf) :=
  intro0 rfl rfl
theorem attestationReport (v : Nat) : Statement (.attestationReport v) := intro0 rfl rfl
theorem meterPeriod : Statement (.meterPeriod) := intro0 rfl rfl
theorem usageRecordRelease : Statement (.usageRecordRelease) := intro0 rfl rfl
theorem linkstatWrite : Statement (.linkstatWrite) := intro0 rfl rfl
theorem registerWrite (p : HostPage) (off : Nat) (x : W64) : Statement (.registerWrite p off x) := intro0 rfl rfl
theorem linkBeat (l : Nat) (ok : Bool) : Statement (.linkBeat l ok) := intro0 rfl rfl
theorem linkDown (l : Nat) : Statement (.linkDown l) := intro0 rfl rfl
theorem migrationStart (v : Nat) : Statement (.migrationStart v) := intro0 rfl rfl
theorem pagePull (v : Nat) : Statement (.pagePull v) := intro0 rfl rfl
theorem backgroundPull (v : Nat) : Statement (.backgroundPull v) := intro0 rfl rfl
theorem poolpagesWrite (v : Nat) (n : W64) : Statement (.poolpagesWrite v n) := intro0 rfl rfl
theorem bringup (b : BringUp) : Statement (.bringup b) := intro0 rfl rfl
theorem dirtyClusterScrub (k : Nat) : Statement (.dirtyClusterScrub k) := intro0 rfl rfl
theorem thermalWarning : Statement (.thermalWarning) := intro0 rfl rfl
theorem thermalCritical : Statement (.thermalCritical) := intro0 rfl rfl
theorem rv64imInstruction (w : BitVec 32) : Statement (.rv64imInstruction w) := intro2 rfl rfl w.isLt
theorem helperEngineInterrupt (vt : Nat) (r : Nat) : Statement (.helperEngineInterrupt vt r) := intro0 rfl rfl
theorem cxlMemAccess (v : Nat) (gpa : Nat) (n : Nat) (data : Option (List (BitVec 8))) : Statement (.cxlMemAccess v gpa n data) :=
  intro0 rfl rfl
theorem prqheadWrite (v : Nat) (x : W64) : Statement (.prqheadWrite v x) := intro0 rfl rfl
theorem firmwareRestartComplete : Statement (.firmwareRestartComplete) := intro0 rfl rfl
theorem thermalWarningCleared : Statement (.thermalWarningCleared) := intro0 rfl rfl
theorem powerLoss : Statement (.powerLoss) := intro0 rfl rfl

end EncodeFits

end Sys2Proof.Laws
end

