-- ==== Sys2Proof/Laws/Words.lean ====
section
/-! SUPPORT. What each shared frame of a register word comes to when its operands can be read and its destination can be
written: one lemma per frame. -/

namespace Sys2Proof.Laws

open Sys2Proof Sys2Proof.Machine Sys2Proof.Safety

variable {s : State} {d a b : Fin 32} {x y z : W64}

theorem binary_of (h : Two s a b x y) (hd : Writable s d) (wa wb : Bool) (f : W64 → W64 → W64) :
    binary s d a b wa wb f = wrote s [a, b] d (f x y) true := by
  obtain ⟨hs, ha, hb⟩ := h
  unfold binary
  rw [← curOf_nil, srcX_of hs ha, List.nil_append, srcX_of hs hb, commit_curOf, putResult_of hd, finish_pop_done]
  rfl

theorem unary_of (h : One s a x) (hd : Writable s d) (wa : Bool) (f : W64 → W64) :
    unary s d a wa f = wrote s [a] d (f x) true := by
  obtain ⟨hs, ha⟩ := h
  unfold unary
  rw [← curOf_nil, srcX_of hs ha, commit_curOf, putResult_of hd, finish_pop_done]
  rfl

theorem alu_of (h : Two s a b x y) (hd : Writable s d) (sz : Sz32) (wa wb : Bool) (f : Nat → Nat → Nat → Nat) :
    alu s sz d a b wa wb f = wrote s [a, b] d
      (sext64 (Machine.Sz32.width sz) (f (Machine.Sz32.width sz) (x.toNat % 2 ^ Machine.Sz32.width sz)
        (y.toNat % 2 ^ Machine.Sz32.width sz))) true := by
  unfold alu
  exact binary_of h hd wa wb _

theorem putTruth_of (hd : Writable s d) (t : Bool) : putTruth s d t = .done (writeX s d (if t then 1 else 0) t) :=
  putResult_of hd _ _

theorem cmp_of (h : Two s a b x y) (hd : Writable s d) (sz : Sz32) (wa wb : Bool) (p : Nat → Nat → Nat → Bool) :
    Machine.cmp s sz d a b wa wb p =
      let t := p (Machine.Sz32.width sz) (x.toNat % 2 ^ Machine.Sz32.width sz) (y.toNat % 2 ^ Machine.Sz32.width sz)
      wrote s [a, b] d (if t then 1 else 0) t := by
  obtain ⟨hs, ha, hb⟩ := h
  unfold Machine.cmp
  show finish s (srcX s a fldA wa {} fun x k => srcX s b fldB wb k fun y k => commit s k (putTruth s d _)) = _
  rw [← curOf_nil, srcX_of hs ha, List.nil_append, srcX_of hs hb, commit_curOf, putTruth_of hd, finish_pop_done]
  rfl

theorem cmpi_of (h : One s a x) (hd : Writable s d) (wa : Bool) (imm : BitVec 11) (p : W64 → W64 → Bool) :
    cmpi s d a wa imm p = let t := p x (imm.signExtend 64); wrote s [a] d (if t then 1 else 0) t := by
  obtain ⟨hs, ha⟩ := h
  unfold cmpi
  rw [← curOf_nil, srcX_of hs ha, commit_curOf, putTruth_of hd, finish_pop_done]
  rfl

theorem bitUnary_of (h : One s a x) (hd : Writable s d) (sz : Sz32) (wa : Bool) (f : Nat → Nat → Nat) :
    bitUnary s sz d a wa f = wrote s [a] d
      (sext64 (Machine.Sz32.width sz) (f (Machine.Sz32.width sz) (x.toNat % 2 ^ Machine.Sz32.width sz))) true := by
  unfold bitUnary
  exact unary_of h hd wa _

theorem valUnary_of {v : Bool} (hs : Sound s) (ha : scalar s [] a = some (x, v)) (hd : Writable s d) (wa : Bool)
    (f : W64 → Bool → W64 × Bool) : valUnary s d a wa f = wrote s [a] d (f x v).1 (f x v).2 := by
  unfold valUnary
  rw [← curOf_nil, examX_of hs ha, accept_curOf, putResult_of hd, finish_pop_done]
  rfl

theorem valBinary_of {v u : Bool} (hs : Sound s) (ha : scalar s [] a = some (x, v)) (hb : scalar s [a] b = some (y, u))
    (hd : Writable s d) (wa wb : Bool) (f : W64 → Bool → W64 → Bool → W64 × Bool) :
    valBinary s d a b wa wb f = wrote s [a, b] d (f x v y u).1 (f x v y u).2 := by
  unfold valBinary
  rw [← curOf_nil, examX_of hs ha, List.nil_append, examX_of hs hb, accept_curOf, putResult_of hd, finish_pop_done]
  rfl

theorem putFlagged_of (hd : Writable s d) (m : Nat) (r : W64) (v : Bool) :
    putFlagged s d m r v = .done (writeX (accrue s m) d r v) := dstX_of hd _

theorem fpBinary_of (h : Two s a b x y) (hd : Writable s d) (f : FEt) (wa wb : Bool) (op : Fmt → Rm → Nat → Nat → FRes) :
    fpBinary s f d a b wa wb op =
      let r := op (fmtOf f) s.c.status.rm (fpBits f x) (fpBits f y)
      wroteFlags s [a, b] d r.2 (.ofNat 64 r.1) true := by
  obtain ⟨hs, ha, hb⟩ := h
  unfold fpBinary putF
  rw [← curOf_nil, srcX_of hs ha, List.nil_append, srcX_of hs hb, commit_curOf, putFlagged_of hd, finish_pop_done]
  rfl

theorem fpUnary_of (h : One s a x) (hd : Writable s d) (wa : Bool) (op : Rm → W64 → FRes) :
    fpUnary s d a wa op =
      let r := op s.c.status.rm x
      wroteFlags s [a] d r.2 (.ofNat 64 r.1) true := by
  obtain ⟨hs, ha⟩ := h
  unfold fpUnary putF
  rw [← curOf_nil, srcX_of hs ha, commit_curOf, putFlagged_of hd, finish_pop_done]
  rfl

theorem fpTernary_of (h : Three s a b d x y z) (hd : Writable s d) (f : FEt) (wa wb : Bool)
    (op : Fmt → Rm → Nat → Nat → Nat → FRes) :
    fpTernary s f d a b wa wb op =
      let r := op (fmtOf f) s.c.status.rm (fpBits f x) (fpBits f y) (fpBits f z)
      wroteFlags s [a, b, d] d r.2 (.ofNat 64 r.1) true := by
  obtain ⟨⟨hs, ha, hb⟩, hz⟩ := h
  unfold fpTernary putF
  rw [← curOf_nil, srcX_of hs ha, List.nil_append, srcX_of hs hb, List.cons_append, List.nil_append, srcX_of hs hz,
    commit_curOf, putFlagged_of hd, finish_pop_done]
  rfl

theorem fcmpWord_of (h : Two s a b x y) (hd : Writable s d) (f : FEt) (wa wb : Bool) (op : FCmp) :
    fcmpWord s f d a b wa wb op =
      let r := Machine.fcmp (fmtOf f) op (x.toNat % 2 ^ (fmtOf f).width) (y.toNat % 2 ^ (fmtOf f).width)
      wroteFlags s [a, b] d r.2 (if r.1 then 1 else 0) r.1 := by
  obtain ⟨hs, ha, hb⟩ := h
  unfold fcmpWord
  rw [← curOf_nil, srcX_of hs ha, List.nil_append, srcX_of hs hb]
  simp only [commit_curOf]
  rw [putFlagged_of hd, finish_pop_done]
  rfl

end Sys2Proof.Laws
end

