-- ==== Sys2Proof/Tests/Slice0.lean ====
section
/-! SUPPORT. Tests of the model: words that WellFormed refuses, words that the decoder reads, single steps with values worked out
from the spec by hand, and for each statement states that meet its hypotheses. -/

namespace Sys2Proof.Tests

open Sys2Proof Sys2Proof.Machine Sys2Proof.Safety Sys2Proof.Says

set_option maxRecDepth 20000

set_option Elab.async false

/-! ## States -/

/-- One tile whose context 0 is to issue, with nothing in its registers. -/
def one : State := running State.reset

def inC (s : State) (f : Ctx → Ctx) : State := { s with c := f s.c }

def inT (s : State) (f : Tile → Tile) : State := { s with t := f s.t }

def inG (s : State) (f : Grid → Grid) : State := { s with g := f s.g }

def inM (s : State) (f : Module → Module) : State := { s with m := f s.m }

def regs (s : State) (l : List (Fin 32 × W64)) : State :=
  inC s fun c => { c with x := l.foldl (fun x p => x.set p.1 ⟨p.2, .full, true⟩) c.x }

/-- Register `r` is not full, or not valid. -/
def tagged (s : State) (r : Fin 32) (t : Tag) : State := inC s fun c => { c with x := c.x.set r ⟨9, t, false⟩ }

def vecs (s : State) (l : List (Fin 32 × W512 × BitVec 8)) : State :=
  inC s fun c => { c with v := l.foldl (fun v p => v.set p.1 ⟨p.2.1, .full, p.2.2⟩) c.v }

def hvs (s : State) (l : List (Fin 8 × W8192)) : State :=
  inC s fun c => { c with h := l.foldl (fun h p => h.set p.1 ⟨p.2, .full⟩) c.h }

def smode (s : State) : State := inC s fun c => { c with status := { c.status with mode := true } }

/-- Two tiles in a row, the western one in focus: its eastern direction has a neighbour. -/
def two : State := { one with g := { one.g with w := 2 }, tiles := [{ one.t with vt := 1, others := one.c :: one.t.others }] }

/-- Small and large values, the ends of the own scratchpad, and some vectors and hypervectors. -/
def base : State :=
  hvs (vecs (regs one [(1, 7), (2, 0x8000000000000000), (3, 0xFFFFFFFFFFFFFFFF), (4, 0xFF00000000000000), (5, 0xFF000000001FFFF8),
    (6, 0xFF000000001FFFC0), (8, 0x108), (10, 3), (11, 4), (26, 5), (27, 6)])
    [(1, 0x0102030405060708, 0xFF), (2, 0x7F800000, 0x81), (3, 1 <<< 511, 0), (27, 0, 0xFF)]) [(1, 1 <<< 8191), (7, 5)]

/-- The first 64 KiB of the virtual addresses are mapped for reading and writing, to the page at 0x20000. -/
def mapped : State := inT base fun t => { t with dtlb := [{ vf := 0, asid := 0, g := false, base := 0, size := 65536, pa := 0x20000
                                                            r := true, w := true, x := false, u := true, d := true, key := 0 }] }

/-- The context holds tile register `d`. -/
def treg (s : State) (d : Fin 8) (t : TReg) : State := inC s fun c => { c with t := c.t.set d t }

def mesh (s : State) (l : List Msg) : State := inG s fun g => { g with mesh := l }

/-- Class 3 is declared, with two payload words. -/
def declared (s : State) : State :=
  inG s fun g => { g with classes := g.classes.set 3 { decl := true, handler := 0x9000, scale := 0, prio := true, op := 1, et := 7, words := 2 } }

/-! ## States that meet the hypotheses of the statements -/

theorem witness_CompareWordsWriteTruth : Two base 1 2 7 0x8000000000000000 ∧ Safety.One base 3 0xFFFFFFFFFFFFFFFF ∧ Writable base 0 ∧ Writable base 27 := by
  unfold Two Safety.One Sound Writable; decide +kernel

theorem witness_BitWordsWriteTheirResult : Two base 1 2 7 0x8000000000000000 ∧ Three base 2 1 3 0x8000000000000000 7 0xFFFFFFFFFFFFFFFF ∧ Safety.One base 3 0xFFFFFFFFFFFFFFFF ∧
    Writable base 3 ∧ Writable base 27 := by
  unfold Three Two Safety.One Sound Writable; decide +kernel

/-- A valid source and one that is not. -/
theorem witness_ValidityWordsActOnTags : Sound (tagged base 9 .full) ∧ scalar (tagged base 9 .full) [] 9 = some (9, false) ∧
    scalar (tagged base 9 .full) [9] 2 = some (0x8000000000000000, true) ∧ scalar base [] 1 = some (7, true) ∧ Writable (tagged base 9 .full) 9 := by
  unfold Sound Writable; decide +kernel

theorem witness_FloatWordsWriteTheirResult : Two base 1 2 7 0x8000000000000000 ∧ Three base 2 1 3 0x8000000000000000 7 0xFFFFFFFFFFFFFFFF ∧ Safety.One base 3 0xFFFFFFFFFFFFFFFF ∧
    Writable base 0 ∧ Writable base 3 := by
  unfold Three Two Safety.One Sound Writable; decide +kernel

theorem witness_IntegerWordsWriteTheirResult : Two base 1 1 7 7 ∧ Safety.One base 0 0 ∧ Writable base 0 ∧ Writable base 27 := by
  unfold Two Safety.One Sound Writable; decide +kernel

/-- Both operands and the destination at a port. -/
theorem witness_IntegerWordsWriteTheirResult_port :
    let s := inC two fun c => { c with inq := c.inq.set (dirOf 29) [.word 5 true, .word 6 true] }
    Two s 29 29 5 6 ∧ Writable s 29 := by
  unfold Two Sound Writable; decide +kernel

theorem witness_InvalidSourceNullifies : Sound (tagged base 9 .full) ∧ scalar (tagged base 9 .full) [] 9 = some (9, false) ∧
    scalar (tagged base 9 .full) [9] 1 = some (7, true) ∧ scalar (tagged base 9 .full) [1] 9 = some (9, false) := by
  unfold Sound; decide +kernel

/-- One of the sources is invalid, the first, the last, one of five, or both ends of a payload. -/
theorem witness_InvalidSourceNullifies_spoilt :
    let s := tagged base 9 .full
    Spoilt s [9] ∧ Spoilt s [9, 1] ∧ Spoilt s [1, 9] ∧ Spoilt s [1, 2, 9] ∧ Spoilt s [1, 8, 9, 10, 11] ∧ Spoilt (smode s) [9] ∧ Spoilt (smode s) [1, 9] ∧
      (smode s).c.status.mode = true ∧ (s.c.bar 2).arr = .none ∧ csrListed 0x030 = true ∧ csrS 0x000 = false := by
  unfold Spoilt Sound; decide +kernel

theorem witness_InvalidSourceNullifies_mixed :
    let s := tagged base 9 .full
    let u := regs (declared s) [(10, 0x3000000)]
    vector s [9] 1 = some (0x0102030405060708, 0xFF) ∧ vector s [9, 2] 27 = some (0, 0xFF) ∧ vector s [] 1 = some (0x0102030405060708, 0xFF) ∧
      scalar s [1] 9 = some (9, false) ∧ vector s [1, 9] 27 = some (0, 0xFF) ∧ vector s [1, 9] 2 = some (0x7F800000, 0x81) ∧
      hyper s 7 = some 5 ∧ (u.g.cls ((0x3000000 : W64).toNat / 2 ^ 24 % 16)).words = 2 ∧ scalar u [11] 10 = some (0x3000000, true) ∧
      Spoilt u ([11, 10] ++ [8, 9]) ∧ scalar u [1, 11] 10 = some (0x3000000, true) ∧ Spoilt u ([1, 11, 10] ++ [9]) := by
  unfold Spoilt Sound; decide +kernel

/-- Registers that are empty, await a fill, or hold nothing at a port; directions with and without a neighbour, and one that is full. -/
theorem witness_OperandsAreWaitedForInOrder : Says.Empty (tagged base 1 .cleared) 1 ∧ Says.Empty (tagged base 27 .awaiting) 27 ∧ Sound base ∧ scalar base [] 1 = some (7, true) ∧
    Says.Empty (tagged base 27 .cleared) 27 ∧ neighbour one.g one.t.vt one.c.portcfg (dirOf 28) = none ∧
    neighbour two.g two.t.vt two.c.portcfg (dirOf 29) = some 1 ∧ two.c.inq[dirOf 29] = [] ∧
    Two base 1 2 7 0x8000000000000000 ∧ Two (tagged base 27 .awaiting) 1 2 7 0x8000000000000000 ∧ (tagged base 27 .awaiting).c.x[(27 : Fin 32)].tag = .awaiting := by
  unfold Two Sound Says.Empty; decide +kernel

theorem witness_OperandsAreWaitedForInOrder_ports :
    let s := inC two fun c => { c with inq := c.inq.set (dirOf 29) [.vec 5 1] }
    let u := mesh (regs two [(1, 7), (2, 8)]) (List.replicate 16 { src := 0, c := 0, dst := 1, body := .port 0 (opposite (dirOf 29)) (.word 0 true) })
    neighbour s.g s.t.vt s.c.portcfg (dirOf 29) = some 1 ∧ s.c.inq[dirOf 29] = .vec 5 1 :: [] ∧ Two u 1 2 7 8 ∧
      neighbour u.g u.t.vt u.c.portcfg (dirOf 29) = some 1 ∧ u.credit 1 u.c.id (opposite (dirOf 29)) anyWord = false := by
  unfold Two Sound; decide +kernel

/-- An entry whose carry code failed, beside a valid source and an invalid one. -/
theorem witness_OperandsAreWaitedForInOrder_carry :
    let s := tagged (regs (inC two fun c => { c with inq := c.inq.set (dirOf 29) [.bad false] }) [(1, 7)]) 9 .full
    Sound s ∧ s.c.inq[dirOf 29] = .bad false :: [] ∧ scalar s [29] 1 = some (7, true) ∧ scalar s [29] 9 = some (9, false) ∧ s.repeatable = false ∧
      Writable s 0 ∧ Writable s 27 := by
  unfold Sound Writable; decide +kernel

theorem witness_ResultsGoToOneRegisterOrPort : one.t.lash.role = 0 ∧ one.g.rr = 0 ∧ two.t.lash.role = 0 ∧ neighbour two.g two.t.vt two.c.portcfg (dirOf 29) = some 1 ∧
    28 ≤ (29 : Fin 32).val := by
  decide +kernel

theorem witness_RetirementMovesOn : one.c.inPair = false ∧ one.c.pos = .unit ∧ (inC one fun c => { c with inPair := true }).c.inPair = true := by
  decide +kernel

theorem witness_BranchesGoToTheirTarget : Writable base 27 ∧ Writable base 0 ∧ Sound base ∧ scalar base [] 1 = some (7, true) ∧ Sound (tagged base 9 .full) ∧
    scalar (tagged base 9 .full) [] 9 = some (9, false) ∧ Safety.One base 1 7 ∧ Safety.One base 0 0 ∧ Safety.One base 4 0xFF00000000000000 := by
  unfold Safety.One Sound Writable; decide +kernel

theorem witness_SretRestores : (smode one).c.status.mode = true ∧ (smode one).c.status.half = false ∧
    (inC (smode one) fun c => { c with status := { c.status with half := true } }).c.status.half = true := by
  decide +kernel

/-- Every register of the table may be read and written in S mode. -/
theorem witness_CsrWordsReadAndWrite_lashed : (0x081 : BitVec 12) ≠ 0x000 ∧ (inT (smode base) fun t => { t with lash := { t.lash with role := 1 } }).t.lash.role = 1 ∧
    Accessible (inT (smode base) fun t => { t with lash := { t.lash with role := 1 } }) 0x081 ∧ (smode base).t.lash.role ≠ 1 := by
  unfold Accessible; decide +kernel

theorem witness_CsrWordsReadAndWrite : (plainCsrs.all fun p => csrListed p.1.toNat) = true ∧ Accessible base 0x000 ∧ Accessible (smode base) 0x101 ∧ (smode base).c.status.mode = true ∧ Safety.One (smode base) 3 0xFFFFFFFFFFFFFFFF ∧
    Writable (smode base) 27 := by
  unfold Safety.One Sound Writable Accessible; decide +kernel

theorem witness_StatusWritesKeepMode : Safety.One base 3 0xFFFFFFFFFFFFFFFF ∧ Writable base 27 ∧ base.c.status.mode = false ∧ Safety.One (smode base) 0 0 ∧ Writable (smode base) 0 ∧
    (smode base).c.status.mode = true := by
  unfold Safety.One Sound Writable; decide +kernel

/-- A load of both tables, with a user of one left or none; offsets whose table ends at the end of the scratchpad and beyond it; a write that loads none. -/
theorem witness_StatusWritesKeepMode_tables :
    let busy := inT (smode base) fun t => { t with arrq := [{ c := 0, d := 0, p := .t8t8, sp := false, aAddr := 0, pitch := 0, rows := none
                                                              slot := 0, need := 0, wb := none, scale := 0, unit := true }] }
    let off (k : Nat) : W64 := .ofNat 64 (k * 2 ^ 34)
    base.c.accs = [] ∧ base.msgsOf base.t.vt base.c.id = [] ∧ base.c.posted = [] ∧ base.t.bad = [] ∧ base.t.soft = [] ∧
      busy.t.tableBusy true true = true ∧ (smode base).t.tableBusy true true = false ∧
      ((0x3000 : W64).getLsbD 13 || (0x3000 : W64).getLsbD 12) = true ∧ ((7 : W64).getLsbD 13 || (7 : W64).getLsbD 12) = false ∧
      ((off 0x7FF00).extractLsb' 34 19).toNat * 4 + 1024 = 0x200000 ∧ ((off 0x7FFF0).extractLsb' 34 19).toNat * 4 + 64 = 0x200000 ∧
      0x200000 < ((off 0x7FFFF).extractLsb' 34 19).toNat * 4 + 64 := by
  decide +kernel

theorem witness_ModeIsChecked : one.c.status.mode = false ∧ csrListed 0xFFF = false ∧ csrListed 0x001 = true ∧ csrS 0x001 = true := by
  decide +kernel

theorem witness_SystemCallsTrapAndEndEnds : Safety.One base 1 7 ∧ groupIdx base = [] ∧ base.c.posted = [] ∧ one.c.dbg.brkHalt = false ∧ (inC one fun c => { c with dbg := { c.dbg with brkHalt := true } }).c.dbg.brkHalt = true := by
  unfold Safety.One Sound; decide +kernel

/-- Loads of a mapped page: at the start of a line, and of the last register. -/
theorem witness_OtherLoadsAwaitTheirFill : Safety.One mapped 8 0x108 ∧ Writable mapped 27 ∧ Writable mapped 0 ∧ Writable mapped 1 ∧ WritableV mapped 27 ∧
    WritableH mapped 7 ∧ InScope mapped .dom ∧ isOwn 0x108 = false ∧ Safety.One (regs mapped [(8, 0x100)]) 8 0x100 ∧
    Starts mapped 0x108 8 8 .load .load mapped [⟨.glob 0x20108, 8, 0⟩] ∧ Starts mapped 0x108 1 1 .load .load mapped [⟨.glob 0x20108, 1, 0⟩] ∧
    Starts mapped 0x100 16 16 .load .load mapped [⟨.glob 0x20100, 16, 0⟩] ∧ Starts mapped 0x100 64 64 .load .load mapped [⟨.glob 0x20100, 64, 0⟩] ∧
    Starts mapped 0x100 1024 64 .load .load mapped [⟨.glob 0x20100, 1024, 0⟩] :=
  ⟨by unfold Safety.One Sound; decide +kernel, by unfold Writable; decide +kernel, by unfold Writable; decide +kernel, by unfold Writable; decide +kernel,
    by unfold WritableV; decide +kernel, by unfold WritableH; decide +kernel, by unfold InScope; decide +kernel, by decide +kernel,
    by unfold Safety.One Sound; decide +kernel, ⟨rfl, by decide +kernel⟩, ⟨rfl, by decide +kernel⟩, ⟨rfl, by decide +kernel⟩, ⟨rfl, by decide +kernel⟩,
    ⟨rfl, by decide +kernel⟩⟩

/-- The first and the last bytes of the own scratchpad. -/
theorem witness_OnCoreLoadsComplete : Safety.One base 4 0xFF00000000000000 ∧ Safety.One base 5 0xFF000000001FFFF8 ∧ Safety.One base 6 0xFF000000001FFFC0 ∧ Writable base 27 ∧
    Writable base 26 ∧ WritableV base 27 ∧ Quiet base ∧ Own 0xFF00000000000000 1 ∧ Own 0xFF000000001FFFF8 8 ∧ Own 0xFF000000001FFFC0 64 ∧ InScope base .sys ∧
    vector base [4] 1 = some (0x0102030405060708, 0xFF) := by
  unfold Safety.One Sound Writable WritableV Quiet NothingBefore Own InScope; decide +kernel

theorem witness_OnCoreLoadsComplete_touch : checkAddr base 0xFF000000001FFFFF 1 1 .load .load = .ok base [⟨.tile 0 0x1FFFFF, 1, 0⟩] := rfl

theorem witness_OwnStoresWriteTheBytes : Two base 4 1 0xFF00000000000000 7 ∧ Two base 5 2 0xFF000000001FFFF8 0x8000000000000000 ∧ Two base 4 26 0xFF00000000000000 5 ∧
    scalar base [4, 26] 27 = some (6, true) ∧ Quiet base ∧ InScope base .gang ∧ vector base [6] 2 = some (0x7F800000, 0x81) ∧ vector base [4] 1 = some (0x0102030405060708, 0xFF) ∧
    vector base [4, 1] 2 = some (0x7F800000, 0x81) ∧ Safety.One base 6 0xFF000000001FFFC0 ∧ hyper base 7 = some 5 ∧ Own 0xFF000000001FFFC0 64 ∧ Own 0xFF00000000000000 1024 := by
  unfold Two Safety.One Sound Quiet NothingBefore Own InScope; decide +kernel

/-- A store to global memory, and one to the neighbouring tile. -/
theorem witness_OffCoreStoresAreSent : Two mapped 8 1 0x108 7 ∧ checkAddr mapped 0x108 8 8 .store (.store false) = .ok mapped [⟨.glob 0x20108, 8, 0⟩] ∧
    mapped.c.accs = [] ∧ mapped.c.posted = [] ∧ isOwn 0x108 = false ∧ mapped.g.belay = 0 ∧ mapped.t.lash.role = 0 ∧
    Two (regs two [(8, 0xFF20000001BFFFF8), (1, 7)]) 8 1 0xFF20000001BFFFF8 7 ∧
    checkAddr (regs two [(8, 0xFF20000001BFFFF8), (1, 7)]) 0xFF20000001000000 8 8 .store (.store false) =
      .ok (regs two [(8, 0xFF20000001BFFFF8), (1, 7)]) [⟨.tile 1 0, 8, 0⟩] ∧ parkRoom two.g 1 (.store 0 [7]) = true :=
  ⟨by unfold Two Sound; decide +kernel, rfl, by decide +kernel, by decide +kernel, by decide +kernel, by decide +kernel, by decide +kernel, by unfold Two Sound; decide +kernel, rfl,
    by decide +kernel⟩

/-- Both ends of the windows, a hole of the map, and an access that leaves a window. -/
theorem witness_AddressesAreChecked : (0xFF00000000000004 : W64).toNat % 8 ≠ 0 ∧ Own 0xFF00000000000000 8 ∧ Own 0xFF000000001FFFF8 8 ∧
    regionOf 0xFF00000000200000 = .bad ∧ regionOf (0xFF000000001FFFF8 + 16 - 1) ≠ regionOf 0xFF000000001FFFF8 ∧ regionOf 0xFF20000002000000 = .tile ∧
    regionOf (0xFF20000002000000 + 8 - 1) = .tile ∧ two.g.has (0xFF20000002000000 / 2 ^ 24 % 2 ^ 24) = false := by
  unfold Own; decide +kernel

theorem witness_AtomicWordsCommit : Two mapped 8 1 0x108 7 ∧ Three mapped 8 1 2 0x108 7 0x8000000000000000 ∧ Two (regs mapped [(8, 0x100)]) 8 10 0x100 3 ∧
    scalar (regs mapped [(8, 0x100)]) [8, 10] 11 = some (4, true) ∧ scalar (regs mapped [(8, 0x100)]) [8, 10, 11] 26 = some (5, true) ∧
    scalar (regs mapped [(8, 0x100)]) [8, 10, 11, 26] 27 = some (6, true) ∧ Writable mapped 27 ∧ Writable mapped 2 ∧ Writable mapped 0 ∧
    Atomic mapped mapped 0x108 8 .amo .acqRel .sys [⟨.glob 0x20108, 8, 0⟩] ∧ Atomic mapped mapped 0x108 4 .amo .rlx .sys [⟨.glob 0x20108, 4, 0⟩] ∧
    Atomic mapped mapped 0x108 8 .cas .acq .grid [⟨.glob 0x20108, 8, 0⟩] ∧ Atomic mapped mapped 0x100 16 .cas .rel .gang [⟨.glob 0x20100, 16, 0⟩] :=
  ⟨by unfold Two Sound; decide +kernel, by unfold Three Two Sound; decide +kernel, by unfold Two Sound; decide +kernel, by decide +kernel, by decide +kernel, by decide +kernel,
    by unfold Writable; decide +kernel, by unfold Writable; decide +kernel, by unfold Writable; decide +kernel,
    ⟨by decide +kernel, by decide +kernel, ⟨rfl, by decide +kernel⟩, by unfold InScope; decide +kernel, by unfold NothingBefore; decide +kernel⟩,
    ⟨by decide +kernel, by decide +kernel, ⟨rfl, by decide +kernel⟩, by unfold InScope; decide +kernel, by unfold NothingBefore; decide +kernel⟩,
    ⟨by decide +kernel, by decide +kernel, ⟨rfl, by decide +kernel⟩, by unfold InScope; decide +kernel, by unfold NothingBefore; decide +kernel⟩,
    ⟨by decide +kernel, by decide +kernel, ⟨rfl, by decide +kernel⟩, by unfold InScope; decide +kernel, by unfold NothingBefore; decide +kernel⟩⟩

/-- An AMO of the last dword of a page, and a CAS. -/
theorem witness_AtomicsReadAndWriteMemory :
    let a : Access := { kind := .amo 3 .maxn 9 true, va := 0xFFF8, size := 8, pieces := [⟨.glob 0x2FFF8, 8, 0⟩] }
    let b : Access := { kind := .casD 3 0 9, va := 0x100, size := 8, pieces := [⟨.glob 0x20100, 8, 0⟩] }
    mapped.tile? 0 = some mapped.t ∧ mapped.t.belay.held = [] ∧ mapped.t.lash.gated = [] ∧ mapped.g.belay = 0 ∧ mapped.m.badRange 0x2FFF8 8 = false ∧
      mapped.m.badRange 0x20100 8 = false ∧ mapped.m.codeBad 0x2FFF8 8 = false ∧ mapped.m.codeBad 0x20100 8 = false ∧ mapped.m.softMem = [] ∧ a.data = none ∧ a.fault = none ∧ b.data = none ∧ b.fault = none ∧ b.ok = true :=
  ⟨rfl, by decide +kernel⟩

theorem witness_TagWordsReadAndWriteMasks : Writable base 27 ∧ Safety.One base 3 0xFFFFFFFFFFFFFFFF ∧ Safety.One (tagged base 9 .awaiting) 1 7 ∧
    (tagged base 9 .awaiting).c.x[(9 : Fin 32)].tag = .awaiting ∧ (7 : W64).getLsbD 9 = false ∧ Sound (tagged base 9 .full) ∧
    scalar (tagged base 9 .full) [] 9 = some (9, false) := by
  unfold Safety.One Sound Writable; decide +kernel

theorem witness_OrderingAndEventWords : InScope base .sys ∧ Quiet base ∧ (smode base).c.status.mode = true ∧ Quiet (smode base) ∧ Safety.One (smode base) 1 7 ∧
    Two (smode base) 8 1 0x108 7 ∧ Safety.One base 5 0xFF000000001FFFF8 ∧ isOwn 0xFF000000001FFFF8 = true ∧ isOwn 7 = false ∧
    (inC base fun c => { c with watch := some 2 }).c.watch = some 2 ∧ HoldsNone base ∧ HoldsNone (smode base) ∧
    (∀ x ∈ base.allCtxs, ∀ a ∈ x.2.accs, a.page = none) ∧ isOwn 0xFF00000000000000 = true ∧ Safety.One base 1 7 := by
  unfold Two Safety.One Sound HoldsNone Quiet NothingBefore InScope; decide +kernel

/-- A context that may arrive at every level of its own grid, and one whose arrivals are over. -/
theorem witness_BarrierWordsArriveAndPass : MayArrive base 0 .sync ∧ MayArrive base 1 .voteAnd ∧ MayArrive base 2 .voteOr ∧ MayArrive base 4 .sync ∧ MayArrive base 5 .sync := by
  unfold MayArrive; decide +kernel

theorem witness_BarrierWordsArriveAndPass_over : (∀ i < 7, (base.c.bar i).arr = .none) ∧ Safety.One base 1 7 ∧ Writable base 27 ∧ ownDelivered base base.t base.c.id base.g.sendNext = true ∧ ownDelivered base base.t base.c.id 0 = true ∧
    ((inC base fun c => { c with bars := c.bars.set 1 ⟨3, .done 7, 0, false⟩ }).c.bar 1).arr = .done 7 ∧
    ((inC base fun c => { c with bars := c.bars.set 6 ⟨3, .done 7, 0, false⟩ }).c.bar 6).arr = .done 7 ∧
    ((inC base fun c => { c with bars := c.bars.set 5 ⟨3, .waiting, 0, false⟩ }).c.bar 5).arr = .waiting := by
  unfold Safety.One Sound Writable; decide +kernel

theorem witness_VectorIntegerWordsActLaneByLane : Sound base ∧ vector base [] 1 = some (0x0102030405060708, 0xFF) ∧ vector base [1] 2 = some (0x7F800000, 0x81) ∧
    vector base [1, 2] 27 = some (0, 0xFF) ∧ vector base [] 3 = some ((1 : W512) <<< 511, 0) ∧ WritableV base 27 := by
  unfold Sound WritableV; decide +kernel

theorem witness_VectorIntegerWordsActLaneByLane_port :
    let s := inC two fun c => { c with inq := c.inq.set (dirOf 29) [.vec 5 0x7F, .vec 6 0xFF] }
    vector s [] 29 = some (5, 0x7F) ∧ vector s [29] 29 = some (6, 0xFF) ∧ WritableV s 29 := by
  unfold WritableV; decide +kernel

theorem witness_VectorFloatWordsActLaneByLane : Sound base ∧ vector base [] 1 = some (0x0102030405060708, 0xFF) ∧ vector base [1] 2 = some (0x7F800000, 0x81) ∧
    vector base [1, 2] 27 = some (0, 0xFF) ∧ WritableV base 27 ∧ FEt.f32 ≠ .f64 := by
  unfold Sound WritableV; decide +kernel

theorem witness_ConversionsActOnWholeRegisters : Sound base ∧ vector base [] 1 = some (0x0102030405060708, 0xFF) ∧ vector base [] 2 = some (0x7F800000, 0x81) ∧
    WritableV base 1 ∧ (0x81 : BitVec 8) ≠ 0xFF := by
  unfold Sound WritableV; decide +kernel

theorem witness_ReductionsAndPacking : Sound base ∧ vector base [] 1 = some (0x0102030405060708, 0xFF) ∧ vector base [] 3 = some ((1 : W512) <<< 511, 0) ∧ Writable base 27 ∧
    WritableV base 27 ∧ scalar base [1] 3 = some (0xFFFFFFFFFFFFFFFF, true) := by
  unfold Sound Writable WritableV; decide +kernel

theorem witness_LaneMovesAct : Sound base ∧ vector base [] 1 = some (0x0102030405060708, 0xFF) ∧ vector base [1] 27 = some (0, 0xFF) ∧ vector base [1] 2 = some (0x7F800000, 0x81) ∧
    (0xFF &&& 0x81 : BitVec 8) ≠ 0xFF ∧ scalar base [1] 3 = some (0xFFFFFFFFFFFFFFFF, true) ∧ vector base [1, 3] 27 = some (0, 0xFF) ∧ Safety.One base 2 0x8000000000000000 ∧
    Two base 1 3 7 0xFFFFFFFFFFFFFFFF ∧ Writable base 27 ∧ WritableV base 27 := by
  unfold Two Safety.One Sound Writable WritableV; decide +kernel

theorem witness_HypervectorWordsWriteTheirResult : Sound base ∧ hyper base 1 = some (1 <<< 8191) ∧ hyper base 7 = some 5 ∧ WritableH base 0 ∧ WritableH base 7 ∧
    Safety.One base 3 0xFFFFFFFFFFFFFFFF ∧ Two base 1 3 7 0xFFFFFFFFFFFFFFFF ∧ Writable base 27 := by
  unfold Two Safety.One Sound Writable WritableH; decide +kernel

/-- A weight at its limit and one above it; a recall memory with no valid entry, and one with two at the same distance. -/
theorem witness_BundleAndRecallWords : Sound base ∧ hyper base 1 = some (1 <<< 8191) ∧ Safety.One (regs base [(1, 127)]) 1 127 ∧ Safety.One (regs base [(1, 128)]) 1 128 ∧
    Safety.One base 3 0xFFFFFFFFFFFFFFFF ∧ WritableH base 7 ∧ Writable base 27 ∧ base.t.bad = [] ∧ (∀ e ∈ List.range 256, (entry base e).valid = false) := by
  unfold Safety.One Sound Writable WritableH; decide +kernel

theorem witness_MatrixControlWords : Settled base 7 ∧ Settled base 0 ∧ Writable base 27 ∧ Sound base ∧ Safety.One base 3 0xFFFFFFFFFFFFFFFF ∧ WritableV base 27 := by
  unfold Safety.One Sound Writable WritableV Settled; decide +kernel

theorem witness_MatrixControlWords_kinds :
    let s := treg (treg base 7 { valid := true, s32 := true }) 0 { valid := true, s32 := false, ovf := 0xFFFF }
    Settled s 7 ∧ Settled s 0 ∧ s.c.t[(7 : Fin 8)].valid = true ∧ s.c.t[(0 : Fin 8)].valid = true ∧ s.c.t[(7 : Fin 8)].s32 ≠ s.c.t[(0 : Fin 8)].s32 := by
  unfold Settled; decide +kernel

/-- Rows of A at the start of the scratchpad; a full queue; a tile register of the other kind; an address that is not aligned. -/
theorem witness_MatrixMultiplyWordsCommit :
    let full := inT base fun t => { t with arrq := List.replicate 8 { c := 0, d := 0, p := .s8s8, sp := false, aAddr := 0, pitch := 0, rows := none
                                                                      slot := 0, need := 0, wb := none, scale := 0, unit := true } }
    let other := treg base 7 { valid := true, s32 := true }
    Two base 4 3 0xFF00000000000000 0xFFFFFFFFFFFFFFFF ∧ scalar base [4, 3] 1 = some (7, true) ∧ base.c.t[(7 : Fin 8)].valid = false ∧
      base.t.arrq.length < 8 ∧ Quiet base ∧ RowsOwn 0xFF00000000000000 (base.c.pitch.toNat * 16) 32 64 ∧ (0xFF00000000000000 : W64).toNat % 16 = 0 ∧
      8 ≤ full.t.arrq.length ∧ other.c.t[(7 : Fin 8)].valid = true ∧ other.c.t[(7 : Fin 8)].s32 ≠ Pair.bf16bf16.isInt ∧
      Two base 5 3 0xFF000000001FFFF8 0xFFFFFFFFFFFFFFFF ∧ (0xFF000000001FFFF8 : W64).toNat % 16 ≠ 0 := by
  unfold Two Sound Quiet NothingBefore RowsOwn Own; decide +kernel

/-- Rows that end with the scratchpad, a pitch of 128, and a slot number above 127. -/
theorem witness_MatrixMemoryWords : Two (regs base [(1, 0xFF000000001FF000)]) 1 0 0xFF000000001FF000 0 ∧ Quiet base ∧ Settled base 7 ∧ RowsOwn 0xFF000000001FF000 128 32 128 ∧
    Two base 3 4 0xFFFFFFFFFFFFFFFF 0xFF00000000000000 ∧ Own 0xFF00000000000000 2304 ∧ Two base 1 3 7 0xFFFFFFFFFFFFFFFF := by
  unfold Two Sound Quiet NothingBefore RowsOwn Own Settled; decide +kernel

theorem witness_MatrixMemoryWords_global : Two (regs mapped [(8, 0x100)]) 8 1 0x100 7 ∧ isOwn 0x100 = false ∧
    Starts mapped 0x100 2304 64 .load .load mapped [⟨.glob 0x20100, 2304, 0⟩] :=
  ⟨by unfold Two Sound; decide +kernel, by decide +kernel, ⟨rfl, by decide +kernel⟩⟩

/-- A control word that asks for scale, bias, the overflow count and its clearing, with f32 results. -/
theorem witness_FusedEpilogueStoresItsRows :
    let s := regs base [(1, 0x1E90), (6, 0xFF00000000008000)]
    let m := (mepiCtl 0x1E90).getD ⟨0, false, false, false, false, 0, 0⟩
    Two s 4 6 0xFF00000000000000 0xFF00000000008000 ∧ scalar s [4, 6] 1 = some (0x1E90, true) ∧ Quiet s ∧ Settled s 7 ∧ (mepiCtl 0x1E90).isSome = true ∧
      encodeFault s.t m.et = none ∧ m.ovfw = true ∧ RowsOwn 0xFF00000000000000 (if m.dpitch = 0 then m.width * 4 else m.dpitch) 32 (m.width * 4) ∧
      (∀ q ∈ m.parts, Own (0xFF00000000008000 + .ofNat 64 q.1) q.2) ∧ Own (0xFF00000000000000 + .ofNat 64 (32 * (if m.dpitch = 0 then m.width * 4 else m.dpitch))) 4 := by
  unfold Two Sound Quiet NothingBefore Settled RowsOwn Own; decide +kernel

/-- An operation that needs no slot write, and a slot write that has landed, in slot 127. -/
theorem witness_ArrayAndSlotsMoveOn :
    let o : ArrOp := { c := 0, d := 7, p := .s8s8, sp := false, aAddr := 0xFF00000000000000, pitch := 64, rows := none
                       slot := 127, need := 0, wb := none, scale := 0, unit := true }
    let s := inT base fun t => { t with arrq := [o] }
    let u := inT base fun t => { t with slots := t.slots.set 127 { t.slots[127] with issued := 1, pend := [{ clear := true }] } }
    s.tile? 0 = some s.t ∧ s.t.arrq = o :: [] ∧ s.g.still 0 = false ∧ o.need ≤ (s.t.slots.toList.getD 127 {}).applied ∧ s.t.bad = [] ∧
      u.tile? 0 = some u.t ∧ (u.t.slots.toList.getD 127 {}).pend.length = 1 ∧ u.g.still 0 = false :=
  ⟨rfl, by decide +kernel, by decide +kernel, by decide +kernel, by decide +kernel, rfl, by decide +kernel⟩

/-- Eight units in port 0, none in port 3; a first and a last beat for the last engine queue, and a queue that is full. -/
theorem witness_StreamWordsMoveUnits :
    let s := inC base fun c => { c with qin := c.qin.set 0 (List.replicate 8 5) }
    units s 0 = 5 :: List.replicate 7 5 ∧ units s 3 = [] ∧ 8 ≤ (units s 0).length ∧ (units s 3).length < 8 ∧ Writable s 27 ∧ WritableV s 27 ∧
      Safety.One s 1 7 ∧ Sound s ∧ vector s [] 2 = some (0x7F800000, 0x81) ∧ Two s 2 1 0x8000000000000000 7 ∧
      s.t.asmOf s.c.id 0 = none ∧ (0x8000000000000000 : W64).getLsbD 49 = false := by
  unfold Writable WritableV Safety.One Two Sound; decide +kernel

theorem witness_StreamWordsMoveUnits_beats :
    let s := regs base [(1, 0x5100000000000000), (2, 0x5200000000000000)]
    Two s 1 3 0x5100000000000000 0xFFFFFFFFFFFFFFFF ∧ s.t.lastBeat s.c.id 6 0x5200000000000000 = none ∧
      s.t.lastBeat s.c.id 6 0x5100000000000000 = some 1 ∧ 1 ≤ s.t.freeSlots 6 ∧ Quiet s ∧
      (inT s fun t => { t with eq := t.eq.set 6 { cmds := List.replicate 16 { beats := [(0, 0)], agent := 0, seq := 0 } } }).t.freeSlots 6 < 1 := by
  unfold Two Sound Quiet NothingBefore; decide +kernel

theorem witness_RecordWordsSendAndTake :
    let s := regs (declared mapped) [(8, 5), (9, 6), (12, 0x108), (13, 77), (14, 0x3000000), (15, 0x2000000)]
    Two s 13 14 77 0x3000000 ∧ Routed s 0x3000000 3 0 ∧ Payload s 8 (s.g.cls 3).words [5, 6] ∧ niCount s.t < 8 ∧
      Two s 13 15 77 0x2000000 ∧ (s.g.cls 2).decl = false ∧ Payload s 8 (s.g.cls 2).words [] := by
  unfold Two Sound Routed Payload; decide +kernel

theorem witness_RecordWordsSendAndTake_more :
    let s := regs (declared mapped) [(8, 5), (9, 6), (12, 0x108), (13, 77), (14, 0x3000000), (15, 0x2000000)]
    Two s 12 13 0x108 77 ∧ scalar s [12, 13] 14 = some (0x3000000, true) ∧ (s.g.cls 3).words ≠ 0 ∧ Payload s 9 ((s.g.cls 3).words - 1) [6] ∧
      RecordReady s ∧ s.c.recv = none ∧ (inC s fun c => { c with recv := some (3, 77, [5, 6], 0) }).c.recv = some (3, 77, [5, 6], 0) := by
  unfold Two Sound Payload RecordReady; decide +kernel

theorem witness_RecordWordsSendAndTake_ldk : Starts mapped 0x108 8 8 .load .load mapped [⟨.glob 0x20108, 8, 0⟩] ∧ niCount mapped.t < 8 :=
  ⟨⟨rfl, by decide +kernel⟩, by decide +kernel⟩

/-- A helper core with `x5` = the first address of the own scratchpad, `x6` = the first of its data store, `x7` a route. -/
def helping (s : State) : State :=
  { s with t := { s.t with str := { s.t.str with started := true, x := ((s.t.str.x.set 5 0xFF00000000000000).set 6 0xFFF1000000000000).set 7 0x3000000 } }
           storer := true }

theorem witness_HelperWordsActOnTheTile :
    let s := helping (declared base)
    (s.ctx? s.t.vt 3).isSome = true ∧ ((s.ctx? 0 0).getD {}).qin[(3 : Fin 4)] = [] ∧ ((s.ctx? 0 0).getD {}).qout = [] ∧
      ((inC s fun c => { c with qout := [5] }).c.qout = 5 :: []) ∧ isOwn (s.helper.get 5) = true ∧ s.t.lastBeat s.hrole 6 0x5200000000000000 = none ∧
      s.t.lastBeat s.hrole 6 0x5100000000000000 = some 1 ∧ 1 ≤ s.t.freeSlots 6 ∧ s.storesOf s.t.vt s.hrole = [] ∧
      Routed s (s.helper.get 7) 3 0 ∧ niCount s.t < 8 ∧ s.t.bad = [] ∧ (s.helper.get 6).toNat % 8 = 0 ∧ (s.helper.get 6).toNat + 24 ≤ 0xFFF1000000004000 ∧
      s.helper.mmode = false ∧ s.helper.x[(17 : Fin 32)] = 0 := by
  unfold Routed; decide +kernel

/-- The first dword of the data store, and the last. -/
theorem witness_HelperBaseInstructions :
    let s := helping base
    s.t.bad = [] ∧ s.helper.get 6 + (0 : BitVec 12).signExtend 64 = 0xFFF1000000000000 ∧
      (0xFFF1000000000000 + 0x3FF8 : W64).toNat % 8 = 0 ∧ (0xFFF1000000000000 + 0x3FF8 : W64).toNat < 0xFFF1000000004000 ∧ s.helper.dbg.brkHalt = false := by
  decide +kernel

/-- The last of the loads that are outstanding. -/
def waiting (s : State) (a : Access) : State := inC (tagged s 27 .awaiting) fun c => { c with accs := [a] }

/-- A load of 8 bytes that has come, one that has failed, one of a register that a window write has taken, and a record's load. -/
theorem witness_FillsLand :
    let p : List Piece := [⟨.glob 0x20108, 8, 0⟩]
    let a : Access := { kind := .load 27 true, va := 0x108, size := 8, pieces := p, data := some [1, 2, 3, 4, 5, 6, 7, 8] }
    let b : Access := { kind := .load 27 true, va := 0x108, size := 8, pieces := p, fault := some ⟨.poison, 5, 0⟩ }
    let d : Access := { a with kind := .ldk 5 }
    Landing (waiting base a) 0 0 0 a ∧ Landing (waiting base b) 0 0 0 b ∧ Landing (waiting two { a with cancelled := [27] }) 0 0 0 { a with cancelled := [27] } ∧
      Landing (waiting base d) 0 0 0 d :=
  ⟨⟨by decide +kernel, by decide +kernel, rfl, by decide +kernel⟩, ⟨by decide +kernel, by decide +kernel, rfl, by decide +kernel⟩,
    ⟨by decide +kernel, by decide +kernel, rfl, by decide +kernel⟩, ⟨by decide +kernel, by decide +kernel, rfl, by decide +kernel⟩⟩

/-- A context with a deferred fault, and one with its timer and its software interrupt pending and enabled. -/
theorem witness_CoreEventsHappen_entry :
    let s := inC one fun c => { c with dfaults := [⟨.poison, 5, 6⟩] }
    let t := inC one fun c => { c with ie := 31, tmatch := 0, ipSoft := true }
    (s.tile? 0).isSome = true ∧ nextTurn s s.t = some 0 ∧ (atTurn s 0 0).c.inHandler = false ∧ (atTurn s 0 0).c.dbg.halted = false ∧
      (atTurn s 0 0).c.atBoundary = true ∧ (atTurn s 0 0).c.released (atTurn s 0 0) (atTurn s 0 0).t = false ∧ (atTurn s 0 0).c.run = .ready ∧
      (atTurn s 0 0).c.dfaults = ⟨.poison, 5, 6⟩ :: [] ∧
      nextTurn t t.t = some 0 ∧ (atTurn t 0 0).c.dfaults = [] ∧ (atTurn t 0 0).heldBack 0 = false ∧ (atTurn t 0 0).c.status.mode = false ∧
      (irqOrder.find? fun p => ((atTurn t 0 0).c.ip (atTurn t 0 0).time &&& (atTurn t 0 0).c.ie).getLsbD p.1) = some (1, .timer) ∧ t.g.rr ≠ 1 := by
  decide +kernel

/-- A turn at its limit, a timer at its match, an idle table, a fault record, and both cores' configuration. -/
theorem witness_CoreEventsHappen_registers :
    let s := inC one fun c => { c with runcap := 5, turn := 5, tmatch := 0, frecs := [⟨1, 0, 4, 1, 0, 0, 0⟩] }
    s.tile? 0 = some s.t ∧ s.ctx? 0 s.t.cur = some s.c ∧ s.t.switch = false ∧ s.c.runcap.toNat ≤ s.c.turn ∧ s.c.atBoundary = true ∧
      (readyIds s s.t).any (· != s.c.id) = true ∧ s.c.tmatch.toNat ≤ s.time ∧ s.t.tableBusy true false = false ∧ s.t.tableBusy false true = false ∧
      s.t.bad = [] ∧ (0x1FFC00 : BitVec 21).toNat % 4 = 0 ∧ (0x1FFC00 : BitVec 21).toNat + 1024 ≤ 0x200000 ∧ (0x1FFFC0 : BitVec 21).toNat + 64 ≤ 0x200000 ∧
      s.c.frecs = ⟨1, 0, 4, 1, 0, 0, 0⟩ :: [] :=
  ⟨rfl, rfl, by decide +kernel⟩

/-- A port entry, the last bytes of a scratchpad, units that fill their stream, and a load of the neighbour's scratchpad. -/
theorem witness_MessagesArrive :
    let m : Msg := { src := 0, c := 1, dst := 1, body := .port 1 3 (.word 5 true) }
    let n : Msg := { m with body := .store 0x1FFFF8 [1, 2, 3, 4, 5, 6, 7, 8] }
    let u : Msg := { m with body := .stream 2 3 [5, 6] }
    (takeMsg (mesh two [m]) 0).map (·.1) = some m ∧ (takeMsg (mesh two [n]) 0).map (·.1) = some n ∧ (takeMsg (mesh two [u]) 0).map (·.1) = some u ∧
      Open (mesh two [m]) 1 ∧ (before (mesh two [m]) m) = [] ∧ (before (mesh two [n]) n) = [] ∧ (before (mesh two [u]) u) = [] ∧
      ((takeMsg (mesh two [m]) 0).bind fun p => released p.2 m).isSome = true ∧ winBusy (mesh two [n]) 1 0x1FFFF8 8 = false ∧
      (((mesh two [u]).ctx? 1 2).map fun x => (x.stream 3).length) = some 0 ∧ (((mesh two [m]).ctx? 1 1).map fun x => x.inq[(3 : Fin 4)]) = some [] := by
  unfold Open; decide +kernel

theorem witness_MessagesArrive_load :
    let a : Access := { kind := .load 27 false, va := 0xFF20000001000040, size := 8, pieces := [⟨.tile 1 0x40, 8, 0⟩] }
    let s := waiting two a
    s.tile? 0 = some s.t ∧ s.ctx? 0 0 = some s.c ∧ s.c.accs[0]? = some a ∧ s.t.lash.role = 0 ∧ s.g.still 0 = false ∧ a.pieces.any (pieceAbsent s) = false ∧
      lashInbound s 0 a.pieces = none :=
  ⟨rfl, rfl, rfl, by decide +kernel⟩

/-- The gang of both tiles is absent: a store and a record for it are parked. -/
def absent : State := inG two fun g => { g with gangs := [{ gr := 0, gc := 0, resident := false }] }

theorem witness_MessagesArrive_parked :
    let m : Msg := { src := 0, c := 1, dst := 1, body := .store 0x100 [1, 2, 3, 4, 5, 6, 7, 8] }
    let n : NiRec := { id := 5, c := 0, dst := 1, r := ⟨3, 1, [0, 7]⟩, loaded := true }
    let s := inT absent fun t => { t with ni := [n] }
    (mesh absent [m]).g.mesh[0]? = some m ∧ absent.g.parks 1 = true ∧ parkOrder (mesh absent [m]) m = false ∧
      s.g.mesh.length ≤ 0 ∧ (niHeads s)[0]? = some (0, n) ∧ s.tile? 0 = some s.t ∧ niFirst s.t n = true ∧ parkOrder s (n.msg 0) = false ∧
      parkRoom s.g 1 (.record n.r) = true ∧ (released s (n.msg 0)).isSome = true ∧ (released s m).isSome = true ∧ two.t.sp.wf = true :=
  ⟨rfl, by decide +kernel, by decide +kernel, by decide +kernel, rfl, rfl, by decide +kernel⟩

/-- An entry that a record hits, a set with room, one that is full with and without room in the spill ring, and an order of dispatch. -/
theorem witness_RecordsAreHandled :
    let g := (declared one).g
    let r : Rec := ⟨3, 77, [5, 6]⟩
    let e : SEntry := { cls := 3, key := 77, lanes := [1, 2], folds := 1, ovf := false, spilled := false, seq := 4 }
    let full : List SEntry := (List.range 2048).map fun i => { e with key := .ofNat 64 i, seq := i }
    findNth (fun e => e.cls == r.cls && e.key == r.key) [e] 0 = some (0, e) ∧ (g.cls 3).op ≠ 0 ∧
      findNth (fun e => e.cls == r.cls && e.key == r.key) [{ e with key := 1 }] 0 = none ∧
      4 ≤ ((full.filter (·.key != 77)).filter fun e => e.set == spliceSet 3 77).length ∧ one.t.spill.length < 1 ∧
      chosen g [e, { e with seq := 2 }] = some { e with seq := 2 } := by
  decide +kernel

/-- A record at the head of the interface, accepted or refused; one in a message; a spilled one; a context that waits for a record. -/
theorem witness_RecordsAreHandled_moves :
    let n : NiRec := { id := 5, c := 0, dst := 1, r := ⟨3, 1, [0, 7]⟩, loaded := true }
    let s := inT (declared two) fun t => { t with ni := [n] }
    let m : Msg := { src := 0, c := 8, dst := 1, body := .record ⟨3, 1, [0, 7]⟩ }
    let e : SEntry := { cls := 3, key := 77, lanes := [1, 2], folds := 1, ovf := false, spilled := false, seq := 4 }
    let w := inC (inT (declared two) fun t => { t with sq := [e], recWait := [1, 0], spill := [⟨3, 1, [0, 7], false, false⟩] }) fun c => { c with run := .blocked .record }
    s.t.ni[0]? = some n ∧ niFirst s.t n = true ∧ s.g.parks 1 = false ∧ s.heldBack 1 = false ∧ before s (n.msg 0) = [] ∧
      (released s (n.msg 0)).isSome = true ∧ ((s.tile? 1).bind fun u => u.accept s.g n.r false).isSome = true ∧
      ((s.tile? 1).bind fun u => { u with sq := List.replicate 2048 { e with key := 1 } }.accept { s.g with spillCap := 0, classes := s.g.classes.set 3 { s.g.classes[3] with op := 0 } } n.r false) = none ∧
      (takeMsg (mesh (declared two) [m]) 0).map (·.1) = some m ∧ before (mesh (declared two) [m]) m = [] ∧
      ({ w.t with spill := [] }.insert (w.g.cls 3) ⟨3, 1, [0, 7], false, false⟩ true true).isSome = true ∧ w.t.sq.length < 512 ∧ w.g.still 0 = false ∧
      w.g.stopped 0 = false ∧ w.heldBack 0 = false ∧ chosen w.g w.t.sq = some e ∧
      (w.t.recWait.find? fun i => match w.ctx? 0 i with | some c => c.awaitsRecord | none => false) = some 0 := by
  decide +kernel

/-- Every context has arrived; half of them have, and the deadline has passed. -/
def arrived (s : State) (n : Nat) : State :=
  inG s fun g => { g with bars := g.bars.map fun b => { b with kind := some .voteAdd, arrivals := (List.range n).map fun c => { vt := 0, c := c, val := .ofNat 64 c, deadline := some 5 } } }

theorem witness_GenerationsCompleteAndTimeOut : (∀ i < 3, allInst i (barFull true i 0) (forInst i (releaseAll i 0) (arrived one 4)) = true) ∧
    barFull false 4 0 (arrived one 4) = true ∧ barFull false 5 0 (arrived one 4) = true ∧
    ((barLevels .gang).filter fun i => anyLate i 0 (inM (arrived one 2) fun m => { m with cycle := 6 })) ≠ [] ∧
    (((inC one fun c => { c with bars := c.bars.set 6 ⟨3, .waiting, 0, false⟩ }).c.bar 6).arr = .waiting) := by
  decide +kernel

def unitMoved : Unit128 → Bool
  | .moved .. => true
  | _ => false

def elemMoved : Elem → Bool
  | .moved .. => true
  | _ => false

def engOk : EChk → Bool
  | .ok .. => true
  | _ => false

def engsOk : EChks → Bool
  | .ok .. => true
  | _ => false

/-- The command stands at the head of queue `q` of the one tile, whose engine has the page at 0x20000 mapped. -/
def queued (s : State) (q : Fin 7) (c : Cmd) : State :=
  inT s fun t => { t with eq := t.eq.set q { cmds := [c] }, etlb := mapped.t.dtlb }

def beat0 (op beats len : Nat) : Nat := op * 2 ^ 60 + beats * 2 ^ 56 + len

/-- A copy of 256 bytes within the scratchpad, one unit of which has been moved. -/
def aCopy : Cmd := { beats := [(beat0 1 2 256, 0), (0xFF00000000001000, 0xFF00000000008000)], agent := 0, seq := 3, done := 1 }

theorem witness_EnginesAct_queues :
    let s := inT one fun t => { t with pushed := [(2, aCopy)] }
    let u := queued one 2 { aCopy with finished := true }
    let j : Cmd := { beats := [(beat0 5 1 0, 5)], agent := 0, seq := 3, join := [(1, 4)] }
    findNth (fun x => x.1 == 2) s.t.pushed 0 = some (0, 2, aCopy) ∧ engStopped s 0 = false ∧
      (u.t.queue 2).cmds.head? = some { aCopy with finished := true } ∧ engStopped u 0 = false ∧ u.heldBack 0 = false ∧ u.msgsOf 0 10 = [] ∧
      u.t.ni = [] ∧ u.t.arrq.length < 8 ∧ u.g.rr ≠ 1 ∧ aCopy.follow = none ∧ aCopy.csel < 7 ∧
      ((queued one 2 j).t.queue 2).cmds.head? = some j ∧ engStopped (queued one 2 j) 0 = false ∧ ((queued one 2 j).t.queue 2).halted = false ∧
      j.event 2 = 5 ∧ badCmd 2 j = false ∧ (queued one 2 j).m.pullWait = false ∧ (queued one 2 j).t.cmdsOf 1 = [] := by
  decide +kernel

/-- The last unit of a copy, with its end at the end of the scratchpad; a gather and a scatter of their second element. -/
theorem witness_EnginesAct_moves :
    let c : Cmd := { aCopy with beats := [(beat0 1 2 256, 0), (0xFF00000000001000, 0xFF000000001FFF00)] }
    let s := queued one 2 c
    let g : Cmd := { beats := [(beat0 3 3 5 + 4 * 2 ^ 40, 0x1B * 2 ^ 32), (0xFF00000000001000, 0xFF00000000008000), (0xFF00000000000100, 3)]
                     agent := 0, seq := 3, done := 1 }
    (s.t.queue 2).cmds.head? = some c ∧ engStopped s 0 = false ∧ (s.t.queue 2).halted = false ∧ c.event 2 = 1 ∧ c.op = 1 ∧ badCmd 2 c = false ∧
      c.done * c.unit < c.copyV.total ∧ c.skip = none ∧ unitMoved (copyUnit s 0 2 (begun c) 128 128) = true ∧ s.t.bad = [] ∧ s.t.soft = [] ∧
      s.msgsOf 0 10 = [] ∧ s.g.parks 0 = false ∧ c.stream = false ∧ c.done * 128 + 128 ≤ c.len ∧ c.lo 1 = 0xFF00000000000000 + 0x1000 ∧
      c.hi 1 = 0xFF00000000000000 + 0x1FFF00 ∧ 0x1FFF00 + c.len ≤ 0x200000 ∧
      ((queued one 4 g).t.queue 4).cmds.head? = some g ∧ g.event 4 = 3 ∧ badCmd 4 g = false ∧ listPlaced (.ofNat 64 (g.lo 2)) (4 * g.len) 4 = true ∧
      1 ∈ g.selected ∧ (engRead (queued one 4 g) [⟨.tile 0 0x104, 4, 0⟩]).isSome = true ∧
      elemMoved (moveElem (queued one 4 g) 0 4 (begun g) 0xFF00000000001000 0xFF00000000008004 (etBytes g.et)) = true := by
  decide +kernel

/-- SIGNAL, RED_ST and MCAST_ST on the mapped page; a list of destinations in the scratchpad. -/
theorem witness_EnginesAct_stores :
    let c : Cmd := { beats := [(beat0 10 2 7, 0), (0, 0x108)], agent := 0, seq := 3 }
    let s := queued one 2 c
    let r : Cmd := { beats := [(beat0 9 2 9 + 5 * 2 ^ 40, 0), (0xFF00000000001000, 0x108)], agent := 0, seq := 3 }
    let u := queued one 6 r
    let m : Cmd := { beats := [(beat0 8 3 40, 0), (0xFF00000000001000, 0), (0xFF00000000000100, 1)], agent := 0, seq := 3 }
    let w := queued (inT one fun t => { t with sp := t.sp.write 0x100 [0, 0x80, 0, 0, 0, 0, 0, 255] }) 6 m
    c.event 2 = 10 ∧ badCmd 2 c = false ∧ (s.t.queue 2).cmds.head? = some c ∧ engOk (engRange s 0 .e (cmdSpace s c) .amo .amo false 0x108 8) = true ∧
      engHeld s 0 10 [⟨.glob 0x20108, 8, 0⟩] = false ∧ s.g.belay = 0 ∧ s.m.badRange 0x20108 8 = false ∧ s.m.softMem = [] ∧
      s.m.softHome = [] ∧ faultOff s [⟨.glob 0x20108, 8, 0⟩] = none ∧ r.event 6 = 9 ∧ r.op = 9 ∧ badCmd 6 r = false ∧
      engsOk (engRanges 0 .e (cmdSpace u r) .amo .amo false (cutRun 0 0x108 (9 * etBytes r.et)) u []) = true ∧
      engsOk (engRanges 0 .e (cmdSpace u r) .load .load false (cutRun 0 0xFF00000000001000 (9 * etBytes r.et)) u []) = true ∧
      m.event 6 = 8 ∧ m.op = 8 ∧ badCmd 6 m = false ∧ listPlaced (.ofNat 64 (m.lo 2)) 8 8 = true ∧
      (engRead w [⟨.tile 0 0x100, 8, 0⟩]).map (·.2) = some [0, 0x80, 0, 0, 0, 0, 0, 255] ∧
      mcastParts [0xFF00000000008000] 40 3 0 0 ≠ [] := by
  decide +kernel

/-- An all-reduce of the gang that takes its place, and one that has it, with its deadline behind it. -/
theorem witness_EnginesAct_collectives :
    let c : Cmd := { beats := [(beat0 6 3 16 + 6 * 2 ^ 40, 0), (0xFF00000000001000, 0xFF00000000008000), (3, 0)], agent := 0, seq := 3, bto := 5 }
    let d : Cmd := { c with deadline := some 7 }
    let s := queued one 6 c
    let u := inM (inG (queued one 6 d) fun g => { g with colls := [{ lv := 3, id := 0, arrived := [(0, true, one.t.sp.read 0x1000 128)] }] })
      fun m => { m with cycle := 9 }
    (s.t.queue 6).cmds.head? = some c ∧ c.event 6 = 6 ∧ c.isColl = true ∧ badCmd 6 c = false ∧ c.lo 2 % 8 = 3 ∧
      s.t.collGen.toList.getD (collIdx 3) 0 ∉ (s.g.coll 3 (collId s.g 3 0)).abandoned ∧ (s.g.coll 3 (collId s.g 3 0)).arrived = [] ∧ collBad s.t (begun c) = none ∧
      (collParts u 3 0).length = 1 ∧ collReady 3 0 u = true ∧ (∀ y ∈ collParts u 3 0, y.2.2.1 = true ∧ d.agrees y.2.1 = true) ∧ collLate 3 0 u = false := by
  decide +kernel

theorem witness_EnginesAct_interrupt :
    let s := inT one fun t => { t with str := { t.str with started := true, frecs := [⟨1, 0, 4, 1, 0, 0, 0⟩], csr := { t.str.csr with mie := 0x10000, mstatus := 8 } } }
    s.heldBack 0 = false ∧ ({ s.t.str with stall := none } : Helper).runs s s.t = true ∧ s.t.str.irq = true := by
  decide +kernel

/-- A gang whose quantum is over while another waits for clusters, and whose grace time is over. -/
theorem witness_GangsDebuggerAndPages_yield :
    let two' : State := inM (inG { one with tiles := [{ one.t with vt := 4, others := one.c :: one.t.others }] } fun g => { g with w := 8, gw := 1, gangs := [{ gr := 0, gc := 0, resident := true, clusters := [0], quantum := 5 }, { gr := 0, gc := 1 }] })
      fun m => { m with cycle := 10 }
    let late := inG one fun g => { g with gangs := [{ gr := 0, gc := 0, resident := true, clusters := [0], yieldReq := true, grace := some 0 }] }
    two'.g.live = true ∧ two'.m.restart = false ∧ gangHalted two' (0, 0) = false ∧ asking two' two'.g.vf ≠ [] ∧
      (two'.g.gang? (0, 0)).map (fun x => (x.resident, x.yieldReq, x.halting, x.halted, x.quantum)) = some (true, false, false, false, 5) ∧
      (late.g.gang? (0, 0)).map (fun x => (x.resident, x.yieldReq, x.grace)) = some (true, true, some 0) ∧ gangHalted late (0, 0) = false := by
  decide +kernel

/-- Every context of the tile is frozen and its helper cores are stopped. -/
def frozen : State :=
  inT (inC one fun c => { c with run := .frozen }) fun t => { t with others := t.others.map fun c => { c with run := .frozen }
                                                                     ldr := { t.ldr with stopped := true }, str := { t.str with stopped := true } }

theorem witness_GangsDebuggerAndPages_swap :
    let h := inG frozen fun g => { g with gangs := [{ gr := 0, gc := 0, resident := true, clusters := [0], halting := true }] }
    let o := inG frozen fun g => { g with gangs := [{ gr := 0, gc := 0, resident := true, clusters := [0], halted := true }] }
    let i := inM (inG frozen fun g => { g with gangs := [{ gr := 0, gc := 0, swapped := true }] }) fun m => { m with
      clusters := m.clusters.map fun c => { c with pool := .assigned 0 }, vfs := m.vfs.set 0 { m.vfs[0] with st := .ready, owned := [0, 1], clusters := 2 } }
    (∀ y ∈ h.allCtxs, y.2.atRest h y.1 false = true ∧ y.2.accs = []) ∧ (∀ t ∈ h.allTiles, niDrained h t = true) ∧ gangHalted o (0, 0) = false ∧
      (nextAsking i i.g.vf).map (fun p => (p.2.gr, p.2.gc)) = some (0, 0) ∧ servedVf i = some i.g.vf ∧
      ((i.g.gang? (0, 0)).bind fun x => roomFor i i.g x).isSome = true := by
  decide +kernel

/-- A role that the debugger may halt, one that it holds, one of an absent gang; a page request, and a function without a stage 2. -/
theorem witness_GangsDebuggerAndPages_host :
    let s := inM one fun m => { m with power := .ready, vfs := m.vfs.set 0 { m.vfs[0] with
      st := .ready, reqs := [{ tag := 7, kind := 0, s1walk := false, stage1 := false, va := 0, gpa := 0, vt := 0, role := 0, asid := 0 }] } }
    (one.ctx? 0 3).isSome = true ∧ selectable one 0 3 = true ∧ one.c.dbg.halted = false ∧ one.c.atBoundary = true ∧ one.g.parks 0 = false ∧ absent.g.parks 0 = true ∧
      selectable (inC one fun c => { c with dbg := { c.dbg with halted := true } }) 0 0 = true ∧ s.hasVf 0 = true ∧
      (s.vfAt 0).reqs.map (·.tag) = [7] ∧ (s.vfAt 0).prot = false ∧ (s.vfAt 0).s2en = false ∧ paRim s.m 0x2FFFFFFFFFF = true ∧
      (inM s fun m => { m with vfs := m.vfs.set 0 { m.vfs[0] with prot := true } }).hasVf 0 = true := by
  decide +kernel

/-- A module that is ready, with function 0 ready too. -/
def ready (f : Module → Module) : State := inM one fun m => f { m with power := .ready, vfs := m.vfs.set 0 { m.vfs[0] with st := .ready } }

def fn0 (f : Vf → Vf) : State := ready fun m => { m with vfs := m.vfs.set 0 (f m.vfs[0]) }

def lashed (l : Lash) : State := inT one fun t => { t with lash := { l with role := 1 } }

theorem witness_RecoveryAndPower_recovery :
    let s := ready fun m => { m with softMem := [5], badMem := [9] }
    let u := inT one fun t => { t with soft := [(1, 5)] }
    let r := inG (inT one fun t => { t with log := [⟨1, 0, 0, 0⟩] }) fun g => { g with rr := 2 }
    5 ∈ s.m.softMem ∧ 5 ∉ s.m.badMem ∧ 9 ∈ s.m.badMem ∧ 9 ∉ s.m.softMem ∧ 6 ∉ s.m.badMem ∧ 6 ∉ s.m.softMem ∧ (1, 5) ∈ u.t.soft ∧ (1, 5) ∉ u.t.bad ∧
      (lashed { count := 4096 }).t.lash.role ≠ 0 ∧ (lashed { count := 4095, due := true }).t.lash.waiting = false ∧
      ((lashed { waiting := true }).whole? 0).isSome = true ∧ (lashed { waiting := true, second := true }).t.lash.second = true ∧
      (inG one fun g => { g with belay := 6, rollReq := [0] }).g.rollReq = 0 :: [] ∧ (ready fun m => { m with restart := true }).m.restart = true ∧
      s.m.restart = false ∧ r.t.log = ⟨1, 0, 0, 0⟩ :: [] ∧ r.g.still 0 = false ∧ (0 : BitVec 57).toNat ≤ rolePos r 0 0 ∧
      (releaseKind (r.mapTile 0 fun t => { t with log := [] }) 0 { r.t with log := [] } ⟨1, 0, 0, 0⟩).isSome = true := by
  decide +kernel

theorem witness_RecoveryAndPower_power : State.reset.m.power ≠ .ready ∧
    (State.reset.m.clusters[895]?).isSome = true ∧
    ((ready fun m => { m with clusters := m.clusters.set 895 { dirty := true, pool := .dirty, defects := 1 } }).m.clusters[895]?).map (·.pool) = some .dirty ∧
    (∀ f ∈ (ready id).m.vfs.toList, 895 ∉ f.owned) ∧ (ready id).m.power = .ready ∧ (ready id).m.warn = false ∧ (ready fun m => { m with warn := true }).m.warn = true := by
  decide +kernel

/-- Queues with and without a slot, their notifies pending since cycles 10 and 5. -/
def queues (l : List LSlot) (q : LQueue) : State := inM (fn0 fun f => { f with
    quantum := 1, queues := [q, { q := 2, notify := some 10, en := true, log2 := 4, tail := 3 }, { q := 5, notify := some 5, en := true, log2 := 4, tail := 1 }] })
  fun m => { m with cycle := 3000000, slots := l }

/-- The last of the slots is free; queue 63 is empty and pinned, or has work, in slot 255. -/
theorem witness_LaunchesAreServed_slots : (ready id).hasVf 0 = true ∧ oldestPending (queues [] { q := 63 }) = some (0, 5, 5) ∧ (queues [] { q := 63 }).m.restart = false ∧
    (queues [] { q := 63 }).m.power = .ready ∧
    (queues [⟨255, 0, 63, 0⟩] { q := 63, pin := true }).m.slots.find? (·.n == 255) = some ⟨255, 0, 63, 0⟩ ∧
    slotOver (queues [⟨255, 0, 63, 0⟩] { q := 63, pin := true }) ⟨255, 0, 63, 0⟩ = true ∧ (((queues [⟨255, 0, 63, 0⟩] { q := 63, pin := true }).vfAt 0).queue 63).pin = true ∧
    slotOver (queues [⟨255, 0, 63, 0⟩] { q := 63, en := true, log2 := 4, tail := 3 }) ⟨255, 0, 63, 0⟩ = true ∧
    (((queues [⟨255, 0, 63, 0⟩] { q := 63, en := true, log2 := 4, tail := 3 }).vfAt 0).queue 63).head ≠
      (((queues [⟨255, 0, 63, 0⟩] { q := 63, en := true, log2 := 4, tail := 3 }).vfAt 0).queue 63).tail ∧
    (queues [⟨255, 0, 63, 0⟩] { q := 63, en := true, log2 := 4, tail := 3 }).inGroup 0 63 = false := by
  decide +kernel

/-- A launch record of a grid of 4 by 4 tiles with one context each, at the head of queue 2; one that lies where no memory is. -/
def launches (base : W64) (dw : List W64) : State := inM (fn0 fun f => { f with queues := [{ q := 2, en := true, log2 := 4, tail := 3, head := 1, base := base }] })
  fun m => ({ m with slots := [⟨4, 0, 2, 0⟩] } : Module).writeGlob 0 0x1080 (dwordBytes dw)

def record (d0 : Nat) : List W64 := [.ofNat 64 d0, 0, 0, 0, 0, 0, 0xFFFFFFFFFFFFFFFF, 0, 0, 0, 0, 0, 0, 0, 0, 0]

def dword0 : Nat := 4 + 4 * 2 ^ 16 + 2 ^ 32 + 2 ^ 38 + 2 ^ 44

theorem witness_LaunchesAreServed_dispatch :
    let s := launches 0x1000 (record dword0)
    let d := (s.vfAt 0).queue 2
    Dispatches s 0x4 0 2 ∧ (readRecord s 0 d).map (·.2) = some (record dword0) ∧ (readRecord s 0 d).map (fun p => (launchSize ⟨0, 2, p.2, 0, 0⟩ p.1).isSome) = some true ∧
      (launches 0x7FFFFFFFFFFFF00 []).m.slots = s.m.slots ∧ (readRecord (launches 0x7FFFFFFFFFFFF00 []) 0 (((launches 0x7FFFFFFFFFFFF00 []).vfAt 0).queue 2)).isNone = true ∧
      (⟨0, 2, record (dword0 + 2 ^ 13), 4, 4⟩ : Launch).badRec = true ∧ (⟨0, 2, record dword0, 4, 4⟩ : Launch).badRec = false ∧
      (⟨0, 2, record dword0, 4, 4⟩ : Launch).domgrp = false :=
  ⟨⟨⟨⟨4, 0, 2, 0⟩, by decide +kernel⟩, by decide +kernel⟩, by decide +kernel⟩

/-- Everything that the check of a launch asks for, but for `Config.regionsFit`, which no state can show (log 13). -/
theorem witness_LaunchesAreServed_checked :
    let l : Launch := ⟨0, 2, record dword0, 4, 4⟩
    let s := inM (launches 0x1000 (record dword0)) fun m => { m with vfs := m.vfs.set 0 { m.vfs[0] with clusters := 1 } }
    l.badRec = false ∧ (readImages l s.m).isSome = true ∧ ((readImages l s.m).bind fun x => readClasses x.classes).isSome = true ∧ l.domgrp = false ∧
      (s.vfAt 0).lash = false ∧ l.gw * l.gh ≤ (s.vfAt 0).gangLimit 0 := by
  decide +kernel

theorem witness_LaunchesAreServed_groups :
    let x : GroupWait := { gid := 9, count := 2, idx := 0, since := 5, v := 0, q := 2, dw := record dword0, w := 4, h := 4 }
    let s := inM (launches 0x1000 (record dword0)) fun m => { m with groups := [x, { x with idx := 1 }], cycle := 190000006 }
    let e := inT (inC one fun c => { c with run := .ended }) fun t => { t with others := t.others.map fun c => { c with run := .ended } }
    groupMembers s 9 = x :: [{ x with idx := 1 }] ∧ s.m.restart = false ∧ x ∈ s.m.groups ∧ x.since + 190000000 < s.m.cycle ∧
      e.g.live = true ∧ e.g.diverged = none ∧ (∀ y ∈ e.allCtxs, y.2.active = false ∧ y.2.accs = []) ∧
      (∀ t ∈ e.allTiles, t.arrq = [] ∧ t.ni = [] ∧ t.lash.gated = [] ∧ ∀ q < 7, t.cmdsOf q = []) ∧ e.g.mesh = [] ∧
      ((fn0 fun f => { f with cbase := 0x1000, clog2 := 16, cwait := [⟨[1]⟩] }).vfAt 0).complRoom = true := by
  decide +kernel

/-- Partitions in each state; a root that names no memory, clusters that are free, a window of energy that is over, a usage record that waits. -/
theorem witness_FunctionsAndDomain : (fn0 fun f => { f with st := .free }).hasVf 0 = true ∧ ((fn0 fun f => { f with st := .free }).vfAt 0).st = .free ∧
    ((fn0 fun f => { f with st := .creating }).vfAt 0).st = .creating ∧ ((fn0 fun f => { f with st := .scrubbing }).vfAt 0).st = .scrubbing ∧
    ((fn0 fun f => { f with st := .failed }).vfAt 0).st = .failed ∧ (fn0 id).m.restart = false ∧
    rootValid (fn0 id).m { s2en := true, s2root := 0x8000000000 / 8 } = false ∧ rootValid (fn0 id).m { clusters := 3 } = true ∧
    (takeClusters (ready fun m => { m with clusters := m.clusters.map fun c => { c with pool := .free } }).m { clusters := 3 }).isSome = true ∧
    takeClusters (fn0 id).m {} = none ∧ ((fn0 fun f => { f with inval2 := true }).vfAt 0).inval2 = true ∧ ((fn0 fun f => { f with attPend := true }).vfAt 0).attPend = true := by
  decide +kernel

theorem witness_FunctionsAndDomain_meters :
    let s := ready fun m => { m with cycle := 3800000, period := 2, usageC := 4, usageW := [[1, 2]], linkUp := 0xFFFFFFFF }
    (s.vfAt 0).winAt < s.m.cycle / 1900000 ∧ s.m.perStart + s.m.period * 1900000 ≤ s.m.cycle ∧ s.m.usageW = [1, 2] :: [] ∧ s.m.usageRoom = true ∧
      (∀ l < 32, s.m.linkUp.getLsbD l = true) ∧ (s.vfAt 0).mig.st = 0 ∧ s.hasVf 63 = true := by
  decide +kernel

/-- A migration with two leaves that still name their source, one of them being pulled. -/
theorem witness_FunctionsAndDomain_migration :
    let pte (pa : Nat) : List Byte := bytesOf 8 (pa + 3 + 3 * 2 ^ 52 + 3 * 2 ^ 56)
    let s := inM (ready fun m => { m with domEn := true, domMem := 7, modId := 1, linkUp := 0xFFFFFFFF, vfs := m.vfs.set 0 { m.vfs[0] with
        st := .ready, s2en := true, s2root := 0x20, mig := { st := 1, src := 2, poolBase := 0x900000, poolN := 3, pulling := [0x50000] } } })
      fun m => (((((m.writeGlob 0 0x10000 (bytesOf 8 0x20001)).writeGlob 0 0x20000 (bytesOf 8 0x30001)).writeGlob 0 0x30000 (bytesOf 8 0x40001)).writeGlob 0 0x40000
        (bytesOf 8 0x50001)).writeGlob 0 0x50000 (pte 0x1080000070000)).writeGlob 0 0x50008 (pte 0x1080000080000)
    (s.vfAt 0).mig.st = 1 ∧ (s.vfAt 0).mig.pulling = 0x50000 :: [] ∧ (s.vfAt 0).mig.poolN ≠ 0 ∧
      ((leavesLeft s.m 0).find? (fun l => l.leaf.pa == 0x50000 && l.leaf.shift == 16)).isSome = true ∧
      ((leavesLeft s.m 0).find? (fun l => l.leaf.shift == 16 && !(s.vfAt 0).mig.pulling.contains l.leaf.pa)).map (·.leaf.pa) = some 0x50008 := by
  decide +kernel

/-- A word that completes, one that is nullified and one that traps. -/
theorem witness_RegisterWordsChangeNothingElse :
    (∃ t, exec (.add .w64 27 1 2 false false) base = .next t) ∧ (∃ t, exec (.vadd .s16 27 1 2) base = .next t) ∧ (∃ t, exec (.hxor 7 1 7) base = .next t) ∧
      (∃ t, exec (.popc .w32 27 9 false) (tagged base 9 .full) = .next t) ∧ ∃ t, exec (.add .w64 27 1 2 true false) (tagged base 1 .cleared) = .next t :=
  ⟨⟨_, rfl⟩, ⟨_, rfl⟩, ⟨_, rfl⟩, ⟨_, rfl⟩, ⟨_, rfl⟩⟩

/-- A store to the last bytes of the own scratchpad, a load of the first, and whole registers at both ends. -/
theorem witness_MemoryWordsChangeNothingElse : (base.c.accs = [] ∧ base.t.sp.wf = true ∧ scalar base [] 5 = some (0xFF000000001FFFF8, true) ∧
      scalar base [] 4 = some (0xFF00000000000000, true) ∧ scalar base [] 6 = some (0xFF000000001FFFC0, true) ∧ Own 0xFF000000001FFFF8 8 ∧ Own 0xFF00000000000000 16 ∧
      Own 0xFF000000001FFFC0 64 ∧ Own 0xFF00000000000000 1024) ∧
    (∃ t, exec (.st .d 1 5 false false 0) base = .next t) ∧ (∃ t, exec (.ld .d 27 4 false false 0) base = .next t) ∧ ∃ t, exec (.vst 1 6 false 0) base = .next t :=
  ⟨by unfold Own; decide +kernel, ⟨_, rfl⟩, ⟨_, rfl⟩, ⟨_, rfl⟩⟩

noncomputable section

/-- The machine after reset with `addi x7, x8, -1` alone at its pc, and with it as the A word of a pair. -/
def fetching : State := State.reset.withFetchWord 32 0xC2743FFF

def fetchingA : State := State.reset.withFetchWord 32 0x42743FFF

/-- With `fence.gang`, a C word, before a `nop` in its pair. -/
def fetchingC : State := State.reset.withFetchWord 32 0x1AF00C40

/-- The instruction that the fetch unit runs. -/
def runs (s : State) : Option Instr :=
  match fetchUnit s with
  | .run _ i => some i
  | _ => none

/-- Address and key of a fetch, and the memory there when its line is not cached. -/
def fetchesAt (s : State) : Option (Nat × Nat × Bool) :=
  match translate s s.t.vt .i (s.c.space s) .fetch s.c.pc.toNat with
  | .ok u pa key => some (pa, key, u.m.paExists pa && !u.m.badRange (pa / 64 * 64) 64 && !u.m.codeBad (pa / 64 * 64) 64 && u.t.icache.isEmpty)
  | _ => none

end

theorem witness_StepRunsTheDecodedInstruction_fetch : fetching.c.pc.toNat < 2 ^ 56 ∧ fetchesAt fetching = some (0x10000, 0, true) ∧ fetching.c.pos = .unit ∧
    runs fetching = some (.addi 7 8 false 0x3FFF) ∧ fetchingA.c.pos = .aWord ∧ runs fetchingA = some (.addi 7 8 false 0x3FFF) ∧
    runs fetchingC = some (.fence .gang true true true true) ∧ fetchingC.c.pc.toNat % 8 = 0 := by
  decide +kernel

theorem witness_StepRunsTheDecodedInstruction_turn :
    let u := expireTurn (rest fetching) 0
    let f := switchTo (u.focus 0 0) 0
    fetching.sched = .turn 0 :: [] ∧ Issues (rest fetching) u f 0 ∧ Undisturbed f (.next f) ∧ runs f = some (.addi 7 8 false 0x3FFF) :=
  ⟨rfl, ⟨by decide +kernel, rfl, (expireTurn (rest fetching) 0).t, 0, rfl, by decide +kernel, rfl⟩,
    ⟨by decide +kernel, by decide +kernel, by decide +kernel, by decide +kernel, by decide +kernel⟩, by decide +kernel⟩

/-- The loader core at the first and the last word of its instruction store. -/
theorem witness_StepRunsTheDecodedInstruction_helper :
    let s := State.reset.withFetchWord 32 0x0000300B
    let f := focusHelper (rest s) 0 false
    s.sched = .helper 0 false :: [] ∧ (rest s).t.ldr.runs (rest s) (rest s).t = true ∧ f.helper.dbg.pending = false ∧ replayStop f 0 f.hrole = false ∧ f.helper.irq = false ∧
      f.helper.pc.toNat = iBase ∧ iBase % 4 = 0 ∧ iBase + 0x7FFC + 4 ≤ iBase + 0x8000 ∧ f.t.badRange (srcHelper f.storer false) 0 4 = false ∧
      natOf (f.helper.istore.read 0 4) = 0x300B := by
  decide +kernel

/-- Words of the two ends of the table: the encoder has them, and they are well-formed. -/
theorem witness_DecodeAfterEncode : (Instr.sub .w32 3 5 6 true false).wf = true ∧ encode (.sub .w32 3 5 6 true false) = some 0x40329815 ∧
    (Instr.endCtx).wf = true ∧ encode .endCtx = some 0x22000020 ∧ (Instr.dkWcnt 3 6 7).wf = true ∧ encodeHelper (.dkWcnt 3 6 7) = some 0x0603338B := by
  decide +kernel

theorem witness_StepKeepsMemoryForm : MemoryForm State.reset := by
  unfold MemoryForm GridForm TileForm; decide +kernel

/-- The step of the state above answers a next state. -/
theorem witness_StepKeepsMemoryForm_goes : (match step fetching with | .next _ => true | _ => false) = true := by
  decide +kernel

theorem witness_EveryWordGoesOn : encode .endCtx = some 0x22000020 ∧ encodeHelper .ecall = some 0x73 := by
  decide +kernel

/-- Two entries at the same distance, the lower one first; one entry alone; the nearer of two at both ends of the memory. -/
theorem witness_BundleAndRecallWords_nearest :
    let s := putRecall (putRecall base 255 ⟨true, 1⟩) 200 ⟨true, 1⟩
    let u := putRecall (putRecall base 0 ⟨true, 7⟩) 255 ⟨true, 1⟩
    Nearest s 0 (List.range 256) 200 ∧ Nearest s 0 ((List.range 256).filter (· ≠ 200)) 255 ∧ Nearest u 1 (List.range 256) 255 ∧
      Nearest u 1 ((List.range 256).filter (· ≠ 255)) 0 ∧
      (∀ f ∈ (List.range 256).filter (· ≠ 200), (entry (putRecall base 200 ⟨true, 1⟩) f).valid = false) ∧ s.t.bad = [] ∧ s.t.soft = [] := by
  unfold Nearest; decide +kernel

/-- A copy of full length with metadata, a clear behind it, a failed copy, and an operation that reads the slot before them; the last slot. -/
theorem witness_ArrayAndSlotsMoveOn_slots :
    let w : SlotWrite := { data := some (List.replicate 2304 5), vlen := 2048, sp := true }
    let t (l : List SlotWrite) : Tile := { one.t with slots := one.t.slots.set 127 { one.t.slots[127] with issued := 3, pend := l } }
    let o : ArrOp := { c := 0, d := 7, p := .s8s8, sp := false, aAddr := 0xFF00000000000000, pitch := 64, rows := none
                       slot := 127, need := 0, wb := none, scale := 0, unit := true }
    (slotAt (t [w]) 127).pend = w :: [] ∧ (∀ v ∈ ([] : List SlotWrite).head?, v.clear = false) ∧ w.clear = false ∧ w.bad = false ∧
      w.data = some (List.replicate 2304 5) ∧ (List.replicate 2304 (5 : Byte)).length = w.vlen + (if w.sp then 256 else 0) ∧ w.vlen ≤ 2048 ∧
      (slotAt (t [w, { clear := true }, w]) 127).pend = w :: { clear := true } :: [w] ∧ (∀ z ∈ [w].head?, z.clear = false) ∧
      (slotAt (t [{ w with bad := true }]) 127).pend = { w with bad := true } :: [] ∧ (slotAt (t []) 127).pend = [] ∧
      ({ t [w] with arrq := [o] }.arrq[0]? = some o) ∧ o.slot = 127 ∧ o.need ≤ (slotAt (t [w]) 127).applied := by
  decide +kernel

/-- Products with a NaN, with infinities of both signs, and with a zero; finite ones; an element at each end of its range. -/
theorem witness_ArrayAndSlotsMoveOn_sums :
    let one : Fl := .fin false 1 0
    let l := [(one, one), (.fin false 0 0, one)]
    (∃ p ∈ [(Fl.inf false, Fl.fin true 0 0)], (p.1.isNan || p.2.isNan || (isInf p.1 && p.2.isZero) || (p.1.isZero && isInf p.2)) = true) ∧
      (1 ∈ infProducts [(.inf false, one), (.inf true, one)] ∧ -1 ∈ infProducts [(.inf false, one), (.inf true, one)]) ∧
      (1 ∈ infProducts [(.inf true, .inf true)] ∧ -1 ∉ infProducts [(.inf true, .inf true)]) ∧
      (1 ∉ infProducts [(.inf true, one)] ∧ -1 ∈ infProducts [(.inf true, one)]) ∧ (∀ p ∈ l, isFin p.1 = true ∧ isFin p.2 = true) ∧
      isInf (f32.decode 0x7F800000) = true ∧ isFin (f32.decode 0x7F7FFFFF) = true ∧ (f32.decode 0x7FC00000).isNan = true ∧
      f32.decode 0xFF800000 = .inf true ∧ (0xFFFFFFFF : Nat) < 2 ^ 32 ∧ (treg base 7 { valid := true }).c.t[(7 : Fin 8)].valid = true := by
  decide +kernel

/-- The greatest sum of exponents of a nonzero product exists. -/
theorem witness_ArrayAndSlotsMoveOn_exponent :
    let one : Fl := .fin false 1 0
    let ex (p : Fl × Fl) : ℤ := Int.log 2 |rat p.1| + Int.log 2 |rat p.2|
    (∃ p ∈ [(one, one)], ex p = 0) ∧ ∀ p ∈ [(one, one)], ex p ≤ 0 := by
  simp [rat]

/-- A unit whose carry code failed is the first of port 3, and the last of eight; headers with a follow-on image that is none and one that is an MMA. -/
theorem witness_StreamWordsMoveUnits_follow :
    let s := inC base fun c => { c with qin := c.qin.set 3 (List.replicate 8 5), qbad := [(3, 7)] }
    UnitsSound s 3 1 ∧ ¬ UnitsSound s 3 8 ∧ units s 3 ≠ [] ∧ 8 ≤ (units s 3).length ∧ s.repeatable = false ∧ UnitsSound base 0 8 ∧
      ¬ UnitsSound (inC base fun c => { c with qbad := [(0, 0)] }) 0 1 := by
  unfold UnitsSound; decide +kernel

theorem witness_StreamWordsMoveUnits_header :
    let f := regs base [(1, 0x5102000000000000), (2, 0xF0152D80), (10, 0xFF00000000000000), (11, 0), (12, 0)]
    Two f 1 2 0x5102000000000000 0xF0152D80 ∧ f.t.asmOf f.c.id 0 = none ∧ (0x5102000000000000 : W64).getLsbD 49 = true ∧
      (followImage ((0xF0152D80 : W64).toNat % 2 ^ 32) == some (.bf16bf16, false, 1, 10, 11, 12)) = true ∧ scalar f [1, 2] 10 = some (0xFF00000000000000, true) ∧
      scalar f [1, 2, 10] 11 = some (0, true) ∧ scalar f [1, 2, 10, 11] 12 = some (0, true) ∧ (followImage 0).isNone = true ∧
      f.c.t[(1 : Fin 8)].valid = false ∧ RowsOwn 0xFF00000000000000 (f.c.pitch.toNat * 16) 32 64 ∧ f.t.lastBeat f.c.id 0 0x5102000000000000 = some 1 ∧
      f.t.lastBeat f.c.id 0 0x5202000000000000 = none ∧ f.t.asmOf f.c.id 6 = none := by
  unfold Two Sound RowsOwn Own; decide +kernel

/-- Both kinds of waiting of a release, ports that are full and empty, and images at the ends of the data store and of the scratchpad. -/
theorem witness_HelperWordsActOnTheTile_waits :
    let s := helping (declared base)
    let h := mesh s [{ src := 0, c := 5, dst := 0, body := .store 0x100 [1] }]
    let u := h.setHelper { h.helper with outside := some .domain }
    let full := inC s fun c => { c with qin := c.qin.set 3 (List.replicate 128 5) }
    HQuiet s ∧ HHeld h 1 ∧ HHeld h 7 ∧ (full.ctx? s.t.vt 0).map (fun x => (x.qin[(3 : Fin 4)]).length) = some 128 ∧ streamCap = 128 ∧
      u.helper.posted = [] ∧ (∃ x ∈ [Agent.domain], hAway u 1 = some x ∧ ∀ m ∈ u.storesOf u.t.vt u.hrole,
        u.accessing x (m.body.writes.map fun w => ⟨.tile m.dst w.1, w.2.length, 0⟩) = true) ∧ u.storesOf u.t.vt u.hrole ≠ [] ∧
      s.t.hdrOf s.hrole 6 0x5101000000000000 / 2 ^ 48 % 2 = 1 ∧ s.t.hdrOf s.hrole 6 0x5100000000000000 / 2 ^ 48 % 2 ≠ 1 ∧
      (inT s fun t => { t with eq := t.eq.set 6 { cmds := List.replicate 16 { beats := [(0, 0)], agent := 0, seq := 0 } } }).t.freeSlots 6 < 1 := by
  unfold HQuiet HHeld; decide +kernel

theorem witness_HelperWordsActOnTheTile_images :
    let s := helping (declared base)
    ImageAt s 0xFFF1000000000000 24 (s.helper.dstore.read 0 24) ∧ ImageAt s 0xFFF1000000003FE8 24 (s.helper.dstore.read 0x3FE8 24) ∧
      ImageAt s 0xFF000000001FFFE8 24 (s.t.sp.read 0x1FFFE8 24) ∧ ¬ Own 0x100 24 ∧ ¬ (0xFFF1000000000000 ≤ (0x100 : W64).toNat) ∧
      (0xFFF1000000000004 : W64).toNat % 8 ≠ 0 ∧ (s.g.cls 2).decl = false ∧ s.g.has ((0x3000001 : W64).toNat % 2 ^ 24) = false ∧ s.t.soft = [] := by
  unfold ImageAt Own HQuiet; decide +kernel

theorem witness_HelperWordsActOnTheTile_ecall :
    let s := helping base
    (s.setHelper { s.helper with mmode := true }).helper.mmode = true ∧
      (s.setHelper { s.helper with x := s.helper.x.set 17 1 }).helper.x[(17 : Fin 32)] ≠ 0 ∧ s.helper.posted = [] ∧ s.helper.mmode = false ∧
      s.helper.x[(17 : Fin 32)] = 0 ∧ s.t.soft = [] ∧ (s.setHelper { s.helper with dbg := { s.helper.dbg with brkHalt := true } }).helper.dbg.brkHalt = true := by
  decide +kernel

/-- A fill of each kind of destination, the last register among them; a CAS that failed. -/
theorem witness_FillsLand_kinds :
    let a (k : AccKind) (n : Nat) : Access := { kind := k, va := 0x100, size := n, pieces := [⟨.glob 0x20100, n, 0⟩], data := some (List.replicate n 255) }
    let l := [a (.load 1 false) 1, a (.loadQ 26) 16, a (.vload 27) 64, a (.vbcast 0) 8, a (.hload 7) 1024, a (.amo 27 .fadd 3 false) 4, a (.amo 1 .maxn 3 true) 8,
      { a (.casD 1 5 6) 8 with ok := false }, a (.casQ 26 5 6) 16]
    (two.ctx? 0 0).isSome = true ∧ two.g.still 0 = false ∧ l.all (fun a => !a.kind.isWbld && !a.reissue && a.performed && a.cancelled == []) = true ∧
      (∀ b ∈ l, (waiting base b).c.accs[0]? = some b) ∧ (26 : Fin 32) ≠ 0 := by
  decide +kernel

/-- A core that waits for neither a denied page nor an interrupt; contexts that stand in `wfi` or are frozen are the others. -/
theorem witness_CoreEventsHappen_turn :
    let t := inC one fun c => { c with ie := 31, tmatch := 0, ipSoft := true }
    dueDenial (atTurn t 0 0) = none ∧ (atTurn t 0 0).c.run ≠ .blocked .wfi ∧ (atTurn t 0 0).c.run ≠ .frozen ∧ (atTurn t 0 0).c.atBoundary = true ∧
      (atTurn t 0 0).c.released (atTurn t 0 0) (atTurn t 0 0).t = false ∧ (one.heldBack 0) = false ∧ (inC t fun c => { c with runcap := 5 }).c.runcap ≠ 0 := by
  decide +kernel

/-- Both helper cores hold a fault record. -/
theorem witness_CoreEventsHappen_helpers :
    let s := inT one fun t => { t with ldr := { t.ldr with frecs := [⟨1, 0, 4, 1, 0, 0, 0⟩] }, str := { t.str with frecs := [⟨1, 0, 10, 1, 0, 0, 0⟩] } }
    s.tile? 0 = some s.t ∧ s.t.ldr.frecs = ⟨1, 0, 4, 1, 0, 0, 0⟩ :: [] ∧ s.t.str.frecs = ⟨1, 0, 10, 1, 0, 0, 0⟩ :: [] ∧ (s.ctx? 0 3).isSome = true :=
  ⟨rfl, by decide +kernel⟩

/-- A message that arrives first of its port, of the bytes it writes and of its stream, and one that nothing parked goes before. -/
theorem witness_MessagesArrive_order :
    let m : Msg := { src := 0, c := 1, dst := 1, body := .port 1 3 (.word 5 true) }
    let n : Msg := { m with body := .store 0x1FFFF8 [1, 2, 3, 4, 5, 6, 7, 8] }
    let u : Msg := { m with body := .stream 2 3 [5, 6] }
    (before (mesh two [m]) m).any (·.samePort m) = false ∧ (before (mesh two [n]) n).any (·.touches [⟨.tile 1 0x1FFFF8, 8, 0⟩]) = false ∧
      (before (mesh two [u]) u).any (·.sameStream u) = false ∧ two.g.gangs.any (·.parked.contains m) = false ∧ two.g.rr ≠ 1 ∧ two.heldBack 1 = false ∧
      { m with code := [carryCode (bytesOf 8 5)] }.sound = true ∧ { n with code := [0] }.sound = false ∧ 0x1FFFF8 + 8 ≤ 0x200000 ∧ (two.tile? 1).isSome = true ∧
      (∀ c d e, n.body ≠ .port c d e) ∧ absent.g.gangs.map (fun x => (x.resident, x.faulted, x.summon)) = [(false, false, false)] := by
  refine ⟨?_, ?_, ?_, ?_, ?_, ?_, ?_, ?_, ?_, ?_, fun _ _ _ h => by simp at h, ?_⟩ <;> decide +kernel

theorem witness_MessagesArrive_window :
    let a : Access := { kind := .load 27 false, va := 0xFF20000001000040, size := 8, pieces := [⟨.tile 1 0x40, 8, 0⟩] }
    let s := waiting two a
    a.absent s = false ∧ a.agreed = false ∧ a.performed = false ∧ a.reissue = false ∧ a.pieces ≠ [] ∧
      (s.c.accs.take 0).any (fun b => !b.performed && anyOverlap a.pieces b.pieces) = false ∧ (∀ p ∈ a.pieces, ∃ u o, p.place = .tile u o) := by
  refine ⟨?_, ?_, ?_, ?_, ?_, ?_, fun p h => ⟨1, 0x40, by simp_all⟩⟩ <;> decide +kernel

/-- A record that its destination accepts, on its first try or again; a queue whose port is free and one with a dispatch that goes first. -/
theorem witness_RecordsAreHandled_offered :
    let n : NiRec := { id := 5, c := 0, dst := 1, r := ⟨3, 1, [0, 7]⟩, loaded := true }
    let s := inT (declared two) fun t => { t with ni := [n] }
    let s' := inT (declared two) fun t => { t with ni := [{ n with refused := true }] }
    let v := ((s.tile? 1).getD {})
    let e : SEntry := { cls := 3, key := 77, lanes := [1, 2], folds := 1, ovf := false, spilled := false, seq := 4 }
    let w := inC (inT (declared two) fun t => { t with sq := [e], recWait := [0] }) fun c => { c with run := .blocked .record }
    parkedFirst s (n.msg 0) = true ∧ portFree s v false = true ∧ portFree s' v true = true ∧ niFirst s'.t { n with refused := true } = true ∧
      (released s' ({ n with refused := true }.msg 0)).isSome = true ∧ dispatchReady w w.t = true ∧ portFree w w.t true = false ∧ w.t.portUsed w = false ∧
      retryReady s' v = true ∧ portFree s' v false = false ∧ w.g.rr ≠ 2 := by
  decide +kernel

/-- A lashed member whose interval is open, and a generation of a domain with members elsewhere. -/
theorem witness_GenerationsCompleteAndTimeOut_lashed :
    let s := inT (inG (arrived one 4) fun g => { g with belay := 3 }) fun t => { t with lash := { t.lash with role := 1, count := 5 } }
    (lashOpen 1 0 s).isEmpty = false ∧ allInst 1 (barFull true 1 0) (forInst 1 (releaseAll 1 0) s) = true ∧ anyLate 1 0 s = false ∧
      (lashOpen 1 0 (arrived one 4)).isEmpty = true ∧ groupHere (inG one fun g => { g with grpN := 2 }) = false ∧ groupHere one = true := by
  decide +kernel

/-- Commands that are good and go on, one inside a chunk while its gang halts, and the kinds of bad ones at the head of their queue. -/
theorem witness_EnginesAct_heads :
    let s := queued one 2 aCopy
    let h := inG s fun g => { g with gangs := [{ gr := 0, gc := 0, resident := true, clusters := [0], halting := true }] }
    let bad := { aCopy with beats := [(beat0 1 2 256, 1), (0xFF00000000001000, 0xFF00000000008000)] }
    let five : Cmd := { beats := [(beat0 10 2 7, 0), (0, 0x108)], agent := 0, seq := 3 }
    engStopped s 0 = false ∧ engHalting s 0 = false ∧ engHalting h 0 = true ∧ { aCopy with started := true }.midChunk = true ∧ engStopped h 0 = false ∧
      aCopy.event 2 = aCopy.op ∧ badCmd 2 aCopy = false ∧ badCmd 0 bad = true ∧ bad.event 0 = 1 ∧ bad.started = false ∧ bad.finished = false ∧
      badCmd 4 aCopy = true ∧ aCopy.event 4 = 3 ∧ badCmd 6 aCopy = true ∧ aCopy.event 6 = 8 ∧ aCopy.isColl = false ∧ five.event 6 = five.op ∧
      (queued one 4 aCopy).t.etlb.length = 1 ∧ s.m.codeBad 0x20108 8 = false ∧ s.m.pullWait = false := by
  decide +kernel

/-- A collective whose own check fails, one with a level that there is none of, one of the domain, and one that comes late; a disagreement, and a root
that takes no part. -/
theorem witness_EnginesAct_collectives_more :
    let c : Cmd := { beats := [(beat0 6 3 16 + 6 * 2 ^ 40, 0), (0xFF00000000001000, 0xFF00000000008000), (4, 0)], agent := 0, seq := 3, deadline := some 7 }
    let b : Cmd := { beats := [(beat0 7 3 16, 0), (0xFF00000000001000, 0xFF00000000008000), (4, 1)], agent := 0, seq := 3 }
    let here (c : Cmd) (ok : Bool) (lv : Nat) : State := inG (queued one 6 c) fun g => { g with colls := [{ lv := lv, id := 0, arrived := [(0, ok, [1, 2])] }] }
    let w := inM (inG (queued two 6 c) fun g => { g with colls := [{ lv := 4, id := 0, arrived := [(0, true, one.t.sp.read 0x1000 128)] }] })
      fun m => { m with cycle := 9 }
    let dom : Cmd := { c with beats := [(beat0 6 3 16 + 6 * 2 ^ 40, 0), (0xFF00000000001000, 0xFF00000000008000), (6, 0)] }
    collLate 4 0 w = true ∧ collLate 4 0 (here c true 4) = false ∧
      collBad one.t { c with beats := [(beat0 6 3 16 + 6 * 2 ^ 40, 0), (0x1000, 0xFF00000000008000), (4, 0)] } = some 0x1000 ∧
      (collAll (here c false 4) 4 0).length = 1 ∧ (∃ y ∈ collAll (here c false 4) 4 0, y.2.2.1 = false) ∧
      (collAll (here b true 4) 4 0).any (·.1 == b.hi 2 % 2 ^ 24) = false ∧ (collAll (here dom true 6) 6 0).length = 1 ∧
      allGroup (collReady 6 0) (here dom true 6) = true ∧ groupHere (here dom true 6) = true ∧ isCollLevel 6 = true ∧ dom.level = 6 ∧
      badCmd 6 { c with beats := [(beat0 6 3 16 + 6 * 2 ^ 40, 0), (0xFF00000000001000, 0xFF00000000008000), (4, 1)] } = true ∧
      (here c true 4).t.collGen.toList.getD (collIdx 4) 0 ∈ { (here c true 4).g.coll 4 0 with abandoned := [0] }.abandoned := by
  decide +kernel

/-- Nothing to wait for at the end of the grace time; a gang whose engines have come to rest; a summoned gang that waits. -/
theorem witness_GangsDebuggerAndPages_more :
    let late := inG one fun g => { g with gangs := [{ gr := 0, gc := 0, resident := true, clusters := [0], yieldReq := true, grace := some 0 }] }
    let h := inG frozen fun g => { g with gangs := [{ gr := 0, gc := 0, resident := true, clusters := [0], halting := true }] }
    let p : State := inM (inG { one with tiles := [{ one.t with vt := 4, others := one.c :: one.t.others }] } fun g => { g with w := 8, gw := 1, gangs :=
        [{ gr := 0, gc := 0, resident := true, clusters := [0], quantum := 5 }, { gr := 0, gc := 1, summon := true }] })
      fun m => { m with vfs := m.vfs.set 0 { m.vfs[0] with summon := 1 } }
    (∀ x ∈ late.g.gang? (0, 0), softReady late x = false) ∧ (∀ t ∈ h.allTiles, copyMoves h t = false) ∧ collCombining (fun _ => true) h = false ∧
      (h.ctx? 0 0).isSome = true ∧ summonWaits p p.g.vf = true ∧ (victim p p.g.vf).map (fun y => (y.2.gr, y.2.gc)) = some (0, 0) := by
  decide +kernel

/-- A halt request that stays pending, a halted role at a `brk` word with NOTIFY, and helper cores that run, are halted, and belong to an absent gang. -/
theorem witness_GangsDebuggerAndPages_roles :
    let h := inC one fun c => { c with dbg := { c.dbg with halted := true, brkHit := true, notify := true } }
    let u := inT (helping one) fun t => { t with ldr := { t.ldr with started := true, dbg := { t.ldr.dbg with halted := true } } }
    (inC one fun c => { c with pos := .aWord, viaSret := false, inPair := false }).c.atBoundary = false ∧ h.c.dbg.halted = true ∧ selectable h 0 0 = true ∧
      selectable (helping one) 0 5 = true ∧ (helping one).t.str.dbg.halted = false ∧ selectable u 0 4 = true ∧ u.t.ldr.dbg.halted = true ∧
      u.t.ldr.dbg.brkHit = false ∧ u.ctxsOf u.t ≠ [] ∧ u.tile? 0 = some u.t ∧ (inG (helping one) fun g => { g with gangs := absent.g.gangs }).g.parks 0 = true :=
  ⟨by decide +kernel, by decide +kernel, by decide +kernel, by decide +kernel, by decide +kernel, by decide +kernel, by decide +kernel, by decide +kernel,
    by decide +kernel, rfl, by decide +kernel⟩

/-- A lashed pair that agrees and one that does not, for the first time and again; a rollback of each belay level; a restart that ends. -/
theorem witness_RecoveryAndPower_pairs :
    let w := lashed { waiting := true }
    let d := lashed { waiting := true, pfp := 5 }
    let u := inT one fun t => { t with bad := [(1, 5)], seen := [(1, 5)] }
    w.t.lash.fp = w.t.lash.pfp ∧ d.t.lash.fp ≠ d.t.lash.pfp ∧ d.t.lash.second = false ∧ w.t.lash.waiting = true ∧
      (lashed { count := 4095, due := true }).t.lash.count < 4096 ∧ (1, 5) ∈ u.t.bad ∧ (1, 5) ∈ u.t.seen ∧ (1, 5) ∉ u.t.soft ∧
      (inT one fun t => { t with bad := [(1, 5)] }).t.seen = [] ∧ (ready fun m => { m with badMem := [9], seenMem := [9] }).m.seenMem = [9] ∧
      sha512 (ready fun m => { m with restart := true, fwHash := sha512 [] }).m.fwImage = (ready fun m => { m with restart := true, fwHash := sha512 [] }).m.fwHash := by
  decide +kernel

/-- Coolant at the limits, outside them on each side; measurements at and beyond each thermal limit; a critical second that is over, and one that is not. -/
theorem witness_RecoveryAndPower_coolant :
    let b : BringUp := { failAt := some (7, 3), fwKey := some 0, rtKey := some 0, defects := [], ports := 5, linksUp := 0xF, flow := 60, inlet := 40, firmware := [1], runtime := [] }
    let dirty := ready fun m => { m with clusters := m.clusters.set 895 { dirty := true, pool := .dirty, defects := 2 } }
    State.reset.m.power.isReady = false ∧ 60 ≤ b.flow ∧ 20 ≤ b.inlet ∧ b.inlet ≤ 40 ∧ ({ b with flow := 59 } : BringUp).flow < 60 ∧
      ({ b with inlet := 41 } : BringUp).inlet > 40 ∧ ({ b with inlet := 19 } : BringUp).inlet < 20 ∧ { b with failAt := none }.failAt = none ∧
      (dirty.m.clusters[895]?).map (·.dirty) = some true ∧ (∀ f ∈ dirty.m.vfs.toList, 895 ∈ f.owned → f.st = .scrubbing) ∧
      55 < (ready fun m => { m with outlet := 56 }).m.outlet ∧ (ready fun m => { m with flow := 59 }).m.flow < 60 ∧
      (ready fun m => { m with warn := true, outlet := 55 }).m.warn = true ∧ (ready fun m => { m with warn := true, outlet := 55 }).m.outlet ≤ 55 ∧
      60 ≤ (ready fun m => { m with warn := true, outlet := 55 }).m.flow ∧
      (ready fun m => { m with critAt := some 0, bmc := 1900000000 }).m.critAt = some 0 ∧ 0 + 1900000000 ≤ (ready fun m => { m with critAt := some 0, bmc := 1900000000 }).m.bmc ∧
      (ready fun m => { m with critAt := some 1, bmc := 1900000000 }).m.bmc < 1 + 1900000000 := by
  decide +kernel

/-- A settled tile register beside an invalid source, for the tile words. -/
theorem witness_InvalidSourceNullifies_tile :
    let s := tagged base 9 .full
    (s.c.t[(7 : Fin 8)]).inflight = 0 ∧ Spoilt s [9] ∧ Spoilt s [1, 9] := by
  unfold Spoilt Sound; decide +kernel

/-- Stores of several sizes to global memory, one across two pages whose second piece is elsewhere, and one to a register of a neighbour. -/
def pages : State := inT base fun t => { t with dtlb := [
  { vf := 0, asid := 0, g := false, base := 0, size := 65536, pa := 0x20000, r := true, w := true, x := false, u := true, d := true, key := 0 },
  { vf := 0, asid := 0, g := false, base := 65536, size := 65536, pa := 0x50000, r := true, w := true, x := false, u := true, d := true, key := 0 }] }

theorem witness_OffCoreStoresAreSent_global :
    Sends mapped 0x108 8 8 false true mapped [⟨.glob 0x20108, 8, 0⟩] ∧ Sends mapped 0x100 16 16 false true mapped [⟨.glob 0x20100, 16, 0⟩] ∧
    Sends mapped 0x100 64 64 true false mapped [⟨.glob 0x20100, 64, 0⟩] ∧ NothingBefore mapped ∧ InScope mapped .dom :=
  ⟨⟨by decide +kernel, _, _, rfl, by decide +kernel, by decide +kernel, by decide +kernel, rfl, by decide +kernel, by decide +kernel, by decide +kernel, by simp⟩,
   ⟨by decide +kernel, _, _, rfl, by decide +kernel, by decide +kernel, by decide +kernel, rfl, by decide +kernel, by decide +kernel, by decide +kernel, by simp⟩,
   ⟨by decide +kernel, _, _, rfl, by decide +kernel, by decide +kernel, by decide +kernel, rfl, by decide +kernel, by decide +kernel, by decide +kernel, by simp⟩,
   by unfold NothingBefore; decide +kernel, by unfold InScope; decide +kernel⟩

theorem cut_pages : cutRange 65536 1025 0xFE00 1024 = [(0xFE00, 512), (0x10000, 512)] := by decide +kernel

theorem witness_OffCoreStoresAreSent_pieces :
    Sends pages 0xFE00 1024 64 false true pages [⟨.glob 0x2FE00, 512, 0⟩, ⟨.glob 0x50000, 512, 0⟩] := by
  refine ⟨by decide +kernel, pages, [⟨.glob 0x2FE00, 512, 0⟩, ⟨.glob 0x50000, 512, 0⟩], ?_, by decide +kernel, by decide +kernel, by decide +kernel, ?_,
    by decide +kernel, by decide +kernel, by decide +kernel, by simp⟩
  · unfold checkAddr checkRange
    rw [if_neg (by decide +kernel), if_neg (by decide +kernel)]
    exact (congrArg (fun l => chkGlob .store .d l pages []) cut_pages).trans rfl
  · unfold chkDirty
    rw [if_neg (by decide +kernel)]
    exact (congrArg (fun l => chkGlob .dirty .d l pages []) cut_pages).trans rfl

theorem witness_OffCoreStoresAreSent_tiles :
    Sends two 0xFF200000010000C0 64 64 true false two [⟨.tile 1 0xC0, 64, 0⟩] ∧
    Sends two 0xFF20000001800008 8 8 false true two [⟨.tile 1 0x800008, 8, 0⟩] :=
  ⟨⟨by decide +kernel, _, _, rfl, by decide +kernel, by decide +kernel, by decide +kernel, rfl, by decide +kernel, by decide +kernel, by decide +kernel, by simp; decide +kernel⟩,
   ⟨by decide +kernel, _, _, rfl, by decide +kernel, by decide +kernel, by decide +kernel, rfl, by decide +kernel, by decide +kernel, by decide +kernel, by simp; decide +kernel⟩⟩

theorem witness_AtomicWordsCommit_dirty :
    DirtyAt mapped 0x108 [⟨.glob 0x20108, 8, 0⟩] mapped [⟨.glob 0x20108, 8, 0⟩] := rfl

/-- One place of each kind, and the page of a swap that is dirty. -/
theorem witness_AtomicsReadAndWriteMemory_places :
    let a : Access := { kind := .amo 3 .minn 9 false, va := 0x10C, size := 4, pieces := [⟨.glob 0x2010C, 4, 0⟩] }
    let b : Access := { kind := .amo 3 .fadd 9 false, va := 0xFF00000000000010, size := 4, pieces := [⟨.tile 0 0x10, 4, 0⟩] }
    let c : Access := { kind := .casQ 4 7 9, va := 0xFF20000001000100, size := 16, pieces := [⟨.tile 1 0x100, 16, 0⟩] }
    let d : Access := { kind := .casQ 4 0 9, va := 0x100, size := 16, pieces := [⟨.glob 0x20100, 16, 0⟩] }
    OnePlace mapped 0 a ⟨.glob 0x2010C, 4, 0⟩ ∧ OnePlace mapped 0 b ⟨.tile 0 0x10, 4, 0⟩ ∧ OnePlace two 0 c ⟨.tile 1 0x100, 16, 0⟩ ∧
      OnePlace mapped 0 d ⟨.glob 0x20100, 16, 0⟩ ∧ Swaps c 7 9 ∧ Swaps d 0 9 ∧
      translate mapped 0 .d ⟨mapped.g.vf, d.root, d.asid, d.smode⟩ .dirty d.va.toNat = .ok mapped 0x20100 0 ∧ mapped.m.paExists 0x20100 = true :=
  ⟨⟨⟨_, rfl, by decide +kernel⟩, by decide +kernel, rfl, rfl, rfl, rfl, .inl ⟨_, rfl, by decide +kernel⟩⟩,
   ⟨⟨_, rfl, by decide +kernel⟩, by decide +kernel, rfl, rfl, rfl, rfl, .inr ⟨_, _, _, rfl, by decide +kernel, by decide +kernel, rfl, by decide +kernel⟩⟩,
   ⟨⟨_, rfl, by decide +kernel⟩, by decide +kernel, rfl, rfl, rfl, rfl, .inr ⟨_, _, _, rfl, by decide +kernel, by decide +kernel, rfl, by decide +kernel⟩⟩,
   ⟨⟨_, rfl, by decide +kernel⟩, by decide +kernel, rfl, rfl, rfl, rfl, .inl ⟨_, rfl, by decide +kernel⟩⟩,
   .inr ⟨_, _, _, rfl, rfl, rfl, rfl⟩, .inr ⟨_, _, _, rfl, rfl, rfl, rfl⟩, rfl, by decide +kernel⟩

/-- The schedule has named an agent outside the fence's scope, and one that lies in it; an interrupt is pending and enabled, or not. -/
theorem witness_OrderingAndEventWords_away : (inC base fun c => { c with outside := some .host }).awayAt (Machine.Scope.num .gang) = some .host ∧
    NothingBefore (inC base fun c => { c with outside := some .host }) ∧ base.awayAt (Machine.Scope.num .gang) = none ∧ InScope base .gang ∧
    (smode base).c.armed (smode base).time = 0 ∧
    (let s := smode (inC base fun c => { c with ie := 1, ipPre := true }); s.c.armed s.time ≠ 0 ∧ s.c.status.mode = true) := by
  unfold NothingBefore InScope; decide +kernel

theorem witness_ReductionsAndPacking_noEffect : Sound base ∧ vector base [] 2 = some (0x7F800000, 0x81) ∧ (0x81 : BitVec 8) ≠ 0xFF ∧ scalar base [2] 1 = some (7, true) := by
  unfold Sound; decide +kernel

theorem witness_LaneMovesAct_noEffect : Sound base ∧ vector base [] 2 = some (0x7F800000, 0x81) ∧ scalar base [2] 1 = some (7, true) ∧ scalar base [2, 1] 8 = some (0x108, true) ∧
    (0x81 : BitVec 8) &&& 0xFF ≠ 0xFF := by
  unfold Sound; decide +kernel

theorem witness_RecordWordsSendAndTake_bad : let s := inC base fun c => { c with recv := some (3, 9, [1, 2], 5), recvBad := true }
    RecordReady s ∧ s.c.recv ≠ none ∧ s.c.recvBad = true ∧ s.repeatable = false := by
  unfold RecordReady; decide +kernel

/-- A CAS of which one destination is taken, one to `x0`, data whose codes fail, and a load of two registers that failed. -/
theorem witness_FillsLand_taken :
    let p : List Piece := [⟨.glob 0x20100, 16, 0⟩]
    let a : Access := { kind := .casQ 26 5 6, va := 0x100, size := 16, pieces := p, data := some (List.replicate 16 255), cancelled := [26] }
    let b : Access := { kind := .amo 0 .maxn 3 true, va := 0x100, size := 8, pieces := [⟨.glob 0x20100, 8, 0⟩], data := some (List.replicate 8 1) }
    let d : Access := { kind := .vload 27, va := 0x100, size := 64, pieces := [⟨.glob 0x20100, 64, 0⟩], data := some (List.replicate 64 1), code := [5] }
    let e : Access := { kind := .loadQ 2, va := 0x100, size := 16, pieces := p, fault := some ⟨.uncorr, 0x100, 0x15⟩, cancelled := [2] }
    Landing (waiting base a) 0 0 0 a ∧ Landing (waiting base b) 0 0 0 b ∧ Landing (waiting base d) 0 0 0 d ∧ Landing (waiting two e) 0 0 0 e ∧
      d.code ≠ carryCodes (d.va.toNat % 64) (List.replicate 64 1) :=
  ⟨⟨by decide +kernel, by decide +kernel, rfl, by decide +kernel⟩, ⟨by decide +kernel, by decide +kernel, rfl, by decide +kernel⟩,
    ⟨by decide +kernel, by decide +kernel, rfl, by decide +kernel⟩, ⟨by decide +kernel, by decide +kernel, rfl, by decide +kernel⟩, by decide +kernel⟩

/-- A striped load of which the second part is read first, after every earlier store to its bytes. -/
theorem witness_MessagesArrive_part :
    let a : Access := { kind := .vload 27, va := 0xFF10000000000040, size := 64, pieces := [⟨.tile 0 0x40, 32, 0⟩, ⟨.tile 1 0x40, 32, 0⟩] }
    storesAhead (waiting two a) 0 0 a = false ∧ a.pieces[1]? = some ⟨.tile 1 0x40, 32, 0⟩ ∧ pieceFault (waiting two a) ⟨.tile 1 0x40, 32, 0⟩ = none ∧
      a.got.any (·.1 == 1) = false ∧ 0 < 16 ∧ two.tile? 0 = some two.t ∧ ([1, 2] : List Byte) ≠ [] ∧ 0x1FFFFE + 2 ≤ 0x200000 :=
  ⟨by decide +kernel, rfl, by decide +kernel, by decide +kernel, by decide, rfl, by decide, by decide⟩

/-- Classes with each kind of element; floats that `fadd_fixed` cannot convert, and one that it can. -/
theorem witness_RecordsAreHandled_folds : (let d : ClassD := { decl := true, handler := 0, scale := 0, prio := false, op := 2, et := 1, words := 1 }; d.et < 8 ∧ d.op ≠ 8) ∧
    ((11, FEt.f64) ∈ [(8, FEt.f16), (9, .bf16), (10, .f32), (11, .f64)]) ∧ (f32.decode 0x7FC00000).isNan = true ∧ f32.decode 0xFF800000 = .inf true ∧
    f32.decode 0x3F800000 = .fin false 0x800000 (-23) := by
  decide +kernel

/-- A repeatable superstep, and a collective's source with an error in it; a source that cannot be translated; a page that becomes dirty. -/
theorem witness_EnginesAct_errors :
    let c : Cmd := { beats := [(beat0 6 3 16 + 6 * 2 ^ 40, 0), (0xFF00000000001000, 0xFF00000000008000), (3, 0)], agent := 0, seq := 3 }
    let s := inT (inG (queued one 6 c) fun g => { g with belay := 3 }) fun t => { t with bad := [(srcSp, 0x1008 / 8)] }
    let m : Cmd := { beats := [(beat0 8 3 40, 0), (0x20000, 0), (0xFF00000000000100, 1)], agent := 0, seq := 3 }
    repeatableAt s 0 = true ∧ collUncorr s.t (begun c) = true ∧ (collBad s.t (begun c)).isSome = true ∧ repeatableAt (queued one 6 c) 0 = false ∧
      engsOk (engRanges 0 .e (cmdSpace (queued one 6 m) m) .load .load false [(0, 0xFF20000002000000, 40)] (queued one 6 m) []) = false ∧
      engOk (engRange (queued one 2 c) 0 .e (cmdSpace (queued one 2 c) c) .dirty .amo false 0x108 8) = true ∧
      anyOverlap [⟨.tile 0 0x100, 8, 0⟩] [⟨.tile 0 0x104, 8, 0⟩] = true ∧
      ((engRead (queued one 6 m) (subPieces [⟨.tile 0 0x100, 8, 0⟩] 4 4)).map (·.2)) = some [0, 0, 0, 0] := by
  decide +kernel

/-- Rim memory of a function that is not protected, good and with an error; an error is no hindrance to a protected one. -/
theorem witness_GangsDebuggerAndPages_cxl :
    let s := inM (fn0 id) fun m => { m with badMem := [0x1000 / 64] }
    s.hasVf 0 = true ∧ s.m.pullWait = false ∧ (s.vfAt 0).prot = false ∧ (s.vfAt 0).s2en = false ∧ paRim s.m 0x1000 = true ∧ paRim s.m 0x2000 = true ∧
      s.m.badRange (s.m.home 0x1000) 1 = true ∧ s.m.badRange (s.m.home 0x2000) 1 = false ∧ s.m.codeBad (s.m.home 0x2000) 1 = false ∧
      (cxlRead 0 (pageParts 0x2000 1) s.m []).pullWait = false ∧ ((fn0 fun f => { f with prot := true }).vfAt 0).prot = true := by
  decide +kernel

/-- Bring-ups of which a signature is bad; a scrub and a mismatch of a module that is ready; a critical time that is over, and one that is not. -/
theorem witness_RecoveryAndPower_bringup :
    let b : BringUp := { flow := 60, inlet := 20, failAt := none, firmware := [], runtime := [], fwKey := some one.m.keyHash, rtKey := none, ports := 1, linksUp := 0, defects := [] }
    let s := inM (ready id) fun m => { m with critAt := some 5, bmc := 1900000005 }
    State.reset.m.power.isReady = false ∧ 60 ≤ b.flow ∧ 20 ≤ b.inlet ∧ b.inlet ≤ 40 ∧ b.failAt = none ∧ { b with fwKey := none }.fwKey ≠ some one.m.keyHash ∧
      b.rtKey ≠ some one.m.keyHash ∧ (ready id).m.power.isReady = true ∧ (∀ f ∈ (ready id).m.vfs.toList, 895 ∈ f.owned → f.st = .scrubbing) ∧ s.m.critAt = some 5 ∧
      5 + 1900000000 ≤ s.m.bmc ∧ one.m.bmc < 5 + 1900000000 := by
  decide +kernel

/-- A migration whose pool is empty, with the page of guest address 0 on the source. -/
def drained : State :=
  let put (m : Module) (a x : Nat) : Module := m.writeGlob 0 a (bytesOf 8 x)
  inM (ready fun m => { m with domEn := true, domMem := 7, modId := 1, linkUp := 0xFFFFFFFF, vfs := m.vfs.set 0 { m.vfs[0] with
      st := .ready, s2en := true, s2root := 0x20, mig := { st := 1, src := 2, poolBase := 0x900000, poolN := 0 } } })
    fun m => put (put (put (put (put m 0x10000 0x20001) 0x20000 0x30001) 0x30000 0x40001) 0x40000 0x50001) 0x50000 (0x1080000070003 + 3 * 2 ^ 52 + 3 * 2 ^ 56)

/-- A launch whose class table lies on that page waits, one that needs no page of the pool does not; nor does the buffer of an attestation, unless it lies there. -/
theorem witness_LaunchesAreServed_pool :
    waitsForPool drained ⟨0, 2, (record dword0).set 8 0x100, 4, 4⟩ = true ∧
      (dispatchSized drained ⟨0, 2, (record dword0).set 8 0x100, 4, 4⟩).m.pullWait = true ∧
      (gpaWrite 0 (pageParts 0x100 1024) drained.m (List.replicate 1024 0)).pullWait = true ∧
      (cxlRead 0 (pageParts 0x100 1) drained.m []).pullWait = true ∧
      (gpaWrite 0 (pageParts 0x100 1024) (fn0 id).m (List.replicate 1024 0)).pullWait = false ∧
    waitsForPool (launches 0x1000 (record dword0)) ⟨0, 2, record dword0, 4, 4⟩ = false ∧
      (dispatchSized (launches 0x1000 (record dword0)) ⟨0, 2, record dword0, 0, 4⟩).m.pullWait = false := by
  decide +kernel

/-- A store, a load, a swap and an addition off the core that answer a next state, with one place each. -/
theorem witness_MemoryWordsChangeNothingElse_off :
    (Two mapped 8 1 0x108 7 ∧ Safety.One mapped 8 0x108 ∧ mapped.c.accs = [] ∧ mapped.c.posted = [] ∧ mapped.g.belay = 0) ∧
    (∃ t, exec (.st .d 1 8 false false 0) mapped = .next t) ∧ (∃ t, exec (.ld .d 27 8 false false 0) mapped = .next t) ∧
    (∃ t, exec (.amoadd true 27 8 1 .rlx .sys) mapped = .next t) ∧ ∃ t, exec (.casD 1 8 2 .rlx .sys) mapped = .next t :=
  ⟨by unfold Two Safety.One Sound; decide +kernel, ⟨_, rfl⟩, ⟨_, rfl⟩, ⟨_, rfl⟩, ⟨_, rfl⟩⟩

/-- Matrix and scatter words on the own scratchpad, whose scalars the frame names. -/
theorem witness_MemoryWordsChangeNothingElse_rows :
    (scalar base [] 4 = some (0xFF00000000000000, true) ∧ scalar base [4] 0 = some (0, true) ∧ vector base [4] 1 = some (0x0102030405060708, 0xFF) ∧
      vector base [4, 1] 2 = some (0x7F800000, 0x81) ∧ Own 0xFF00000000000000 1) ∧
    (∃ t, exec (.mst 7 4 0) base = .next t) ∧ ∃ t, exec (.vsca .h 2 4 1 false) base = .next t :=
  ⟨by unfold Own; decide +kernel, ⟨_, rfl⟩, ⟨_, rfl⟩⟩

/-- A lashed tile with its partner, and one without. -/
theorem witness_StepRunsTheDecodedInstruction_partner :
    let s := inG one fun g => { g with partners := [one.t] }
    one.g.partners = [] ∧ s.g.partners = [one.t] ∧ s.bg.length = 0 ∧ one.c.accs.any Access.ahead = false :=
  ⟨rfl, rfl, rfl, by decide +kernel⟩

/-- A group of which one member is here and the other elsewhere; a grid whose tiles have nothing left; a record that waits with its table readable. -/
theorem witness_LaunchesAreServed_ends :
    let x : GroupWait := { gid := 9, count := 2, idx := 1, since := 5, v := 0, q := 2, dw := record dword0, w := 4, h := 4 }
    let s := inM (launches 0x1000 (record dword0)) fun m => { m with groups := [x] }
    let e := inT (inC one fun c => { c with run := .ended }) fun t => { t with others := t.others.map fun c => { c with run := .ended } }
    groupMembers s 9 = x :: [] ∧ (∀ y ∈ x :: [], y.idx < y.count) ∧ (groupMembers s 9).length < x.count ∧ s.m.restart = false ∧
      (∀ t ∈ e.allTiles, t.lash.waiting = false ∧ t.lash.due = false ∧ t.ldr.posted = [] ∧ t.str.posted = []) ∧ (∀ m ∈ e.g.mesh, m.body = .loadReq) ∧
       dwN (record dword0) 12 / 256 % 2 ≠ 1 ∧ s.takesLaunches 0 = true := by
  decide +kernel

/-- A function that is being created with clusters, without and with none to be had; one that has a cluster, or a page alone, to scrub. -/
theorem witness_FunctionsAndDomain_partitions :
    let s := fn0 fun f => { f with st := .creating, owned := [5], clusters := 1 }
    let n := fn0 fun f => { f with st := .creating, clusters := 3 }
    let k := fn0 fun f => { f with st := .scrubbing, owned := [895], scrubPgs := [0x10000] }
    let p := fn0 fun f => { f with st := .scrubbing, scrubPgs := [0x10000] }
    s.hasVf 0 = true ∧ (s.vfAt 0).st = .creating ∧ (s.vfAt 0).owned ≠ [] ∧ (n.vfAt 0).owned = [] ∧ takeClusters n.m (n.vfAt 0) = none ∧
      ((assignClusters 0 n).vfAt 0).owned = [] ∧ (k.vfAt 0).owned = 895 :: [] ∧ (p.vfAt 0).owned = [] ∧ (p.vfAt 0).scrubPgs = 0x10000 :: [] ∧
      (k.m.clusters[895]?).isSome = true ∧ s.m.pullWait = false ∧ s.m.restart = false ∧ (fn0 fun f => { f with st := .failed, prot := true }).hasVf 0 = true ∧
      ((fn0 fun f => { f with st := .ready }).vfAt 0).prot = false := by
  decide +kernel

/-- The first and the last link; a meter of a function that is free and one that is not; a ring of usage records that is full. -/
theorem witness_FunctionsAndDomain_links :
    let s := ready fun m => { m with linkUp := 0xFFFFFFFF, usageC := 0 }
    s.m.power = .ready ∧ (0 < 544 ∧ 543 < 544) ∧ s.m.linkUp.getLsbD 31 = true ∧ (State.reset.vfAt 1).st = .free ∧ (s.vfAt 0).st ≠ .free ∧ s.m.usageRoom = false ∧
      s.m.usageW = [] ∧ ((fn0 fun f => { f with mig := { f.mig with st := 2 } }).vfAt 0).mig.st ≠ 0 ∧ (s.vfAt 0).mig.st = 0 ∧ s.hasVf 0 = true := by
  decide +kernel

/-- A fetch from a line that is cached, and the A word that was read with its C word. -/
theorem witness_StepRunsTheDecodedInstruction_pair :
    let s := inC fetchingC fun c => { c with pos := .aWord, fetched := some 0x42743FFF }
    let l : ILine := { base := 0x10000, bytes := List.replicate 64 0 }
    (0x10000 % 64 ≤ 60) ∧ s.c.pos = .aWord ∧ s.c.fetched = some 0x42743FFF ∧ bits (0x42743FFF : BitVec 32).toNat 30 1 = 1 ∧
      runs s = some (.addi 7 8 false 0x3FFF) ∧ (inT s fun t => { t with icache := [l] }).t.icache = l :: [] ∧ l.base = 0x1003C / 64 * 64 ∧
      (inC s fun c => { c with fetched := none }).c.fetched = none ∧ fetchingC.c.pos = .unit ∧ bits 0x1AF00C40 30 2 = 0 := by
  decide +kernel

/-- An event before which no word traps, and a step after which no debugger's halt or single step is due. -/
theorem witness_StepRunsTheDecodedInstruction_events :
    let s : State := { one with sched := [.event (.linkBeat 0 true)] }
    s.sched = .event (.linkBeat 0 true) :: [] ∧ trapsFirst (rest s) (.linkBeat 0 true) = false ∧ one.c.dbg.step = false ∧ one.c.dbg.pending = false ∧
      hDenial (focusHelper (rest s) 0 false) = none := by
  decide +kernel

/-! ## WellFormed refuses ill-formed terms -/

/-- Ports where a description rules them out (R48, R54). -/
theorem test_wf_refuses_ports : ∀ i ∈ [Instr.ld .d 28 1 false false 0, .lds .b 31 1 false false 0, .ldAcq .d 28 1 .tile false, .mkempty 28,
    .amoswap true 28 1 2 .rlx .tile, .amoadd true 1 28 2 .rlx .tile, .amoand true 1 2 28 .rlx .tile, .amoor true 29 1 2 .rlx .tile, .amoxor true 1 29 2 .rlx .tile,
    .amomin true 1 2 29 .rlx .tile, .amomax true 30 1 2 .rlx .tile, .amominn true 1 30 2 .rlx .tile, .amomaxn true 1 2 30 .rlx .tile, .amofadd 1 2 31 .rlx .tile,
    .casD 28 1 2 .rlx .tile, .vld 28 1 false 0, .vldNw 28 1 false 0, .vst 28 1 false 0, .vgat .b 28 1 2 false, .vsca .b 28 1 2 false, .vldb .b 28 1 false,
    .call 28 0, .bv 28 0, .bnv 28 0, .bnz 28 0, .bz 28 0, .jr 28 1 false 0, .ldk .d 28 1 2 false false, .wput 28 1 false, .syscall 28 false, .wrfe 28 false,
    .wrvb 28 false, .rdfe 28, .rdvb 28, .tlbinvVa 28 1 false false, .tlbinvVaall 28 false, .vbsel .n8 28 1 2, .vfma .f32 28 1 2, .vfnma .f32 28 1 2,
    .vfdot .f32 28 1 2, .vins (.int .n8) 28 1 2, .vslide (.int .n8) 28 1 2], i.wf = false := by
  decide +kernel

/-- Odd or reserved registers of pairs, formats that a description narrows, pairs of formats without scales, and words that are Xdk or system words (R48, R68, R134, R184, R296). -/
theorem test_wf_refuses_fields : ∀ i ∈ [Instr.lds .d 1 1 false false 0, .ldQ 1 4 false, .ldQ 0 4 false, .stQ 28 4 false, .stQ 27 4 false, .casQ 3 1 2 .rlx .tile,
    .casQ 2 28 4 .rlx .tile, .casQ 2 1 5 .rlx .tile, .vfdot .f64 1 2 3, .vpack24 .f32 1 2 3, .vunpack24 .f64 1 2 3, .vrcp .f64 1 2, .vrsqrt .f64 1 2, .vexp2 .f64 1 2, .vlog2 .f64 1 2,
    .mma .s8s8 1 2 3 4, .mmas .s8s4 1 2 3 0, .mmas .s8s8 1 2 3 4, .rv64imInstruction 0x73, .rv64imInstruction 0x100073, .rv64imInstruction 0x300B], i.wf = false := by
  decide +kernel

/-- The same words with fields inside their ranges. -/
theorem test_wf_accepts : ∀ i ∈ [Instr.ld .d 27 31 false false 0, .lds .w 27 28 false false 0, .ldQ 26 28 false, .stQ 2 4 false, .casQ 26 27 2 .rlx .tile, .vfdot .f32 27 28 31,
    .vpack24 .bf16 31 28 31, .mma .bf16t8 7 28 29 30, .mma .s4s4 7 1 2 0, .mmas .s8s8 7 1 2 0, .jr 27 28 false 0, .vst 27 31 false 0, .rv64imInstruction 0x13], i.wf = true := by
  decide +kernel

/-! ## The decoder reads words written out from the tables of the encoding (R53 to R69, R74, R342) -/

/-- Integer, immediate and constant words: L MAJ D A B FN wb wa SZ. -/
theorem test_decode_integer : decode 0b11000000001100101001100000010101 = .ok (.sub .w32 3 5 6 true false) ∧
    decode 0b11000010011101000011111111111111 = .ok (.addi 7 8 false 0x3FFF) ∧ decode 0b11001010100101010010000000000101 = .ok (.srai 9 10 false 5) ∧
    decode 0b11010000000100010010001101000101 = .ok (.li 1 0x12345) := by
  decide +kernel

theorem test_decode_compare_bits : decode 0b11001100000100010000110000111000 = .ok (.cmpLtn .w64 1 2 3 false true) ∧
    decode 0b11001110010000101010011111111101 = .ok (.cmpiGt 4 5 false 0x7FD) ∧ decode 0b11010100001000011000000000110001 = .ok (.bswap .w32 2 3 false) ∧
    decode 0b11010110000100010000110000010000 = .ok (.gaten 1 2 3 false false) := by
  decide +kernel

theorem test_decode_float : decode 0b11011000000100010000110001110010 = .ok (.fma .f32 1 2 3 false false) := by
  decide +kernel

theorem test_decode_memory : decode 0b10000110010100100011000000001000 = .ok (.st .w 5 4 false true 8) ∧
    decode 0b10001000000100010001000000000011 = .ok (.ldAcq .d 1 2 .grid false) := by
  decide +kernel

theorem test_decode_atomic : decode 0b10001010000100010000110001111101 = .ok (.amoadd true 1 2 3 .acqRel .dom) := by
  decide +kernel

theorem test_decode_vector : decode 0b11100000000100010000110000010011 = .ok (.vsub .s16 1 2 3) ∧ decode 0xE230883A = .ok (.vfma .f32 3 1 2) ∧
    decode 0xE651808A = .ok (.vredAdd (.flt .f32) 5 3) ∧ decode 0xE64098B9 = .ok (.vpack24 .bf16 4 1 6) := by
  decide +kernel

theorem test_decode_hyper : decode 0b11111000010100001000100000001010 = .ok (.hdist 5 1 2) ∧ decode 0b11111010010100001000100000000011 = .ok (.hrecall 5 1 2) := by
  decide +kernel

theorem test_decode_system : decode 0b10100100000100010101000000000110 = .ok (.csrw 1 2 true 6) ∧ decode 0b10011010000000000000110000000000 = .ok (.sync .gang) ∧
    decode 0x9AF00C40 = .ok (.fence .gang true true true true) ∧ decode 0xA2000010 = .ok .sret ∧ decode 0xA2000020 = .ok .endCtx := by
  decide +kernel

theorem test_decode_matrix : decode 0b10100000000100010000110000100000 = .ok (.mld true 1 2 3) := by
  decide +kernel

theorem test_decode_records : decode 0b10011000000000000000000000110000 = .ok .wdisp := by
  decide +kernel

theorem test_decode_helper : decodeHelper 0b00000110000000110011001110001011 = .ok (.dkWcnt 3 6 7) ∧ decodeHelper 0xFFF30293 = .ok (.rv64imInstruction 0xFFF30293) ∧
    decodeHelper 0x73 = .ok .ecall := by
  decide +kernel

/-- A reserved function number, a port where none may stand, and a word of zeros are refused by name (R47, R48). -/
theorem test_decode_refuses : (match decode 0xFFFFFFFF with | .ok _ => false | .error _ => true) = true ∧
    (match decode 0x800000FC with | .ok _ => false | .error _ => true) = true := by
  decide +kernel

theorem test_decode_memory_forms : decode 0b10000011101100100101011111111111 = .ok (.ld .w 27 4 true false 0x7FF) ∧
    decode 0b10001110001100100000000000000001 = .ok (.vld 3 4 false 1) ∧
    decode 0b10011110011100100010000000000001 = .ok (.hld 7 4 false true 1) ∧
    decode 0b10001100000100010000110000011001 = .ok (.casD 1 2 3 .acq .grid) := by
  decide +kernel

theorem test_decode_control : decode 0b10010010000000111111111111111111 = .ok (.br 0x3FFFF) ∧
    decode 0b10010010001101000000000000000010 = .ok (.call 3 2) ∧
    decode 0b10010100010110000000000000000100 = .ok (.bnz 5 4) ∧
    decode 0b10010110000100010111111111111111 = .ok (.jr 1 2 true 0x3FFF) ∧
    decode 0b10100010000000010000000000000100 = .ok (.syscall 2 true) := by
  decide +kernel

theorem test_decode_records_streams : decode 0b10011000000100010000110000001011 = .ok (.ldk .d 1 2 3 false true) ∧
    decode 0b10011000010100000001100000011000 = .ok (.wput 5 6 true) ∧
    decode 0b10011100101100010000000000010100 = .ok (.qput 11 2 true) := by
  decide +kernel

theorem test_decode_matrix_forms : decode 0b10100000000100010000000010100010 = .ok (.wbld .k1 true 1 2) ∧
    decode 0b10100000000100010000110010000011 = .ok (.mepi 1 2 3 4) ∧
    decode 0b11110000000100010000110010000000 = .ok (.mma .bf16bf16 1 2 3 4) := by
  decide +kernel

theorem test_decode_vector_forms : decode 0b11100100000100010010100000000011 = .ok (.vcvt (.int .s16) (.flt .f32) 1 2) ∧
    decode 0b11101000000100010000000000001010 = .ok (.vrcp .f32 1 2) ∧
    decode 0b11111000000100010000110000000100 = .ok (.hrot 1 2 3) := by
  decide +kernel

/-! ## Single steps -/

def after (o : Out3) : State :=
  match o with
  | .next t => t
  | _ => State.reset

/-- Value and V of scalar register `r` afterwards. -/
def x (o : Out3) (r : Fin 32) : W64 × Bool := ((after o).c.x[r].val, (after o).c.x[r].v)

/-- The encodings that the spec's worked examples print (R53 to R69, R147, R292, R342). -/
theorem test_decode_printed_words : decode 0x02953800 = .ok (.ld .d 9 10 false true 0) ∧ decode 0x40B4B004 = .ok (.add .w64 11 9 12 true false) ∧
    decode 0xD6C00030 = .ok (.clrv 12 0 false) ∧ decode 0xCCA48010 = .ok (.cmpNe .w64 10 9 0 false false) ∧ decode 0xD6B4A800 = .ok (.gate 11 9 10 false false) ∧
    decode 0xD6D63850 = .ok (.selv 13 12 14 false false) ∧ decode 0x945BFFFE = .ok (.bnz 5 0x3FFFE) ∧ decode 0xF2100000 = .ok (.mz false 1) ∧
    decode 0xF0152D80 = .ok (.mma .bf16bf16 1 10 11 12) ∧ decode 0xA016B9E3 = .ok (.mepi 1 13 14 15) ∧ decode 0xA0B80042 = .ok (.wbld .k2 false 11 16) ∧
    decodeHelper 0x08B5000B = .ok (.dkEcmd 0 10 11) ∧ decodeHelper 0x0005B50B = .ok (.dkWcnt 0 11 10) := by
  decide +kernel

/-- Width 32 wraps and sign-extends (R118, R119). -/
theorem test_add_wraps : x (exec (.add .w32 9 1 2 false false) (regs one [(1, 0x7FFFFFFF), (2, 1)])) 9 = (0xFFFFFFFF80000000, true) := by decide +kernel

/-- Division by zero and the most negative number by −1 (R93). -/
theorem test_div_edges : x (exec (.div .w64 9 1 0 false false) base) 9 = (0xFFFFFFFFFFFFFFFF, true) ∧
    x (exec (.div .w64 9 2 3 false false) base) 9 = (0x8000000000000000, true) ∧ x (exec (.rem .w64 9 1 0 false false) base) 9 = (7, true) := by decide +kernel

/-- Shift amounts are taken modulo the width (R119). -/
theorem test_sll_amount : x (exec (.sll .w32 9 1 8 false false) (regs one [(1, 3), (8, 33)])) 9 = (6, true) := by decide +kernel

/-- A false compare writes 0 with V = 0 (R123). -/
theorem test_cmp_false : x (exec (.cmpLt .w64 9 1 2 false false) base) 9 = (0, false) ∧ x (exec (.cmpLtn .w64 9 1 2 false false) base) 9 = (1, true) := by decide +kernel

/-- The example of R126: POS = 16 and LEN = 8. -/
theorem test_bfi_example : x (exec (.bfi .w64 9 1 2 false false) (regs one [(1, 0xAB), (2, 0x0810), (9, 0x12345678)])) 9 = (0x12AB5678, true) := by decide +kernel

/-- `gate` with an invalid second source, and a word that reads it (R21, R127). -/
theorem test_gate_then_null : x (exec (.gate 11 1 9 false false) (tagged base 9 .full)) 11 = (7, false) ∧
    x (exec (.div .w64 12 1 9 false false) (regs (tagged base 9 .full) [(12, 5)])) 12 = (5, true) := by decide +kernel

/-- 1.0 + 1.0, and 1.0 / 0 with DZ (R32, R129). -/
theorem test_fadd_fdiv : x (exec (.fadd .f32 9 1 1 false false) (regs one [(1, 0x3F800000)])) 9 = (0x40000000, true) ∧
    (after (exec (.fdiv .f32 9 1 0 false false) (regs one [(1, 0x3F800000)]))).c.fflags = 8 ∧
    x (exec (.fdiv .f32 9 1 0 false false) (regs one [(1, 0x3F800000)])) 9 = (0x7F800000, true) := by decide +kernel

/-- The A word of the EMPTY example: EPC at the word itself, HALF set, tval the register, tval2 the field (R20, R34). -/
theorem test_empty_trap :
    let t := after (exec (.add .w64 11 9 12 true false) (inC (tagged (regs one [(12, 5)]) 9 .awaiting) fun c => { c with pc := 0x1004, pos := .aWord, tvec := 0x8000 }))
    t.c.epc = 0x1004 ∧ t.c.status.half = true ∧ t.c.status.mode = true ∧ t.c.tval = 9 ∧ t.c.tval2 = 0 ∧ t.c.cause = 8 ∧ t.c.pc = 0x8000 := by decide +kernel

/-- A taken branch of the loop example, and a `jr` to an address that is not aligned (R135, R136). -/
theorem test_branches : (after (exec (.bnz 5 0x3FFFE) (inC base fun c => { c with pc := 0x10 }))).c.pc = 0x08 ∧
    (after (exec (.bnz 0 0x3FFFE) (inC base fun c => { c with pc := 0x10 }))).c.pc = 0x14 ∧
    (after (exec (.jr 9 1 false 0) base)).c.cause = 3 ∧ (after (exec (.jr 9 1 false 0) base)).c.tval = 7 := by decide +kernel

/-- `call` as the C word of a pair links past the pair and leaves the A word next (R49, R135). -/
theorem test_call_in_pair :
    let t := exec (.call 9 4) (inC base fun c => { c with pc := 0x1000, inPair := true })
    x t 9 = (0x1008, true) ∧ (after t).c.pc = 0x1004 ∧ (after t).c.xfer = some 0x1010 := by decide +kernel

/-- A store and the load of its bytes, zero- and sign-extended (R132, R133). -/
theorem test_store_load :
    let t := after (exec (.st .h 2 5 false false 0) (regs base [(2, 0x1234ABCD)]))
    x (exec (.ld .h 9 5 false false 0) t) 9 = (0xABCD, true) ∧ x (exec (.lds .b 9 5 false false 1) t) 9 = (0xFFFFFFFFFFFFFFAB, true) := by decide +kernel

/-- A privileged word in U mode traps PRIV with the word, L = 1 (R26, R361). -/
theorem test_sret_privilege : (after (exec .sret one)).c.cause = 2 ∧ (after (exec .sret one)).c.tval = 0xA2000010 := by decide +kernel

/-- `csrs` of `tmatch`, which S mode may write, returns the old value (R137). -/
theorem test_csrs_returns_old : x (exec (.csrs 9 1 false 0x010) (inC base fun c => { c with fflags := 8 })) 9 = (8, true) ∧
    (after (exec (.csrs 9 1 false 0x010) (inC base fun c => { c with fflags := 8 }))).c.fflags = 15 := by decide +kernel

/-- The example of R160 and R162: word 1 of a source is invalid, and v3 keeps its own. -/
theorem test_vfma_keeps_word :
    let one8 (k : Nat) (n : Nat) : W512 := .ofNat 512 ((List.range n).map fun i => k * 2 ^ (32 * i)).sum
    let s := vecs one [(1, one8 0x3F800000 16, 0xFF), (2, 0x4040000040000000, 0xFD), (3, one8 0x41200000 16, 0xFF)]
    let t := after (exec (.vfma .f32 3 1 2) s)
    t.c.v[(3 : Fin 32)].val.extractLsb' 0 128 = 0x41200000412000004150000041400000 ∧ t.c.v[(3 : Fin 32)].v = 0xFF ∧
      x (exec (.vredAdd (.flt .f32) 5 3) t) 5 = (0x43250000, true) ∧ t.c.fflags = 0 := by decide +kernel

/-- The example of R170. -/
theorem test_vpack24_example :
    let t := exec (.vpack24 .bf16 4 1 6) (vecs one [(1, 0x3E00BF003E80000040007FC0C0004000, 0xFF)])
    (after t).c.v[(4 : Fin 32)].val = 0xBF003E807FC04000 ∧ x t 6 = (0x44444498, true) := by decide +kernel

/-- The T4 table of the example, with −4.0, 9.0 and a NaN, and 0.3, 0.75 and −0.1 (R98 to R100). -/
theorem test_venc_example :
    let tab : List Nat := [0, 0x1F400, 0x1F800, 0x1FC00, 0x20000, 0x20200, 0x20500, 0x20800]
    let s (v : W512) := inT (vecs one [(1, v, 0xFF)]) fun t => { t with
      tab4 := Vector.ofFn fun (i : Fin 16) => .ofNat 19 (tab.getD (i.val % 8) 0 + 0x40000 * (i.val / 8)), nan4 := 8 }
    (after (exec (.venc true 2 1) (s 0x3F4000003E99999A))).c.v[(2 : Fin 32)].val = 0x21 ∧ (after (exec (.venc true 2 1) (s 0x3F4000003E99999A))).c.fflags = 1 ∧
      (after (exec (.venc true 2 1) (s 0x7FC00000BDCCCCCD41100000C0800000))).c.v[(2 : Fin 32)].val = 0x887E ∧
      (after (exec (.venc true 2 1) (s 0x7FC00000BDCCCCCD41100000C0800000))).c.fflags = 5 := by decide +kernel

/-- Hypervector distance and a search of one entry: the distance and the index, V by the threshold (R209, R215, R217). -/
theorem test_hdist_hrecall : x (exec (.hdist 9 1 7) base) 9 = (3, true) ∧
    x (exec (.hrecall 9 7 10) (putRecall base 200 ⟨true, 1⟩)) 9 = (0x000100C8, true) ∧ x (exec (.hrecall 9 7 0) (putRecall base 200 ⟨true, 1⟩)) 9 = (0x000100C8, false) := by
  decide +kernel

/-- A weight of 127 at a counter of 1 clamps and raises the saturation bit (R210). -/
theorem test_hbunw_clamps :
    let s := inC (regs base [(1, 127)]) fun c => { c with b := c.b.set 1 1 }
    let t := after (exec (.hbunw 1 7 1) s)
    count t 1 0 = 127 ∧ count t 1 1 = -127 ∧ t.c.sat = 2 := by decide +kernel

/-- `mz.s32`, and what `mstat` says of it: VALID, DIRTY, not in flight, KIND (R179, R197). -/
theorem test_mz_mstat : x (exec (.mstat 9 1) (after (exec (.mz true 1) base))) 9 = (0xB, true) := by decide +kernel

/-- 32 × 32 products by an identity slot: the example of group order gives 2^24 (R104). -/
theorem test_array_group_order : tileUpdate (tileUpdate 0 (f32.decode 0x4B800000)).1 (f32.decode 0x3F800000) = (0x4B800000, false) := by decide +kernel

/-- An atomic add of a mapped dword: what is in memory, and the old value (R297). -/
theorem test_amoadd :
    let s := inM mapped fun m => m.writeGlob 0 0x20108 (bytesOf 8 0xFFFFFFFFFFFFFFFF)
    let p := perform s 0 { kind := .amo 9 .add 7 true, va := 0x108, size := 8, pieces := [⟨.glob 0x20108, 8, 0⟩] }
    p.1.m.readGlob 0 0x20108 8 = bytesOf 8 6 ∧ p.2.data = some (bytesOf 8 0xFFFFFFFFFFFFFFFF) := by decide +kernel

/-- An address that is not aligned, and one in a hole of the map (R312). -/
theorem test_address_traps : (after (exec (.ld .d 9 1 false false 0) base)).c.cause = 3 ∧
    (after (exec (.ld .d 9 3 false false 0) (regs base [(3, 0xFF00000000200000)]))).c.cause = 7 := by decide +kernel

/-- A unit goes to `q11` and its length is told (R259). -/
theorem test_qput_qlen : (after (exec (.qput 11 1 false) base)).c.qout = [7] ∧ x (exec (.qlen 11 9) (after (exec (.qput 11 1 false) base))) 9 = (127, true) := by decide +kernel

/-- The lone arrival of a context at its own level completes at once (R272); a vote at another level waits. -/
theorem test_sync : (after (exec (.sync .ctx) one)).c.pc = one.c.pc + 4 ∧ (after (exec (.voteAdd .gang 9 1 false) base)).c.run = .blocked (.bar .gang) := by decide +kernel

/-- A helper core: `addi x5, x6, -1`, and `ecall` with a7 = 0 (R337, R343). -/
theorem test_helper_words : (after (exec (.rv64imInstruction 0xFFF30293) (helping base))).helper.x[(5 : Fin 32)] = 0xFFF0FFFFFFFFFFFF ∧
    (after (exec .ecall (helping base))).helper.stopped = true := by decide +kernel

/-- An event that cannot happen is refused by name. -/
theorem test_event_off : (match exec (.fillLand 0 0 0) one with | .refused (.eventNotEnabled _) => true | _ => false) = true := by decide +kernel

end Sys2Proof.Tests
end

section
/-! Retirement, trap entry and return, and where a result goes (O8, O9, O11, O12). -/

namespace Sys2Proof.Proofs

open Sys2Proof Sys2Proof.Machine Sys2Proof.Safety Sys2Proof.Says Sys2Proof.Laws

/-! ## Retirement -/

theorem retire_c (s : State) : (retire s).c = s.c.retired := sameButLog_c (retire_same s)
theorem retire_m (s : State) : (retire s).m = s.m := (sameButLog_m (retire_same s)).trans rfl
theorem retire_tiles (s : State) : (retire s).tiles = s.tiles := (sameButLog_tiles (retire_same s)).trans rfl
theorem retire_sp (s : State) : (retire s).t.sp = s.t.sp := (sameButLog_sp (retire_same s)).trans rfl

theorem retired_cWord {c : Ctx} (h : c.inPair = true) :
    c.retired.pc = c.pc + 4 ∧ c.retired.pos = .aWord ∧ c.retired.xfer = c.xfer := by
  simp [Ctx.retired, h]

theorem retired_lone {c : Ctx} (h : c.inPair = false) :
    c.retired.pos = .unit ∧ c.retired.xfer = none ∧ c.retired.pc = c.nextPc := by
  simp [Ctx.retired, h]

/-- Where the pc goes aside, a retiring word counts and leaves the registers alone. -/
theorem retired_counts (c : Ctx) : c.retired.instret = c.instret + 1 ∧ c.retired.run = .ready := by
  unfold Ctx.retired
  split <;> exact ⟨rfl, rfl⟩

theorem retired_registers (c : Ctx) :
    c.retired.x = c.x ∧ c.retired.v = c.v ∧ c.retired.h = c.h ∧ c.retired.t = c.t ∧ c.retired.b = c.b := by
  unfold Ctx.retired
  split <;> exact ⟨rfl, rfl, rfl, rfl, rfl⟩

/-- A taken transfer becomes pending behind a C word, and is made at once otherwise. -/
theorem retireTo_c (s : State) (p : W64) :
    (retireTo s p).c = if s.c.inPair then { s.c.retired with xfer := some p } else { s.c.retired with pc := p } := by
  unfold retireTo
  split <;> simp only [retire_c]

/-- Settles O9: a retiring word changes its context as `Ctx.retired` says and otherwise the tile's accounts alone. -/
theorem retirementMovesOn : Obligations.RetirementMovesOn := by
  unfold Obligations.RetirementMovesOn
  intro s
  obtain ⟨hcount, hrun⟩ := retired_counts s.c
  simp only [retire_c, retire_m, retire_tiles, retire_sp, retireTo_c]
  refine ⟨hcount, hrun, retired_cWord, retired_lone, fun p => ?_, retired_registers s.c, trivial, trivial, trivial⟩
  cases h : s.c.inPair with
  | true => exact ⟨hcount, (retired_cWord h).1, (retired_cWord h).2.1, rfl⟩
  | false => exact ⟨hcount, rfl, (retired_lone h).1⟩

/-! ## Trap entry and return -/

theorem mapTile_own (s : State) (f : Tile → Tile) : s.mapTile s.t.vt f = { s with t := f s.t } := if_pos rfl

/-- A tally of the focused tile leaves its memories and everything outside the tile but the grid's counters. -/
theorem tally_own (s : State) (n : Tally) :
    (s.tally s.t.vt n).m = s.m ∧ (s.tally s.t.vt n).tiles = s.tiles ∧ (s.tally s.t.vt n).t.sp = s.t.sp := by
  unfold State.tally
  rw [mapTile_own]
  refine ⟨rfl, rfl, ?_⟩
  dsimp only
  split <;> rfl

/-- Settles O11: the entry is the new context, a tally, and the fingerprint of the trap CSRs, which changes none of them. -/
theorem trapEntrySavesAndEnters : Obligations.TrapEntrySavesAndEnters := by
  unfold Obligations.TrapEntrySavesAndEnters
  intro s z tval tval2
  obtain ⟨hm, htiles, hsp⟩ := tally_own
    { s with t := { s.t with recWait := s.t.recWait.filter (· != s.c.id) } } { uncorr := (decide (z = .uncorr ∨ z = .poison)).toNat }
  simp only [trapEntry, sameButLog_c (absorbTrapCsrs_same _), sameButLog_m (absorbTrapCsrs_same _),
    sameButLog_tiles (absorbTrapCsrs_same _), sameButLog_sp (absorbTrapCsrs_same _), true_and]
  refine ⟨?_, hm, htiles, hsp⟩
  cases s.c.pos == .aWord <;> cases s.c.viaSret <;> cases s.c.xfer <;> rfl

/-- A word that is counted changes nothing else of its context, and no memory. -/
theorem countRetired_same (s : State) :
    SameButLog { s with c := { s.c with instret := s.c.instret + 1 } } (countRetired s) := countBundle_same ..

/-- The context that a return from a trap leaves (R35). -/
def returned (c : Ctx) : Ctx :=
  let st := { c.status with mode := c.status.pmode, ie := c.status.pie, pie := true, pmode := false, half := false }
  if c.status.half then
    { c with status := st, pc := c.epc, pos := .aWord, inPair := false, viaSret := true
             xfer := if c.status.xfer then some c.xtarget else none }
  else { c with status := { st with xfer := false }, pc := c.epc, pos := .unit, inPair := false, xfer := none }

theorem trapReturn_same (s : State) : SameButLog { s with c := returned s.c } (trapReturn s) := by
  unfold trapReturn absorbStatus absorbCsr
  exact absorb_same ..

/-- Settles O12: `sret` in S mode counts its word and returns. -/
theorem sretRestores : Obligations.SretRestores := by
  unfold Obligations.SretRestores
  intro s hs
  have hc : (countRetired s).c = { s.c with instret := s.c.instret + 1 } := sameButLog_c (countRetired_same s)
  have hm : (countRetired s).m = s.m := (sameButLog_m (countRetired_same s)).trans rfl
  have ht := trapReturn_same (countRetired s)
  refine ⟨trapReturn (countRetired s), by simp [execSret, privileged, hs, finish], ?_⟩
  rw [sameButLog_c ht, sameButLog_m ht, hc]
  dsimp only
  rw [hm]
  cases h : s.c.status.half <;> simp [returned, h]

/-! ## Where a scalar result goes -/

/-- The granule of a scalar register is the only one that the eight bytes of it cover whole. -/
theorem unitsWhole_granule (k : Nat) : unitsWhole 8 (8 * k) 8 = [k] := by
  have hn : (8 * k + 8 - 1) / 8 + 1 - 8 * k / 8 = 1 := by omega
  have hk : 8 * k / 8 = k := by omega
  unfold unitsWhole unitsOf
  rw [if_neg (by decide), hn, hk]
  simp [Nat.mul_comm]

/-- A write of one granule drops its error marks and no other. -/
theorem mem_heal_bad (t : Tile) (src k : Nat) (y : Nat × Nat) :
    y ∈ (t.heal src (8 * k) 8).bad ↔ y ∈ t.bad ∧ y ≠ (src, k) := by
  unfold Tile.heal
  split
  · next h => simp [h.1]
  · simp only [unitsWhole_granule, List.mem_filter, ne_eq, Prod.ext_iff]
    simp
    tauto

theorem heal_lash (t : Tile) (src off n : Nat) : (t.heal src off n).lash = t.lash ∧ (t.heal src off n).rfp = t.rfp := by
  unfold Tile.heal
  split <;> exact ⟨rfl, rfl⟩

/-- What enters the fingerprints of the focused tile changes its fingerprints alone, and nothing where it keeps none. -/
theorem absorb_lash (s : State) (role code : Nat) (bs : List Byte) (tag : Nat) : ∃ (l : Lash) (q : W64),
    absorb s role code bs tag = { s with t := { s.t with lash := l, rfp := q } } ∧
      (s.t.lash.role = 0 → s.g.rr = 0 → l = s.t.lash ∧ q = s.t.rfp) := by
  unfold absorb
  split
  · next h =>
    refine ⟨_, _, rfl, fun h1 h2 => ?_⟩
    simp [State.fingers, h1, h2] at h
  · exact ⟨s.t.lash, s.t.rfp, rfl, fun _ _ => ⟨rfl, rfl⟩⟩

theorem writeX_zero (s : State) {d : Fin 32} (x : W64) (v : Bool) (h : d.val = 0) : writeX s d x v = s := if_pos h

theorem writeX_register (s : State) {d : Fin 32} (x : W64) (v : Bool) (h0 : d.val ≠ 0) (h : d.val < 28) :
    writeX s d x v = absorb ((healReg s (8 * d.val) 8).setX d ⟨x, .full, v⟩) s.c.id d.val (bytesOf 8 x.toNat)
      (2 * (Tag.full).isFull.toNat + v.toNat) := by
  unfold writeX
  rw [if_neg h0, if_pos h]
  rfl

theorem writeX_direction (s : State) {d : Fin 32} (x : W64) (v : Bool) (h : 28 ≤ d.val) :
    writeX s d x v = sendPort s (dirOf d) (.word x v) := by
  unfold writeX
  rw [if_neg (by omega), if_neg (by omega)]

theorem writeSetsOneRegister : WriteSetsOneRegister := by
  intro s d x v
  refine ⟨writeX_zero s x v, fun h0 h => ?_⟩
  have ho : s.c.id * 0x20000 + 8 * d.val = 8 * (s.c.id * 0x4000 + d.val) := by ring
  obtain ⟨hl, hq⟩ := heal_lash s.t srcReg (s.c.id * 0x20000 + 8 * d.val) 8
  obtain ⟨l, q, hw, hlog⟩ := absorb_lash ((healReg s (8 * d.val) 8).setX d ⟨x, .full, v⟩) s.c.id d.val
    (bytesOf 8 x.toNat) (2 * (Tag.full).isFull.toNat + v.toNat)
  rw [writeX_register s x v h0 h, hw]
  refine ⟨⟨l, q, rfl, fun h1 h2 => ?_⟩, ?_, fun y hy => ?_⟩
  · obtain ⟨rfl, rfl⟩ := hlog (hl ▸ h1) h2
    exact ⟨hl, hq⟩
  · show (srcReg, _) ∉ (s.t.heal srcReg (s.c.id * 0x20000 + 8 * d.val) 8).bad
    rw [ho, mem_heal_bad]
    simp
  · show y ∈ (s.t.heal srcReg (s.c.id * 0x20000 + 8 * d.val) 8).bad ↔ _
    rw [ho] at hy ⊢
    rw [mem_heal_bad]
    simp at hy
    tauto

/-- One word is the data of one block, so a word entry carries one carry code. -/
theorem codes_word (c : Nat) (dir : Fin 4) (x : W64) (v : Bool) :
    (Body.port c dir (.word x v)).codes = [carryCode (bytesOf 8 x.toNat)] := by
  simp [Body.codes, Entry.bytes, carryCodes, unitsOf, slice, List.take_of_length_le]

theorem portWriteSendsOneEntry : PortWriteSendsOneEntry := by
  intro s d x v vt h hrole hn
  have hw : writeX s d x v = absorbOut (post s s.t.vt s.c.id vt (.port s.c.id (opposite (dirOf d)) (.word x v)))
      (28 + (dirOf d).val) (bytesOf 8 x.toNat) := by
    rw [writeX_direction s x v h, sendPort, hn]
    simp only [send, hrole, if_true]
    rfl
  have same := absorbOut_same (post s s.t.vt s.c.id vt (.port s.c.id (opposite (dirOf d)) (.word x v)))
    (28 + (dirOf d).val) (bytesOf 8 x.toNat)
  rw [hw]
  refine ⟨?_, (sameButLog_c same).trans rfl, (sameButLog_m same).trans rfl⟩
  obtain ⟨l, f, p, q, n, b, he⟩ := same
  rw [he]
  simp [post, stampNext, codes_word, State.msgScope]

/-- Settles O8. -/
theorem resultsGoToOneRegisterOrPort : Obligations.ResultsGoToOneRegisterOrPort :=
  ⟨writeSetsOneRegister, portWriteSendsOneEntry⟩

end Sys2Proof.Proofs
end

section
/-! Every word goes on (O60). -/

namespace Sys2Proof.Proofs

open Sys2Proof Sys2Proof.Machine Sys2Proof.Safety Sys2Proof.Says Sys2Proof.Laws

/-- The meaning of every word of the tile core ends in `finish`. -/
theorem exec_tileWord (i : Instr) (w : Nat) (s : State) (h : encode i = some w) : ∃ r, exec i s = finish s r := by
  cases i <;> cases h
  case br => exact ⟨.jump s _, rfl⟩
  case wdone | sev | hbclr | hmclrAll => exact ⟨.done _, rfl⟩
  case endCtx => exact ⟨.stay _, rfl⟩
  case yield => exact ⟨.leave s, rfl⟩
  all_goals exact ⟨_, rfl⟩

/-- That of every word of a helper core ends in `hFinish`. -/
theorem exec_helperWord (i : Instr) (w : Nat) (s : State) (h : encodeHelper i = some w) : ∃ r, exec i s = hFinish r := by
  cases i <;> cases h
  case dkSev | dkRdst => exact ⟨.go _ _, rfl⟩
  all_goals exact ⟨_, rfl⟩

theorem hFinish_next (r : HRes) : ∃ t, hFinish r = .next t := by cases r <;> exact ⟨_, rfl⟩

/-- Settles O60: a word ends in `finish` or `hFinish`, and either goes on. -/
theorem everyWordGoesOn : Obligations.EveryWordGoesOn := by
  unfold Obligations.EveryWordGoesOn
  intro i w s h
  rcases h with h | h
  · obtain ⟨r, hr⟩ := exec_tileWord i w s h
    exact hr ▸ finish_next s r
  · obtain ⟨r, hr⟩ := exec_helperWord i w s h
    exact hr ▸ hFinish_next r

end Sys2Proof.Proofs
end

section
/-! The address map, reset, and the checks of the mode (O20, O59, O15). -/

namespace Sys2Proof.Proofs

open Sys2Proof Sys2Proof.Machine Sys2Proof.Safety Sys2Proof.Says Sys2Proof.Laws

/-! ## The address map -/

theorem regionOf_own {a : Nat} (h : 0xFF00000000000000 ≤ a ∧ a < 0xFF00000000200000) : regionOf a = .own := by
  unfold regionOf
  rw [if_neg (by omega), if_pos h]

/-- The holes of the map are what none of its four ranges holds (R41, R311). -/
theorem regionOf_bad_iff (a : Nat) : regionOf a = .bad ↔ ¬ (a < 2 ^ 56 ∨ (0xFF00000000000000 ≤ a ∧ a < 0xFF00000000200000) ∨
    (0xFF10000000000000 ≤ a ∧ a < 0xFF10000002000000) ∨ (0xFF20000000000000 ≤ a ∧ a < 0xFF21000000000000)) := by
  unfold regionOf
  split_ifs <;> simp only [false_iff, true_iff, not_not] <;> omega

variable {s : State} {ea : W64} {n align : Nat} {k : AKind} {w : WKind}

theorem checkAddr_misaligned (h : ea.toNat % align ≠ 0) : checkAddr s ea n align k w = .trap s .misalign ea 0 := by
  unfold checkAddr
  rw [if_pos h]

theorem checkAddr_aligned (h : ea.toNat % align = 0) : checkAddr s ea n align k w = checkRange s ea n k w := by
  unfold checkAddr
  rw [if_neg (not_not_intro h)]

theorem checkRange_hole (h : regionOf ea.toNat = .bad ∨ regionOf (ea.toNat + n - 1) ≠ regionOf ea.toNat) :
    checkRange s ea n k w = .trap s .access ea 0 := by
  unfold checkRange
  exact if_pos h

theorem checkRange_own (h : Own ea n) (hn : 0 < n) : checkRange s ea n k w = .ok s [⟨.tile s.t.vt (offset ea), n, 0⟩] := by
  obtain ⟨h1, h2⟩ := h
  have first : regionOf ea.toNat = .own := regionOf_own ⟨h1, by omega⟩
  have last : regionOf (ea.toNat + n - 1) = .own := regionOf_own ⟨by omega, by omega⟩
  simp only [checkRange, first, last]
  rfl

theorem checkRange_noTile (h : regionOf ea.toNat = .tile) (hl : regionOf (ea.toNat + n - 1) = .tile)
    (ht : s.g.has (ea.toNat / 2 ^ 24 % 2 ^ 24) = false) : checkRange s ea n k w = .trap s .access ea 1 := by
  have hb : bits ea.toNat 24 24 = ea.toNat / 2 ^ 24 % 2 ^ 24 := rfl
  simp only [checkRange, h, hl, hb, ht]
  rfl

/-- Settles O20. -/
theorem addressesAreChecked : Obligations.AddressesAreChecked := by
  unfold Obligations.AddressesAreChecked
  refine fun s ea n align k w => ⟨checkAddr_misaligned, fun h => ?_, regionOf_bad_iff⟩
  rw [checkAddr_aligned h]
  exact ⟨checkRange_hole, checkRange_own, checkRange_noTile⟩

/-! ## Reset -/

/-- Settles O59: the reset state is given field by field, and every memory of it lists nothing. -/
theorem resetHoldsWhatTheSpecStates : Obligations.ResetHoldsWhatTheSpecStates := by
  unfold Obligations.ResetHoldsWhatTheSpecStates
  have noTile : ∀ t ∈ State.reset.tiles, TileForm t := fun _ h => nomatch h
  have noCopy : GridForm State.reset.g := fun _ h => nomatch h
  have noBox : ∀ b ∈ State.reset.bg, GridForm b.g ∧ ∀ t ∈ b.tiles, TileForm t := fun _ h => nomatch h
  have hx (r : Fin 32) : State.reset.c.x[r] = {} := Vector.getElem_replicate ..
  have hv (r : Fin 32) : State.reset.c.v[r] = {} := Vector.getElem_replicate ..
  have ht (r : Fin 8) : State.reset.c.t[r] = {} := Vector.getElem_replicate ..
  have hh (r : Fin 8) : State.reset.c.h[r] = {} := Vector.getElem_replicate ..
  have hb (r : Fin 2) : State.reset.c.b[r] = 0 := Vector.getElem_replicate ..
  have hq (d : Fin 4) : State.reset.c.inq[d] = [] := Vector.getElem_replicate ..
  have hr (e : Fin 256) : State.reset.t.rmem[e] = {} := Vector.getElem_replicate ..
  refine ⟨⟨rfl, ⟨rfl, rfl, rfl, rfl, rfl⟩, noTile, noCopy, noBox⟩, rfl, rfl, rfl, rfl, rfl, rfl, rfl, ?_, ?_, ?_, hb, hq, ?_, ?_, rfl, rfl⟩
  · intro r _
    rw [hx]
    exact ⟨rfl, rfl, rfl⟩
  · intro r
    rw [hv]
    exact ⟨rfl, rfl, rfl⟩
  · intro r
    rw [ht, hh]
    exact ⟨rfl, rfl, rfl, rfl, rfl, rfl⟩
  · intro e
    rw [hr]
  · exact ⟨rfl, rfl, rfl, rfl, rfl, rfl, rfl, rfl, rfl, rfl, rfl, rfl, rfl, rfl, rfl, rfl, rfl, rfl⟩

/-! ## The mode -/

theorem privileged_user (word : W64) (r : Res) (h : s.c.status.mode = false) :
    privileged s word r = .trap s .priv word 0 := by simp [privileged, h]

theorem finish_trap (z : Cause) (a b : W64) (hz : z ≠ .uncorr) (u : State) : finish u (.trap s z a b) = Safety.trapped s z a b := by
  simp [finish, trapWord, hz, Safety.trapped]

theorem privilegedWordsTrapInUserMode : PrivilegedWordsTrapInUserMode := by
  intro s hs
  constructor
  · intro i hi
    fin_cases hi <;>
      simp only [exec_sret, exec_wfi, exec_tlbinvAll, execSret, execWfi, execTlbinvAll, privileged_user _ _ hs,
        finish_trap _ _ _ (show Cause.priv ≠ .uncorr by decide)] <;> rfl
  · intro a b wa wb i hi
    fin_cases hi <;>
      simp only [exec_tlbinvAsid, exec_tlbinvVa, exec_tlbinvVaall, execTlbinvAsid, execTlbinvVa, execTlbinvVaall,
        privileged_user _ _ hs, finish_trap _ _ _ (show Cause.priv ≠ .uncorr by decide)] <;> rfl

theorem csrAccess_unlisted (i : Instr) (r : Res) {m : Nat} (h : csrListed m = false) :
    csrAccess s i m r = .trap s .illegal (wordOf s i) 0 := by simp [csrAccess, h]

theorem csrAccess_user (i : Instr) (r : Res) {m : Nat} (h : csrListed m = true) (hm : s.c.status.mode = false)
    (hS : csrS m = true) : csrAccess s i m r = .trap s .priv (wordOf s i) (.ofNat 64 (0x1000 + m)) := by
  simp [csrAccess, h, hm, hS]

theorem csrAccess_ok (i : Instr) (r : Res) {m : Nat} (h : csrListed m = true)
    (hm : s.c.status.mode = true ∨ csrS m = false) : csrAccess s i m r = r := by
  rcases hm with hm | hm <;> simp [csrAccess, h, hm]

/-- Every CSR word checks its access first. -/
theorem csrWord_access {d a : Fin 32} {wa : Bool} {n : BitVec 12} {i : Instr}
    (hi : i ∈ [Instr.csrr d n, .csrw d a wa n, .csrs d a wa n, .csrc d a wa n]) (s : State) :
    ∃ r, exec i s = finish s (csrAccess s i n.toNat r) := by
  fin_cases hi <;> exact ⟨_, rfl⟩

theorem csrAccessIsChecked : CsrAccessIsChecked := by
  intro s d a wa n i hi
  obtain ⟨r, hr⟩ := csrWord_access hi s
  rw [hr]
  refine ⟨fun h => ?_, fun h hm hS => ?_⟩
  · rw [csrAccess_unlisted i r h, finish_trap _ _ _ (by decide)]
    rfl
  · rw [csrAccess_user i r h hm hS, finish_trap _ _ _ (by decide)]
    simp [reported, wordOf, BitVec.ofNat_add]

/-- Settles O15. -/
theorem modeIsChecked : Obligations.ModeIsChecked := ⟨privilegedWordsTrapInUserMode, csrAccessIsChecked⟩

end Sys2Proof.Proofs
end

section
/-! The CSR words, `status` and `dtstat` (O13, O14). -/

namespace Sys2Proof.Proofs

open Sys2Proof Sys2Proof.Machine Sys2Proof.Safety Sys2Proof.Says Sys2Proof.Laws

variable {s t : State} {d a : Fin 32} {n : BitVec 12} {x old : W64} {wa : Bool}

theorem finish_pop_trap (u v : State) (rs : List (Fin 32)) (z : Cause) (p q : W64) (hz : z ≠ .uncorr) :
    finish u ((Res.trap v z p q).pop (curOf rs)) = Safety.trapped v z p q := by
  show finish u (.trap v z p q) = _
  simp [finish, trapWord, hz, Safety.trapped]

theorem finish_pop_wait (u v : State) (rs : List (Fin 32)) (b : Block) :
    finish u ((Res.wait v b).pop (curOf rs)) = blocked v b := rfl

theorem ofNat_bits (v : W64) (lo k : Nat) : BitVec.ofNat k (bits v.toNat lo k) = v.extractLsb' lo k := by
  apply BitVec.eq_of_toNat_eq
  simp [bits, Nat.shiftRight_eq_div_pow]

/-! ## Reading a CSR -/

/-- The exchange of ROLE between a pair concerns a read of `lashcfg` by a lashed tile alone (R386). -/
theorem pairRead_other (s t : State) (d : Fin 32) (x : W64) {m : Nat} (h : m ≠ 0x081 ∨ s.t.lash.role ≠ 1) :
    pairRead s t m d x = t := by
  unfold pairRead
  rw [if_neg (by tauto)]

/-! ## Writing a CSR -/

/-- What a CSR word does with the state in which its CSR has been written. -/
def csrEnd (s : State) (n : BitVec 12) (d : Fin 32) (t : State) : Res :=
  let u := absorbCsr t n.toNat (csrRead t n.toNat).toNat
  .done (pairRead u (oldWritten s u d (csrRead s n.toNat)) n.toNat d (csrRead s n.toNat))

theorem csrUpdate_of (h : One s a x) (hd : Writable s d) (hn : Accessible s n) (i : Instr) (f : W64 → W64 → W64) (c : W64 → Bool) :
    csrUpdate s i d a wa n.toNat f c =
      finish s ((csrWrite s n.toNat (f (csrRead s n.toNat) x) (c x) (csrEnd s n d)).pop (curOf [a])) := by
  obtain ⟨hs, ha⟩ := h
  unfold csrUpdate
  rw [csrAccess_ok _ _ hn.1 hn.2, ← curOf_nil, srcX_of hs ha, commit_curOf, dstX_of hd]
  rfl

/-- Each write form is `csrUpdate`, with its new value and its view of a W1C bit. -/
theorem csrForm_update {q : Instr × W64} (hq : q ∈ csrForms d a wa n old x) :
    ∃ (f : W64 → W64 → W64) (c : W64 → Bool), f old x = q.2 ∧ exec q.1 s = csrUpdate s q.1 d a wa n.toNat f c := by
  simp only [csrForms, List.mem_cons, List.not_mem_nil, or_false] at hq
  rcases hq with rfl | rfl | rfl
  · exact ⟨fun _ x => x, fun _ => true, rfl, rfl⟩
  · exact ⟨fun o x => o ||| x, fun x => x.getLsbD 63, rfl, rfl⟩
  · exact ⟨fun o x => o &&& ~~~x, fun _ => false, rfl, rfl⟩

theorem absorb_role (s : State) (role code : Nat) (bs : List Byte) (tag : Nat) :
    (absorb s role code bs tag).t.lash.role = s.t.lash.role := by
  unfold absorb
  split
  · show (if s.t.lash.role = 0 then s.t.lash else _).role = _
    split <;> rfl
  · rfl

theorem csrForm_of (h : One s a x) (hd : Writable s d) (hn : Accessible s n)
    {q : Instr × W64} (hq : q ∈ csrForms d a wa n (csrRead s n.toNat) x) :
    ∃ c, exec q.1 s = finish s ((csrWrite s n.toNat q.2 c (csrEnd s n d)).pop (curOf [a])) := by
  obtain ⟨f, c, hf, he⟩ := csrForm_update (s := s) hq
  exact ⟨c x, by rw [he, csrUpdate_of h hd hn, hf]⟩

theorem finish_csrEnd (hp : n.toNat ≠ 0x081 ∨ t.t.lash.role ≠ 1) :
    finish s ((csrEnd s n d t).pop (curOf [a])) = csrDone s t d a n (csrRead s n.toNat) := by
  have hp' : n.toNat ≠ 0x081 ∨ (absorbCsr t n.toNat (csrRead t n.toNat).toNat).t.lash.role ≠ 1 := by
    rw [absorbCsr, absorb_role]
    exact hp
  unfold csrEnd
  dsimp only
  rw [pairRead_other _ _ _ _ hp', finish_pop_done]
  rfl

/-- A context in S mode at the C word of a pair, on a lashed tile of a grid whose run is recorded. -/
def lashedRecorded : State :=
  { State.reset with
    c := { State.reset.c with status := { State.reset.c.status with mode := true }, inPair := true }
    t := { State.reset.t with lash := { role := 1 } }
    g := { State.reset.g with rr := 1 } }

/-- The fingerprint of the log, after a word. -/
def logPrint : Out3 → W64
  | .next t => t.t.rfp
  | _ => 0

/-- The new contents of `lashcfg` enter the fingerprint of the log (R395). -/
theorem logPrint_lashcfg : logPrint (exec (.csrw 0 0 false 0x081) lashedRecorded) ≠ 0xFFFFFFFFFFFFFFFF := by
  decide +kernel

/-- Refutes O13: its last clause, for `lashcfg` of a lashed tile, leaves the fingerprint of the log alone, but where the run is
recorded the register's new contents enter it. -/
theorem not_csrWordsReadAndWrite : ¬ Obligations.CsrWordsReadAndWrite := by
  unfold Obligations.CsrWordsReadAndWrite
  rintro ⟨-, h⟩
  have one : Safety.One lashedRecorded 0 0 := ⟨(fun _ h => nomatch h), rfl⟩
  obtain ⟨-, -, -, -, hS⟩ := h lashedRecorded 0 0 false 0 one trivial
  obtain ⟨-, -, hl⟩ := hS rfl
  obtain ⟨l, -, -, -, he⟩ := hl rfl (.csrw 0 0 false 0x081, 0) (List.mem_cons_self ..)
  exact logPrint_lashcfg (congrArg logPrint he)

/-! ## `status` and `dtstat` -/

theorem statusKeepsItsBits : StatusKeepsItsBits := by
  intro s d a wa x h hd q hq
  obtain ⟨c, he⟩ := csrForm_of h hd ⟨rfl, .inr rfl⟩ hq
  refine ⟨{ s with c := { s.c with status := s.c.status.write (!s.c.status.mode) q.2 } },
    he.trans (finish_csrEnd (.inl (by decide))), rfl, ?_⟩
  have hrm := ofNat_bits q.2 5 2
  cases hm : s.c.status.mode <;> simp [Status.write, hrm, hm]

/-- With nothing before it, a read of the own scratchpad on-core reads the bytes. -/
theorem performOwn_nil (p : Access → Bool) (h : s.c.accs = []) : performOwn p s = s := by
  unfold performOwn
  rw [h]
  show { s with c := { s.c with accs := [] } } = s
  rw [← h]

theorem onCoreAccess_of (ps : List Piece) (k : State → Res) (ha : s.c.accs = []) (hm : s.msgsOf s.t.vt s.c.id = [])
    (hp : s.c.posted = []) (hf : s.c.passed = []) : onCoreAccess s ps k = k s := by
  have hown : ownPending s ps = false := by simp [ownPending, hm]
  have hsettle : settleOver ps s = s := if_pos hp
  simp [onCoreAccess, afterAcquire, ha, hf, afterFences, hown, afterOwn, performOwn_nil _ ha, hsettle]

theorem repairMarks_clean (vt src : Nat) (us : List Nat) (h : ∀ t, s.tile? vt = some t → t.soft = []) :
    repairMarks s vt src us = s := by
  unfold repairMarks
  split
  · rfl
  · next t ht => rw [if_pos (h t ht)]

theorem onCoreRead_of (ea : W64) (m : Nat) (k : State → List Byte → Res) (ha : s.c.accs = []) (hm : s.msgsOf s.t.vt s.c.id = [])
    (hp : s.c.posted = []) (hf : s.c.passed = []) (hb : s.t.bad = []) (hs : s.t.soft = []) :
    onCoreRead s ea m k = k s (s.t.sp.read (ea.toNat - 0xFF00000000000000) m) := by
  unfold onCoreRead
  rw [onCoreAccess_of _ _ ha hm hp hf]
  have hbad (o : Nat) : s.t.badRange srcSp o m = false := by simp [Tile.badRange, hb]
  have hown (t : Tile) (ht : s.tile? s.t.vt = some t) : t.soft = [] := by
    simp only [State.tile?, if_true, Option.some.injEq] at ht
    exact ht ▸ hs
  simp only [hbad, correctPiece, repairMarks_clean _ _ _ hown]
  rfl

theorem slice_read (m : Memory) (o a k n : Nat) (h : o + k ≤ n) : slice (m.read a n) o k = m.read (a + o) k := by
  unfold slice
  dsimp only
  have hl : (((m.read a n).drop o).take k).length = k := by simp; omega
  rw [hl, Nat.sub_self, List.replicate_zero, List.append_nil]
  refine List.ext_getElem (by simp; omega) fun i h1 h2 => ?_
  simp only [List.getElem_take, List.getElem_drop, read_getElem, Nat.add_assoc]

/-- An entry of a table image is four bytes of the scratchpad (R97). -/
theorem imageEntry_read (m : Memory) (o n i : Nat) (h : 4 * i + 4 ≤ n) :
    imageEntry (m.read o n) i = .ofNat 19 (natOf (m.read (o + 4 * i) 4)) := by
  rw [imageEntry, slice_read _ _ _ _ _ h]

theorem load8_read (t : Tile) (m : Memory) (o : Nat) : t.load8 (m.read o 1024) =
    { t with tab8 := Vector.ofFn fun (i : Fin 256) => .ofNat 19 (natOf (m.read (o + 4 * i.val) 4)) } := by
  unfold Tile.load8
  congr 2
  funext i
  exact imageEntry_read _ _ _ _ (by omega)

theorem load4_read (t : Tile) (m : Memory) (o : Nat) : t.load4 (m.read o 64) =
    { t with tab4 := Vector.ofFn fun (i : Fin 16) => .ofNat 19 (natOf (m.read (o + 4 * i.val) 4)) } := by
  unfold Tile.load4
  congr 2
  funext i
  exact imageEntry_read _ _ _ _ (by omega)

/-- The offset of a table as an address of the own window. -/
theorem toNat_tableAddr (v : W64) : (BitVec.ofNat 64 (spBase + toffOf v)).toNat - 0xFF00000000000000 = toffOf v := by
  have : toffOf v < 2 ^ 21 := by unfold toffOf bits; omega
  simp [spBase]
  omega

theorem toffOf_eq (v : W64) : toffOf v = (v.extractLsb' 34 19).toNat * 4 := by
  rw [← ofNat_bits]
  simp [toffOf, bits]

/-- The tile after a `dtstat` write in S mode (R96, R97). -/
def dtstatWritten (t : Tile) (v : W64) : Tile :=
  let off := (v.extractLsb' 34 19).toNat * 4
  let entry (i : Nat) : BitVec 19 := .ofNat 19 (natOf (t.sp.read (off + 4 * i) 4))
  { t with
    tab8 := if v.getLsbD 13 then Vector.ofFn fun (i : Fin 256) => entry i.val else t.tab8
    tab4 := if v.getLsbD 12 then Vector.ofFn fun (i : Fin 16) => entry i.val else t.tab4
    toff := .ofNat 21 off, nan4 := v.extractLsb' 8 4, nan8 := v.extractLsb' 0 8 }

section
variable {v : W64} {k : State → Res}

theorem writeDtstat_busy (h : (v.getLsbD 13 || v.getLsbD 12) = true) (hb : s.t.tableBusy (v.getLsbD 13) (v.getLsbD 12) = true) :
    writeDtstat s v k = .wait s (.tables (v.getLsbD 13) (v.getLsbD 12)) := by
  unfold writeDtstat
  exact if_pos (by rw [h, hb]; rfl)

theorem writeDtstat_free (h : (v.getLsbD 13 || v.getLsbD 12) = false ∨ s.t.tableBusy (v.getLsbD 13) (v.getLsbD 12) = false) :
    ((v.getLsbD 13 || v.getLsbD 12) && s.t.tableBusy (v.getLsbD 13) (v.getLsbD 12)) = false := by
  rcases h with h | h <;> simp only [h, Bool.false_and, Bool.and_false]

theorem writeDtstat_out (h : ((v.getLsbD 13 || v.getLsbD 12) && s.t.tableBusy (v.getLsbD 13) (v.getLsbD 12)) = false)
    (ho : (v.getLsbD 13 = true ∧ 0x200000 < toffOf v + 1024) ∨ (v.getLsbD 12 = true ∧ 0x200000 < toffOf v + 64)) :
    writeDtstat s v k = .trap s .access (.ofNat 64 (0xFF00000000000000 + toffOf v)) 0 := by
  unfold writeDtstat
  refine (if_neg (by rw [h]; decide)).trans (if_pos ?_)
  simp only [Bool.or_eq_true, Bool.and_eq_true, decide_eq_true_eq]
  exact ho

theorem writeDtstat_loads (h : ((v.getLsbD 13 || v.getLsbD 12) && s.t.tableBusy (v.getLsbD 13) (v.getLsbD 12)) = false)
    (ho : ¬ ((v.getLsbD 13 = true ∧ 0x200000 < toffOf v + 1024) ∨ (v.getLsbD 12 = true ∧ 0x200000 < toffOf v + 64)))
    (ha : s.c.accs = []) (hm : s.msgsOf s.t.vt s.c.id = []) (hp : s.c.posted = []) (hf : s.c.passed = []) (hb : s.t.bad = [])
    (hs : s.t.soft = []) : writeDtstat s v k = k { s with t := dtstatWritten s.t v } := by
  have hread (n : Nat) (k : State → List Byte → Res) :
      onCoreRead s (.ofNat 64 (spBase + toffOf v)) n k = k s (s.t.sp.read (toffOf v) n) := by
    rw [onCoreRead_of _ _ _ ha hm hp hf hb hs, toNat_tableAddr]
  have hout : ((v.getLsbD 13 && decide (spSize < toffOf v + 1024)) || (v.getLsbD 12 && decide (spSize < toffOf v + 64))) = false := by
    rw [← Bool.not_eq_true]
    simp only [Bool.or_eq_true, Bool.and_eq_true, decide_eq_true_eq]
    exact ho
  unfold writeDtstat dtstatWritten
  simp only [h, hout, ofNat_bits, ← toffOf_eq]
  cases v.getLsbD 13 <;> cases v.getLsbD 12 <;>
    simp only [readImage, hread, load8_read, load4_read, if_true, if_false, Bool.false_eq_true]

end

theorem tableWordsLoad : TableWordsLoad := by
  intro s d a wa x h hd ha hm hp hf hb hs
  dsimp only
  intro q hq
  obtain ⟨c, he⟩ := csrForm_of h hd ⟨rfl, .inr rfl⟩ hq
  have hw (k : State → Res) : csrWrite s 0x030 q.2 c k = if !s.c.status.mode then k s else writeDtstat s q.2 k := rfl
  have hend (t : State) : finish s ((csrEnd s 0x030 d t).pop (curOf [a])) = csrDone s t d a 0x030 (csrRead s 0x030) :=
    finish_csrEnd (.inl (by decide))
  simp only [show (0x030 : BitVec 12).toNat = 0x030 from rfl, hw] at he
  rw [he, ← toffOf_eq]
  refine ⟨fun hu => ?_, fun hS => ?_⟩
  · rw [hu]
    exact hend s
  · rw [hS]
    refine ⟨fun hld hbusy => ?_, fun hfree => ⟨fun hout => ?_, fun hout => ?_⟩⟩
    · show finish s ((writeDtstat s q.2 _).pop _) = _
      rw [writeDtstat_busy hld hbusy, finish_pop_wait]
    · show finish s ((writeDtstat s q.2 _).pop _) = _
      rw [writeDtstat_out (writeDtstat_free hfree) hout, finish_pop_trap _ _ _ _ _ _ (by decide)]
    · show finish s ((writeDtstat s q.2 _).pop _) = _
      rw [writeDtstat_loads (writeDtstat_free hfree) hout ha hm hp hf hb hs, hend]
      simp only [dtstatWritten, ← toffOf_eq]

/-- Settles O14. -/
theorem statusWritesKeepMode : Obligations.StatusWritesKeepMode := ⟨statusKeepsItsBits, tableWordsLoad⟩

end Sys2Proof.Proofs
end

section
/-! The landing of fills (O43). -/

namespace Sys2Proof.Proofs

open Sys2Proof Sys2Proof.Machine Sys2Proof.Safety Sys2Proof.Says Sys2Proof.Laws

/-- A performed load of one byte into `x1` that holds two bytes of data. -/
def longLoad : Access := { kind := .load 1 false, va := 0, size := 1, pieces := [], data := some [1, 1] }

def withLongLoad : State := { State.reset with c := { State.reset.c with accs := [longLoad] } }

theorem longLoad_landing : Landing withLongLoad 0 0 0 longLoad := ⟨rfl, rfl, rfl, rfl, rfl, rfl, rfl⟩

/-- What `x1` holds after an event. -/
def firstRegister : Out3 → W64
  | .next t => t.c.x[(1 : Fin 32)].val
  | _ => 0

/-- The fill takes all the bytes that its data has. -/
theorem firstRegister_longLoad : firstRegister (exec (.fillLand 0 0 0) withLongLoad) = 257 := by decide +kernel

/-- The statement takes as many of them as the load's size says. -/
theorem firstRegister_sized :
    firstRegister (.next ((writeX (landed withLongLoad 0 0 0) 1 (extended false 1 257) true).focus 0 0)) = 1 := by decide +kernel

/-- Refutes O43: a load whose data is longer than its size, which nothing in the statement rules out, is zero-extended from all
of its data and not from the bytes of its size. -/
theorem not_fillsLand : ¬ Obligations.FillsLand := by
  unfold Obligations.FillsLand
  intro h
  obtain ⟨hl, -⟩ := (h withLongLoad 0 0 0 longLoad longLoad_landing).1 [1, 1] rfl rfl (.inl rfl)
  have he := congrArg firstRegister (hl 1 false rfl)
  rw [firstRegister_longLoad] at he
  exact absurd (he.trans firstRegister_sized) (by decide)

end Sys2Proof.Proofs
end

section
/-! The events of a tile core (O44). -/

namespace Sys2Proof.Proofs

open Sys2Proof Sys2Proof.Machine Sys2Proof.Safety Sys2Proof.Says Sys2Proof.Laws

/-! ## Bringing a context into focus -/

/-- A context put into its place in the list is the first of its number there. -/
theorem find_insertCtx (l : List Ctx) (c : Ctx) (i : Nat) :
    (insertCtx l c).find? (·.id == i) = (c :: l).find? (·.id == i) := by
  induction l with
  | nil => rfl
  | cons d r ih =>
    rw [insertCtx]
    split
    · rfl
    · next h =>
      by_cases hd : d.id = i
      · have hc : ¬ c.id = i := by omega
        simp [hd, hc]
      · have hd' : (d.id == i) = false := by simpa using hd
        rw [List.find?_cons, hd', ih, List.find?_cons, List.find?_cons, List.find?_cons, hd']

theorem find_insertTile (l : List Tile) (t : Tile) : (insertTile l t).find? (·.vt == t.vt) = some t := by
  induction l with
  | nil => simp [insertTile]
  | cons u r ih =>
    rw [insertTile]
    split
    · simp
    · next h =>
      have hu : (u.vt == t.vt) = false := by simp; omega
      rw [List.find?_cons, hu, ih]

/-- The focused tile is `vt`, and `c` is its context `i`, in focus or not. -/
def Stands (vt i : Nat) (c : Ctx) (s : State) : Prop := s.t.vt = vt ∧ (s.c :: s.t.others).find? (·.id == i) = some c

theorem stands_own (s : State) : Stands s.t.vt s.c.id s.c s := ⟨rfl, by simp⟩

theorem focus_of_stands {vt i : Nat} {c : Ctx} {s : State} (h : Stands vt i c s) : (s.focus vt i).c = c := by
  obtain ⟨hvt, hc⟩ := h
  unfold State.focus
  split
  · next hi => simpa [hi.2] using hc
  · have ht : (insertTile s.tiles { s.t with others := insertCtx s.t.others s.c }).find? (·.vt == vt) =
        some { s.t with others := insertCtx s.t.others s.c } := by
      rw [← hvt]
      exact find_insertTile s.tiles { s.t with others := insertCtx s.t.others s.c }
    dsimp only
    rw [ht]
    dsimp only
    rw [find_insertCtx, hc]

/-! ## What is done in every grid of a launch group -/

theorem getElem?_setNth {α : Type} (l : List α) (k : Nat) (x : α) (h : k < l.length) : (setNth l k x)[k]? = some x := by
  induction l generalizing k with
  | nil => simp at h
  | cons y r ih =>
    cases k with
    | zero => rfl
    | succ k => exact ih k (by simpa using h)

/-- A change of the grid's own words and of the fingerprints of its tiles. -/
def SameButGrid (s t : State) : Prop :=
  t.c = s.c ∧ t.t.vt = s.t.vt ∧ t.t.others = s.t.others ∧ t.bg = s.bg

theorem notePartner_sameButGrid (s p : State) (vt : Nat) : SameButGrid s (s.notePartner p vt) := by
  unfold State.notePartner
  split
  · exact ⟨rfl, rfl, rfl, rfl⟩
  · simp only [State.mapTile]
    split <;> exact ⟨rfl, rfl, rfl, rfl⟩

theorem mirrored_sameButGrid (f : State → State) (s r : State) : SameButGrid r (mirrored f s r) := by
  unfold mirrored
  induction s.g.partners generalizing r with
  | nil => exact ⟨rfl, rfl, rfl, rfl⟩
  | cons u l ih =>
    obtain ⟨h1, h2, h3, h4⟩ := ih (r.notePartner (f (s.asPartner u)) u.vt)
    obtain ⟨k1, k2, k3, k4⟩ := notePartner_sameButGrid r (f (s.asPartner u)) u.vt
    exact ⟨h1.trans k1, h2.trans k2, h3.trans k3, h4.trans k4⟩

theorem sameButGrid_trans {s t u : State} (h : SameButGrid s t) (k : SameButGrid t u) : SameButGrid s u := by
  obtain ⟨h1, h2, h3, h4⟩ := h
  obtain ⟨k1, k2, k3, k4⟩ := k
  exact ⟨k1.trans h1, k2.trans h2, k3.trans h3, k4.trans h4⟩

theorem stands_sameButGrid {vt i : Nat} {c : Ctx} {s t : State} (h : Stands vt i c s) (hs : SameButGrid s t) : Stands vt i c t := by
  obtain ⟨hc, hvt, ho, -⟩ := hs
  unfold Stands
  rw [hc, hvt, ho]
  exact h

theorem insertCtx_ne_nil (l : List Ctx) (c : Ctx) : insertCtx l c ≠ [] := by
  cases l with
  | nil => simp [insertCtx]
  | cons d r =>
    rw [insertCtx]
    split <;> simp

/-- The box at place `k` of the background opens with its first tile and that tile's first context. -/
def Opens (s : State) (k : Nat) (b : GridBox) (t : Tile) (ts : List Tile) (c : Ctx) (cs : List Ctx) : Prop :=
  s.bg[k]? = some b ∧ b.tiles = t :: ts ∧ t.others = c :: cs

theorem swapGrid_opens {s : State} {k : Nat} {b : GridBox} {t : Tile} {ts : List Tile} {c : Ctx} {cs : List Ctx}
    (h : Opens s k b t ts c cs) : swapGrid s k = { s with
      bg := setNth s.bg k ⟨s.g, { s.t with others := insertCtx s.t.others s.c } :: s.tiles⟩
      g := b.g, t := { t with others := cs }, tiles := ts, c := c } := by
  obtain ⟨hb, ht, hc⟩ := h
  simp only [swapGrid, hb, ht, hc]

/-- A grid comes into focus, or whatever stands in focus with that background stays. -/
theorem swapGrid_cases (s : State) (k : Nat) :
    (∃ b t ts c cs, Opens s k b t ts c cs) ∨ ∀ u : State, u.bg = s.bg → swapGrid u k = u := by
  cases hb : s.bg[k]? with
  | none => exact .inr fun u hu => by simp only [swapGrid, hu, hb]
  | some b =>
    cases ht : b.tiles with
    | nil => exact .inr fun u hu => by simp only [swapGrid, hu, hb, ht]
    | cons t ts =>
      cases hc : t.others with
      | nil => exact .inr fun u hu => by simp only [swapGrid, hu, hb, ht, hc]
      | cons c cs => exact .inl ⟨b, t, ts, c, cs, hb, ht, hc⟩

/-- A grid that comes into focus, changes its own words and goes back leaves the contexts of the one before. -/
theorem stands_swap {vt i : Nat} {c : Ctx} {s : State} (h : Stands vt i c s) (k : Nat) {f : State → State}
    (hf : ∀ u, SameButGrid u (f u)) : Stands vt i c (swapGrid (f (swapGrid s k)) k) := by
  rcases swapGrid_cases s k with ⟨b, t, ts, c', cs, ho⟩ | hstay
  · obtain ⟨d, ds, hd⟩ : ∃ d ds, insertCtx s.t.others s.c = d :: ds := List.exists_cons_of_ne_nil (insertCtx_ne_nil _ _)
    obtain ⟨-, -, -, hbg⟩ := hf (swapGrid s k)
    have hk : k < s.bg.length := (List.getElem?_eq_some_iff.1 ho.1).1
    have back : Opens (f (swapGrid s k)) k ⟨s.g, { s.t with others := insertCtx s.t.others s.c } :: s.tiles⟩
        { s.t with others := insertCtx s.t.others s.c } s.tiles d ds := by
      refine ⟨?_, rfl, hd⟩
      rw [hbg, swapGrid_opens ho]
      exact getElem?_setNth _ _ _ hk
    rw [swapGrid_opens back]
    refine ⟨h.1, ?_⟩
    show (d :: ds).find? _ = _
    rw [← hd, find_insertCtx]
    exact h.2
  · rw [hstay s rfl, hstay _ (hf s).2.2.2]
    exact stands_sameButGrid h (hf s)

/-- What changes the words of the grids of a launch group alone leaves the context in focus as it is. -/
theorem forGroup_c (s : State) {f : State → State} (hf : ∀ u, SameButGrid u (f u)) : (forGroup f s).c = s.c := by
  have hm (u : State) : SameButGrid u (mirrored f u (f u)) := sameButGrid_trans (hf u) (mirrored_sameButGrid f u (f u))
  refine focus_of_stands (vt := s.t.vt) (i := s.c.id) ?_
  have h0 := stands_sameButGrid (stands_own s) (hf s)
  generalize f s = u at h0
  induction groupIdx s generalizing u with
  | nil => exact h0
  | cons k l ih => exact ih _ (stands_swap h0 k hm)

/-! ## Membership -/

theorem setBarOpen_sameButGrid (lv id gen : Nat) (held : Bool) (s : State) : SameButGrid s (setBarOpen lv id gen held s) :=
  ⟨rfl, rfl, rfl, rfl⟩

theorem openBar_c (s : State) (lv id gen : Nat) : (openBar s lv id gen).c = s.c := by
  unfold openBar
  split
  · exact forGroup_c s fun u => setBarOpen_sameButGrid _ _ _ _ u
  · rfl

theorem openHeld_c (s : State) (lv : Nat) : (openHeld s lv).c = s.c := by
  unfold openHeld
  dsimp only
  split
  · rfl
  · split
    · exact openBar_c ..
    · rfl

theorem foldl_openHeld_c (l : List Nat) (s : State) : (l.foldl openHeld s).c = s.c := by
  induction l generalizing s with
  | nil => rfl
  | cons lv l ih => exact (ih _).trans (openHeld_c s lv)

/-- A write to `memb` sets the context's membership, whatever generations open with it (R239). -/
theorem writeMemb_c (s : State) (v : W64) : (writeMemb s v).c =
    { s.c with mTile := v.getLsbD 1, mGang := v.getLsbD 3, mGrid := v.getLsbD 4, mDom := v.getLsbD 6 } :=
  foldl_openHeld_c ..

/-! ## Interrupts and deferred faults -/

section
variable {s : State}

theorem dueFault_head (hh : s.c.dbg.halted = false) (hr : s.c.released s s.t = false) (hf : s.c.run ≠ .frozen) :
    dueFault s = s.c.dfaults.head? := by
  simp [dueFault, hh, hr, hf]

/-- The order of R34 as a search for the first bit that is set. -/
theorem irqOrder_find (p : BitVec 5) :
    (if p.getLsbD 4 then some .debug else if p.getLsbD 0 then some .preempt else if p.getLsbD 3 then some .engine
      else if p.getLsbD 1 then some .timer else if p.getLsbD 2 then some .soft else none) =
      (irqOrder.find? fun x => p.getLsbD x.1).map (·.2) := by
  unfold irqOrder
  split_ifs <;> simp only [List.find?_cons, List.find?_nil, Option.map_some, Option.map_none, *]

/-- The interrupt that is taken is the first pending and enabled one of the order of R34. -/
theorem irq_order (c : Ctx) (time : Nat) (h : c.maskOpen = true) :
    c.irq time = (irqOrder.find? fun p => (c.ip time &&& c.ie).getLsbD p.1).map (·.2) := by
  rw [← irqOrder_find]
  unfold Ctx.irq
  rw [h]
  rfl

theorem maskOpen_of (h : s.c.status.mode = true → s.c.status.ie = true) : s.c.maskOpen = true := by
  cases hm : s.c.status.mode <;> simp_all [Ctx.maskOpen]

theorem dueIrq_of (hh : s.c.dbg.halted = false) (hr : s.c.released s s.t = false) (hf : s.c.run ≠ .frozen)
    (hb : s.c.atBoundary = true) (hw : s.c.run ≠ .blocked .wfi) : dueIrq s = s.c.irq s.time := by
  simp [dueIrq, hh, hr, hf, hb, hw]

end

theorem onTurn_of {row : String} {s : State} {vt c : Nat} {t : Tile} (ht : s.tile? vt = some t) (hn : nextTurn s t = some c)
    (k : State → Option State) : onTurn row vt c s k = event row (k (atTurn s vt c)) := by
  simp [onTurn, ht, hn, atTurn]

theorem interruptsAndFaultsEnter : InterruptsAndFaultsEnter := by
  intro s vt c t ht hn u hh hr hf hd
  refine ⟨fun d r hdf => ?_, fun hdf hheld hb hw hm z hz => ?_⟩
  · have hdue : dueFault u = some d := by rw [dueFault_head hh hr hf, hdf]; rfl
    rw [exec_deferredFault, execDeferredFault, onTurn_of ht hn]
    show event _ (if (dueDenial u).isSome then none else (dueFault u).map fun d => enterFault u d) = _
    rw [hd, hdue]
    show Host.Outcome.next (enterFault u d) = _
    rw [enterFault, hdf]
    rfl
  · have hdue : dueFault u = none := by rw [dueFault_head hh hr hf, hdf]; rfl
    have hirq : dueIrq u = some z.2 := by
      rw [dueIrq_of hh hr hf hb hw, irq_order _ _ (maskOpen_of hm), hz]
      rfl
    rw [exec_interruptEntry, execInterruptEntry, onTurn_of ht hn]
    show event _ (if u.heldBack vt || (dueFault u).isSome || (dueDenial u).isSome then none
      else (dueIrq u).map fun z => enterIrq u z) = _
    rw [hheld, hdue, hd, hirq]
    rfl

/-- Where nothing is recorded, nothing is logged (R395). -/
theorem logEvent_off {s : State} (h : s.g.rr ≠ 1) (vt kind role pos : Nat) (arg : W64) : logEvent s vt kind role pos arg = s := by
  unfold logEvent
  rw [if_neg (by tauto)]

theorem enterIrq_other {s : State} (h : s.g.rr ≠ 1) {z : Cause} (hz : z ≠ .preempt) : enterIrq s z = takeIrq s z := by
  unfold enterIrq
  simp only [logEvent_off h, if_neg hz]

/-- PREEMPT freezes the context at its handler and keeps the page request that the word waits for (R369). -/
theorem enterIrq_preempt {s : State} (h : s.g.rr ≠ 1) : ∃ k, enterIrq s .preempt =
    let t := trapEntry s .preempt 0 0
    atSwitch { t with c := { t.c with run := .frozen, kept := k } } := by
  have ht : takeIrq s .preempt = trapEntry s .preempt 0 0 := rfl
  unfold enterIrq
  simp only [logEvent_off h, ht, if_true]
  generalize trapEntry s .preempt 0 0 = t
  exact ⟨_, rfl⟩

theorem interruptEntrySaves : InterruptEntrySaves := by
  intro s h
  obtain ⟨hepc, -, -, -, -, -, -, -, -, -, -, hpc, -⟩ := trapEntrySavesAndEnters s .preempt 0 0
  obtain ⟨k, hk⟩ := enterIrq_preempt h
  generalize trapEntry s .preempt 0 0 = t at hk hepc hpc
  refine ⟨enterIrq_other h (by decide), enterIrq_other h (by decide), enterIrq_other h (by decide), enterIrq_other h (by decide),
    ?_, ?_, ?_, k, ?_⟩
  · rw [hk]
    rfl
  · rw [hk]
    exact hepc
  · rw [hk]
    exact hpc
  · exact hk

/-! ## Turns and the timer -/

theorem ip_timer (c : Ctx) (time : Nat) (h : c.tmatch.toNat ≤ time) : (c.ip time).getLsbD 1 = true := by
  simp only [Ctx.ip, h]
  cases c.ipPre <;> cases c.ipSoft <;> cases decide (c.frecs ≠ []) <;> cases c.ipDebug <;> rfl

theorem turnsAndTimers : TurnsAndTimers := by
  constructor
  · intro s vt t c ht hc hsw hfr hcap hturn hb hheld hready
    have hcap' : (c.runcap == 0) = false := by simpa using hcap
    have hturn' : decide (c.turn < c.runcap.toNat) = false := by simpa using hturn
    simp only [exec_runcapExpiry, execRuncapExpiry, ht, hc, hsw, hfr, hcap', hturn', hb, hheld, hready]
    rfl
  · intro s vt c x hx hm
    refine ⟨?_, ip_timer x s.time hm⟩
    simp only [exec_timerMatch, execTimerMatch, hx, if_pos hm]

/-! ## Register writes that act as events -/

theorem tile?_of_ctx? {s : State} {vt c : Nat} {x : Ctx} (h : s.ctx? vt c = some x) : ∃ t, s.tile? vt = some t := by
  unfold State.ctx? at h
  split at h
  · next t ht => exact ⟨t, ht⟩
  · cases h

/-- The event of a table load, where the table is free, in the scratchpad and sound (R97). -/
theorem tableEvent_of {row : String} {s : State} {vt n : Nat} {t : Tile} {o : BitVec 21} {busy : Tile → Bool}
    (ht : s.tile? vt = some t) (ho : o.toNat % 4 = 0) (hb : t.bad = []) (hf : busy t = false) (hn : o.toNat + n ≤ 0x200000)
    (load : Tile → List Byte → Tile) :
    tableEvent row vt o.toNat n busy load s =
      .next (s.mapTile vt fun t => { load t (t.sp.read o.toNat n) with toff := o }) := by
  have hq : o.toNat / 4 * 4 = o.toNat := by omega
  have hbad : t.badRange srcSp o.toNat n = false := by simp [Tile.badRange, hb]
  have hout : decide (spSize < o.toNat + n) = false := decide_eq_false (Nat.not_lt.2 hn)
  unfold tableEvent
  simp only [ht, hq, hf, hbad, hout]
  simp

theorem dropRecord_context {s : State} {vt r : Nat} {c : Ctx} {f : FaultRec} {fs : List FaultRec} (hr : r < 4)
    (hc : s.ctx? vt r = some c) (hf : c.frecs = f :: fs) : exec (.engineFaultDrop vt r) s =
      .next ((s.mapCtx vt r fun x => { x with frecs := x.frecs.drop 1 }).mapTile vt fun t => t.resume [f]) := by
  obtain ⟨t, ht⟩ := tile?_of_ctx? hc
  simp only [exec_engineFaultDrop, execEngineFaultDrop, hasRecord, dropRecord, ht, hr, if_true, hc, hf]
  rfl

theorem registerEventsAct : RegisterEventsAct := by
  refine ⟨fun s vt c v hc => ⟨?_, ?_, ?_⟩, fun s vt t o ht ho hb => ⟨fun hf hn => ?_, fun hf hn => ?_⟩,
    fun s vt r c f fs hr hc hf => dropRecord_context hr hc hf, fun s vt t f fs ht => ⟨fun hf => ?_, fun hf => ?_⟩,
    fun s vt ht => ⟨?_, ?_⟩⟩
  · rw [exec_runcapWrite, execRuncapWrite, if_pos hc]
    rfl
  · rw [exec_membWrite, execMembWrite, if_pos hc]
  · rw [writeMemb_c]
    exact ⟨rfl, rfl, rfl, rfl⟩
  · rw [exec_tableLoadT8, execTableLoadT8, tableEvent_of ht ho hb hf hn]
    simp only [load8_read]
  · rw [exec_tableLoadT4, execTableLoadT4, tableEvent_of ht ho hb hf hn]
    simp only [load4_read]
  · simp only [exec_engineFaultDrop, execEngineFaultDrop, hasRecord, ht, hf]
    rfl
  · simp only [exec_engineFaultDrop, execEngineFaultDrop, hasRecord, ht, hf]
    rfl
  · rw [exec_lashcfgWrite, execLashcfgWrite, if_pos ht]
    rfl
  · rw [exec_belaycfgWrite, execBelaycfgWrite, if_pos ht]
    rfl

/-- Settles O44. -/
theorem coreEventsHappen : Obligations.CoreEventsHappen :=
  ⟨interruptsAndFaultsEnter, interruptEntrySaves, turnsAndTimers, registerEventsAct⟩

end Sys2Proof.Proofs
end

section
/-! Launch queues, slots, dispatch and the end of grids (O51). -/

namespace Sys2Proof.Proofs

open Sys2Proof Sys2Proof.Machine Sys2Proof.Safety Sys2Proof.Says Sys2Proof.Laws

/-! ## Queues and slots -/

theorem satInc16_eq (x : W16) : satInc16 x = if x = 0xFFFF then 0xFFFF else x + 1 := by
  unfold satInc16
  split
  · next h => rw [if_pos (h.trans (by decide)), h]; decide
  · next h => rw [if_neg fun e => h (e.trans (by decide))]

/-- The older of two notifies, as the choice of a queue takes it. -/
def older (b x : Nat × Nat × Nat) : Nat × Nat × Nat := if notifiedBefore x b then x else b

theorem older_le (b x : Nat × Nat × Nat) : (older b x).2.2 ≤ b.2.2 ∧ (older b x).2.2 ≤ x.2.2 := by
  unfold older notifiedBefore
  grind

theorem foldl_older_mem (l : List (Nat × Nat × Nat)) (a : Nat × Nat × Nat) : l.foldl older a ∈ a :: l := by
  induction l generalizing a with
  | nil => simp
  | cons x r ih =>
    have h := ih (older a x)
    have hx : older a x = a ∨ older a x = x := by unfold older; split <;> simp
    rw [List.foldl_cons]
    grind

theorem foldl_older_le (l : List (Nat × Nat × Nat)) (a : Nat × Nat × Nat) : ∀ f ∈ a :: l, (l.foldl older a).2.2 ≤ f.2.2 := by
  induction l generalizing a with
  | nil => simp
  | cons x r ih =>
    have h := ih (older a x)
    have hx := older_le a x
    rw [List.foldl_cons]
    grind

theorem oldestPending_eq (s : State) : oldestPending s = match pendingQueues s with
    | [] => none
    | a :: r => some (r.foldl older a) := rfl

theorem oldestPending_least (s : State) (e : Nat × Nat × Nat) (h : oldestPending s = some e) :
    e ∈ pendingQueues s ∧ ∀ f ∈ pendingQueues s, e.2.2 ≤ f.2.2 := by
  rw [oldestPending_eq] at h
  split at h
  · simp at h
  · next a r hp =>
    obtain rfl := Option.some.inj h
    rw [hp]
    exact ⟨foldl_older_mem r a, foldl_older_le r a⟩

theorem vfAt_mapVf (s : State) {v : Nat} (f : Vf → Vf) (hv : v < 64) : (s.mapVf v f).vfAt v = f (s.vfAt v) := by
  simp [State.mapVf, Module.mapVf, State.vfAt, hv, List.getD_eq_getElem?_getD]

theorem vfAt_mapVf_other (s : State) {v u : Nat} (f : Vf → Vf) (hu : u ≠ v) : (s.mapVf v f).vfAt u = s.vfAt u := by
  by_cases hv : v < 64
  · simp [State.mapVf, Module.mapVf, State.vfAt, hv, List.getD_eq_getElem?_getD, Ne.symm hu]
  · simp [State.mapVf, Module.mapVf, hv]

theorem fence_setFence (f : Vf) {i : Nat} (x : W64) (hi : i < 256) : (f.setFence i x).fence i = x := by
  simp [Vf.setFence, Vf.fence, hi, List.getD_eq_getElem?_getD]

theorem fence_setFence_other (f : Vf) {i j : Nat} (x : W64) (hj : j ≠ i) : (f.setFence i x).fence j = f.fence j := by
  unfold Vf.setFence Vf.fence
  split
  · simp [List.getD_eq_getElem?_getD, Ne.symm hj]
  · rfl

theorem hasVf_lt {s : State} {v : Nat} (h : s.hasVf v = true) : v < 64 := by
  simp only [State.hasVf, Bool.and_eq_true, decide_eq_true_eq] at h
  exact h.1.1

theorem mapVf_cycle (s : State) (v : Nat) (f : Vf → Vf) : (s.mapVf v f).m.cycle = s.m.cycle := by
  unfold State.mapVf Module.mapVf
  split <;> rfl

theorem mapQueue_cycle (s : State) (v q : Nat) (f : LQueue → LQueue) : (s.mapQueue v q f).m.cycle = s.m.cycle := mapVf_cycle s v _

theorem slotsAreShared : SlotsAreShared := by
  refine ⟨fun s v q hv hq => ?_, fun s k v q c hr hp hk hs ho => ?_, oldestPending_least, fun s k x hx ho => ⟨fun he hpin => ?_, fun he hg => ?_⟩,
    fun s v i x hv hi => ?_⟩
  · change execNotifyWrite v q s = _
    simp [execNotifyWrite, hv, hq]
  · change execSlotMapping k s = _
    have hs' : s.m.slots.any (·.n == k) = false := by simpa using hs
    have hk' : ¬ 256 ≤ k := by omega
    have hfree : ¬ (s.m.restart || !s.m.power.isReady || 256 ≤ k || s.m.slots.any (·.n == k)) = true := by simp [hr, hp, Power.isReady, hk', hs']
    rw [execSlotMapping, if_neg hfree, ho]
    have hsat : satInc16 = fun x => if x = 0xFFFF then 0xFFFF else x + 1 := funext satInc16_eq
    rw [hsat]
    dsimp only [event]
    rw [mapQueue_cycle, mapVf_cycle]
  · change execPinExpiry k s = _
    simp [execPinExpiry, hx, ho, LQueue.empty, he, hpin, event, freeSlot]
  · change execSlotRotation k s = _
    simp [execSlotRotation, hx, ho, LQueue.empty, he, hg, event, freeSlot]
  · have hlt := hasVf_lt hv
    refine ⟨_, ?_, ?_, fun j hj => ?_, fun u hu => vfAt_mapVf_other s (fun f => f.setFence i x) hu⟩
    · change execFenceCounterWrite v i x s = _
      simp [execFenceCounterWrite, hv, hi]
    · rw [vfAt_mapVf _ _ hlt, fence_setFence _ _ hi]
    · rw [vfAt_mapVf _ _ hlt, fence_setFence_other _ _ hj]

/-! ## Dispatch -/

theorem event_ifPulled (row : String) (s : State) :
    (s.m.pullWait = false → event row (ifPulled s) = .next s) ∧ (s.m.pullWait = true → ∀ u, event row (ifPulled s) ≠ .next u) := by
  unfold ifPulled
  constructor <;> intro h <;> simp [h, event, off]

/-- What a record's dispatch comes to where the slot holds its queue. -/
theorem execLaunchDispatch_of {s : State} {k v q : Nat} (h : Dispatches s k v q) :
    exec (.launchDispatch k) s = event "LAUNCH_DISPATCH" (match readRecord s v ((s.vfAt v).queue q) with
      | none => some (endLaunch s ⟨v, q, [], 0, 0⟩ csFault)
      | some (m, r) =>
        let l : Launch := ⟨v, q, r, 0, 0⟩
        if m.pullWait then none
        else if l.f 12 8 1 = 1 ∧ (s.vfAt v).fence (l.f 12 0 8) < r.getD 11 0 then none
        else match launchSize l m with
          | none => some (endLaunch { s with m := m } l csFault)
          | some (m, w, h) => ifPulled (dispatchSized { s with m := m } { l with w := w, h := h })) := by
  obtain ⟨⟨x, hx, rfl, rfl⟩, hr, hp, ht, hon, he, hg⟩ := h
  change execLaunchDispatch k s = _
  rw [execLaunchDispatch, hx]
  dsimp only
  exact congrArg (event _) (if_neg (by simp [hr, hp, Power.isReady, ht, hon, he, hg]))

theorem fence_reached {s : State} {v q : Nat} {r : List W64}
    (h : dwN r 12 / 256 % 2 = 1 → r.getD 11 0 ≤ (s.vfAt v).fence (dwN r 12 % 256)) :
    ¬ ((⟨v, q, r, 0, 0⟩ : Launch).f 12 8 1 = 1 ∧ (s.vfAt v).fence ((⟨v, q, r, 0, 0⟩ : Launch).f 12 0 8) < r.getD 11 0) := by
  rintro ⟨hb, hf⟩
  simp only [Launch.f, bits, Nat.pow_zero, Nat.div_one, Nat.reducePow] at hb hf
  have := h hb
  bv_omega

theorem checkLaunch_badRec (s : State) (l : Launch) (h : l.badRec = true) : checkLaunch s l = .fails csBadRec := by
  simp [checkLaunch, h]

theorem dispatchSized_cases (s : State) (l : Launch) :
    (l.w = 0 ∨ l.h = 0 → dispatchSized s l = endLaunch s l 1) ∧
    (l.w ≠ 0 → l.h ≠ 0 → l.badRec = true → dispatchSized s l = endLaunch { s with free := s.free + 1 } l 2) ∧
    (l.w ≠ 0 → l.h ≠ 0 → waitsForPool s l = true → (dispatchSized s l).m.pullWait = true) ∧
    (∀ im cl, l.w ≠ 0 → l.h ≠ 0 → waitsForPool s l = false → checkLaunch s l = .ok im cl → l.domgrp = false →
      dispatchSized s l = commitLaunch s l im cl) := by
  refine ⟨fun h => if_pos h, fun hw hh hb => ?_, fun hw hh hp => ?_, fun im cl hw hh hp hc hd => ?_⟩
  · rw [dispatchSized, if_neg (by simp [hw, hh]), if_neg (by simp [waitsForPool, hb]), checkLaunch_badRec s l hb]
    rfl
  · rw [dispatchSized, if_neg (by simp [hw, hh]), if_pos hp]
    rfl
  · rw [dispatchSized, if_neg (by simp [hw, hh]), if_neg (by simp [hp]), hc]
    simp only [hd]
    rfl

theorem startCtx_values (i : Nat) (pc args : W64) (root : BitVec 41) (asid : W16) (belay lashed dom : Bool) :
    let c := startCtx i true pc args root asid belay lashed dom
    c.run = .ready ∧ c.pc = pc ∧ c.x[2].val = .ofNat 64 (0xFF00000000200000 - i * 0x4000) ∧ c.x[3].val = args ∧
      (∀ r : Fin 32, r ∉ [1, 2, 3, 4] → c.x[r] = { val := 0, tag := .full, v := true }) ∧ c.status.mode = false ∧ c.mDom = dom ∧ c.id = i := by
  refine ⟨rfl, rfl, rfl, rfl, fun r hr => ?_, rfl, rfl, rfl⟩
  have h1 : (1 : Nat) ≠ r.val := fun e => hr (by simp [Fin.ext_iff, ← e])
  have h2 : (2 : Nat) ≠ r.val := fun e => hr (by simp [Fin.ext_iff, ← e])
  have h3 : (3 : Nat) ≠ r.val := fun e => hr (by simp [Fin.ext_iff, ← e])
  have h4 : (4 : Nat) ≠ r.val := fun e => hr (by simp [Fin.ext_iff, ← e])
  simp [startCtx, h1, h2, h3, h4]

/-- What a launch group's commit comes to. -/
theorem execLaunchGroupCommit_of {s : State} {gid : Nat} {a : GroupWait} {r : List GroupWait} (hm : groupMembers s gid = a :: r)
    (hr : s.m.restart = false) (hi : ∀ x ∈ a :: r, x.idx < x.count) :
    let u := (a :: r).foldl commitMember { s with m := { s.m with groups := s.m.groups.filter (·.gid != gid) } }
    let opens (u : State) : Prop := u.g.live = true ∧ u.g.domgrp = true ∧ u.g.group = gid
    let w := if opens u then forGroup (fun u => { u with g := { u.g with grpHere := (a :: r).map (·.idx) } }) u else u
    exec (.launchGroupCommit gid (decide ((a :: r).length < a.count))) s =
      event "LAUNCH_GROUP_COMMIT" (ifPulled (if opens w then openBar w 3 0 0 else w)) := by
  change execLaunchGroupCommit gid _ s = _
  rw [execLaunchGroupCommit, hm]
  dsimp only
  rw [if_neg (by simpa [hr] using hi)]
  rfl

theorem usCycles_timeout : usCycles 100000 = 190000000 := rfl

theorem execLaunchGroupTimeout_of {s : State} {gid : Nat} {x : GroupWait} (hx : x ∈ s.m.groups) (hg : x.gid = gid)
    (h : (groupMembers s gid).length < x.count ∨ x.since + 190000000 < s.m.cycle) :
    exec (.launchGroupTimeout gid) s = .next (failGroup s gid) := by
  change execLaunchGroupTimeout gid s = _
  rw [execLaunchGroupTimeout, if_pos]
  · rfl
  · rw [List.any_eq_true]
    refine ⟨x, hx, ?_⟩
    rw [hg, usCycles_timeout]
    simpa only [beq_self_eq_true, Bool.true_and, Bool.or_eq_true, decide_eq_true_eq] using h

theorem gridDone_of {s : State} (hl : s.g.live = true) (hd : s.g.diverged = none)
    (hc : ∀ x ∈ s.allCtxs, x.2.active = false ∧ x.2.accs = [])
    (ht : ∀ t ∈ s.allTiles, t.arrq = [] ∧ t.ni = [] ∧ t.lash.gated = [] ∧ t.lash.waiting = false ∧ t.lash.due = false ∧
      t.ldr.posted = [] ∧ t.str.posted = [] ∧ ∀ q < 7, t.cmdsOf q = [])
    (hm : ∀ m ∈ s.g.mesh, m.body = .loadReq) : gridDone s = true := by
  have hc' : s.allCtxs.all (fun x => !x.2.active && x.2.accs == []) = true := by
    rw [List.all_eq_true]
    intro x hx
    obtain ⟨ha, he⟩ := hc x hx
    simp [ha, he]
  have ht' : s.allTiles.all (fun t => t.arrq == [] && t.ni == [] && lashSettled t && t.ldr.posted == [] && t.str.posted == []
      && (List.range 7).all fun q => t.cmdsOf q == []) = true := by
    rw [List.all_eq_true]
    intro t hx
    obtain ⟨h1, h2, h3, h4, h5, h6, h7, h8⟩ := ht t hx
    simpa [h1, h2, h3, h4, h5, h6, h7, lashSettled] using h8
  have hm' : s.g.mesh.all (fun m => m.body == Body.loadReq) = true := by
    rw [List.all_eq_true]
    intro m hx
    simp [hm m hx]
  rw [gridDone, hl, hd, hc', ht', hm']
  rfl

theorem launchesRun : LaunchesRun := by
  refine ⟨fun s k v q h => ⟨fun hr => ?_, fun m r m' w h' hr hp hf hs => ?_⟩, dispatchSized_cases,
    fun i pc args root asid belay lashed dom _ => startCtx_values i pc args root asid belay lashed dom,
    fun s gid a r hm hr hi => ?_, fun s gid x hx hg => ⟨fun h => ?_, fun h => ?_⟩, fun s hl hd hc ht hm => ?_,
    fun s v c r hv hc hr hp => ?_⟩
  · rw [execLaunchDispatch_of h, hr]
    rfl
  · rw [execLaunchDispatch_of h, hr]
    dsimp only
    rw [if_neg (by simp [hp]), if_neg (fence_reached hf), hs]
    exact event_ifPulled _ _
  · dsimp only
    rw [execLaunchGroupCommit_of hm hr hi]
    exact event_ifPulled _ _
  · exact execLaunchGroupTimeout_of hx hg (.inr h)
  · exact execLaunchGroupTimeout_of hx hg (.inl h)
  · change execGridCompletion s = _
    rw [execGridCompletion, if_pos (gridDone_of hl hd hc ht hm)]
    rfl
  · change execCompletionRecordRelease v s = _
    rw [execCompletionRecordRelease]
    dsimp only
    rw [hc]
    dsimp only
    rw [if_pos (by simp [hv, hr])]
    exact (event_ifPulled _ _).1 hp

/-- Settles O51. -/
theorem launchesAreServed : Obligations.LaunchesAreServed := ⟨slotsAreShared, launchesRun⟩

end Sys2Proof.Proofs
end

section
/-! Words with an invalid scalar source (O6). -/

namespace Sys2Proof.Proofs

open Sys2Proof Sys2Proof.Machine Sys2Proof.Safety Sys2Proof.Says Sys2Proof.Laws

/-! ## Sources of any validity -/

/-- How far the examination of the operands `rs` has come; `u`: all were valid. -/
def curV (rs : List (Fin 32)) (u : Bool) : Cur := { curOf rs with valid := u }

theorem curV_nil : curV [] true = {} := curOf_nil

theorem see_valid (s : State) (off n : Nat) (c : Cur) (u : Bool) :
    Cur.see s off n { c with valid := u } = { Cur.see s off n c with valid := u } := by
  unfold Cur.see
  split <;> split <;> rfl

/-- What has been found of earlier sources plays no part in the examination of a source. -/
theorem examX_valid (s : State) (r : Fin 32) (field : Nat) (w : Bool) (c : Cur) (u : Bool) (k : W64 → Bool → Cur → Res) :
    examX s r field w { c with valid := u } k = examX s r field w c fun x v c => k x v { c with valid := u } := by
  unfold examX
  split
  · rfl
  · split
    · dsimp only
      rw [see_valid]
    · refine congrArg (examPort s (dirOf r) (regCode 0 r.val) field w c) (funext fun e => ?_)
      rcases e with ⟨x, v⟩ | ⟨x, v⟩ | _ | _ <;> rfl

theorem srcV_valid (s : State) (r : Fin 32) (field : Nat) (c : Cur) (u : Bool) (k : W512 → BitVec 8 → Cur → Res) :
    srcV s r field { c with valid := u } k = srcV s r field c fun x v c => k x v { c with valid := u } := by
  unfold srcV
  split
  · dsimp only
    rw [see_valid]
  · refine congrArg (examPort s (dirOf r) (regCode 1 r.val) field false c) (funext fun e => ?_)
    rcases e with ⟨x, v⟩ | ⟨x, v⟩ | _ | _ <;> rfl

section
variable {s : State} {pre rest : List (Fin 32)} {r : Fin 32} {field : Nat} {w u : Bool}

theorem srcX_curV (hs : Sound s) {x : W64} {v : Bool} (h : scalar s pre r = some (x, v)) (k : W64 → Cur → Res) :
    srcX s r field w (curV pre u) k = k x (curV (pre ++ [r]) (u && v)) := by
  unfold srcX curV
  rw [examX_valid, examX_of hs h]

theorem srcV_curV (hs : Sound s) {x : W512} {v : BitVec 8} (h : vector s pre r = some (x, v)) (k : W512 → BitVec 8 → Cur → Res) :
    srcV s r field (curV pre u) k = k x v (curV (pre ++ [r]) u) := by
  unfold curV
  rw [srcV_valid, srcV_of hs h]

/-- The operands `rest` can be read after `pre`, and with them at least one is invalid; `u`: none of `pre` is. -/
def Remain (s : State) : List (Fin 32) → List (Fin 32) → Bool → Prop
  | _, [], u => u = false
  | pre, r :: rest, u => ∃ x v, scalar s pre r = some (x, v) ∧ Remain s (pre ++ [r]) rest (u && v)

theorem remain_of_reads (h : ∀ k < rest.length, (scalar s (pre ++ rest.take k) (rest.getD k 0)).isSome = true)
    (hb : u = false ∨ ∃ k < rest.length, (scalar s (pre ++ rest.take k) (rest.getD k 0)).map (·.2) = some false) :
    Remain s pre rest u := by
  induction rest generalizing pre u with
  | nil => simpa [Remain] using hb
  | cons r rest ih =>
    have h0 := h 0 (by simp)
    simp only [List.take_zero, List.append_nil, List.getD_cons_zero] at h0
    obtain ⟨⟨x, v⟩, hx⟩ := Option.isSome_iff_exists.1 h0
    refine ⟨x, v, hx, ih (fun k hk => ?_) ?_⟩
    · have := h (k + 1) (by simpa using hk)
      simpa using this
    · rcases hb with rfl | ⟨k, hk, hv⟩
      · exact .inl rfl
      · cases k with
        | zero =>
          simp only [List.take_zero, List.append_nil, List.getD_cons_zero, hx, Option.map_some, Option.some.injEq] at hv
          exact .inl (by simp [hv])
        | succ k => exact .inr ⟨k, by simpa using hk, by simpa using hv⟩

theorem remain_of_spoilt {rs : List (Fin 32)} (h : Spoilt s rs) : Sound s ∧ Remain s [] rs true := by
  obtain ⟨hs, hr, hb⟩ := h
  exact ⟨hs, remain_of_reads (by simpa using hr) (.inr (by simpa using hb))⟩

/-- A word whose sources are `rest` still to be examined comes to nothing. -/
def Nulls (s : State) (pre rest : List (Fin 32)) (f : Cur → Res) : Prop := ∀ u, Remain s pre rest u → f (curV pre u) = .null

theorem nulls_commit {R : Cur → Res} : Nulls s pre [] fun c => commit s c (R c) := by
  rintro u rfl
  rfl

theorem nulls_srcX (hs : Sound s) {k : W64 → Cur → Res} (h : ∀ x, Nulls s (pre ++ [r]) rest (k x)) :
    Nulls s pre (r :: rest) fun c => srcX s r field w c k := by
  rintro u ⟨x, v, hx, hr⟩
  change srcX s r field w (curV pre u) k = .null
  rw [srcX_curV hs hx]
  exact h x _ hr

theorem null_of_nulls {rs : List (Fin 32)} {f : Cur → Res} (h : Spoilt s rs) (hf : Sound s → Nulls s [] rs f) : f {} = .null := by
  obtain ⟨hs, hr⟩ := remain_of_spoilt h
  rw [← curV_nil]
  exact hf hs _ hr

theorem finish_null {r : Res} (h : r = .null) : finish s r = .next (retire s) := by rw [h]; rfl

end

/-! ## The frames: one, two, three or five sources, then the rest of the word -/

section
variable {s : State} {a b c d e : Fin 32} {i j k l m : Nat} {wa wb wc : Bool}

theorem oneSource_null (h : Spoilt s [a]) {R : W64 → Cur → Res} : (srcX s a i wa {} fun x q => commit s q (R x q)) = .null :=
  null_of_nulls (f := fun q => srcX s a i wa q fun x q => commit s q (R x q)) h fun hs => nulls_srcX hs fun _ => nulls_commit

theorem twoSources_null (h : Spoilt s [a, b]) {R : W64 → W64 → Cur → Res} :
    (srcX s a i wa {} fun x q => srcX s b j wb q fun y q => commit s q (R x y q)) = .null :=
  null_of_nulls (f := fun q => srcX s a i wa q fun x q => srcX s b j wb q fun y q => commit s q (R x y q)) h
    fun hs => nulls_srcX hs fun _ => nulls_srcX hs fun _ => nulls_commit

theorem threeSources_null (h : Spoilt s [a, b, c]) {R : W64 → W64 → W64 → Cur → Res} :
    (srcX s a i wa {} fun x q => srcX s b j wb q fun y q => srcX s c k wc q fun z q => commit s q (R x y z q)) = .null :=
  null_of_nulls (f := fun q => srcX s a i wa q fun x q => srcX s b j wb q fun y q => srcX s c k wc q fun z q => commit s q (R x y z q)) h
    fun hs => nulls_srcX hs fun _ => nulls_srcX hs fun _ => nulls_srcX hs fun _ => nulls_commit

theorem oneSource (h : Spoilt s [a]) {R : W64 → Cur → Res} : finish s (srcX s a i wa {} fun x q => commit s q (R x q)) = .next (retire s) :=
  finish_null (oneSource_null h)

theorem twoSources (h : Spoilt s [a, b]) {R : W64 → W64 → Cur → Res} :
    finish s (srcX s a i wa {} fun x q => srcX s b j wb q fun y q => commit s q (R x y q)) = .next (retire s) :=
  finish_null (twoSources_null h)

theorem threeSources (h : Spoilt s [a, b, c]) {R : W64 → W64 → W64 → Cur → Res} :
    finish s (srcX s a i wa {} fun x q => srcX s b j wb q fun y q => srcX s c k wc q fun z q => commit s q (R x y z q)) = .next (retire s) :=
  finish_null (threeSources_null h)

theorem casQ_nullified (h : Spoilt s [a, b, b + 1, d, d + 1]) (o : Ord) (sc : Scope) : exec (.casQ d a b o sc) s = .next (retire s) :=
  finish_null (null_of_nulls (f := fun q => srcX s a fldA false q fun ea k => srcX s b fldB false k fun n0 k => srcX s (b + 1) fldB false k fun n1 k =>
    srcX s d fldD false k fun e0 k => srcX s (d + 1) fldD false k fun e1 k =>
      commit s k <| dstX s d anyWord <| dstX s (nextReg d) anyWord <|
        atomicEffect s (.casQ d (e1 ++ e0) (n1 ++ n0)) .cas ea 16 o sc true d) h
    fun hs => nulls_srcX hs fun _ => nulls_srcX hs fun _ => nulls_srcX hs fun _ => nulls_srcX hs fun _ => nulls_srcX hs fun _ => nulls_commit)

theorem portIndex_of {p : Instr} {q : Fin 16} {lo hi : Nat} (h : lo ≤ q.val ∧ q.val ≤ hi) (r : Res) : portIndex s p q lo hi r = r :=
  if_pos h

theorem qput_nullified (h : Spoilt s [a]) : exec (.qput 11 a wa) s = .next (retire s) := by
  change execQput 11 a wa s = _
  rw [execQput, portIndex_of (by decide)]
  exact oneSource h

end

/-! ## The tables of register words -/

/-- The word examines `a`, then `b`, and then writes `d`, which is waited for. -/
def TwoSource (w : Fin 32 → Fin 32 → Fin 32 → Bool → Bool → Instr) : Prop :=
  ∀ (s : State) (d a b : Fin 32) (wa wb : Bool), ∃ t : W64 → W64 → State, exec (w d a b wa wb) s =
    finish s (srcX s a fldA wa {} fun x k => srcX s b fldB wb k fun y k => commit s k (dstX s d anyWord (.done (t x y))))

/-- The word examines `a`, and then writes `d`, which is waited for. -/
def OneSource (w : Fin 32 → Fin 32 → Bool → Instr) : Prop :=
  ∀ (s : State) (d a : Fin 32) (wa : Bool), ∃ t : W64 → State, exec (w d a wa) s =
    finish s (srcX s a fldA wa {} fun x k => commit s k (dstX s d anyWord (.done (t x))))

theorem rWords_twoSource : ∀ w ∈ rWords, TwoSource w := by
  simp only [rWords, aluTable, Says.cmpTable, fpTable, fcmpTable, List.flatMap_cons, List.flatMap_nil, List.map_cons, List.map_nil,
    List.cons_append, List.nil_append, List.append_nil, List.forall_mem_cons, List.not_mem_nil, false_imp_iff, implies_true, and_true]
  and_intros <;> exact fun _ _ _ _ _ _ => ⟨_, rfl⟩

theorem uWords_oneSource : ∀ w ∈ uWords, OneSource w := by
  simp only [uWords, bitTable, extTable, fpTable1, List.flatMap_cons, List.flatMap_nil, List.map_cons, List.map_nil,
    List.cons_append, List.nil_append, List.append_nil, List.forall_mem_cons, List.not_mem_nil, false_imp_iff, implies_true, and_true]
  and_intros <;> exact fun _ _ _ _ => ⟨_, rfl⟩

/-! ## Nullified words -/

/-- The word `p.1` with the scalar sources `p.2` only retires where one of them is invalid. -/
def Nullifies (p : Instr × List (Fin 32)) : Prop := ∀ s : State, Spoilt s p.2 → exec p.1 s = .next (retire s)

theorem TwoSource.nullifies {w : Fin 32 → Fin 32 → Fin 32 → Bool → Bool → Instr} (hw : TwoSource w) (d a b : Fin 32) (wa wb : Bool) :
    Nullifies (w d a b wa wb, [a, b]) := by
  intro s h
  obtain ⟨t, ht⟩ := hw s d a b wa wb
  rw [ht]
  exact twoSources h

theorem OneSource.nullifies {w : Fin 32 → Fin 32 → Bool → Instr} (hw : OneSource w) (d a : Fin 32) (wa : Bool) :
    Nullifies (w d a wa, [a]) := by
  intro s h
  obtain ⟨t, ht⟩ := hw s d a wa
  rw [ht]
  exact oneSource h

section
variable (f : Fields)

theorem immediates_nullify : (∀ p ∈ immTable, Nullifies (p.1 f.d f.a f.wa f.i14, [f.a])) ∧
    (∀ p ∈ shiTable, Nullifies (p.1 f.d f.a f.wa f.k6, [f.a])) ∧ (∀ p ∈ cmpiTable, Nullifies (p.1 f.d f.a f.wa f.i11, [f.a])) := by
  simp only [immTable, shiTable, cmpiTable, List.forall_mem_cons, List.not_mem_nil, false_imp_iff, implies_true, and_true]
  and_intros <;> exact fun _ h => oneSource h

theorem atomics_nullify : ∀ w, ∀ p ∈ [(Instr.amoswap w f.d f.a f.b f.o f.sc, [f.a, f.b]), (.amoadd w f.d f.a f.b f.o f.sc, [f.a, f.b]),
    (.amoand w f.d f.a f.b f.o f.sc, [f.a, f.b]), (.amoor w f.d f.a f.b f.o f.sc, [f.a, f.b]),
    (.amoxor w f.d f.a f.b f.o f.sc, [f.a, f.b]), (.amomin w f.d f.a f.b f.o f.sc, [f.a, f.b]),
    (.amomax w f.d f.a f.b f.o f.sc, [f.a, f.b]), (.amominn w f.d f.a f.b f.o f.sc, [f.a, f.b]),
    (.amomaxn w f.d f.a f.b f.o f.sc, [f.a, f.b])], Nullifies p := by
  intro w
  simp only [List.forall_mem_cons, List.not_mem_nil, false_imp_iff, implies_true, and_true]
  and_intros <;> exact fun _ h => twoSources h

theorem scalarWords_nullify : ∀ p ∈ scalarWords f, Nullifies p := by
  obtain ⟨himm, hshi, hcmpi⟩ := immediates_nullify f
  have hamo := atomics_nullify f
  simp only [scalarWords, List.forall_mem_append, List.forall_mem_map, List.forall_mem_flatMap]
  refine ⟨⟨⟨⟨⟨⟨fun w hw => (rWords_twoSource w hw).nullifies _ _ _ _ _, fun w hw => (uWords_oneSource w hw).nullifies _ _ _⟩, himm⟩, hshi⟩, hcmpi⟩,
    fun w _ => hamo w⟩, ?_⟩
  simp only [List.forall_mem_cons, List.not_mem_nil, false_imp_iff, implies_true, and_true]
  exact ⟨fun _ h => oneSource h, fun _ h => threeSources h, fun _ h => threeSources h, fun _ h => threeSources h, fun _ h => oneSource h,
    fun _ h => oneSource h, fun _ h => oneSource h, fun _ h => oneSource h, fun _ h => oneSource h, fun _ h => twoSources h, fun _ h => oneSource h,
    fun _ h => twoSources h, fun _ h => oneSource h, fun _ h => threeSources h, fun _ h => oneSource h, fun _ h => oneSource h,
    fun _ h => twoSources h, fun _ h => threeSources h, fun _ h => casQ_nullified h _ _, fun _ h => oneSource h, fun _ h => oneSource h,
    fun _ h => oneSource h, fun _ h => oneSource h, fun _ h => oneSource h, fun _ h => oneSource h, fun _ h => oneSource h, fun _ h => oneSource h,
    fun _ h => twoSources h, fun _ h => twoSources h, fun _ h => twoSources h, fun _ h => threeSources h, fun _ h => threeSources h,
    fun _ h => qput_nullified h, fun _ h => oneSource h, fun _ h => oneSource h, fun _ h => oneSource h⟩


theorem waitT_of {s : State} {t : Fin 8} (h : s.c.t[t].inflight = 0) (k : TReg → Res) : waitT s t k = k s.c.t[t] :=
  if_neg (not_not_intro h)

theorem tileWords_nullify {s : State} (he : s.c.t[f.e].inflight = 0) :
    ∀ p ∈ tileWords f, Spoilt s p.2 → exec p.1 s = .next (retire s) := by
  simp only [tileWords, List.forall_mem_cons, List.not_mem_nil, false_imp_iff, implies_true, and_true]
  refine ⟨fun h => ?_, fun h => ?_, fun h => ?_, fun h => ?_⟩
  · change execMst f.e f.a f.b s = _
    simp only [execMst, waitT_of he]
    exact twoSources h
  · change execMepi f.e f.a f.b f.c s = _
    simp only [execMepi, waitT_of he]
    exact threeSources h
  · change execMscale f.e f.a s = _
    simp only [execMscale, waitT_of he]
    exact oneSource h
  · change execMrow f.d f.e f.b s = _
    simp only [execMrow, waitT_of he]
    exact oneSource h

end

/-! ## Words that check something first -/

theorem privileged_of {s : State} (h : s.c.status.mode = true) (word : W64) (r : Res) : privileged s word r = r := if_pos h

theorem branches_nullify {s : State} {a : Fin 32} (h : Spoilt s [a]) (o : BitVec 18) :
    ∀ i ∈ [Instr.bnz a o, .bz a o], exec i s = .next (retire s) := by
  simp only [List.forall_mem_cons, List.not_mem_nil, false_imp_iff, implies_true, and_true]
  exact ⟨oneSource h, oneSource h⟩

theorem vote_nullified {s : State} {a : Fin 32} (h : Spoilt s [a]) {lv : Level} (hb : (s.c.bar (levelIdx lv)).arr = .none)
    (kind : BarKind) (d : Fin 32) (w : Bool) : vote s kind lv d a w = .next (retire s) := by
  have hr (k : W64 → State → Res) (r : Res) : resumeBar s lv k r = r := by
    unfold resumeBar
    simp [hb]
  rw [vote, hr]
  refine finish_null (null_of_nulls (f := fun q => srcX s a fldA w q fun v k =>
    if k.valid then dstArrive s d <| arriveWord s k lv kind v fun s => putResult s d v true else .null) h fun hs => nulls_srcX hs fun x => ?_)
  rintro u rfl
  rfl

theorem ecmd_nullified {s : State} {a b : Fin 32} (h : Spoilt s [a, b]) {q : Fin 16} (hq : 4 ≤ q.val ∧ q.val ≤ 10) (wa wb : Bool) :
    exec (.ecmd q a b wa wb) s = .next (retire s) := by
  change execEcmd q a b wa wb s = _
  rw [execEcmd, portIndex_of hq]
  refine finish_null (null_of_nulls (f := fun q' => srcX s a fldA wa q' fun lo k => srcX s b fldB wb k fun hi k =>
    let e := q.val - 4
    if (s.t.asmOf s.c.id e).isNone && hdrFollow lo.toNat then (if k.valid then followOn s k e lo hi else .null)
    else commit s k <| pushCmd s e lo hi none id) h fun hs => nulls_srcX hs fun x => nulls_srcX hs fun y => ?_)
  rintro u rfl
  dsimp only
  split <;> rfl

theorem csrWrites_nullify {s : State} {a : Fin 32} (h : Spoilt s [a]) {n : BitVec 12} (hl : csrListed n.toNat = true)
    (hm : s.c.status.mode = true ∨ csrS n.toNat = false) (d : Fin 32) (w : Bool) :
    ∀ i ∈ [Instr.csrw d a w n, .csrs d a w n, .csrc d a w n], exec i s = .next (retire s) := by
  simp only [List.forall_mem_cons, List.not_mem_nil, false_imp_iff, implies_true, and_true]
  refine ⟨?_, ?_, ?_⟩
  · change execCsrw d a w n s = _
    rw [execCsrw, csrUpdate, csrAccess_ok _ _ hl hm]
    exact oneSource h
  · change execCsrs d a w n s = _
    rw [execCsrs, csrUpdate, csrAccess_ok _ _ hl hm]
    exact oneSource h
  · change execCsrc d a w n s = _
    rw [execCsrc, csrUpdate, csrAccess_ok _ _ hl hm]
    exact oneSource h

theorem tlbinvs_nullify {s : State} (a b : Fin 32) (wa wb : Bool) (hm : s.c.status.mode = true) :
    (Spoilt s [b] → exec (.tlbinvAsid b wb) s = .next (retire s)) ∧ (Spoilt s [a] → exec (.tlbinvVaall a wa) s = .next (retire s)) ∧
    (Spoilt s [a, b] → exec (.tlbinvVa a b wa wb) s = .next (retire s)) := by
  refine ⟨fun h => ?_, fun h => ?_, fun h => ?_⟩
  · change execTlbinvAsid b wb s = _
    rw [execTlbinvAsid, privileged_of hm]
    exact oneSource h
  · change execTlbinvVaall a wa s = _
    rw [execTlbinvVaall, privileged_of hm]
    exact oneSource h
  · change execTlbinvVa a b wa wb s = _
    rw [execTlbinvVa, privileged_of hm]
    exact twoSources h

theorem checkedWordsAreNullified : CheckedWordsAreNullified :=
  ⟨fun _ _ o h => branches_nullify h o,
    fun s lv d a w h hb => by
      simp only [List.forall_mem_cons, List.not_mem_nil, false_imp_iff, implies_true, and_true]
      exact ⟨vote_nullified h hb .voteAnd d w, vote_nullified h hb .voteOr d w, vote_nullified h hb .voteAdd d w⟩,
    fun _ _ _ _ wa wb h4 h11 h => ecmd_nullified h ⟨h4, by omega⟩ wa wb,
    fun _ d _ w _ h hl hm => csrWrites_nullify h hl hm d w,
    fun _ a b wa wb hm => tlbinvs_nullify a b wa wb hm⟩

/-! ## Vector and hypervector sources beside scalar ones -/

section
variable {s : State} {a b : Fin 32}

theorem spoilt_one (h : Spoilt s [a]) : Sound s ∧ ∃ x, scalar s [] a = some (x, false) := by
  obtain ⟨hs, x, v, hx, hv⟩ := remain_of_spoilt h
  obtain rfl : v = false := by simpa [Remain] using hv
  exact ⟨hs, x, hx⟩

theorem spoilt_two (h : Spoilt s [a, b]) :
    Sound s ∧ ∃ x v y u, scalar s [] a = some (x, v) ∧ scalar s [a] b = some (y, u) ∧ (true && v && u) = false := by
  obtain ⟨hs, x, v, hx, y, u, hy, hu⟩ := remain_of_spoilt h
  exact ⟨hs, x, v, y, u, hx, hy, hu⟩

theorem finish_commit_null {rs : List (Fin 32)} {r : Res} : finish s (commit s (curV rs false) r) = .next (retire s) := rfl

theorem wholeCommit_null {rs : List (Fin 32)} {v : BitVec 8} {r : Res} : wholeCommit s (curV rs false) v r = .null := by
  unfold wholeCommit
  split <;> rfl

end

section
variable {s : State} {f : Fields} {v u : W512 × BitVec 8}

theorem vst_nullified (h : Spoilt s [f.b]) (hv : vector s [f.b] f.d = some v) : exec (.vst f.d f.b f.wa f.i11) s = .next (retire s) := by
  obtain ⟨hs, x, hx⟩ := spoilt_one h
  change execVst f.d f.b f.wa f.i11 s = _
  rw [execVst, ← curV_nil, srcX_curV hs hx, List.nil_append, srcV_curV hs hv]
  exact finish_commit_null

theorem vgat_nullified (h : Spoilt s [f.a]) (hv : vector s [f.a] f.b = some v) : exec (.vgat f.m f.d f.a f.b f.wa) s = .next (retire s) := by
  obtain ⟨hs, x, hx⟩ := spoilt_one h
  change execVgat f.m f.d f.a f.b f.wa s = _
  rw [execVgat, ← curV_nil, srcX_curV hs hx, List.nil_append, srcV_curV hs hv]
  exact finish_commit_null

theorem vsca_nullified (h : Spoilt s [f.a]) (hv : vector s [f.a] f.b = some v) (hu : vector s [f.a, f.b] f.d = some u) :
    exec (.vsca f.m f.d f.a f.b f.wa) s = .next (retire s) := by
  obtain ⟨hs, x, hx⟩ := spoilt_one h
  change execVsca f.m f.d f.a f.b f.wa s = _
  rw [execVsca, ← curV_nil, srcX_curV hs hx, List.nil_append, srcV_curV hs hv, List.cons_append, List.nil_append, srcV_curV hs hu]
  exact finish_commit_null

theorem vins_nullified (h : Spoilt s [f.a, f.b]) (hv : vector s [f.a, f.b] f.d = some v) :
    exec (.vins f.l f.d f.a f.b) s = .next (retire s) := by
  obtain ⟨hs, x, vx, y, vy, hx, hy, hb⟩ := spoilt_two h
  change execVins f.l f.d f.a f.b s = _
  rw [execVins, ← curV_nil, srcX_curV hs hx, List.nil_append, srcX_curV hs hy, hb, List.cons_append, List.nil_append, srcV_curV hs hv]
  exact finish_commit_null

theorem hins_nullified {x : W8192} (h : Spoilt s [f.a, f.b]) (hx : hyper s f.e = some x) :
    exec (.hins f.e f.a f.b) s = .next (retire s) := by
  obtain ⟨hs, x, vx, y, vy, hx', hy, hb⟩ := spoilt_two h
  change execHins f.e f.a f.b s = _
  rw [execHins, ← curV_nil, srcX_curV hs hx', List.nil_append, srcX_curV hs hy, hb, srcH_of hs hx]
  exact finish_commit_null

section
variable {x : W64} (hs : Sound s) (hv : vector s [] f.a = some v) (hx : scalar s [f.a] f.b = some (x, false))
include hs hv hx

theorem vext_nullified : exec (.vext f.l f.d f.a f.b) s = .next (retire s) := by
  change execVext f.l f.d f.a f.b s = _
  rw [execVext, ← curV_nil, srcV_curV hs hv, List.nil_append, srcX_curV hs hx]
  exact finish_commit_null

theorem vrot_nullified : exec (.vrot f.l f.d f.a f.b) s = .next (retire s) := by
  change execVrot f.l f.d f.a f.b s = _
  rw [execVrot, ← curV_nil, srcV_curV hs hv, List.nil_append, srcX_curV hs hx]
  exact finish_null wholeCommit_null

theorem vslide_nullified (hu : vector s [f.a, f.b] f.d = some u) : exec (.vslide f.l f.d f.a f.b) s = .next (retire s) := by
  change execVslide f.l f.d f.a f.b s = _
  rw [execVslide, ← curV_nil, srcV_curV hs hv, List.nil_append, srcX_curV hs hx, List.cons_append, List.nil_append, srcV_curV hs hu]
  exact finish_null wholeCommit_null

end

/-- A hypervector source that is examined first leaves the scalar one to be examined as of a word that has no other. -/
theorem hyper_scalar_nullified {b : Fin 32} {g : Fin 8} {i j : Nat} {w wb : Bool} {x : W8192} (h : Spoilt s [b]) (hx : hyper s g = some x)
    {R : W8192 → W64 → Cur → Res} :
    finish s (srcH s g i w {} fun x k => srcX s b j wb k fun y k => commit s k (R x y k)) = .next (retire s) := by
  rw [srcH_of h.1 hx]
  exact oneSource h

theorem hst_nullified {g : Fin 8} {x : W8192} (h : Spoilt s [f.b]) (hx : hyper s g = some x) :
    exec (.hst g f.b f.wa f.wd f.i11) s = .next (retire s) := by
  obtain ⟨hs, y, hy⟩ := spoilt_one h
  change execHst g f.b f.wa f.wd f.i11 s = _
  rw [execHst, ← curV_nil, srcX_curV hs hy, srcH_of hs hx]
  exact finish_commit_null

end

theorem mixedWordsAreNullified : MixedWordsAreNullified := by
  refine ⟨fun s f v h hv => vst_nullified h hv, fun s f v h hv => ⟨vgat_nullified h hv, fun u hu => vsca_nullified h hv hu⟩,
    fun s f v x hs hv hx => ⟨?_, fun u hu => vslide_nullified hs hv hx hu⟩, fun s f v h hv => vins_nullified h hv,
    fun s f g x h hx => ⟨?_, fun k => hyper_scalar_nullified h hx⟩, fun s f x h hx => hins_nullified h hx⟩
  · simp only [List.forall_mem_cons, List.not_mem_nil, false_imp_iff, implies_true, and_true]
    exact ⟨vext_nullified hs hv hx, vrot_nullified hs hv hx⟩
  · simp only [List.forall_mem_cons, List.not_mem_nil, false_imp_iff, implies_true, and_true]
    exact ⟨hst_nullified h hx, hyper_scalar_nullified h hx, hyper_scalar_nullified h hx, hyper_scalar_nullified h hx,
      hyper_scalar_nullified h hx, hyper_scalar_nullified h hx⟩

/-! ## Record words -/

/-- The payload registers are examined one after the other. -/
theorem nulls_examPayload {s : State} (hs : Sound s) {field : Nat} {k : List W64 → Cur → Res} (n r : Nat) (pre : List (Fin 32)) (l : List W64)
    (hk : ∀ l pre, Nulls s pre [] (k l)) :
    Nulls s pre ((List.range n).map fun i => Fin.ofNat 32 (r + i)) fun c => examPayload s field n r c l k := by
  induction n generalizing r pre l with
  | zero => exact hk l pre
  | succ n ih =>
    have hl : (List.range (n + 1)).map (fun i => Fin.ofNat 32 (r + i)) =
        Fin.ofNat 32 r :: (List.range n).map fun i => Fin.ofNat 32 (r + 1 + i) := by
      simp [List.range_succ_eq_map, Nat.add_assoc, Nat.add_comm 1, Function.comp_def]
    rw [hl]
    exact nulls_srcX hs fun x => ih (r + 1) _ (l ++ [x])

theorem wput_nullified {s : State} {b d : Fin 32} {rt : W64} {v : Bool} (wb : Bool) (hd : scalar s [b] d = some (rt, v))
    (h : Spoilt s ([b, d] ++ (List.range (s.g.cls (routeCls rt)).words).map fun i => Fin.ofNat 32 (8 + i))) :
    exec (.wput d b wb) s = .next (retire s) := by
  obtain ⟨hs, x, u, hx, y, u', hy, hr⟩ := remain_of_spoilt h
  simp only [List.nil_append, List.cons_append] at hy hr
  obtain ⟨rfl, rfl⟩ : rt = y ∧ v = u' := by simpa using hd.symm.trans hy
  change execWput d b wb s = _
  rw [execWput, ← curV_nil, srcX_curV hs hx, List.nil_append, srcX_curV hs hy]
  exact finish_null (nulls_examPayload hs _ 8 _ [] (fun _ _ => nulls_commit) _ hr)

theorem ldk_nullified {s : State} {a b d : Fin 32} {rt : W64} {v : Bool} (z : MSz) (wa wb : Bool) (hd : scalar s [a, b] d = some (rt, v))
    (h : Spoilt s ([a, b, d] ++ (List.range ((s.g.cls (routeCls rt)).words - 1)).map fun i => Fin.ofNat 32 (9 + i))) :
    exec (.ldk z d a b wa wb) s = .next (retire s) := by
  obtain ⟨hs, x, u, hx, y, u', hy, t, u'', ht, hr⟩ := remain_of_spoilt h
  simp only [List.nil_append, List.cons_append] at hy ht hr
  obtain ⟨rfl, rfl⟩ : rt = t ∧ v = u'' := by simpa using hd.symm.trans ht
  change execLdk z d a b wa wb s = _
  rw [execLdk, ← curV_nil, srcX_curV hs hx, List.nil_append, srcX_curV hs hy, List.cons_append, List.nil_append, srcX_curV hs ht]
  exact finish_null (nulls_examPayload hs _ 9 _ [] (fun _ _ => nulls_commit) _ hr)

theorem recordWordsAreNullified : RecordWordsAreNullified :=
  fun _ _ _ _ z wa wb _ _ => ⟨wput_nullified wb, ldk_nullified z wa wb⟩

/-- Settles O6. -/
theorem invalidSourceNullifies : Obligations.InvalidSourceNullifies :=
  ⟨scalarWords_nullify, fun f p hp _ h he => tileWords_nullify f he p hp h, checkedWordsAreNullified, mixedWordsAreNullified,
    recordWordsAreNullified⟩

end Sys2Proof.Proofs
end

section
/-! Operands that are waited for (O7). -/

namespace Sys2Proof.Proofs

open Sys2Proof Sys2Proof.Machine Sys2Proof.Safety Sys2Proof.Says Sys2Proof.Laws

variable {s : State} {r d : Fin 32} {rs : List (Fin 32)} {field : Nat} {w : Bool}

/-! ## Sources that are not ready -/

/-- What a word does at an empty source. -/
def emptySource (s : State) (r : Fin 32) (field : Nat) (w : Bool) (b : Block) : Res :=
  if w then .trap s .empty (.ofNat 64 r.val) (.ofNat 64 field) else .wait s b

theorem finish_emptySource (b : Block) : finish s (emptySource s r field w b) =
    if w then Safety.trapped s .empty (.ofNat 64 r.val) (.ofNat 64 field) else blocked s b := by
  unfold emptySource
  split
  · exact finish_trap .empty _ _ (by decide) s
  · rfl

theorem regCode_scalar (n : Nat) : regCode 0 n = .ofNat 64 n := by simp [regCode]

theorem examX_empty (h : Says.Empty s r) (c : Cur) (k : W64 → Bool → Cur → Res) :
    examX s r field w c k = emptySource s r field w (.xreg r) := by
  obtain ⟨h0, h28, ht⟩ := h
  rw [examX, if_neg h0, if_pos h28, regCode_scalar]
  dsimp only
  split
  · next hf => exact absurd hf ht
  · rfl

theorem srcX_empty (h : Says.Empty s r) (c : Cur) (k : W64 → Cur → Res) : srcX s r field w c k = emptySource s r field w (.xreg r) :=
  examX_empty h c _

theorem examX_edge (hp : 28 ≤ r.val) (hn : neighbour s.g s.t.vt s.c.portcfg (dirOf r) = none) (c : Cur) (k : W64 → Bool → Cur → Res) :
    examX s r field w c k = .trap s .portEdge (.ofNat 64 (dirOf r).val) 0 := by
  rw [examX, if_neg (by omega), if_neg (by omega), examPort, hn]

theorem pops_nil (i : Fin 4) : ({} : Cur).pops[i] = 0 := by
  rw [← curOf_nil, curOf_pops]
  rfl

theorem examX_port (hp : 28 ≤ r.val) {vt : Nat} (hn : neighbour s.g s.t.vt s.c.portcfg (dirOf r) = some vt) (k : W64 → Bool → Cur → Res) :
    examX s r field w {} k = match (s.c.inq[dirOf r][0]? : Option Entry) with
      | none => emptySource s r field w (.portEmpty (dirOf r) 0)
      | some (.word x v) => k x v (({} : Cur).take (dirOf r))
      | some (.bad false) => k 0 true ((({} : Cur).take (dirOf r)).spoil (8 * r.val))
      | some (.vec _ _) => .trap s .portKind (.ofNat 64 (dirOf r).val) 1
      | some (.bad true) => .trap s .portKind (.ofNat 64 (dirOf r).val) 1 := by
  rw [examX, if_neg (by omega), if_neg (by omega), examPort, hn, regCode_scalar]
  dsimp only
  rw [pops_nil]
  rcases s.c.inq[dirOf r][0]? with _ | ⟨x, v⟩ | ⟨x, v⟩ | _ | _ <;> rfl

/-- A register operand is read the same whatever has been found of the operands before it. -/
theorem srcX_low (hs : Sound s) (hr : r.val < 28) {x : W64} {v : Bool} (h : scalar s rs r = some (x, v)) (c : Cur) (k : W64 → Cur → Res) :
    srcX s r field w c k = k x { c with valid := c.valid && v } := by
  unfold scalar at h
  unfold srcX examX
  by_cases h0 : r.val = 0
  · rw [if_pos h0] at h
    cases h
    rw [if_pos h0]
  · rw [if_neg h0, if_pos hr] at h
    rw [if_neg h0, if_pos hr]
    split at h
    · next ht =>
      cases h
      simp only [ht, see_of hs]
    · cases h

theorem portOff_port (hp : 28 ≤ r.val) : portOff (8 * r.val) = true := by
  unfold portOff
  simp
  omega

/-- A word that has read a port entry whose carry code failed traps where it would have completed. -/
theorem finish_commit_spoilt {c : Cur} {t : State} (hp : 28 ≤ r.val) (hr : s.repeatable = false) (hv : c.valid = true)
    (hb : c.bad = some (8 * r.val)) :
    finish s (commit s c (.done t)) = Safety.trapped s .uncorr (.ofNat 64 (8 * r.val)) (.ofNat 64 srcCarry) := by
  rw [commit, if_pos hv, accept, hb]
  simp [Res.pop, Res.uncorr, portOff_port hp, finish, trapWord, hr, Safety.trapped]

theorem emptySourceWaitsOrTraps : EmptySourceWaitsOrTraps := by
  refine ⟨fun w hw s d a b wa wb h => ?_, fun w hw s d a b wa wb x v hs hx h => ?_, fun w hw s d a wa h => ?_⟩
  · obtain ⟨t, ht⟩ := rWords_twoSource w hw s d a b wa wb
    rw [ht, srcX_empty h, finish_emptySource]
    rfl
  · obtain ⟨t, ht⟩ := rWords_twoSource w hw s d a b wa wb
    rw [ht, ← curV_nil, srcX_curV hs hx, srcX_empty h, finish_emptySource]
    rfl
  · obtain ⟨t, ht⟩ := uWords_oneSource w hw s d a wa
    rw [ht, srcX_empty h, finish_emptySource]
    rfl

/-! ## Port sources -/

theorem portSourceFollowsItsQueue : PortSourceFollowsItsQueue := by
  intro w hw s d a b wa wb ha
  obtain ⟨t, ht⟩ := rWords_twoSource w hw s d a b wa wb
  refine ⟨fun hn => ?_, fun vt hn => ⟨fun hq => ?_, fun x v r hq => ?_, fun y v r hs hq hb hy hr hd => ?_⟩⟩
  · rw [ht, srcX, examX_edge ha hn]
    exact finish_trap .portEdge _ _ (by decide) s
  · rw [ht, srcX, examX_port ha hn, hq]
    exact finish_emptySource _
  · rw [ht, srcX, examX_port ha hn, hq]
    exact finish_trap .portKind _ _ (by decide) s
  · rw [ht, srcX, examX_port ha hn, hq]
    dsimp only [List.getElem?_cons_zero]
    rw [srcX_low hs hb hy]
    cases v with
    | false => rfl
    | true =>
      rw [dstX_of hd]
      exact finish_commit_spoilt ha hr rfl rfl

/-! ## Destinations -/

theorem dstX_awaiting (h0 : d.val ≠ 0) (h28 : d.val < 28) (h : s.c.x[d].tag = .awaiting) (e : Entry) (k : Res) :
    dstX s d e k = .wait s (.xreg d) := by
  rw [dstX, if_neg h0, if_pos h28, h]

theorem dstX_edge (h28 : 28 ≤ d.val) (hn : neighbour s.g s.t.vt s.c.portcfg (dirOf d) = none) (e : Entry) (k : Res) :
    dstX s d e k = .trap s .portEdge (.ofNat 64 (dirOf d).val) 1 := by
  rw [dstX, if_neg (by omega), if_neg (by omega), hn]

theorem dstX_noCredit (h28 : 28 ≤ d.val) {vt : Nat} (hn : neighbour s.g s.t.vt s.c.portcfg (dirOf d) = some vt) {e : Entry}
    (hc : s.credit vt s.c.id (opposite (dirOf d)) e = false) (k : Res) : dstX s d e k = .wait s (.credit (dirOf d)) := by
  rw [dstX, if_neg (by omega), if_neg (by omega), hn]
  simp [hc]

theorem destinationIsWaitedFor : DestinationIsWaitedFor := by
  intro w hw s d a b wa wb x y ⟨hs, ha, hb⟩
  obtain ⟨t, ht⟩ := rWords_twoSource w hw s d a b wa wb
  have he : exec (w d a b wa wb) s = finish s ((dstX s d anyWord (.done (t x y))).pop (curOf [a, b])) := by
    rw [ht, ← curOf_nil, srcX_of hs ha, List.nil_append, srcX_of hs hb, commit_curOf]
    rfl
  refine ⟨fun h0 h28 h => ?_, fun h28 hn => ?_, fun vt h28 hn hc => ?_⟩
  · rw [he, dstX_awaiting h0 h28 h]
    exact finish_pop_wait ..
  · rw [he, dstX_edge h28 hn]
    exact finish_pop_trap _ _ _ _ _ _ (by decide)
  · rw [he, dstX_noCredit h28 hn hc]
    exact finish_pop_wait ..

/-- Settles O7. -/
theorem operandsAreWaitedForInOrder : Obligations.OperandsAreWaitedForInOrder :=
  ⟨emptySourceWaitsOrTraps, portSourceFollowsItsQueue, destinationIsWaitedFor⟩

end Sys2Proof.Proofs
end

section
/-! Loads that leave the core (O17). -/

namespace Sys2Proof.Proofs

open Sys2Proof Sys2Proof.Machine Sys2Proof.Safety Sys2Proof.Says Sys2Proof.Laws

/-! ## What performing a store leaves unchanged -/

theorem mapTile_g (s : State) (vt : Nat) (f : Tile → Tile) : (s.mapTile vt f).g = s.g := by
  unfold State.mapTile
  split <;> rfl

theorem mapCtxs_g (s : State) (vt : Nat) (f : Ctx → Ctx) : (s.mapCtxs vt f).g = s.g := by
  unfold State.mapCtxs
  dsimp only
  split <;> exact mapTile_g ..

theorem spWrite_g (s : State) (vt o : Nat) (bs : List Byte) : (spWrite s vt o bs).g = s.g :=
  (mapCtxs_g ..).trans (mapTile_g ..)

theorem performPost_g (who : Nat) (s : State) (p : Post) : (performPost who s p).g = s.g := by
  unfold performPost
  split
  · rfl
  · exact spWrite_g ..

theorem foldl_performPost_g (who : Nat) (l : List Post) (s : State) : (l.foldl (performPost who) s).g = s.g := by
  induction l generalizing s with
  | nil => rfl
  | cons p r ih => exact (ih _).trans (performPost_g who s p)

theorem settleOver_g (ps : List Piece) (s : State) : (settleOver ps s).g = s.g := by
  unfold settleOver settlePosts
  split
  · rfl
  · exact foldl_performPost_g ..

/-! ## An access that starts -/

section
variable {s s' : State} {ea : W64} {n align : Nat} {k : AKind} {w : WKind} {ps : List Piece}

theorem afterAcquire_of (hf : s.c.accs.any (s.fences ps) = false) (hp : s.c.passed = []) (r : State → Res) : afterAcquire s ps r = r s := by
  rw [afterAcquire, if_neg (by simp [hf]), hp]
  rfl

theorem absentTile_congr {t : State} (h : t.g = s.g) (ps : List Piece) : absentTile t ps = absentTile s ps := by
  unfold absentTile
  rw [h]

theorem accRequest_of {a : Access} (h : isOwn a.va = false → absentTile s a.pieces = none) : accRequest s a = none := by
  unfold accRequest
  split
  · rfl
  · next hc =>
    simp only [Bool.or_eq_true, not_or, Bool.not_eq_true] at hc
    exact h hc.1

theorem startAcc_of (h : Starts s ea n align k w s' ps) (a : Access) (hv : a.va = ea) (hp : a.pieces = ps) (r : State → Res) :
    startAcc s' a r = r (committed s' a) := by
  obtain ⟨-, hf, hpass, hl, hown, habs⟩ := h
  subst hv hp
  have hreq : accRequest s' a = none := accRequest_of habs
  have hreq' : accRequest (settleOver a.pieces s') { a with
      root := (settleOver a.pieces s').c.ptroot, asid := (settleOver a.pieces s').c.asid
      smode := (settleOver a.pieces s').c.status.mode, seq := (settleOver a.pieces s').g.sendNext } = none :=
    accRequest_of fun ho => (absentTile_congr (settleOver_g ..) _).trans (habs ho)
  rw [startAcc, accGate, afterAcquire_of hf hpass, if_neg (by omega), if_neg (by simp [hown]), hreq]
  dsimp only
  rw [commitAcc]
  dsimp only
  rw [hreq']
  rfl

theorem checkAddr_starts (h : Starts s ea n align k w s' ps) (r : State → List Piece → Res) :
    (checkAddr s ea n align k w).bind r = r s' ps := by
  rw [h.1]
  rfl

end

theorem scopeTest_of {s : State} {sc : Scope} (h : InScope s sc) (k : Nat → Res) : scopeTest s sc k = k (Machine.Scope.num sc) :=
  if_neg (Nat.not_lt.2 h)

/-- The end of a word that may leave the core until its fill. -/
theorem finish_leaveFor (s u : State) (go : Bool) (rs : List (Fin 32)) (d : Nat) :
    finish s ((leaveFor u go d).pop (curOf rs)) = leftFor go u rs d := by
  cases go with
  | true => exact finish_pop_done s u rs
  | false =>
    simp only [leaveFor, leftFor, Res.pop, finish, popAll_curOf]
    rfl

/-- The effect of a load that leaves the core, or that goes on before its fill. -/
theorem loadEffect_of {s s' : State} {ea : W64} {n : Nat} {ps : List Piece} (h : Starts s ea n n .load .load s' ps) (d : Fin 32)
    (sg nw acq : Bool) (away : Option Agent) (ho : (isOwn ea && !nw) = false) :
    loadEffect s d ea n sg nw acq away = leaveFor (emptyX (acquired (acq && away.isNone)
      (committed s' { kind := .load d sg, va := ea, size := n, pieces := ps, acq := acq, away := away })) d .awaiting) (nw || d.val = 0) d.val := by
  rw [loadEffect, checkAddr_starts h,
    ho, if_neg (by decide), startAcc_of h _ rfl rfl]
  rfl

theorem sizes_bytes {z : MSz × Nat} (h : z ∈ sizes) : MSz.bytes z.1 = z.2 := by
  revert z
  decide

section
variable {s s' : State} {d a b : Fin 32} {w nw : Bool} {o : BitVec 11} {x ea : W64} {ps : List Piece} {z : MSz} {n : Nat}

theorem loadWord_of (ho : One s b x) (hd : Writable s d) (sg : Bool) (hz : MSz.bytes z = n)
    (h : Starts s (x + o.signExtend 64 * .ofNat 64 n) n n .load .load s' ps)
    (hn : nw = true ∨ isOwn (x + o.signExtend 64 * .ofNat 64 n) = false) :
    loadWord s z d b w nw sg o = leftFor (nw || d.val = 0) (emptyX (committed s'
      { kind := .load d sg, va := x + o.signExtend 64 * .ofNat 64 n, size := n, pieces := ps }) d .awaiting) [b] d.val := by
  obtain ⟨hs, hb⟩ := ho
  have hn' : (isOwn (x + o.signExtend 64 * .ofNat 64 n) && !nw) = false := by
    rcases hn with rfl | hn
    · exact Bool.and_false _
    · rw [hn]; rfl
  rw [loadWord, hz, ← curOf_nil, srcX_of hs hb, commit_curOf, dstX_of hd, loadEffect_of h d sg nw false none hn', finish_leaveFor]
  rfl

variable (ho : One s a ea) (h : Starts s ea n n .load .load s' ps) (hown : isOwn ea = false)
include ho h hown

theorem ldAcq_of (hd : Writable s d) {sc : Scope} (hsc : InScope s sc) (hz : MSz.bytes z = n) :
    exec (.ldAcq z d a sc w) s = leftFor (d.val = 0) (emptyX (acquired (s.keeps (Machine.Scope.num sc)) (committed s'
      { kind := .load d false, va := ea, size := n, pieces := ps, acq := true, away := s.awayAt (Machine.Scope.num sc) })) d .awaiting) [a] d.val := by
  obtain ⟨hs, ha⟩ := ho
  change execLdAcq z d a sc w s = _
  rw [execLdAcq, hz, ← curOf_nil, srcX_of hs ha, commit_curOf, dstX_of hd, scopeTest_of hsc,
    loadEffect_of h d false false true _ (by simp [hown]), finish_leaveFor, Bool.false_or]
  rfl

theorem vldb_of (hd : WritableV s d) (hz : MSz.bytes z = n) :
    exec (.vldb z d a w) s = leftFor false
      (emptyV (committed s' { kind := .vbcast d, va := ea, size := n, pieces := ps }) d .awaiting) [a] (32 + d.val) := by
  obtain ⟨hs, ha⟩ := ho
  change execVldb z d a w s = _
  rw [execVldb, hz, ← curOf_nil, srcX_of hs ha, commit_curOf, dstV_of hd, checkAddr_starts h,
    hown, if_neg (by decide), startAcc_of h _ rfl rfl, finish_leaveFor]
  rfl

end

section
variable {s s' : State} {d a b : Fin 32} {w nw : Bool} {o : BitVec 11} {x ea : W64} {ps : List Piece}

theorem ldQ_of (ho : One s a ea) (hd : Writable s d) (hd' : Writable s (d + 1)) (h : Starts s ea 16 16 .load .load s' ps)
    (hown : isOwn ea = false) : exec (.ldQ d a w) s = leftFor false
      (emptyX (emptyX (committed s' { kind := .loadQ d, va := ea, size := 16, pieces := ps }) d .awaiting) (d + 1) .awaiting) [a] d.val := by
  obtain ⟨hs, ha⟩ := ho
  change execLdQ d a w s = _
  rw [execLdQ, ← curOf_nil, srcX_of hs ha, commit_curOf, dstX_of hd, nextReg, dstX_of hd', checkAddr_starts h,
    hown, if_neg (by decide), startAcc_of h _ rfl rfl, finish_leaveFor]
  rfl

theorem vldWord_of (ho : One s b x) (hd : WritableV s d) (h : Starts s (x + o.signExtend 64 * 64) 64 64 .load .load s' ps)
    (hn : nw = true ∨ isOwn (x + o.signExtend 64 * 64) = false) : vldWord s d b w nw o = leftFor nw (emptyV
      (committed s' { kind := .vload d, va := x + o.signExtend 64 * 64, size := 64, pieces := ps }) d .awaiting) [b] (32 + d.val) := by
  obtain ⟨hs, hb⟩ := ho
  have hn' : (isOwn (x + o.signExtend 64 * 64) && !nw) = false := by
    rcases hn with rfl | hn
    · exact Bool.and_false _
    · rw [hn]; rfl
  rw [vldWord, ← curOf_nil, srcX_of hs hb, commit_curOf, dstV_of hd, checkAddr_starts h,
    hn', if_neg (by decide), startAcc_of h _ rfl rfl, finish_leaveFor]
  rfl

theorem hld_of {d : Fin 8} (ho : One s b x) (hd : WritableH s d) (h : Starts s (x + o.signExtend 64 * 1024) 1024 64 .load .load s' ps) :
    exec (.hld d b w nw o) s = leftFor (nw || isOwn (x + o.signExtend 64 * 1024)) (emptyH
      (committed s' { kind := .hload d, va := x + o.signExtend 64 * 1024, size := 1024, pieces := ps }) d .awaiting) [b] (64 + d.val) := by
  obtain ⟨hs, hb⟩ := ho
  change execHld d b w nw o s = _
  rw [execHld, ← curOf_nil, srcX_of hs hb, commit_curOf, dstH_of hd, checkAddr_starts h,
    startAcc_of h _ rfl rfl, finish_leaveFor]
  rfl

end

/-- Settles O17. -/
theorem otherLoadsAwaitTheirFill : Obligations.OtherLoadsAwaitTheirFill := by
  refine ⟨fun z hz s s' d b w nw o x ps ho hd h hn q hq => ?_, fun z hz s s' d a w sc ea ps ho h hown =>
      ⟨fun hd hsc => ldAcq_of ho h hown hd hsc (sizes_bytes hz), fun hd => vldb_of ho h hown hd (sizes_bytes hz)⟩,
    fun s s' d a w ea ps ho hd hd' h hown => ldQ_of ho hd hd' h hown,
    fun s s' d b w o x ps ho hd h => ⟨vldWord_of ho hd h (.inl rfl), fun hown => vldWord_of ho hd h (.inr hown)⟩,
    fun s s' d b w nw o x ps ho hd h => hld_of ho hd h⟩
  revert q
  simp only [List.forall_mem_cons, List.not_mem_nil, false_imp_iff, implies_true, and_true]
  exact ⟨loadWord_of ho hd false (sizes_bytes hz) h hn, loadWord_of ho hd true (sizes_bytes hz) h hn⟩

end Sys2Proof.Proofs
end

section
/-! Stores off the core (O19). -/

namespace Sys2Proof.Proofs

open Sys2Proof Sys2Proof.Machine Sys2Proof.Safety Sys2Proof.Says Sys2Proof.Laws

/-! ## Bytes of numbers -/

theorem bytesLe_eq (n x : Nat) : bytesLe n x = bytesOf n x := by
  induction n generalizing x with
  | zero => rfl
  | succ n ih =>
    rw [bytesOf, ← ih, bytesLe, List.range_succ_eq_map, List.map_cons, List.map_map]
    congr 1
    · exact BitVec.eq_of_toNat_eq (by simp)
    · refine List.map_congr_left fun i _ => ?_
      simp only [Function.comp_apply, Nat.succ_eq_add_one, Nat.div_div_eq_div_mul]
      rw [Nat.mul_add, Nat.pow_add, Nat.mul_comm (2 ^ (8 * i))]

theorem bytesLe_mod (x : Nat) : bytesLe 8 (x % 2 ^ 64) = bytesLe 8 x := by
  refine List.map_congr_left fun i hi => ?_
  rw [List.mem_range] at hi
  congr 1
  have h : (64 : Nat) = 8 * i + (64 - 8 * i) := by omega
  rw [h, Nat.pow_add, Nat.mod_mul_right_div_self]
  exact Nat.mod_mod_of_dvd _ (by rw [show (256 : Nat) = 2 ^ 8 from rfl]; exact Nat.pow_dvd_pow 2 (by omega))

theorem validWords_eq (x : W512) (v : BitVec 8) : validWords x v =
    ((List.range 8).filter fun k => v.getLsbD k).map fun k => (8 * k, bytesLe 8 (x.toNat / 2 ^ (64 * k))) := by
  rw [← List.filterMap_eq_map, ← List.filterMap_eq_filter, List.filterMap_filterMap, validWords]
  refine List.filterMap_congr fun k _ => ?_
  have hb : bytesOf 8 (Machine.lane 64 x.toNat k) = bytesLe 8 (x.toNat / 2 ^ (64 * k)) := by
    rw [← bytesLe_eq, Machine.lane, bits, bytesLe_mod]
  rw [hb]
  by_cases h : v.getLsbD k <;> simp [h, Option.guard]

/-! ## What the address checks leave unchanged -/

/-- What a context waits for has not changed: itself, and what its tile and the mesh hold. -/
def KeepsOrder (s t : State) : Prop :=
  t.c = s.c ∧ t.t.vt = s.t.vt ∧ t.t.lash = s.t.lash ∧ t.g.mesh = s.g.mesh ∧ t.g.gangs = s.g.gangs

theorem keepsOrder_refl (s : State) : KeepsOrder s s := ⟨rfl, rfl, rfl, rfl, rfl⟩

theorem keepsOrder_trans {s t u : State} (h : KeepsOrder s t) (k : KeepsOrder t u) : KeepsOrder s u := by
  obtain ⟨h1, h2, h3, h4, h5⟩ := h
  obtain ⟨k1, k2, k3, k4, k5⟩ := k
  exact ⟨k1.trans h1, k2.trans h2, k3.trans h3, k4.trans h4, k5.trans h5⟩

theorem mapTile_setTlb_keeps (s : State) (vt : Nat) (b : Tlb) (f : Tile → List TlbE) :
    KeepsOrder s (s.mapTile vt fun t => t.setTlb b (f t)) := by
  unfold State.mapTile
  split
  · cases b <;> exact keepsOrder_refl _
  · exact keepsOrder_refl _

theorem useEntry_ok {s t : State} {e : TlbE} {va pa key : Nat} (h : useEntry s e va = .ok t pa key) : t = s := by
  unfold useEntry at h
  injection h with h
  exact h.symm

theorem translate_keeps {s t : State} {vt : Nat} {b : Tlb} {sp : Space} {k : AKind} {va pa key : Nat}
    (h : Machine.translate s vt b sp k va = .ok t pa key) : KeepsOrder s t := by
  unfold Machine.translate at h
  split at h
  · rw [useEntry_ok h]
    exact keepsOrder_refl _
  · split at h
    · rw [useEntry_ok h]
      exact mapTile_setTlb_keeps s vt b _
    · split at h
      · cases h
      · cases h
      · cases h
      · cases h
      · next m e _ =>
        split at h
        · rw [useEntry_ok h]
          exact keepsOrder_refl _
        · rw [useEntry_ok h]
          exact mapTile_setTlb_keeps { s with m := m, free := s.free + 1, g := { s.g with ctlb := putCtlb s vt e } } vt b _

theorem chkGlob_keeps {k : AKind} {b : Tlb} {l : List (Nat × Nat)} {s t : State} {ps qs : List Piece}
    (h : chkGlob k b l s ps = .ok t qs) : KeepsOrder s t := by
  induction l generalizing s ps with
  | nil =>
    cases h
    exact keepsOrder_refl _
  | cons a r ih =>
    rw [chkGlob] at h
    cases htr : Machine.translate s s.t.vt b (s.c.space s) k a.1 with
    | ok u pa key =>
      simp only [htr, chkTrans] at h
      split at h
      · exact keepsOrder_trans (translate_keeps htr) (ih h)
      · cases h
    | fault u => simp [htr, chkTrans] at h
    | poison u => simp [htr, chkTrans] at h
    | access u => simp [htr, chkTrans] at h
    | miss u gpa w => simp [htr, chkTrans] at h

/-- The pieces of global memory that a translated range comes to. -/
theorem chkGlob_places {k : AKind} {b : Tlb} {l : List (Nat × Nat)} {s t : State} {ps qs : List Piece}
    (h : chkGlob k b l s ps = .ok t qs) (hp : ∀ p ∈ ps, ∃ pa, p.place = .glob pa) : ∀ p ∈ qs, ∃ pa, p.place = .glob pa := by
  induction l generalizing s ps with
  | nil =>
    cases h
    exact hp
  | cons a r ih =>
    rw [chkGlob] at h
    cases htr : Machine.translate s s.t.vt b (s.c.space s) k a.1 with
    | ok u pa key =>
      simp only [htr, chkTrans] at h
      split at h
      · refine ih h fun p hm => ?_
        rcases List.mem_append.1 hm with hm | hm
        · exact hp p hm
        · obtain rfl := List.mem_singleton.1 hm
          exact ⟨pa, rfl⟩
      · cases h
    | fault u => simp [htr, chkTrans] at h
    | poison u => simp [htr, chkTrans] at h
    | access u => simp [htr, chkTrans] at h
    | miss u gpa w => simp [htr, chkTrans] at h

theorem checkRange_keeps {s t : State} {ea : W64} {n : Nat} {k : AKind} {w : WKind} {ps : List Piece}
    (h : checkRange s ea n k w = .ok t ps) : KeepsOrder s t := by
  unfold checkRange at h
  dsimp only at h
  split at h
  · cases h
  · split at h
    · exact chkGlob_keeps h
    · cases h; exact keepsOrder_refl _
    · split at h
      · cases h; exact keepsOrder_refl _
      · cases h
    · split at h
      · cases h
      · split at h
        · cases h
        · cases h; exact keepsOrder_refl _
    · cases h

theorem checkAddr_keeps {s t : State} {ea : W64} {n align : Nat} {k : AKind} {w : WKind} {ps : List Piece}
    (h : checkAddr s ea n align k w = .ok t ps) : KeepsOrder s t := by
  unfold checkAddr at h
  split at h
  · cases h
  · exact checkRange_keeps h

theorem chkDirty_cases {s u : State} {ea : W64} {ps qs : List Piece} (h : chkDirty s ea ps = .ok u qs) :
    (u = s ∧ qs = ps) ∨ ∀ p ∈ qs, ∃ pa, p.place = .glob pa := by
  unfold chkDirty at h
  dsimp only at h
  split at h
  · cases h
    exact .inl ⟨rfl, rfl⟩
  · exact .inr (chkGlob_places h (by simp))

theorem nothingBefore_keeps {s t : State} (h : NothingBefore s) (hk : KeepsOrder s t) : NothingBefore t := by
  obtain ⟨h1, h2, h3, h4, h5⟩ := h
  obtain ⟨hc, hvt, hl, hm, hg⟩ := hk
  have hmsgs : t.msgsOf t.t.vt t.c.id = s.msgsOf s.t.vt s.c.id := by
    simp only [State.msgsOf, State.tile?, if_true, hc, hvt, hl, hm, hg]
  refine ⟨hc ▸ h1, hc ▸ h2, hc ▸ h3, hmsgs ▸ h4, ?_⟩
  rw [Tile.gatesGlob, hl, hc]
  exact h5

/-! ## Storing the parts -/

theorem absorbOut_frame (s : State) (a : Nat) (bs : List Byte) : (absorbOut s a bs).t.lash.role = s.t.lash.role ∧
    (absorbOut s a bs).g = s.g ∧ (absorbOut s a bs).c = s.c := by
  unfold absorbOut
  split
  · refine ⟨?_, rfl, rfl⟩
    change (Tile.take _ _ _).lash.role = _
    unfold Tile.take
    split <;> rfl
  · exact ⟨rfl, rfl, rfl⟩

/-- The tile holds no store back: it is not lashed, and its grid has no belay. -/
def HoldsNothing (s : State) : Prop := s.t.lash.role = 0 ∧ s.g.belay = 0

theorem storedOff_holdsNothing {s : State} (h : HoldsNothing s) (key : Nat) (pl : Place) (bs : List Byte) :
    HoldsNothing (storedOff s key pl bs) := by
  obtain ⟨hr, hb⟩ := h
  cases pl with
  | glob pa =>
    obtain ⟨hr', hg, -⟩ := absorbOut_frame s pa bs
    unfold storedOff HoldsNothing
    dsimp only
    split
    · exact ⟨hr'.trans hr, hg ▸ hb⟩
    · exact ⟨hr'.trans hr, hg ▸ hb⟩
  | tile vt o =>
    obtain ⟨hr', hg, -⟩ := absorbOut_frame (send s vt (.store o bs)) (0xFF20000000000000 + vt * 2 ^ 24 + o) bs
    have hs : send s vt (.store o bs) = post s s.t.vt s.c.id vt (.store o bs) := if_pos hr
    refine ⟨hr'.trans (hs ▸ hr), ?_⟩
    change (absorbOut (send s vt (.store o bs)) _ bs).g.belay = 0
    rw [hg, hs]
    exact hb

theorem storeGlob_of {s : State} (h : HoldsNothing s) (key pa : Nat) (bs : List Byte) : storeGlob s key pa bs = storedOff s key (.glob pa) bs := by
  obtain ⟨hr, hb⟩ := h
  obtain ⟨hr', hg, -⟩ := absorbOut_frame s pa bs
  have hd : (absorbOut s pa bs).defers = (absorbOut s pa bs).c.slow := by simp [State.defers, hr', hr, hg, hb]
  rw [storeGlob]
  dsimp only
  rw [if_neg (by rw [hr', hr]; decide), if_neg (by rw [hg, hb]; decide), hd]
  rfl

theorem segsIn_single (p0 n o : Nat) (bs : List Byte) : segsIn p0 n [(o, bs)] = [] ∨ ∃ x, segsIn p0 n [(o, bs)] = [x] := by
  unfold segsIn
  rw [List.filterMap_cons]
  split
  · exact .inl rfl
  · exact .inr ⟨_, rfl⟩

/-- The parts of a store that fall into one piece, each stored at its place. -/
def storedPiece (sg : Segs) (s : State) (p : Nat × Piece) : State :=
  (segsIn p.1 p.2.len sg).foldl (fun s x => storedOff s p.2.key (placePlus p.2.place x.1) x.2) s

theorem foldl_storedOff_holdsNothing (key : Nat) (pl : Place) (l : List (Nat × List Byte)) {s : State} (h : HoldsNothing s) :
    HoldsNothing (l.foldl (fun s x => storedOff s key (placePlus pl x.1) x.2) s) := by
  induction l generalizing s with
  | nil => exact h
  | cons x r ih => exact ih (storedOff_holdsNothing h ..)

/-- A piece that the store takes part by part: of global memory, of a scratchpad or weight buffer, or of the registers where the store
has one part. -/
def Plain (sg : Segs) (pl : Place) : Prop :=
  match pl with
  | .glob _ => True
  | .tile _ o => o < 0x800000 ∨ ((∃ x, sg = [x]) ∧ o < 0xC00000)

theorem foldl_storeGlob_of (key pa : Nat) (l : List (Nat × List Byte)) {s : State} (h : HoldsNothing s) :
    l.foldl (fun s (o, b) => storeGlob s key (pa + o) b) s = l.foldl (fun s x => storedOff s key (.glob (pa + x.1)) x.2) s := by
  induction l generalizing s with
  | nil => rfl
  | cons x r ih =>
    obtain ⟨o, b⟩ := x
    change List.foldl _ (storeGlob s key (pa + o) b) r = List.foldl _ (storedOff s key (.glob (pa + o)) b) r
    rw [storeGlob_of h]
    exact ih (storedOff_holdsNothing h ..)

theorem storePiece_of {s : State} {sg : Segs} {p : Piece} (h : HoldsNothing s) (hp : Plain sg p.place) (p0 : Nat) :
    storePiece s false p p0 sg = storedPiece sg s (p0, p) := by
  unfold storePiece storedPiece
  cases hpl : p.place with
  | glob pa => exact foldl_storeGlob_of _ _ _ h
  | tile vt o =>
    rw [hpl] at hp
    have ho : o < 0xC00000 := by rcases hp with hp | ⟨-, hp⟩ <;> omega
    dsimp only
    rw [if_neg (by decide), if_neg (by omega), if_neg (by omega)]
    by_cases h8 : 0x800000 ≤ o
    · rw [if_pos h8]
      obtain ⟨⟨x, rfl⟩, -⟩ := hp.resolve_left (by omega)
      rcases segsIn_single p0 p.len x.1 x.2 with hs | ⟨y, hs⟩
      · rw [hs]
        rfl
      · rw [hs]
        simp only [sendRegs, joinSegs, List.map_cons, List.map_nil]
        rfl
    · rw [if_neg h8]
      refine congrArg (fun f => List.foldl f s (segsIn p0 p.len sg)) (funext fun u => funext fun x => ?_)
      simp only [storedOff, placePlus, Nat.add_assoc]

theorem prefixSums_cons (p : Piece) (ps : List Piece) (p0 : Nat) :
    (((List.range (p :: ps).length).map fun i => p0 + (((p :: ps).take i).map (·.len)).sum).zip (p :: ps)) =
      (p0, p) :: (((List.range ps.length).map fun i => p0 + p.len + ((ps.take i).map (·.len)).sum).zip ps) := by
  rw [List.length_cons, List.range_succ_eq_map, List.map_cons, List.zip_cons_cons, List.map_map]
  simp [Function.comp_def, Nat.add_assoc]

theorem storePieces_of {sg : Segs} (ps : List Piece) {s : State} (h : HoldsNothing s) (hp : ∀ p ∈ ps, Plain sg p.place) (p0 : Nat) :
    storePieces s false sg ps p0 =
      (((List.range ps.length).map fun i => p0 + ((ps.take i).map (·.len)).sum).zip ps).foldl (storedPiece sg) s := by
  induction ps generalizing s p0 with
  | nil => rfl
  | cons p r ih =>
    rw [prefixSums_cons, List.foldl_cons, storePieces, storePiece_of h (hp p List.mem_cons_self)]
    exact ih (foldl_storedOff_holdsNothing _ _ _ h) (fun q hq => hp q (List.mem_cons_of_mem _ hq)) _

theorem storePieces_eq {sg : Segs} {ps : List Piece} {s : State} (h : HoldsNothing s) (hp : ∀ p ∈ ps, Plain sg p.place) :
    storePieces s false sg ps 0 = storedAll s sg ps := by
  rw [storePieces_of ps h hp]
  simp only [Nat.zero_add]
  rfl

/-! ## The gates of a store -/

section
variable {s u : State} {ea : W64} {n align : Nat} {masked one : Bool} {ps qs : List Piece} {sg : Segs}

theorem afterOwn_of (ha : s.c.accs = []) (hp : s.c.posted = []) (k : State → Res) : afterOwn s ps k = k s := by
  have hs : settleOver ps s = s := by rw [settleOver, settlePosts, if_pos hp]
  rw [afterOwn, performOwn_nil _ ha, hs, if_neg (by simp [ha])]

theorem storeBody_store {o : Nat} (h : o < 0xC00000) (bs : List Byte) : storeBody o bs = .store o bs := if_neg (by omega)

theorem storeGate_of (hb : s.g.belay = 0) (h : ∀ p ∈ ps, ∀ vt o, p.place = .tile vt o → o < 0xC00000 ∧
    parkRoom s.g vt (.store o (List.replicate p.len 0)) = true) (k : State → Res) : storeGate s ea false sg ps k = k s := by
  unfold storeGate
  extract_lets isIns isGlob full
  have hins : isIns = false := List.any_eq_false.2 fun p hp => by
    split
    · next vt o ho => simpa using (h p hp vt o ho).1.trans (by decide)
    · decide
  have hfull : full = none := List.find?_eq_none.2 fun p hp => by
    split
    · next vt o ho =>
      obtain ⟨hlt, hr⟩ := h p hp vt o ho
      rw [hins, if_neg (by decide), storeBody_store hlt, hr]
      decide
    · decide
  rw [hins, hfull, if_neg (by simp), if_neg (by simp), if_neg (by simp [hb])]
  rfl

/-- A store whose checks pass stores its parts. -/
theorem storeTo_of {s' : State} (hown : isOwn ea = false) (ha : s'.c.accs = []) (hpost : s'.c.posted = []) (hpass : s'.c.passed = [])
    (hd : chkDirty s' ea ps = .ok u qs) (hb : s'.g.belay = 0) (hu : HoldsNothing u)
    (hps : ∀ p ∈ ps, ∀ vt o, p.place = .tile vt o → (o < 0x800000 ∨ (one = true ∧ o < 0xC00000)) ∧
      parkRoom s'.g vt (.store o (List.replicate p.len 0)) = true) (hsg : one = true → ∃ x, sg = [x]) :
    storeTo s' ea sg ps = .done (storedAll u sg qs) := by
  have hplain : ∀ p ∈ qs, Plain sg p.place := by
    intro p hp
    unfold Plain
    split
    · trivial
    · next vt o ho =>
      rcases chkDirty_cases hd with ⟨-, rfl⟩ | hg
      · rcases (hps p hp vt o ho).1 with hlt | ⟨h1, hlt⟩
        · exact .inl hlt
        · exact .inr ⟨hsg h1, hlt⟩
      · obtain ⟨pa, hpa⟩ := hg p hp
        rw [hpa] at ho
        cases ho
  rw [storeTo, hown, afterAcquire_of (by simp [ha]) hpass, storeGate_of hb (fun p hp vt o ho => ⟨?_, (hps p hp vt o ho).2⟩), afterOwn_of ha hpost, hd]
  · rw [Chk.bind, storePieces_eq hu hplain]
  · rcases (hps p hp vt o ho).1 with hlt | ⟨-, hlt⟩ <;> omega

theorem bind_storeTo (h : Sends s ea n align masked one u qs) (hsg : one = true → ∃ x, sg = [x]) {R : State → List Piece → Res}
    (hR : ∀ s' ps, checkAddr s ea n align .store (.store masked) = .ok s' ps → R s' ps = storeTo s' ea sg ps) :
    (checkAddr s ea n align .store (.store masked)).bind R = .done (storedAll u sg qs) := by
  obtain ⟨hown, s', ps, hc, ha, hpost, hpass, hd, hb, hub, hur, hps⟩ := h
  rw [hc, Chk.bind, hR s' ps hc]
  exact storeTo_of hown ha hpost hpass hd hb ⟨hur, hub⟩ hps hsg

/-- Where nothing is before it, nothing is waited for. -/
theorem settled_of (h : NothingBefore s) (qp : Post → Bool) (q : Nat → List Piece → Bool) (k : State → Res) :
    settled s true true qp q k = k s := by
  obtain ⟨ha, hp, -, hm, hg⟩ := h
  rw [settled]
  simp only [if_true, Bool.or_self]
  rw [settlePosts, if_pos hp, performOwn_nil _ ha, if_neg (by simp [State.storesOf, hm, hg, ha])]

theorem releaseOver_of (h : NothingBefore s) (sc : Nat) (k : State → Res) : releaseOver s sc ps k = k s := by
  have hpass := h.2.2.1
  unfold releaseOver
  split
  · rw [allPerformed, settled_of h]
    simp only [Bool.and_self, if_true]
    exact congrArg (fun l => k { s with c := { s.c with passed := l } }) hpass.symm
  · split
    · rfl
    · exact settled_of h ..

end

/-! ## The words -/

section
variable {s u : State} {d a b : Fin 32} {w wd : Bool} {o : BitVec 11} {x y z ea : W64} {qs : List Piece} {m : MSz} {n : Nat}

theorem one_single {x : Nat × List Byte} : true = true → ∃ y, [x] = [y] := fun _ => ⟨x, rfl⟩

theorem st_of (h : Two s b d x y) (hm : MSz.bytes m = n) (hs : Sends s (x + o.signExtend 64 * .ofNat 64 n) n n false true u qs) :
    exec (.st m d b w wd o) s = done (storedAll u [(0, bytesLe n y.toNat)] qs) [b, d] := by
  obtain ⟨hsound, hb, hd⟩ := h
  change execSt m d b w wd o s = _
  rw [execSt, hm, ← curOf_nil, srcX_of hsound hb, List.nil_append, srcX_of hsound hd, commit_curOf, storeEffect,
    bind_storeTo hs one_single fun _ _ _ => rfl, bytesLe_eq]
  exact finish_pop_done ..

theorem stRel_of (h : Two s a d ea y) (hm : MSz.bytes m = n) {sc : Scope} (hsc : InScope s sc) (hn : NothingBefore s)
    (hs : Sends s ea n n false true u qs) :
    exec (.stRel m d a sc w) s = done (storedAll u [(0, bytesLe n y.toNat)] qs) [a, d] := by
  obtain ⟨hsound, ha, hd⟩ := h
  change execStRel m d a sc w s = _
  rw [execStRel, hm, ← curOf_nil, srcX_of hsound ha, List.nil_append, srcX_of hsound hd, commit_curOf, scopeTest_of hsc, storeEffect,
    bind_storeTo hs one_single fun _ _ hc => releaseOver_of (nothingBefore_keeps hn (checkAddr_keeps hc)) _ _, bytesLe_eq]
  exact finish_pop_done ..

theorem stQ_of (h : Two s a d ea y) (hz : scalar s [a, d] (d + 1) = some (z, true)) (hs : Sends s ea 16 16 false true u qs) :
    exec (.stQ d a w) s = done (storedAll u [(0, bytesLe 8 y.toNat ++ bytesLe 8 z.toNat)] qs) [a, d, d + 1] := by
  obtain ⟨hsound, ha, hd⟩ := h
  change execStQ d a w s = _
  rw [execStQ, ← curOf_nil, srcX_of hsound ha, List.nil_append, srcX_of hsound hd, List.cons_append, List.nil_append, nextReg, srcX_of hsound hz,
    commit_curOf, bind_storeTo hs one_single fun _ _ _ => rfl, bytesLe_eq, bytesLe_eq]
  exact finish_pop_done ..

theorem vst_of {y : W512} {v : BitVec 8} (hb : One s b x) (hd : vector s [b] d = some (y, v)) (hv : v ≠ 0)
    (hs : Sends s (x + o.signExtend 64 * 64) 64 64 true false u qs) :
    exec (.vst d b w o) s = done (storedAll u (((List.range 8).filter fun k => v.getLsbD k).map fun k =>
      (8 * k, bytesLe 8 (y.toNat / 2 ^ (64 * k)))) qs) [b, d] := by
  obtain ⟨hsound, hb⟩ := hb
  change execVst d b w o s = _
  rw [execVst, ← curOf_nil, srcX_of hsound hb, List.nil_append, srcV_of hsound hd, commit_curOf, ← validWords_eq]
  dsimp only
  rw [if_neg hv, bind_storeTo hs (by simp) fun _ _ _ => rfl]
  exact finish_pop_done ..

theorem hst_of {d : Fin 8} {y : W8192} (hb : One s b x) (hd : hyper s d = some y)
    (hs : Sends s (x + o.signExtend 64 * 1024) 1024 64 false true u qs) :
    exec (.hst d b w wd o) s = done (storedAll u [(0, bytesLe 1024 y.toNat)] qs) [b] := by
  obtain ⟨hsound, hb⟩ := hb
  change execHst d b w wd o s = _
  rw [execHst, ← curOf_nil, srcX_of hsound hb, srcH_of hsound hd, commit_curOf, bind_storeTo hs one_single fun _ _ _ => rfl, bytesLe_eq]
  exact finish_pop_done ..

end

/-- Settles O19. -/
theorem offCoreStoresAreSent : Obligations.OffCoreStoresAreSent :=
  ⟨fun _ hz _ _ _ _ _ _ _ _ _ _ h hs => st_of h (sizes_bytes hz) hs,
    fun _ hz _ _ _ _ _ _ _ _ _ h hsc hn hs => stRel_of h (sizes_bytes hz) hsc hn hs,
    fun _ _ _ _ _ _ _ _ _ h hz hs => stQ_of h hz hs,
    fun _ _ _ _ _ _ _ _ _ _ hb hd hv hs => vst_of hb hd hv hs,
    fun _ _ _ _ _ _ _ _ _ _ hb hd hs => hst_of hb hd hs⟩

end Sys2Proof.Proofs
end

section
/-! A step and the decoded instruction (O55). -/

namespace Sys2Proof.Proofs

open Sys2Proof Sys2Proof.Machine Sys2Proof.Safety Sys2Proof.Says Sys2Proof.Laws

/-- The instruction `nop` in the instruction store of a helper core that runs. -/
def nopHelper : Helper := { started := true, pc := .ofNat 64 iBase, istore := ({} : Memory).write 0 (bytesOf 4 0x13) }

/-- A tile that has no context, and whose loader core a debugger has asked to halt. -/
def bareTile : Tile := { vt := 1, ldr := { nopHelper with dbg := { pending := true } } }

/-- The schedule names the loader core of that tile; the tile in focus is another, whose loader core stands at a `nop`. -/
def bareScheduled : State :=
  { State.reset with t := { State.reset.t with ldr := nopHelper }, tiles := [bareTile], sched := [.helper 1 false] }

/-- The loader core of the tile in focus has been halted. -/
def loaderHalted : Out3 → Bool
  | .next t => t.t.ldr.dbg.halted
  | _ => false

theorem decodeHelper_nop : decodeHelper (natOf (nopHelper.istore.read 0 4)) = .ok (.rv64imInstruction 0x13) := by decide +kernel

/-- The step halts it: the halt asked for of the other tile's core is looked at, and the core in focus is the one that freezes. -/
theorem loaderHalted_step : loaderHalted (step bareScheduled) = true := by decide +kernel

/-- The instruction at which it stands does not halt it. -/
theorem loaderHalted_nop : loaderHalted (flushed (paired bareScheduled (exec (.rv64imInstruction 0x13)
    (repairMarks (focusHelper (rest bareScheduled) 1 false) 0 (srcHelper false false) (unitsOf 8 0 4))))) = false := by decide +kernel

/-- Refutes O55: its clause on helper cores takes the focused tile's core for the scheduled one, which it is not where the scheduled
tile has no context; such a tile's core is asked to halt, and the step freezes a core that would have run its instruction. -/
theorem not_stepRunsTheDecodedInstruction : ¬ Obligations.StepRunsTheDecodedInstruction := by
  unfold Obligations.StepRunsTheDecodedInstruction
  rintro ⟨-, -, -, -, -, -, -, h⟩
  have he := congrArg loaderHalted (h bareScheduled 1 false [] bareTile (.rv64imInstruction 0x13) rfl rfl (by decide +kernel) rfl rfl
    (by decide +kernel) rfl (by decide) (by decide) (by decide) rfl decodeHelper_nop)
  exact absurd (loaderHalted_step.symm.trans (he.trans loaderHalted_nop)) (by decide)

end Sys2Proof.Proofs
end

section
/-! Every step keeps the canonical form of every memory (O58): the predicates, and the operations on tiles, memories and accesses. -/

-- One proof at a time: hundreds of proofs elaborated side by side hold a thread and its stack each.
set_option Elab.async false

namespace Sys2Proof.Proofs

open Sys2Proof Sys2Proof.Machine Sys2Proof.Safety Sys2Proof.Says Sys2Proof.Laws

/-! ## The form of what the functions of the model pass on -/

/-- Every tile of the list has its memories in their canonical form. -/
def TilesForm (ts : List Tile) : Prop := ∀ t ∈ ts, TileForm t

/-- So has the helper core. -/
def HelperForm (h : Helper) : Prop := h.istore.wf = true ∧ h.dstore.wf = true

/-- So has the module. -/
abbrev ModuleForm (m : Module) : Prop := m.mem.wf = true

/-- So has a background grid with its tiles. -/
def GridBoxForm (b : GridBox) : Prop := GridForm b.g ∧ TilesForm b.tiles

/-- So have the background grids. -/
def BoxesForm (bs : List GridBox) : Prop := ∀ b ∈ bs, GridBoxForm b

theorem tileForm_iff {t : Tile} : TileForm t ↔ t.sp.wf = true ∧ HelperForm t.ldr ∧ HelperForm t.str := by
  simp [TileForm, HelperForm, and_assoc]

theorem gridForm_iff {g : Grid} :
    GridForm g ↔ TilesForm g.lashChk ∧ TilesForm g.belayChk ∧ TilesForm g.partners ∧ TilesForm g.partnerChk := by
  simp only [GridForm, TilesForm, List.mem_append, or_imp, forall_and, and_assoc]

theorem memoryForm_iff {s : State} :
    MemoryForm s ↔ s.m.mem.wf = true ∧ TileForm s.t ∧ TilesForm s.tiles ∧ GridForm s.g ∧ BoxesForm s.bg := Iff.rfl

@[simp] theorem tilesForm_cons {t : Tile} {ts : List Tile} : TilesForm (t :: ts) ↔ TileForm t ∧ TilesForm ts := List.forall_mem_cons

/-! What a function of the model answers has the form when the machine, or the module, that it carries has it. -/

def OutForm (o : Out3) : Prop := ∀ t, o = .next t → MemoryForm t

@[simp] theorem outForm_next {s : State} : OutForm (.next s) ↔ MemoryForm s := by simp [OutForm]

def ResForm : Res → Prop
  | .null => True
  | .done s | .leave s | .park s _ | .jump s _ | .trap s _ _ _ | .wait s _ | .stay s => MemoryForm s

def HResForm : HRes → Prop
  | .go s _ | .trap s _ _ | .wait s | .stay s => MemoryForm s

def ChkForm : Chk → Prop
  | .ok s _ | .trap s _ _ _ | .wait s _ => MemoryForm s

def HChkForm : HChk → Prop
  | .istore _ | .dstore _ => True
  | .mem s _ | .trap s _ | .stall s => MemoryForm s

def EChkForm : EChk → Prop
  | .ok s _ | .err s _ _ => MemoryForm s

def EChksForm : EChks → Prop
  | .ok s _ | .err s _ _ _ => MemoryForm s

def FetchedForm : Fetched → Prop
  | .ok s _ | .trap s _ _ _ | .wait s _ => MemoryForm s

def Unit8Form : Unit8 → Prop
  | .run s _ | .over s => MemoryForm s

def TransForm : Trans → Prop
  | .ok s _ _ | .fault s | .poison s | .access s | .miss s _ _ => MemoryForm s

abbrev S2Form (x : S2) : Prop := ModuleForm x.m

def St2Form : St2 → Prop
  | .ok x => S2Form x
  | .fault | .access => True

def TlForm : Tl → Prop
  | .ok m _ | .fault m | .poison m | .access m | .miss m _ _ => ModuleForm m

def ElemForm : Elem → Prop
  | .moved s | .fault s _ _ | .summon s => MemoryForm s
  | .stall => True

def Unit128Form : Unit128 → Prop
  | .moved s _ | .fault s _ _ | .summon s => MemoryForm s
  | .stall => True

abbrev ImagesForm (x : Images) : Prop := ModuleForm x.m

def CheckedForm : Checked → Prop
  | .fails _ => True
  | .ok im _ => ImagesForm im

/-! ### Default values, and a new module -/

theorem memoryForm_setModule {s : State} {m : Module} (hs : MemoryForm s) (hm : ModuleForm m) : MemoryForm { s with m := m } :=
  ⟨hm, hs.2⟩

theorem tileForm_default : TileForm {} := ⟨rfl, rfl, rfl, rfl, rfl⟩

theorem gridForm_default : GridForm {} := fun _ h => absurd h List.not_mem_nil

theorem stateReset_form : MemoryForm State.reset :=
  ⟨rfl, tileForm_default, fun _ h => absurd h List.not_mem_nil, gridForm_default, fun _ h => absurd h List.not_mem_nil⟩

/-- What holds of the value of an option, and of the default, holds of what `getD` takes. -/
theorem of_getD {α : Type} {P : α → Prop} {o : Option α} {a : α} (ho : ∀ y, o = some y → P y) (ha : P a) : P (o.getD a) := by
  cases o with
  | none => exact ha
  | some y => exact ho y rfl

/-! ## Folds -/

theorem foldl_memoryForm {α : Type} {f : State → α → State} {l : List α} {s : State} (hs : MemoryForm s)
    (hf : ∀ s a, MemoryForm s → MemoryForm (f s a)) : MemoryForm (l.foldl f s) :=
  List.foldlRecOn _ _ hs fun s h a _ => hf s a h

theorem foldl_fst_memoryForm {α β : Type} {f : State × β → α → State × β} {l : List α} {s : State × β} (hs : MemoryForm s.1)
    (hf : ∀ s a, MemoryForm s.1 → MemoryForm (f s a).1) : MemoryForm (l.foldl f s).1 :=
  List.foldlRecOn (motive := fun x : State × β => MemoryForm x.1) _ _ hs fun s h a _ => hf s a h

theorem foldl_moduleForm {α : Type} {f : Module → α → Module} {l : List α} {m : Module} (hm : ModuleForm m)
    (hf : ∀ m a, ModuleForm m → ModuleForm (f m a)) : ModuleForm (l.foldl f m) :=
  List.foldlRecOn (motive := fun m : Module => ModuleForm m) _ _ hm fun m h a _ => hf m a h

theorem foldl_tileForm {α : Type} {f : Tile → α → Tile} {l : List α} {t : Tile} (ht : TileForm t)
    (hf : ∀ t a, TileForm t → TileForm (f t a)) : TileForm (l.foldl f t) :=
  List.foldlRecOn _ _ ht fun t h a _ => hf t a h

/-! ## The functions of the model, in the order of its files -/

/-! ### Bits -/

theorem mem_setNth {α : Type} {l : List α} {k : Nat} {x y : α} (h : y ∈ setNth l k x) : y = x ∨ y ∈ l := by
  induction l generalizing k with
  | nil => simp [setNth] at h
  | cons a r ih => cases k <;> grind [setNth]

/-! ### Ops -/

theorem gridMapGang_form {g k f} (hg : GridForm g) : GridForm (Grid.mapGang g k f) :=
  hg

theorem stateTile_form {s vt} (hs : MemoryForm s) : ∀ y, State.tile? s vt = some y → TileForm y := by
  unfold State.tile?
  repeat' split
  all_goals grind [memoryForm_iff, TilesForm]

theorem stateMapTile_form {s vt f} (hs : MemoryForm s) (hf : ∀ a, TileForm a → TileForm (f a)) : MemoryForm (State.mapTile s vt f) := by
  unfold State.mapTile
  repeat' split
  all_goals grind [memoryForm_iff, TilesForm]

theorem stateAllTiles_form {s} (hs : MemoryForm s) : TilesForm (State.allTiles s) := by
  unfold State.allTiles
  grind [memoryForm_iff, TilesForm]

theorem stateMapTiles_form {s f} (hs : MemoryForm s) (hf : ∀ a, TileForm a → TileForm (f a)) : MemoryForm (State.mapTiles s f) := by
  unfold State.mapTiles
  grind [memoryForm_iff, TilesForm]

theorem stateMapCtxs_form {s vt f} (hs : MemoryForm s) : MemoryForm (State.mapCtxs s vt f) := by
  unfold State.mapCtxs
  grind [memoryForm_iff, tileForm_iff, stateMapTile_form]

theorem stateMapCtx_form {s vt c f} (hs : MemoryForm s) : MemoryForm (State.mapCtx s vt c f) :=
  stateMapCtxs_form hs

theorem stateMapAllCtxs_form {s f} (hs : MemoryForm s) : MemoryForm (State.mapAllCtxs s f) := by
  unfold State.mapAllCtxs
  grind [memoryForm_iff, tileForm_iff, TilesForm]

theorem insertTile_form {ts : List Tile} {t : Tile} (hs : TilesForm ts) (ht : TileForm t) : TilesForm (insertTile ts t) := by
  induction ts with
  | nil => grind [insertTile, TilesForm]
  | cons u r ih => grind [insertTile, TilesForm]

theorem stateFocus_form {s vt c} (hs : MemoryForm s) : MemoryForm (State.focus s vt c) := by
  unfold State.focus
  repeat' split
  all_goals grind [memoryForm_iff, tileForm_iff, TilesForm, insertTile_form]

theorem setNth_boxesForm {bs : List GridBox} {k b} (h : BoxesForm bs) (hb : GridBoxForm b) : BoxesForm (setNth bs k b) := by
  intro x hx
  rcases mem_setNth hx with rfl | hx
  · exact hb
  · exact h x hx

theorem swapGrid_form {s k} (hs : MemoryForm s) : MemoryForm (swapGrid s k) := by
  unfold swapGrid
  repeat' split
  · exact hs
  · exact hs
  · exact hs
  next b hb _ t ts ht _ c cs hc =>
  have hb : GridBoxForm b := hs.2.2.2.2 b (List.mem_of_getElem? hb)
  grind [memoryForm_iff, tileForm_iff, GridBoxForm, tilesForm_cons, setNth_boxesForm]

theorem wholeTile_form {s t} (ht : TileForm t) : TileForm (wholeTile s t) := by
  unfold wholeTile
  repeat' split
  all_goals grind [tileForm_iff]

theorem stateWhole_form {s vt} (hs : MemoryForm s) : ∀ y, State.whole? s vt = some y → TileForm y := by
  unfold State.whole?
  grind [wholeTile_form, stateTile_form, Option.map_eq_some_iff]

theorem restoreTile_form {s u} (hs : MemoryForm s) (hu : TileForm u) : MemoryForm (restoreTile s u) := by
  unfold restoreTile
  repeat' split
  all_goals grind [memoryForm_iff, tileForm_iff, TilesForm]

theorem stateAsPartner_form {s u} (hs : MemoryForm s) (hu : TileForm u) : MemoryForm (State.asPartner s u) := by
  unfold State.asPartner
  repeat' split
  all_goals grind [memoryForm_iff, tileForm_iff, gridForm_iff, restoreTile_form]

theorem stateNotePartner_form {s p vt} (hs : MemoryForm s) (hp : MemoryForm p) : MemoryForm (State.notePartner s p vt) := by
  unfold State.notePartner
  split
  · exact hs
  next u hu =>
  have hu := stateWhole_form hp u hu
  have hs' : MemoryForm (s.mapTile vt fun t => { t with lash := { t.lash with pfp := u.lash.fp } }) :=
    stateMapTile_form hs (by grind [tileForm_iff])
  grind [memoryForm_iff, gridForm_iff, TilesForm]

theorem mirrored_form {f s r} (hf : ∀ a, MemoryForm a → MemoryForm (f a)) (hs : MemoryForm s) (hr : MemoryForm r) :
    MemoryForm (mirrored f s r) := by
  unfold mirrored
  refine List.foldlRecOn _ _ hr fun r hr u hu => stateNotePartner_form hr (hf _ (stateAsPartner_form hs ?_))
  grind [memoryForm_iff, gridForm_iff, TilesForm]

theorem forGroup_form {f s} (hf : ∀ a, MemoryForm a → MemoryForm (f a)) (hs : MemoryForm s) : MemoryForm (forGroup f s) :=
  stateFocus_form (List.foldlRecOn _ _ (hf _ hs) fun _ h _ _ => swapGrid_form (mirrored_form hf (swapGrid_form h) (hf _ (swapGrid_form h))))

theorem moduleMapVf_form {m v f} (hm : ModuleForm m) : ModuleForm (Module.mapVf m v f) := by
  unfold Module.mapVf
  repeat' split
  all_goals grind

theorem stateMapVf_form {s v f} (hs : MemoryForm s) : MemoryForm (State.mapVf s v f) :=
  ⟨moduleMapVf_form hs.1, hs.2⟩

theorem tileTake_form {t rr bs} (ht : TileForm t) : TileForm (Tile.take t rr bs) :=
  ht

theorem absorb_form {s role code contents tag} (hs : MemoryForm s) : MemoryForm (absorb s role code contents tag) := by
  unfold absorb
  repeat' split
  all_goals grind [memoryForm_iff, tileTake_form]

theorem absorbOut_form {s addr data} (hs : MemoryForm s) : MemoryForm (absorbOut s addr data) := by
  unfold absorbOut
  repeat' split
  all_goals grind [memoryForm_iff, tileTake_form]

theorem logEvent_form {s vt kind role pos arg} (hs : MemoryForm s) : MemoryForm (logEvent s vt kind role pos arg) := by
  unfold logEvent
  repeat' split
  all_goals grind [memoryForm_iff, tileForm_iff, gridForm_iff, stateMapTile_form]

theorem absorbCsr_form {s n v} (hs : MemoryForm s) : MemoryForm (absorbCsr s n v) :=
  absorb_form hs

theorem absorbTrapCsrs_form {s} (hs : MemoryForm s) : MemoryForm (absorbTrapCsrs s) := by
  unfold absorbTrapCsrs
  grind [absorbCsr_form]

theorem gridCount_form {g n} (hg : GridForm g) : GridForm (Grid.count g n) :=
  hg

theorem gridUncount_form {g n} (hg : GridForm g) : GridForm (Grid.uncount g n) :=
  hg

theorem stateTally_form {s vt n} (hs : MemoryForm s) : MemoryForm (State.tally s vt n) := by
  unfold State.tally
  grind [memoryForm_iff, tileForm_iff, stateMapTile_form, gridCount_form]

theorem trapEntry_form {s z tval tval2} (hs : MemoryForm s) : MemoryForm (trapEntry s z tval tval2) := by
  unfold trapEntry
  grind [memoryForm_iff, tileForm_iff, absorbTrapCsrs_form, stateTally_form]

theorem absorbStatus_form {s} (hs : MemoryForm s) : MemoryForm (absorbStatus s) :=
  absorbCsr_form hs

theorem trapReturn_form {s} (hs : MemoryForm s) : MemoryForm (trapReturn s) :=
  absorbStatus_form hs

theorem countBundle_form {s role pos} (hs : MemoryForm s) : MemoryForm (countBundle s role pos) := by
  unfold countBundle
  repeat' split
  all_goals grind [memoryForm_iff, tileForm_iff, logEvent_form]

theorem retire_form {s} (hs : MemoryForm s) : MemoryForm (retire s) := by
  unfold retire
  repeat' split
  all_goals grind [memoryForm_iff, countBundle_form]

theorem retireTo_form {s t} (hs : MemoryForm s) : MemoryForm (retireTo s t) := by
  unfold retireTo
  repeat' split
  all_goals grind [memoryForm_iff, retire_form]

theorem atSwitch_form {s} (hs : MemoryForm s) : MemoryForm (atSwitch s) :=
  hs

theorem blockAt_form {s b} (hs : MemoryForm s) : MemoryForm (blockAt s b) :=
  atSwitch_form hs

theorem askRollback_form {s} (hs : MemoryForm s) : MemoryForm (askRollback s) := by
  unfold askRollback
  repeat' split
  all_goals grind [memoryForm_iff, gridForm_iff, forGroup_form]

theorem trapWord_form {s z tval tval2} (hs : MemoryForm s) : MemoryForm (trapWord s z tval tval2) := by
  unfold trapWord
  repeat' split
  all_goals grind [askRollback_form, blockAt_form, trapEntry_form]

theorem finish_form {s r} (hs : MemoryForm s) (hr : ResForm r) : OutForm (finish s r) := by
  unfold finish
  grind [outForm_next, ResForm, retire_form, atSwitch_form, blockAt_form, retireTo_form, trapWord_form]

theorem off_form {row} : OutForm (off row) := by
  unfold off
  grind [OutForm]

theorem stampNext_form {s} (hs : MemoryForm s) : MemoryForm (stampNext s) :=
  hs

theorem post_form {s src c dst b} (hs : MemoryForm s) : MemoryForm (post s src c dst b) := by
  unfold post
  grind [memoryForm_iff, gridForm_iff, stampNext_form]

theorem send_form {s dst b} (hs : MemoryForm s) : MemoryForm (send s dst b) := by
  unfold send
  repeat' split
  all_goals grind [memoryForm_iff, tileForm_iff, post_form, stampNext_form]

theorem sendPort_form {s dir e} (hs : MemoryForm s) : MemoryForm (sendPort s dir e) := by
  unfold sendPort
  repeat' split
  all_goals grind [absorbOut_form, send_form]

theorem tileHeal_form {t src off n} (ht : TileForm t) : TileForm (Tile.heal t src off n) := by
  unfold Tile.heal
  repeat' split
  all_goals grind [tileForm_iff]

theorem repairMarks_form {s vt src us} (hs : MemoryForm s) : MemoryForm (repairMarks s vt src us) := by
  unfold repairMarks
  repeat' split
  all_goals grind [memoryForm_iff, tileForm_iff, stateMapTile_form]

theorem healReg_form {s off n} (hs : MemoryForm s) : MemoryForm (healReg s off n) :=
  ⟨hs.1, tileHeal_form hs.2.1, hs.2.2⟩

theorem stateSetX_form {s r x} (hs : MemoryForm s) : MemoryForm (State.setX s r x) :=
  hs

theorem markX_form {s d x} (hs : MemoryForm s) : MemoryForm (markX s d x) :=
  absorb_form (stateSetX_form hs)

theorem putX_form {s d x} (hs : MemoryForm s) : MemoryForm (putX s d x) :=
  markX_form (healReg_form hs)

theorem writeX_form {s d val v} (hs : MemoryForm s) : MemoryForm (writeX s d val v) := by
  unfold writeX
  repeat' split
  all_goals grind [putX_form, sendPort_form]

theorem emptyX_form {s d g} (hs : MemoryForm s) : MemoryForm (emptyX s d g) := by
  unfold emptyX
  repeat' split
  all_goals grind [putX_form]

theorem writeV_form {s d val v} (hs : MemoryForm s) : MemoryForm (writeV s d val v) := by
  unfold writeV
  repeat' split
  all_goals grind [memoryForm_iff, absorb_form, healReg_form, sendPort_form]

theorem emptyV_form {s d g} (hs : MemoryForm s) : MemoryForm (emptyV s d g) := by
  unfold emptyV
  repeat' split
  all_goals grind [memoryForm_iff, absorb_form, healReg_form]

theorem putH_form {s d x} (hs : MemoryForm s) : MemoryForm (putH s d x) := by
  unfold putH
  grind [memoryForm_iff, absorb_form, healReg_form]

theorem writeH_form {s d val} (hs : MemoryForm s) : MemoryForm (writeH s d val) :=
  putH_form hs

theorem emptyH_form {s d g} (hs : MemoryForm s) : MemoryForm (emptyH s d g) :=
  putH_form hs

theorem markT_form {s d x} (hs : MemoryForm s) : MemoryForm (markT s d x) :=
  absorb_form hs

theorem putT_form {s d x} (hs : MemoryForm s) : MemoryForm (putT s d x) :=
  markT_form (healReg_form hs)

theorem putB_form {s d x} (hs : MemoryForm s) : MemoryForm (putB s d x) := by
  unfold putB
  grind [memoryForm_iff, absorb_form, healReg_form]

/-! ### Rim -/

theorem moduleMarkDown_form {m l} (hm : ModuleForm m) : ModuleForm (Module.markDown m l) := by
  unfold Module.markDown
  repeat' split
  all_goals grind

theorem moduleLogErr_form {m code detail} (hm : ModuleForm m) : ModuleForm (Module.logErr m code detail) :=
  hm

theorem moduleCorrectRange_form {m pa n} (hm : ModuleForm m) : ModuleForm (Module.correctRange m pa n) := by
  unfold Module.correctRange
  repeat' split
  all_goals grind

/-! ### Translate -/

theorem startPull_form {m v leaf} (hm : ModuleForm m) : ModuleForm (startPull m v leaf) :=
  moduleMapVf_form hm

theorem setAD_form {m key pa pte d} (hm : ModuleForm m) : ModuleForm (setAD m key pa pte d) := by
  unfold setAD
  repeat' split
  all_goals grind [writeGlob_wf]

/-! ### Translate -/

theorem stage2_form {m v gpa r w x d} (hm : ModuleForm m) : St2Form (stage2 m v gpa r w x d) := by
  unfold stage2
  dsimp only
  split
  · exact hm
  split
  · trivial
  · trivial
  split
  · trivial
  · exact setAD_form hm

theorem finishWalk_form {m sp k va ge pe key1 pte shift} (hm : ModuleForm m) : TlForm (finishWalk m sp k va ge pe key1 pte shift) := by
  unfold finishWalk
  repeat' split
  all_goals grind [St2Form, TlForm, stage2_form, writeGlob_wf]

theorem walk1_form {sp k va ls table m} (hm : ModuleForm m) : TlForm (walk1 sp k va ls table m) := by
  induction ls generalizing table m with
  | nil => exact hm
  | cons x r ih =>
    unfold walk1
    have h2 := stage2_form (v := sp.vf) (gpa := table + bits va x.1 x.2.1 * 8) (r := true) (w := false) (x := false) (d := false) hm
    grind [TlForm, St2Form, finishWalk_form]

theorem tileSetTlb_form {t b l} (ht : TileForm t) : TileForm (Tile.setTlb t b l) := by
  unfold Tile.setTlb
  repeat' split
  all_goals grind [tileForm_iff, HelperForm]

theorem walk_form {sp k va m} (hm : ModuleForm m) : TlForm (walk sp k va m) := by
  unfold walk
  repeat' split
  all_goals grind [TlForm, walk1_form]

theorem useEntry_form {s e va} (hs : MemoryForm s) : TransForm (useEntry s e va) :=
  hs

theorem translate_form {s vt b sp k va} (hs : MemoryForm s) : TransForm (translate s vt b sp k va) := by
  unfold Machine.translate
  repeat' split
  all_goals grind [memoryForm_iff, gridForm_iff, TlForm, TransForm, useEntry_form, stateMapTile_form, tileSetTlb_form, walk_form]

theorem invalidate_form {s vt p} (hs : MemoryForm s) : MemoryForm (invalidate s vt p) := by
  unfold invalidate
  grind [memoryForm_iff, tileForm_iff, gridForm_iff, HelperForm, stateMapTile_form]

theorem pushReq_form {m v r} (hm : ModuleForm m) : ModuleForm (pushReq m v r) := by
  unfold pushReq
  refine moduleMapVf_form ?_
  split
  · exact hm
  · exact writeGlob_wf _ _ _ _ hm

theorem placeReq_form {m v r} (hm : ModuleForm m) : ModuleForm (placeReq m v r).1 := by
  unfold placeReq
  dsimp only
  split
  · exact startPull_form hm
  · exact hm
  split
  · exact hm
  · exact pushReq_form hm

/-! ### Window -/

theorem tileSpWrite_form {t belay o bs} (ht : TileForm t) : TileForm (Tile.spWrite t belay o bs) := by
  unfold Tile.spWrite
  repeat' split
  all_goals grind [tileForm_iff, HelperForm, tileHeal_form, write_wf]

theorem spWrite_form {s vt o bs} (hs : MemoryForm s) : MemoryForm (spWrite s vt o bs) := by
  unfold spWrite
  grind [stateMapCtxs_form, stateMapTile_form, tileSpWrite_form]

theorem tileNoteSlot_form {t belay k} (ht : TileForm t) : TileForm (Tile.noteSlot t belay k) := by
  unfold Tile.noteSlot
  repeat' split
  all_goals grind [tileForm_iff]

theorem tileMapSlot_form {t k f} (ht : TileForm t) : TileForm (Tile.mapSlot t k f) := by
  unfold Tile.mapSlot
  repeat' split
  all_goals grind [tileForm_iff]

theorem tileNoteRecall_form {t belay e} (ht : TileForm t) : TileForm (Tile.noteRecall t belay e) := by
  unfold Tile.noteRecall
  repeat' split
  all_goals grind [tileForm_iff]

theorem tileMapRecall_form {t belay e f} (ht : TileForm t) : TileForm (Tile.mapRecall t belay e f) := by
  unfold Tile.mapRecall
  repeat' split
  all_goals grind [tileForm_iff, tileNoteRecall_form]

theorem tileKeep_form {t b} (ht : TileForm t) : TileForm (Tile.keep t b) := by
  unfold Tile.keep
  repeat' split
  all_goals grind [tileForm_iff]

theorem tileKeepMsg_form {t m} (ht : TileForm t) : TileForm (Tile.keepMsg t m) := by
  unfold Tile.keepMsg
  repeat' split
  all_goals grind [tileForm_iff]

theorem winWrite_form {s vt o bs} (hs : MemoryForm s) : MemoryForm (winWrite s vt o bs) := by
  unfold winWrite
  repeat' split
  all_goals grind [foldl_memoryForm, stateMapTile_form, tileKeep_form, spWrite_form, tileHeal_form, tileMapSlot_form, tileNoteSlot_form,
    tileMapRecall_form, stateMapCtx_form]

/-! ### Operands -/

theorem examPort_form {s dir code field w cur k} (hs : MemoryForm s) (hk : ∀ a, ResForm (k a)) :
    ResForm (examPort s dir code field w cur k) := by
  unfold examPort
  repeat' split
  all_goals grind [ResForm]

theorem examX_form {s r field w cur k} (hs : MemoryForm s) (hk : ∀ a b c, ResForm (k a b c)) : ResForm (examX s r field w cur k) := by
  unfold examX
  repeat' split
  all_goals grind [ResForm, examPort_form]

theorem srcX_form {s r field w cur k} (hs : MemoryForm s) (hk : ∀ a b, ResForm (k a b)) : ResForm (srcX s r field w cur k) := by
  unfold srcX
  grind [examX_form]

theorem srcV_form {s r field cur k} (hs : MemoryForm s) (hk : ∀ a b c, ResForm (k a b c)) : ResForm (srcV s r field cur k) := by
  unfold srcV
  repeat' split
  all_goals grind [ResForm, examPort_form]

theorem srcH_form {s r field w cur k} (hs : MemoryForm s) (hk : ∀ a b, ResForm (k a b)) : ResForm (srcH s r field w cur k) := by
  unfold srcH
  repeat' split
  all_goals grind [ResForm]

theorem popAll_form {s cur} (hs : MemoryForm s) : MemoryForm (popAll s cur) :=
  hs

theorem resPop_form {cur r} (hr : ResForm r) : ResForm (Res.pop cur r) := by
  unfold Res.pop
  grind [ResForm, popAll_form]

theorem resOnDone_form {f r} (hf : ∀ a, MemoryForm a → MemoryForm (f a)) (hr : ResForm r) : ResForm (Res.onDone f r) := by
  unfold Res.onDone
  grind [ResForm]

theorem resRepair_form {vt l r} (hr : ResForm r) : ResForm (Res.repair vt l r) := by
  unfold Res.repair
  repeat' split
  all_goals grind [resOnDone_form, repairMarks_form]

theorem resUncorr_form {s off r} (hs : MemoryForm s) (hr : ResForm r) : ResForm (Res.uncorr s off r) := by
  unfold Res.uncorr
  repeat' split
  all_goals grind [ResForm]

theorem accept_form {s cur r} (hs : MemoryForm s) (hr : ResForm r) : ResForm (accept s cur r) := by
  unfold accept
  repeat' split
  all_goals grind [resRepair_form, resPop_form, resUncorr_form]

theorem commit_form {s cur r} (hs : MemoryForm s) (hr : ResForm r) : ResForm (commit s cur r) := by
  unfold commit
  repeat' split
  all_goals grind [ResForm, accept_form]

theorem dstX_form {s d e k} (hs : MemoryForm s) (hk : ResForm k) : ResForm (dstX s d e k) := by
  unfold dstX
  repeat' split
  all_goals grind [ResForm]

theorem dstV_form {s d k} (hs : MemoryForm s) (hk : ResForm k) : ResForm (dstV s d k) := by
  unfold dstV
  repeat' split
  all_goals grind [ResForm, dstX_form]

theorem dstNext_form {s s' d e k} (hs : MemoryForm s) (hk : ResForm k) : ResForm (dstNext s s' d e k) := by
  unfold dstNext
  repeat' split
  all_goals grind [ResForm]

theorem dstH_form {s d k} (hs : MemoryForm s) (hk : ResForm k) : ResForm (dstH s d k) := by
  unfold dstH
  repeat' split
  all_goals grind [ResForm]

theorem putResult_form {s d v valid} (hs : MemoryForm s) : ResForm (putResult s d v valid) := by
  unfold putResult
  grind [ResForm, dstX_form, writeX_form]

theorem waitT_form {s t k} (hs : MemoryForm s) (hk : ∀ a, ResForm (k a)) : ResForm (waitT s t k) := by
  unfold waitT
  repeat' split
  all_goals grind [ResForm]

theorem onCoreReg_form {s off n r} (hs : MemoryForm s) (hr : ResForm r) : ResForm (onCoreReg s off n r) := by
  unfold onCoreReg
  repeat' split
  all_goals grind [resUncorr_form, resRepair_form]

theorem privileged_form {s word k} (hs : MemoryForm s) (hk : ResForm k) : ResForm (privileged s word k) := by
  unfold privileged
  repeat' split
  all_goals grind [ResForm]

/-! ### Access -/

theorem chkTrans_form {k va t} (ht : TransForm t) : ChkForm (chkTrans k va t) := by
  unfold chkTrans
  grind [memoryForm_iff, ChkForm, TransForm, placeReq_form]

theorem chkGlob_form {k b rs s ps} (hs : MemoryForm s) : ChkForm (chkGlob k b rs s ps) := by
  induction rs generalizing s ps with
  | nil => exact hs
  | cons x r ih =>
    obtain ⟨a, n⟩ := x
    have ht := chkTrans_form (k := k) (va := a) (translate_form (vt := s.t.vt) (b := b) (sp := s.c.space s) (k := k) (va := a) hs)
    unfold chkGlob
    repeat' split
    all_goals grind [ChkForm]

theorem chkDirty_form {s ea ps} (hs : MemoryForm s) : ChkForm (chkDirty s ea ps) := by
  unfold chkDirty
  repeat' split
  all_goals grind [ChkForm, chkGlob_form]

theorem checkRange_form {s ea n k w} (hs : MemoryForm s) : ChkForm (checkRange s ea n k w) := by
  unfold checkRange
  grind [ChkForm, chkGlob_form]

theorem checkAddr_form {s ea n align k w} (hs : MemoryForm s) : ChkForm (checkAddr s ea n align k w) := by
  unfold checkAddr
  repeat' split
  all_goals grind [ChkForm, checkRange_form]

theorem chkBind_form {c k} (hc : ChkForm c) (hk : ∀ a b, MemoryForm a → ResForm (k a b)) : ResForm (Chk.bind c k) := by
  unfold Chk.bind
  repeat' split
  all_goals grind [ChkForm, ResForm]

theorem lashInbound_form {s vt ps} (hs : MemoryForm s) : ∀ y, lashInbound s vt ps = some y → MemoryForm y := by
  unfold lashInbound
  repeat' split
  all_goals grind [tileForm_iff, stateMapTile_form]

theorem unrepeatable_form {s vt} (hs : MemoryForm s) : MemoryForm (unrepeatable s vt) := by
  unfold unrepeatable
  repeat' split
  all_goals grind [tileForm_iff, stateMapTiles_form, forGroup_form]

theorem performHeld_form {s vt} (hs : MemoryForm s) : MemoryForm (performHeld s vt) := by
  unfold performHeld
  repeat' split
  all_goals grind [memoryForm_iff, tileForm_iff, foldl_moduleForm, stateMapTile_form, writeBy_wf]

theorem writePieces_form {who s ps bs} (hs : MemoryForm s) : MemoryForm (writePieces who s ps bs) := by
  induction ps generalizing s bs with
  | nil => exact hs
  | cons p r ih =>
    refine ih ?_
    split
    · exact ⟨writeBy_wf _ _ _ _ _ hs.1, hs.2⟩
    · exact winWrite_form hs

theorem belayAtomic_form {s vt ps} (hs : MemoryForm s) : MemoryForm (belayAtomic s vt ps) := by
  unfold belayAtomic
  repeat' split
  all_goals grind [unrepeatable_form, performHeld_form]

theorem raiseDeferred_form {s f} (hs : MemoryForm s) : MemoryForm (raiseDeferred s f) := by
  unfold raiseDeferred
  repeat' split
  all_goals grind [memoryForm_iff, askRollback_form, stateTally_form, moduleLogErr_form]

theorem waitPage_form {s vt c asid k va gpa w a} (hs : MemoryForm s) : MemoryForm (waitPage s vt c asid k va gpa w a).1 :=
  ⟨placeReq_form hs.1, hs.2⟩

theorem casWrite_form {s vt a old new} (hs : MemoryForm s) : MemoryForm (casWrite s vt a old new).1 := by
  unfold casWrite
  repeat' split
  all_goals grind [TransForm, writePieces_form, translate_form, waitPage_form]

theorem correctPiece_form {s p} (hs : MemoryForm s) : MemoryForm (correctPiece s p) := by
  unfold correctPiece
  repeat' split
  all_goals grind [memoryForm_iff, moduleCorrectRange_form, repairMarks_form]

theorem perform_form {s vt a} (hs : MemoryForm s) : MemoryForm (perform s vt a).1 := by
  unfold perform
  split
  · exact hs
  split
  · exact hs
  extract_lets s₁ t old s₂ b cas
  have h₁ : MemoryForm s₁ := foldl_memoryForm hs fun _ _ => correctPiece_form
  have h₂ : MemoryForm s₂ := belayAtomic_form h₁
  have hc (e n : Nat) : MemoryForm (cas e n).1 := by
    unfold cas
    split
    · exact casWrite_form h₂
    · exact h₂
  split
  · exact writePieces_form (belayAtomic_form h₁)
  · exact hc _ _
  · exact hc _ _
  · exact h₁

theorem performPart_form {s vt a j} (hs : MemoryForm s) : MemoryForm (performPart s vt a j).1 := by
  unfold performPart
  repeat' split
  all_goals grind [correctPiece_form]

theorem noteReply_form {s vt c a} (hs : MemoryForm s) : MemoryForm (noteReply s vt c a) := by
  unfold noteReply
  repeat' split
  all_goals grind [memoryForm_iff, tileForm_iff, gridForm_iff, TilesForm]

theorem performOwn_form {p s} (hs : MemoryForm s) : MemoryForm (performOwn p s) := by
  unfold performOwn
  grind [memoryForm_iff, foldl_fst_memoryForm, lashInbound_form, perform_form, noteReply_form]

theorem performPost_form {who s p} (hs : MemoryForm s) : MemoryForm (performPost who s p) := by
  unfold performPost
  repeat' split
  all_goals grind [memoryForm_iff, writeCoded_wf, spWrite_form]

theorem settlePosts_form {q s} (hs : MemoryForm s) : MemoryForm (settlePosts q s) := by
  unfold settlePosts
  repeat' split
  all_goals grind [memoryForm_iff, foldl_memoryForm, performPost_form]

theorem settleOver_form {ps s} (hs : MemoryForm s) : MemoryForm (settleOver ps s) :=
  settlePosts_form hs

theorem settleAll_form {s} (hs : MemoryForm s) : MemoryForm (settleAll s) :=
  settlePosts_form hs

theorem settleHelpers_form {s away vt} (hs : MemoryForm s) : MemoryForm (settleHelpers s away vt) := by
  unfold settleHelpers
  repeat' split
  all_goals grind [tileForm_iff, HelperForm, foldl_memoryForm, performPost_form, stateMapTile_form]

theorem waitGated_form {s b} (hs : MemoryForm s) : ResForm (waitGated s b) := by
  unfold waitGated
  repeat' split
  all_goals grind [memoryForm_iff, tileForm_iff, ResForm]

theorem settled_form {s reads writes qp q k} (hs : MemoryForm s) (hk : ∀ a, MemoryForm a → ResForm (k a)) :
    ResForm (settled s reads writes qp q k) := by
  unfold settled
  repeat' split
  all_goals grind [settlePosts_form, performOwn_form, waitGated_form]

theorem allPerformed_form {s reads writes k} (hs : MemoryForm s) (hk : ∀ a, MemoryForm a → ResForm (k a)) :
    ResForm (allPerformed s reads writes k) := by
  unfold allPerformed
  repeat' split
  all_goals grind [memoryForm_iff, settled_form]

theorem afterFences_form {ps k l s} (hk : ∀ a, MemoryForm a → ResForm (k a)) (hs : MemoryForm s) : ResForm (afterFences ps k l s) := by
  induction l generalizing s with
  | nil => exact hk s hs
  | cons f r ih =>
    unfold afterFences
    split
    · exact ih hs
    · exact settled_form hs fun _ => ih

theorem afterAcquire_form {s ps k} (hs : MemoryForm s) (hk : ∀ a, MemoryForm a → ResForm (k a)) : ResForm (afterAcquire s ps k) := by
  unfold afterAcquire
  repeat' split
  all_goals grind [ResForm, performOwn_form, afterFences_form]

theorem afterOwn_form {s ps k} (hs : MemoryForm s) (hk : ∀ a, MemoryForm a → ResForm (k a)) : ResForm (afterOwn s ps k) := by
  unfold afterOwn
  grind [settleOver_form, performOwn_form, waitGated_form]

theorem onCoreAccess_form {s ps k} (hs : MemoryForm s) (hk : ∀ a, MemoryForm a → ResForm (k a)) : ResForm (onCoreAccess s ps k) := by
  unfold onCoreAccess
  grind [ResForm, afterAcquire_form, afterOwn_form]

theorem niTake_form {s dst r} (hs : MemoryForm s) : MemoryForm (niTake s dst r) := by
  unfold niTake
  grind [memoryForm_iff, tileForm_iff, stampNext_form, absorbOut_form]

theorem storeGlob_form {s key pa bs} (hs : MemoryForm s) : MemoryForm (storeGlob s key pa bs) := by
  unfold storeGlob
  grind [memoryForm_iff, tileForm_iff, absorbOut_form, writeBy_wf]

theorem storeOwn_form {s vt off b} (hs : MemoryForm s) : MemoryForm (storeOwn s vt off b) := by
  unfold storeOwn
  grind [memoryForm_iff, absorbOut_form, spWrite_form]

theorem sendRegs_form {s vt off sg} (hs : MemoryForm s) : MemoryForm (sendRegs s vt off sg) := by
  unfold sendRegs
  repeat' split
  all_goals grind [foldl_memoryForm, absorbOut_form, send_form]

theorem storePiece_form {s own p p0 sg} (hs : MemoryForm s) : MemoryForm (storePiece s own p p0 sg) := by
  unfold storePiece
  repeat' split
  all_goals grind [foldl_memoryForm, storeGlob_form, storeOwn_form, niTake_form, absorbOut_form, send_form, sendRegs_form]

theorem storePieces_form {s own sg ps p0} (hs : MemoryForm s) : MemoryForm (storePieces s own sg ps p0) := by
  induction ps generalizing s p0 with
  | nil => exact hs
  | cons p r ih => exact ih (storePiece_form hs)

theorem storeGate_form {s ea own sg ps k} (hs : MemoryForm s) (hk : ∀ a, MemoryForm a → ResForm (k a)) :
    ResForm (storeGate s ea own sg ps k) := by
  unfold storeGate
  repeat' split
  all_goals grind [ResForm]

end Sys2Proof.Proofs
end

section
/-! Every step keeps the canonical form of every memory (O58): loads, stores, matrix words and engines. -/

-- One proof at a time: hundreds of proofs elaborated side by side hold a thread and its stack each.
set_option Elab.async false

namespace Sys2Proof.Proofs

open Sys2Proof Sys2Proof.Machine Sys2Proof.Safety Sys2Proof.Says Sys2Proof.Laws

/-! ### Access -/

theorem storeTo_form {s ea sg ps} (hs : MemoryForm s) : ResForm (storeTo s ea sg ps) := by
  unfold storeTo
  grind [ResForm, afterAcquire_form, storeGate_form, afterOwn_form, chkBind_form, chkDirty_form, storePieces_form]

theorem accGate_form {s a k} (hs : MemoryForm s) (hk : ∀ a, MemoryForm a → ResForm (k a)) : ResForm (accGate s a k) := by
  unfold accGate
  grind [ResForm, afterAcquire_form, settleOver_form]

theorem commitAcc_form {s a} (hs : MemoryForm s) : MemoryForm (commitAcc s a) := by
  unfold commitAcc
  grind [memoryForm_iff, post_form]

theorem startAcc_form {s a k} (hs : MemoryForm s) (hk : ∀ a, MemoryForm a → ResForm (k a)) : ResForm (startAcc s a k) := by
  unfold startAcc
  grind [accGate_form, commitAcc_form]

theorem onCoreRead_form {s ea n k} (hs : MemoryForm s) (hk : ∀ a b, MemoryForm a → ResForm (k a b)) : ResForm (onCoreRead s ea n k) := by
  unfold onCoreRead
  grind [ResForm, onCoreAccess_form, correctPiece_form]

theorem releaseOver_form {s sc ps k} (hs : MemoryForm s) (hk : ∀ a, MemoryForm a → ResForm (k a)) : ResForm (releaseOver s sc ps k) := by
  unfold releaseOver
  repeat' split
  all_goals grind [allPerformed_form, settled_form]

theorem atHome_form {s k} (hs : MemoryForm s) (hk : ∀ a, MemoryForm a → ResForm (k a)) : ResForm (atHome s k) := by
  unfold atHome
  grind [allPerformed_form, waitGated_form]

/-! ### Flags -/

theorem accrue_form {s m} (hs : MemoryForm s) : MemoryForm (accrue s m) :=
  hs

theorem putFlagged_form {s d m v valid} (hs : MemoryForm s) : ResForm (putFlagged s d m v valid) := by
  unfold putFlagged
  grind [ResForm, dstX_form, writeX_form, accrue_form]

/-! ### Alu -/

theorem binary_form {s d a b wa wb f} (hs : MemoryForm s) : OutForm (binary s d a b wa wb f) := by
  unfold binary
  grind [finish_form, srcX_form, commit_form, putResult_form]

theorem unary_form {s d a wa f} (hs : MemoryForm s) : OutForm (unary s d a wa f) := by
  unfold unary
  grind [finish_form, srcX_form, commit_form, putResult_form]

theorem alu_form {s sz d a b wa wb f} (hs : MemoryForm s) : OutForm (alu s sz d a b wa wb f) :=
  binary_form hs

/-! ### LoadStore -/

theorem leaveFor_form {s go d} (hs : MemoryForm s) : ResForm (leaveFor s go d) := by
  unfold leaveFor
  repeat' split
  all_goals grind [ResForm]

theorem clamped_form {s} (hs : MemoryForm s) : MemoryForm (clamped s) :=
  stateMapVf_form hs

theorem scopeTest_form {s sc k} (hs : MemoryForm s) (hk : ∀ a, ResForm (k a)) : ResForm (scopeTest s sc k) := by
  unfold scopeTest
  repeat' split
  all_goals grind [ResForm, resOnDone_form, clamped_form]

theorem loadEffect_form {s d ea n sg nw acq away} (hs : MemoryForm s) : ResForm (loadEffect s d ea n sg nw acq away) := by
  unfold loadEffect
  repeat' split
  all_goals grind [ResForm, chkBind_form, checkAddr_form, onCoreRead_form, writeX_form, startAcc_form, performOwn_form, leaveFor_form,
    emptyX_form]

theorem loadWord_form {s sz d b wa nw sg off} (hs : MemoryForm s) : OutForm (loadWord s sz d b wa nw sg off) := by
  unfold loadWord
  grind [finish_form, srcX_form, commit_form, dstX_form, loadEffect_form]

theorem storeEffect_form {s ea v n rel} (hs : MemoryForm s) : ResForm (storeEffect s ea v n rel) := by
  unfold storeEffect
  repeat' split
  all_goals grind [chkBind_form, checkAddr_form, storeTo_form, releaseOver_form]

theorem lashEarly_form {s} (hs : MemoryForm s) : MemoryForm (lashEarly s) := by
  unfold lashEarly
  repeat' split
  all_goals grind [memoryForm_iff, tileForm_iff]

theorem dirtyAtCommit_form {s kind ea ps} (hs : MemoryForm s) : ChkForm (dirtyAtCommit s kind ea ps) := by
  unfold dirtyAtCommit
  repeat' split
  all_goals grind [ChkForm, chkDirty_form]

theorem atomicEffect_form {s kind ak ea n o sc isQ d} (hs : MemoryForm s) : ResForm (atomicEffect s kind ak ea n o sc isQ d) := by
  unfold atomicEffect
  extract_lets body
  have hb (sc : Nat) : ResForm (body sc) := by
    unfold body
    split
    · exact hs
    split
    · exact hs
    refine chkBind_form (checkRange_form hs) fun u ps hu => ?_
    extract_lets go
    have hgo (u : State) (hu : MemoryForm u) : ResForm (go u) := by
      refine accGate_form hu fun v hv => chkBind_form (dirtyAtCommit_form hv) fun w qs hw => ?_
      grind [lashEarly_form, absorbOut_form, commitAcc_form, performOwn_form, emptyX_form, leaveFor_form]
    split
    · exact releaseOver_form hu hgo
    · exact hgo u hu
  split
  · exact hb 0
  · exact scopeTest_form hs hb

theorem amo_form {s op dw d a b o sc} (hs : MemoryForm s) : OutForm (amo s op dw d a b o sc) := by
  unfold amo
  repeat' split
  all_goals grind [finish_form, srcX_form, commit_form, dstX_form, atomicEffect_form]

/-! ### Lanes -/

theorem writeWords_form {s d act new} (hs : MemoryForm s) : MemoryForm (writeWords s d act new) := by
  unfold writeWords
  repeat' split
  all_goals grind [writeV_form]

theorem putLanes_form {s d act w l} (hs : MemoryForm s) : ResForm (putLanes s d act w l) := by
  unfold putLanes
  grind [ResForm, dstV_form, writeWords_form, accrue_form]

theorem vec2_form {s w d a b f} (hs : MemoryForm s) : OutForm (vec2 s w d a b f) := by
  unfold vec2
  grind [finish_form, srcV_form, commit_form, putLanes_form]

theorem vec1_form {s w d a f} (hs : MemoryForm s) : OutForm (vec1 s w d a f) := by
  unfold vec1
  grind [finish_form, srcV_form, commit_form, putLanes_form]

theorem vec3_form {s w d a b f} (hs : MemoryForm s) : OutForm (vec3 s w d a b f) := by
  unfold vec3
  grind [finish_form, srcV_form, commit_form, putLanes_form]

theorem wholeCommit_form {s k v r} (hs : MemoryForm s) (hr : ResForm r) : ResForm (wholeCommit s k v r) := by
  unfold wholeCommit
  repeat' split
  all_goals grind [ResForm, commit_form]

theorem putWhole_form {s d w l} (hs : MemoryForm s) : ResForm (putWhole s d w l) := by
  unfold putWhole
  grind [ResForm, dstV_form, writeV_form]

/-! ### Matrix -/

theorem readRows_form {s n l k} (hs : MemoryForm s) (hk : ∀ a b, MemoryForm a → ResForm (k a b)) : ResForm (readRows s n l k) := by
  unfold readRows
  grind [foldl_memoryForm, ResForm, onCoreAccess_form, correctPiece_form]

theorem storeRows_form {s rows k} (hs : MemoryForm s) (hk : ∀ a, MemoryForm a → ResForm (k a)) : ResForm (storeRows s rows k) := by
  unfold storeRows
  grind [foldl_memoryForm, onCoreAccess_form, spWrite_form, absorbOut_form]

theorem mmaChecks_form {s p sp d ea k} (hs : MemoryForm s) (hk : ∀ a, ResForm (k a)) : ResForm (mmaChecks s p sp d ea k) := by
  unfold mmaChecks
  repeat' split
  all_goals grind [ResForm]

/-! ### Matrix -/

theorem stateClaimT_form {s p d} (hs : MemoryForm s) : MemoryForm (State.claimT s p d) :=
  hs

theorem mma_form {s p sp d a b c} (hs : MemoryForm s) : OutForm (mma s p sp d a b c) := by
  refine finish_form hs <| srcX_form hs fun ea k => srcX_form hs fun sl k => srcX_form hs fun sc k => commit_form hs <|
    mmaChecks_form hs fun l => ?_
  split
  · exact hs
  · refine readRows_form hs fun s rows hs => ?_
    grind [memoryForm_iff, tileForm_iff, ResForm, stateClaimT_form]

theorem tileCapture_form {t k} (ht : TileForm t) : TileForm (Tile.capture t k) :=
  ht

theorem tileApplySlot_form {belay k n t} (ht : TileForm t) : TileForm (Tile.applySlot belay k n t) := by
  induction n generalizing t with
  | zero => exact ht
  | succ n ih =>
    unfold Tile.applySlot
    repeat' split
    all_goals grind [tileMapSlot_form, tileNoteSlot_form, tileCapture_form, tileHeal_form]

theorem tileSlotWrite_form {t belay k w} (ht : TileForm t) : TileForm (Tile.slotWrite t belay k w) := by
  unfold Tile.slotWrite
  grind [tileMapSlot_form, tileApplySlot_form]

theorem rowChecks_form {s ea p n k} (hs : MemoryForm s) (hk : ∀ a, ResForm (k a)) : ResForm (rowChecks s ea p n k) := by
  unfold rowChecks
  repeat' split
  all_goals grind [ResForm]

theorem onCoreT_form {s d r} (hs : MemoryForm s) (hr : ResForm r) : ResForm (onCoreT s d r) :=
  onCoreReg_form hs hr

theorem readParts_form {s b l im k} (hs : MemoryForm s) (hk : ∀ a b, MemoryForm a → ResForm (k a b)) : ResForm (readParts s b l im k) := by
  induction l generalizing s im with
  | nil => exact hk _ _ hs
  | cons x r ih => exact onCoreRead_form hs fun s bs hs => ih hs

theorem mepiBody_form {s d ea b x t} (hs : MemoryForm s) : ResForm (mepiBody s d ea b x t) := by
  unfold mepiBody
  split
  · exact hs
  split
  · exact hs
  dsimp only
  split
  · exact hs
  split
  · exact hs
  split
  · exact hs
  · exact hs
  · exact hs
  refine readParts_form hs fun u par hu => onCoreT_form hu (storeRows_form hu fun v hv => ?_)
  grind [ResForm, markT_form]

theorem repairPass_form {s o} (hs : MemoryForm s) : MemoryForm (repairPass s o) := by
  unfold repairPass
  repeat' split
  all_goals grind [memoryForm_iff, repairMarks_form]

/-! ### Schedule -/

theorem takeIrq_form {s z} (hs : MemoryForm s) : MemoryForm (takeIrq s z) := by
  unfold takeIrq
  repeat' split
  all_goals grind [memoryForm_iff, trapEntry_form]

theorem beginTurn_form {s c} (hs : MemoryForm s) : MemoryForm (beginTurn s c) := by
  unfold beginTurn
  repeat' split
  all_goals grind [memoryForm_iff, tileForm_iff]

theorem endTurn_form {s} (hs : MemoryForm s) : MemoryForm (endTurn s) := by
  unfold endTurn
  repeat' split
  all_goals grind [memoryForm_iff, atSwitch_form]

theorem tileResume_form {t rs} (ht : TileForm t) : TileForm (Tile.resume t rs) :=
  ht

/-! ### Engine -/

theorem tileMapQueue_form {t q f} (ht : TileForm t) : TileForm (Tile.mapQueue t q f) := by
  unfold Tile.mapQueue
  repeat' split
  all_goals grind [tileForm_iff]

theorem belayCmd_form {s vt c} (hs : MemoryForm s) : MemoryForm (belayCmd s vt c) := by
  unfold belayCmd
  repeat' split
  all_goals grind [unrepeatable_form, performHeld_form]

theorem submit_form {s q c} (hs : MemoryForm s) : MemoryForm (submit s q c) := by
  unfold submit
  repeat' split
  all_goals grind [memoryForm_iff, tileForm_iff, tileMapQueue_form, belayCmd_form]

theorem pushBeat_form {s agent q lo hi follow mk} (hs : MemoryForm s) : MemoryForm (pushBeat s agent q lo hi follow mk) := by
  unfold pushBeat
  grind [memoryForm_iff, tileForm_iff, submit_form]

theorem engGlob_form {vt b sp k l s ps} (hs : MemoryForm s) : EChkForm (engGlob vt b sp k l s ps) := by
  induction l generalizing s ps with
  | nil => exact hs
  | cons x r ih =>
    have ht := translate_form (vt := vt) (b := b) (sp := sp) (k := k) (va := x.1) hs
    unfold engGlob
    repeat' split
    all_goals grind [memoryForm_iff, EChkForm, TransForm, startPull_form]

theorem engRange_form {s vt b sp k w ins ea n} (hs : MemoryForm s) : EChkForm (engRange s vt b sp k w ins ea n) := by
  unfold engRange
  repeat' split
  all_goals grind [EChkForm, engGlob_form]

theorem engRanges_form {vt b sp k w ins l s ps} (hs : MemoryForm s) : EChksForm (engRanges vt b sp k w ins l s ps) := by
  induction l generalizing s ps with
  | nil => exact hs
  | cons x r ih =>
    have hr := engRange_form (vt := vt) (b := b) (sp := sp) (k := k) (w := w) (ins := ins) (ea := x.2.1) (n := x.2.2) hs
    unfold engRanges
    split
    all_goals grind [EChkForm, EChksForm]

theorem engSummon_form {s vt c ps} (hs : MemoryForm s) : ∀ y, engSummon s vt c ps = some y → MemoryForm y := by
  unfold engSummon
  grind [lashInbound_form, post_form, Option.filter_eq_some_iff]

theorem agentRead_form {s t ps} (hs : MemoryForm s) : ∀ y r, agentRead s t ps = some (y, r) → MemoryForm y := by
  unfold agentRead
  repeat' split
  all_goals grind [foldl_memoryForm, correctPiece_form]

theorem engRead_form {s ps} (hs : MemoryForm s) : ∀ y r, engRead s ps = some (y, r) → MemoryForm y :=
  agentRead_form hs

theorem niPush_form {s vt c dst r} (hs : MemoryForm s) : MemoryForm (niPush s vt c dst r) := by
  unfold niPush
  grind [tileForm_iff, stateMapTile_form, stampNext_form]

theorem engPut_form {s vt c p bs} (hs : MemoryForm s) : MemoryForm (engPut s vt c p bs) := by
  unfold engPut
  repeat' split
  all_goals grind [memoryForm_iff, unrepeatable_form, performHeld_form, writeBy_wf, niPush_form, post_form, winWrite_form]

theorem engWrite_form {s vt c ps bs} (hs : MemoryForm s) : MemoryForm (engWrite s vt c ps bs) := by
  induction ps generalizing s bs with
  | nil => exact hs
  | cons p r ih => exact ih (engPut_form hs)

theorem deliverRec_form {s vt agent r follow} (hs : MemoryForm s) : MemoryForm (deliverRec s vt agent r follow) := by
  unfold deliverRec
  dsimp only
  repeat' split
  all_goals grind [tileForm_iff, HelperForm, stateMapCtxs_form, stateMapTile_form, stateTally_form, tileMapQueue_form, stateMapCtx_form]

theorem popCmd_form {s vt q c} (hs : MemoryForm s) : MemoryForm (popCmd s vt q c) := by
  unfold popCmd
  repeat' split
  all_goals grind [tileForm_iff, stateMapTile_form, tileMapQueue_form]

theorem askRollbackAt_form {s vt} (hs : MemoryForm s) : MemoryForm (askRollbackAt s vt) := by
  unfold askRollbackAt
  repeat' split
  all_goals grind [memoryForm_iff, gridForm_iff, forGroup_form]

theorem failCmd_form {s vt q c status fva mask base} (hs : MemoryForm s) : MemoryForm (failCmd s vt q c status fva mask base) := by
  unfold failCmd
  repeat' split
  all_goals grind [askRollbackAt_form, deliverRec_form, popCmd_form]

theorem setHead_form {s vt q c} (hs : MemoryForm s) : MemoryForm (setHead s vt q c) := by
  unfold setHead
  grind [stateMapTile_form, tileMapQueue_form]

/-! ### Engine -/

theorem pullGuard_form {s o} (hs : MemoryForm s) (ho : OutForm o) : OutForm (pullGuard s o) := by
  unfold pullGuard
  repeat' split
  all_goals grind [outForm_next, stateMapVf_form]

theorem withHead_form {s vt q op row k} (hs : MemoryForm s) (hk : ∀ a, OutForm (k a)) : OutForm (withHead s vt q op row k) := by
  unfold withHead
  repeat' split
  all_goals grind [outForm_next, off_form, failCmd_form, pullGuard_form]

theorem countDone_form {s vt c} (hs : MemoryForm s) : MemoryForm (countDone s vt c) := by
  unfold countDone
  repeat' split
  all_goals grind [tileForm_iff, HelperForm, stateMapCtx_form, stateMapTile_form]

theorem finishCmd_form {s vt c} (hs : MemoryForm s) : MemoryForm (finishCmd s vt c) := by
  unfold finishCmd
  repeat' split
  all_goals grind [tileForm_iff, countDone_form, stateMapTile_form]

theorem execEngineCompletion_form {vt q s} (hs : MemoryForm s) : OutForm (execEngineCompletion vt q s) := by
  unfold execEngineCompletion
  repeat' split
  · exact off_form
  · exact off_form
  · exact off_form
  · refine outForm_next.2 (logEvent_form (stateMapTile_form (finishCmd_form (popCmd_form hs)) ?_))
    grind [tileForm_iff]

theorem dropRecord_form {s vt r} (hs : MemoryForm s) : MemoryForm (dropRecord s vt r) := by
  unfold dropRecord
  repeat' split
  all_goals grind [tileForm_iff, HelperForm, stateMapTile_form, stateMapCtx_form, tileResume_form]

theorem sourceCheck_form {s vt c srcs} (hs : MemoryForm s) : EChksForm (sourceCheck s vt c srcs) := by
  unfold sourceCheck
  repeat' split
  all_goals grind [EChksForm, engRanges_form]

theorem takeUnits11_form {s vt c n} (hs : MemoryForm s) : MemoryForm (takeUnits11 s vt c n) := by
  unfold takeUnits11
  grind [tileForm_iff, stateMapTile_form, stateMapCtx_form]

theorem copyRead_form {s vt q c srcs n} (hs : MemoryForm s) : EChksForm (copyRead s vt q c srcs n).1 := by
  unfold copyRead
  repeat' split
  all_goals grind [EChksForm, sourceCheck_form, engRead_form]

theorem copyUnit_form {s vt q c b n} (hs : MemoryForm s) : Unit128Form (copyUnit s vt q c b n) := by
  unfold copyUnit
  repeat' split
  all_goals grind [EChksForm, Unit128Form, copyRead_form, engSummon_form, stateMapTile_form, stateMapCtx_form, tileKeep_form,
    engRanges_form, takeUnits11_form, engWrite_form]

theorem copyNext_form {s vt q c} (hs : MemoryForm s) : MemoryForm (copyNext s vt q c) := by
  unfold copyNext
  repeat' split
  all_goals grind [setHead_form, failCmd_form]

theorem skipUnit_form {s vt c n} (hs : MemoryForm s) : ∀ y, skipUnit s vt c n = some y → MemoryForm y := by
  unfold skipUnit
  repeat' split
  all_goals grind [takeUnits11_form]

theorem copyEvent_form {row op vt q s} (hs : MemoryForm s) : OutForm (copyEvent row op vt q s) := by
  unfold copyEvent
  refine withHead_form hs fun c => ?_
  grind [outForm_next, Unit128Form, copyNext_form, skipUnit_form, off_form, copyUnit_form, setHead_form]

theorem execCopyUnit_form {vt q s} (hs : MemoryForm s) : OutForm (execCopyUnit vt q s) :=
  copyEvent_form hs

theorem execCopy2d_form {vt q s} (hs : MemoryForm s) : OutForm (execCopy2d vt q s) :=
  copyEvent_form hs

theorem moveElem_form {s vt q c src dst n} (hs : MemoryForm s) : ElemForm (moveElem s vt q c src dst n) := by
  unfold moveElem
  dsimp only
  repeat' split
  all_goals grind [EChkForm, ElemForm, engRange_form, engSummon_form, engRead_form, engWrite_form]

theorem gatherNext_form {s vt q c} (hs : MemoryForm s) : MemoryForm (gatherNext s vt q c) := by
  unfold gatherNext
  repeat' split
  all_goals grind [setHead_form, failCmd_form]

theorem gatherEvent_form {row op vt q s} (hs : MemoryForm s) : OutForm (gatherEvent row op vt q s) := by
  unfold gatherEvent
  refine withHead_form hs fun c => ?_
  repeat' split
  all_goals grind [ElemForm, outForm_next, failCmd_form, gatherNext_form, engRead_form, moveElem_form, setHead_form, off_form]

theorem execGather_form {vt q s} (hs : MemoryForm s) : OutForm (execGather vt q s) :=
  gatherEvent_form hs

theorem execScatter_form {vt q s} (hs : MemoryForm s) : OutForm (execScatter vt q s) :=
  gatherEvent_form hs

theorem engModify_form {s vt ps f} (hs : MemoryForm s) : ∀ y, engModify s vt ps f = some y → MemoryForm y := by
  unfold engModify
  grind [belayAtomic_form, engRead_form, writePieces_form]

theorem execSignal_form {vt q s} (hs : MemoryForm s) : OutForm (execSignal vt q s) := by
  unfold execSignal
  refine withHead_form hs fun c => ?_
  dsimp only
  repeat' split
  all_goals grind [EChkForm, outForm_next, failCmd_form, engRange_form, engSummon_form, setHead_form, off_form, unrepeatable_form,
    performHeld_form, engModify_form]

theorem execMcastSt_form {vt s} (hs : MemoryForm s) : OutForm (execMcastSt vt s) := by
  unfold execMcastSt
  refine withHead_form hs fun c => ?_
  dsimp only
  repeat' split
  all_goals grind [EChksForm, outForm_next, failCmd_form, engRead_form, setHead_form, engRanges_form, sourceCheck_form, engSummon_form,
    off_form, engWrite_form]

theorem redElems_form {vt rop et ps qs k i s} (hs : MemoryForm s) : ∀ y, redElems vt rop et ps qs k i s = some y → MemoryForm y := by
  induction k generalizing i s with
  | zero => grind [redElems]
  | succ k ih =>
    unfold redElems
    dsimp only
    split
    · simp
    next s₁ x h₁ =>
    have h₁ := engRead_form hs _ _ h₁
    split
    · simp
    · exact ih (engModify_form h₁ _ ‹_›)

theorem execRedSt_form {vt s} (hs : MemoryForm s) : OutForm (execRedSt vt s) := by
  unfold execRedSt
  refine withHead_form hs fun c => ?_
  dsimp only
  repeat' split
  all_goals grind [EChksForm, outForm_next, failCmd_form, setHead_form, engRanges_form, sourceCheck_form, engSummon_form, off_form,
    engRead_form, unrepeatable_form, performHeld_form, redElems_form, engModify_form]

theorem gridSetColl_form {g c} (hg : GridForm g) : GridForm (Grid.setColl g c) :=
  hg

theorem collAbandon_form {lvl id s} (hs : MemoryForm s) : MemoryForm (collAbandon lvl id s) := by
  unfold collAbandon
  grind [memoryForm_iff, foldl_memoryForm, failCmd_form, gridSetColl_form]

theorem collAbandonAll_form {lvl id s} (hs : MemoryForm s) : MemoryForm (collAbandonAll lvl id s) := by
  unfold collAbandonAll
  repeat' split
  all_goals grind [forGroup_form, collAbandon_form]

theorem collArrive_form {row op vt s} (hs : MemoryForm s) : OutForm (collArrive row op vt s) := by
  unfold collArrive
  grind [memoryForm_iff, outForm_next, withHead_form, failCmd_form, collAbandonAll_form, off_form, askRollbackAt_form, setHead_form,
    gridSetColl_form]

theorem collEnd_form {lvl id res s} (hs : MemoryForm s) : MemoryForm (collEnd lvl id res s) := by
  unfold collEnd
  repeat' split
  all_goals grind [memoryForm_iff, foldl_memoryForm, failCmd_form, setHead_form, winWrite_form, gridSetColl_form]

theorem collWithdraw_form {p s} (hs : MemoryForm s) : MemoryForm (collWithdraw p s) :=
  hs

/-! ### Barrier -/

theorem gridSetBar_form {g b} (hg : GridForm g) : GridForm (Grid.setBar g b) :=
  hg

theorem setBarOpen_form {lv id gen held s} (hs : MemoryForm s) : MemoryForm (setBarOpen lv id gen held s) := by
  unfold setBarOpen
  repeat' split
  all_goals grind [memoryForm_iff, gridSetBar_form]

theorem openBar_form {s lv id gen} (hs : MemoryForm s) : MemoryForm (openBar s lv id gen) := by
  unfold openBar
  repeat' split
  all_goals grind [forGroup_form, setBarOpen_form]

theorem forInst_form {lv f s} (hf : ∀ a, MemoryForm a → MemoryForm (f a)) (hs : MemoryForm s) : MemoryForm (forInst lv f s) := by
  unfold forInst
  repeat' split
  all_goals grind [forGroup_form]

theorem noteBar_form {here n s} (hs : MemoryForm s) : MemoryForm (noteBar here n s) := by
  unfold noteBar
  grind [tileForm_iff, stateMapTiles_form]

theorem abandonHere_form {lv id n s} (hs : MemoryForm s) : MemoryForm (abandonHere lv id n s) := by
  unfold abandonHere
  grind [memoryForm_iff, stateMapAllCtxs_form, noteBar_form, gridSetBar_form]

theorem abandonBar_form {lv id s} (hs : MemoryForm s) : MemoryForm (abandonBar lv id s) := by
  unfold abandonBar
  grind [openBar_form, forInst_form, abandonHere_form]

theorem abandonAt_form {vt s lv} (hs : MemoryForm s) : MemoryForm (abandonAt vt s lv) := by
  unfold abandonAt
  repeat' split
  all_goals grind [abandonBar_form]

theorem abandonLate_form {s} (hs : MemoryForm s) : MemoryForm (abandonLate s) := by
  unfold abandonLate
  grind [memoryForm_iff, abandonAt_form]

theorem barTimeout_form {s lv n gen} (hs : MemoryForm s) : ResForm (barTimeout s lv n gen) :=
  hs

theorem barChecks_form {s lv code kind k} (hs : MemoryForm s) (hk : ∀ a b, MemoryForm a → ResForm (k a b)) :
    ResForm (barChecks s lv code kind k) := by
  unfold barChecks
  grind [ResForm, abandonAt_form, barTimeout_form]

theorem recordArrival_form {s lv kind val b} (hs : MemoryForm s) : MemoryForm (recordArrival s lv kind val b) := by
  unfold recordArrival
  repeat' split
  all_goals grind [memoryForm_iff, tileForm_iff, stampNext_form, gridSetBar_form, lashEarly_form]

theorem landArrival_form {s lv kind gen a} (hs : MemoryForm s) : MemoryForm (landArrival s lv kind gen a) := by
  unfold landArrival
  grind [memoryForm_iff, abandonAt_form, gridSetBar_form, stateMapCtx_form]

theorem performCtx_form {s away vt c} (hs : MemoryForm s) : MemoryForm (performCtx s away vt c) := by
  unfold performCtx
  repeat' split
  all_goals grind [settlePosts_form, stateFocus_form, performOwn_form]

theorem releaseAll_form {lv id s} (hs : MemoryForm s) : MemoryForm (releaseAll lv id s) := by
  unfold releaseAll
  grind [foldl_memoryForm, performCtx_form]

theorem passAll_form {lv id gen v s} (hs : MemoryForm s) : MemoryForm (passAll lv id gen v s) :=
  noteBar_form (stateMapAllCtxs_form hs)

theorem belayPoint_form {p s} (hs : MemoryForm s) : MemoryForm (belayPoint p s) := by
  unfold belayPoint
  extract_lets s₁ s₂
  have h₁ : MemoryForm s₁ := foldl_memoryForm hs (by grind [performHeld_form])
  have h₂ : MemoryForm s₂ := stateMapTiles_form h₁ (by grind [tileForm_iff])
  have hw : TilesForm s₂.allTiles := stateAllTiles_form h₂
  grind [memoryForm_iff, gridForm_iff, TilesForm, wholeTile_form]

theorem freezeYields_form {gs s} (hs : MemoryForm s) : MemoryForm (freezeYields gs s) :=
  hs

theorem completeHere_form {lv id v s} (hs : MemoryForm s) : MemoryForm (completeHere lv id v s) :=
  freezeYields_form (passAll_form hs)

theorem belayHere_form {lv id s} (hs : MemoryForm s) : MemoryForm (belayHere lv id s) := by
  unfold belayHere
  repeat' split
  all_goals grind [belayPoint_form]

theorem completeBar_form {lv id v s} (hs : MemoryForm s) : MemoryForm (completeBar lv id v s) := by
  unfold completeBar
  grind [forInst_form, belayHere_form, openBar_form, completeHere_form]

end Sys2Proof.Proofs
end

section
/-! Every step keeps the canonical form of every memory (O58): agents, events, gangs and the debugger. -/

-- One proof at a time: hundreds of proofs elaborated side by side hold a thread and its stack each.
set_option Elab.async false

namespace Sys2Proof.Proofs

open Sys2Proof Sys2Proof.Machine Sys2Proof.Safety Sys2Proof.Says Sys2Proof.Laws

/-! ### Barrier -/

theorem endIntervals_form {lv id s} (hs : MemoryForm s) : MemoryForm (endIntervals lv id s) := by
  unfold endIntervals
  grind [tileForm_iff, foldl_memoryForm, stateMapTile_form]

theorem endContext_form {s} (hs : MemoryForm s) : MemoryForm (endContext s) := by
  unfold endContext
  grind [memoryForm_iff, tileForm_iff, settleAll_form, abandonLate_form, stateTally_form, atSwitch_form, tileResume_form]

theorem runtimeEnd_form {s} (hs : MemoryForm s) : MemoryForm (runtimeEnd s) := by
  unfold runtimeEnd
  repeat' split
  all_goals grind [memoryForm_iff, gridForm_iff, endContext_form, stateTally_form]

theorem openHeld_form {s lv} (hs : MemoryForm s) : MemoryForm (openHeld s lv) := by
  unfold openHeld
  repeat' split
  all_goals grind [openBar_form]

theorem writeMemb_form {s v} (hs : MemoryForm s) : MemoryForm (writeMemb s v) := by
  unfold writeMemb
  grind [memoryForm_iff, openHeld_form]

/-! ### Port -/

theorem portIndex_form {s i q lo hi k} (hs : MemoryForm s) (hk : ResForm k) : ResForm (portIndex s i q lo hi k) := by
  unfold portIndex
  repeat' split
  all_goals grind [ResForm]

theorem dropStream_form {s q n} (hs : MemoryForm s) : MemoryForm (dropStream s q n) :=
  hs

theorem takeStream_form {s q n k} (hs : MemoryForm s) (hk : ResForm k) : ResForm (takeStream s q n k) := by
  unfold takeStream
  repeat' split
  all_goals grind [ResForm]

theorem pushOut_form {s l} (hs : MemoryForm s) : ResForm (pushOut s l) := by
  unfold pushOut
  repeat' split
  all_goals grind [memoryForm_iff, ResForm, releaseOver_form]

theorem pushCmd_form {s q lo hi follow claim} (hs : MemoryForm s) (hclaim : ∀ a, MemoryForm a → MemoryForm (claim a)) :
    ResForm (pushCmd s q lo hi follow claim) := by
  unfold pushCmd
  repeat' split
  all_goals grind [ResForm, pushBeat_form, allPerformed_form]

theorem followOn_form {s k q lo hi} (hs : MemoryForm s) : ResForm (followOn s k q lo hi) := by
  unfold followOn
  grind [ResForm, srcX_form, commit_form, mmaChecks_form, pushCmd_form, stateClaimT_form]

/-! ### Mesh -/

theorem event_form {row x1} (hx1 : ∀ y, x1 = some y → MemoryForm y) : OutForm (event row x1) := by
  unfold event
  grind [outForm_next, off_form]

theorem logAt_form {s vt kind arg} (hs : MemoryForm s) : MemoryForm (logAt s vt kind arg) := by
  unfold logAt
  repeat' split
  all_goals grind [logEvent_form]

theorem takeMsg_form {s k} (hs : MemoryForm s) : ∀ r y, takeMsg s k = some (r, y) → MemoryForm y := by
  unfold takeMsg
  repeat' split
  all_goals grind [memoryForm_iff, gridForm_iff]

theorem released_form {s m} (hs : MemoryForm s) : ∀ y, released s m = some y → MemoryForm y := by
  unfold released
  repeat' split
  all_goals grind [settleHelpers_form, performCtx_form]

theorem portLand_form {s m c dir e} (hs : MemoryForm s) : MemoryForm (portLand s m c dir e) := by
  unfold portLand
  repeat' split
  all_goals grind [stateMapCtx_form, stateMapTile_form, tileKeepMsg_form, logAt_form]

theorem portArrive_form {s k} (hs : MemoryForm s) : ∀ y, portArrive s k = some y → MemoryForm y := by
  unfold portArrive
  split
  · simp
  next m s₁ hm =>
  have h₁ := takeMsg_form hs _ _ hm
  have h₂ := released_form (m := m) h₁
  repeat' split
  all_goals grind [portLand_form]

theorem carryReg_form {vt c s r} (hs : MemoryForm s) : MemoryForm (carryReg vt c s r) := by
  unfold carryReg
  grind [stateMapCtx_form, stateFocus_form, raiseDeferred_form]

theorem carryBad_form {src vt s w} (hs : MemoryForm s) : MemoryForm (carryBad src vt s w) := by
  unfold carryBad
  repeat' split
  all_goals grind [memoryForm_iff, tileForm_iff, foldl_memoryForm, moduleLogErr_form, stateMapTile_form, carryReg_form]

theorem storeLand_form {s m ws} (hs : MemoryForm s) : MemoryForm (storeLand s m ws) := by
  unfold storeLand
  repeat' split
  all_goals grind [foldl_memoryForm, winWrite_form, carryBad_form]

theorem storeArrive_form {s k} (hs : MemoryForm s) : ∀ y, storeArrive s k = some y → MemoryForm y := by
  unfold storeArrive
  repeat' split
  all_goals grind [takeMsg_form, logAt_form, storeLand_form]

theorem streamArrive_form {s k} (hs : MemoryForm s) : ∀ y, streamArrive s k = some y → MemoryForm y := by
  intro y h
  unfold streamArrive at h
  split at h
  · cases h
  next m s₁ hm =>
  have h₁ := takeMsg_form hs _ _ hm
  repeat' split at h
  all_goals cases h
  · exact h₁
  · exact stateMapTile_form (stateMapCtx_form h₁) fun _ => tileKeepMsg_form

theorem parkLoad_form {s vt c x a} (hs : MemoryForm s) : ∀ y, parkLoad s vt c x a = some y → MemoryForm y := by
  unfold parkLoad
  repeat' split
  all_goals grind [post_form]

theorem windowArrive_form {s vt c n} (hs : MemoryForm s) : ∀ y, windowArrive s vt c n = some y → MemoryForm y := by
  unfold windowArrive
  dsimp only
  repeat' split
  all_goals grind [parkLoad_form, lashInbound_form, perform_form, performPart_form, stateMapCtx_form, noteReply_form]

theorem parkMsg_form {s m} (hs : MemoryForm s) : MemoryForm (parkMsg s m) := by
  unfold parkMsg
  grind [memoryForm_iff, gridMapGang_form]

theorem dropNi_form {s vt id} (hs : MemoryForm s) : MemoryForm (dropNi s vt id) := by
  unfold dropNi
  grind [tileForm_iff, stateMapTile_form]

/-! ### Clock -/

theorem tilePassColl_form {vs v n t} (ht : TileForm t) : TileForm (Tile.passColl vs v n t) := by
  unfold Tile.passColl
  repeat' split
  all_goals grind [tileForm_iff]

theorem gridPass_form {vs v n g} (hg : GridForm g) : GridForm (Grid.pass vs v n g) :=
  hg

theorem gridBoxPass_form {m vs n b} (hb : GridBoxForm b) : GridBoxForm (GridBox.pass m vs n b) := by
  unfold GridBox.pass
  grind [tileForm_iff, TilesForm, GridBoxForm, gridPass_form, tilePassColl_form]

theorem accrueMeters_form {s} (hs : MemoryForm s) : MemoryForm (accrueMeters s) := by
  unfold accrueMeters
  grind [memoryForm_iff]

theorem pass_form {n s} (hs : MemoryForm s) : MemoryForm (pass n s) := by
  unfold Machine.pass
  grind [memoryForm_iff, tileForm_iff, TilesForm, BoxesForm, tilePassColl_form, gridPass_form, gridBoxPass_form]

theorem advance_form {n s} (hs : MemoryForm s) : MemoryForm (advance n s) := by
  unfold advance
  repeat' split
  all_goals grind [memoryForm_iff, accrueMeters_form, pass_form]

/-! ### Runtime -/

theorem runtimeSpent_form {s} (hs : MemoryForm s) : MemoryForm (runtimeSpent s) :=
  advance_form hs

theorem runtimeReturn_form {s} (hs : MemoryForm s) : MemoryForm (runtimeReturn s) := by
  unfold runtimeReturn
  grind [memoryForm_iff, trapReturn_form, runtimeSpent_form]

theorem runtimeWait_form {s b} (hs : MemoryForm s) : MemoryForm (runtimeWait s b) :=
  blockAt_form hs

theorem runtimeAfter_form {s} (hs : MemoryForm s) : MemoryForm (runtimeAfter s) :=
  runtimeReturn_form hs

theorem runtimeGo_form {s a} (hs : MemoryForm s) : MemoryForm (runtimeGo s a) :=
  runtimeReturn_form hs

theorem runtimeServe_form {s} (hs : MemoryForm s) : MemoryForm (runtimeServe s) := by
  have hend : MemoryForm (runtimeEnd (runtimeSpent s)) := runtimeEnd_form (runtimeSpent_form hs)
  unfold runtimeServe
  dsimp only
  split
  · split
    · exact runtimeWait_form hs
    · exact runtimeReturn_form hs
  · repeat' split
    · exact runtimeWait_form hs
    · exact runtimeAfter_form hs
    · exact runtimeAfter_form hs
    · exact runtimeAfter_form hs
    · exact hend
  · repeat' split
    · exact runtimeWait_form hs
    · exact runtimeGo_form (writeX_form (writeX_form hs))
    · exact hend
  · exact runtimeReturn_form hs
  · exact runtimeReturn_form hs
  · exact runtimeReturn_form hs
  · repeat' split
    · exact runtimeGo_form hs
    · exact runtimeReturn_form hs
  · exact runtimeReturn_form hs
  · split
    · exact runtimeWait_form ⟨placeReq_form hs.1, hs.2⟩
    · exact hend

theorem runtimeReply_form {s grant} (hs : MemoryForm s) : MemoryForm (runtimeReply s grant) := by
  unfold runtimeReply
  repeat' split
  all_goals grind [runtimeReturn_form, runtimeEnd_form, runtimeSpent_form]

theorem runtimeStep_form {s} (hs : MemoryForm s) : MemoryForm (runtimeStep s) := by
  unfold runtimeStep
  repeat' split
  all_goals grind [memoryForm_iff, runtimeServe_form, runtimeReply_form, runtimeWait_form]

/-! ### Boundary -/

theorem freezeDbg_form {s} (hs : MemoryForm s) : MemoryForm (freezeDbg s) :=
  hs

theorem endStep_form {s} (hs : MemoryForm s) : MemoryForm (endStep s) := by
  unfold endStep
  repeat' split
  all_goals grind [freezeDbg_form]

theorem enterFault_form {s d} (hs : MemoryForm s) : MemoryForm (enterFault s d) :=
  trapWord_form hs

theorem enterIrq_form {s z} (hs : MemoryForm s) : MemoryForm (enterIrq s z) := by
  unfold enterIrq
  repeat' split
  all_goals grind [memoryForm_iff, logEvent_form, takeIrq_form, atSwitch_form]

theorem enterDenial_form {s d} (hs : MemoryForm s) : MemoryForm (enterDenial s d) :=
  trapWord_form hs

theorem switchTo_form {s c} (hs : MemoryForm s) : MemoryForm (switchTo s c) := by
  unfold switchTo
  repeat' split
  all_goals grind [logEvent_form, beginTurn_form]

theorem expireTurn_form {s vt} (hs : MemoryForm s) : MemoryForm (expireTurn s vt) := by
  unfold expireTurn
  repeat' split
  all_goals grind [tileForm_iff, stateMapTile_form, stateMapCtx_form]

/-! ### Message -/

theorem niRoom_form {s dst r k} (hs : MemoryForm s) (hk : ResForm k) : ResForm (niRoom s dst r k) := by
  unfold niRoom
  repeat' split
  all_goals grind [ResForm]

theorem examPayload_form {s field n r cur l k} (hs : MemoryForm s) (hk : ∀ a b, ResForm (k a b)) :
    ResForm (examPayload s field n r cur l k) := by
  induction n generalizing r cur l with
  | zero => exact hk _ _
  | succ n ih => exact srcX_form hs fun _ _ => ih

theorem routeChecks_form {s rt needWords k} (hs : MemoryForm s) (hk : ResForm k) : ResForm (routeChecks s rt needWords k) := by
  unfold routeChecks
  repeat' split
  all_goals grind [ResForm]

theorem niReserve_form {s ea dst r} (hs : MemoryForm s) : MemoryForm (niReserve s ea dst r) := by
  unfold niReserve
  grind [memoryForm_iff, tileForm_iff, stampNext_form, lashEarly_form, absorbOut_form]

theorem dstAll_form {s l k} (hs : MemoryForm s) (hk : ResForm k) : ResForm (dstAll s l k) := by
  induction l with
  | nil => exact hk
  | cons r l ih => exact dstX_form hs ih

theorem writeLanes_form {s r l} (hs : MemoryForm s) : MemoryForm (writeLanes s r l) := by
  induction l generalizing s r with
  | nil => exact hs
  | cons x l ih => exact ih (writeX_form hs)

theorem soundRecord_form {s k} (hs : MemoryForm s) (hk : ResForm k) : ResForm (soundRecord s k) := by
  unfold soundRecord
  repeat' split
  all_goals grind [ResForm]

theorem takeRecord_form {s key meta64 l} (hs : MemoryForm s) : MemoryForm (takeRecord s key meta64 l) := by
  unfold takeRecord
  repeat' split
  all_goals grind [memoryForm_iff, tileForm_iff, writeLanes_form, writeX_form]

theorem awaitRecord_form {s} (hs : MemoryForm s) : ResForm (awaitRecord s) := by
  unfold awaitRecord
  repeat' split
  all_goals grind [memoryForm_iff, tileForm_iff, ResForm, blockAt_form]

theorem tileCountOvf_form {t o} (ht : TileForm t) : TileForm (Tile.countOvf t o) := by
  unfold Tile.countOvf
  repeat' split
  all_goals grind [tileForm_iff]

/-! ### Message -/

theorem tileInsert_form {t d x spilled was} (ht : TileForm t) : ∀ y, Tile.insert t d x spilled was = some y → TileForm y := by
  unfold Tile.insert
  repeat' split
  all_goals grind [tileForm_iff, tileCountOvf_form]

theorem tileAccept_form {t g r bad} (ht : TileForm t) : ∀ y, Tile.accept t g r bad = some y → TileForm y := by
  unfold Tile.accept
  repeat' split
  all_goals grind [tileForm_iff, tileInsert_form, tileCountOvf_form]

theorem usePort_form {vt s} (hs : MemoryForm s) : MemoryForm (usePort vt s) := by
  unfold usePort
  grind [tileForm_iff, stateMapTile_form]

theorem logInsert_form {s vt src cls key ldk} (hs : MemoryForm s) : MemoryForm (logInsert s vt src cls key ldk) := by
  unfold logInsert
  repeat' split
  all_goals grind [logAt_form]

theorem tileAccept_getD_form {t : Tile} {g r bad} (ht : TileForm t) : TileForm ((t.accept g r bad).getD t) :=
  of_getD (tileAccept_form ht) ht

theorem offer_form {s vt k again} (hs : MemoryForm s) : ∀ y, offer s vt k again = some y → MemoryForm y := by
  unfold offer
  repeat' split
  all_goals grind [tileForm_iff, released_form, dropNi_form, stateMapTile_form, tileKeepMsg_form, usePort_form, logInsert_form,
    tileAccept_getD_form]

theorem insertParked_form {s vt k swap} (hs : MemoryForm s) : ∀ y, insertParked s vt k swap = some y → MemoryForm y := by
  unfold insertParked
  split
  · simp
  next m s₁ hm =>
  have h₁ := takeMsg_form hs _ _ hm
  split
  case h_2 => simp
  next r _ =>
  split
  · simp
  split
  · simp
  next t ht =>
  split
  · simp
  split
  · simp
  next u hu =>
  have hu := tileAccept_form (stateTile_form h₁ _ ht) _ hu
  have h₂ : MemoryForm (logInsert (s₁.mapTile vt fun _ => u.keepMsg m) vt m.src r.cls r.key m.ldk) :=
    logInsert_form (stateMapTile_form h₁ fun _ _ => tileKeepMsg_form hu)
  grind [usePort_form]

theorem refill_form {s vt swap} (hs : MemoryForm s) : ∀ y, refill s vt swap = some y → MemoryForm y := by
  unfold refill
  split
  · simp
  next t ht =>
  have ht := stateTile_form hs _ ht
  split
  · simp
  next x r _ =>
  split
  · simp
  split
  · simp
  next u hu =>
  have hu : TileForm u := tileInsert_form (t := { t with spill := r, ringAt := t.ringAt + 1 }) ht _ hu
  have h₂ : MemoryForm (s.mapTile vt fun _ => u) := stateMapTile_form hs fun _ _ => hu
  grind [logInsert_form, usePort_form]

theorem dispatch_form {s vt} (hs : MemoryForm s) : ∀ y, dispatch s vt = some y → MemoryForm y := by
  unfold dispatch
  repeat' split
  all_goals grind [tileForm_iff, stateMapTile_form, stateMapCtx_form, usePort_form, logEvent_form]

/-! ### Sync -/

theorem resumeBar_form {s lv fin fresh} (hs : MemoryForm s) (hfin : ∀ a b, MemoryForm b → ResForm (fin a b)) (hfresh : ResForm fresh) :
    ResForm (resumeBar s lv fin fresh) := by
  unfold resumeBar
  grind [memoryForm_iff, ResForm, barTimeout_form]

theorem arriveWord_form {s k lv kind val fin} (hs : MemoryForm s) (hfin : ∀ a, MemoryForm a → ResForm (fin a)) :
    ResForm (arriveWord s k lv kind val fin) := by
  unfold arriveWord
  repeat' split
  all_goals grind [memoryForm_iff, ResForm, commit_form, stampNext_form, lashEarly_form, blockAt_form, popAll_form, barChecks_form,
    recordArrival_form]

theorem dstArrive_form {s d k} (hs : MemoryForm s) (hk : ResForm k) : ResForm (dstArrive s d k) := by
  unfold dstArrive
  repeat' split
  all_goals grind [ResForm, dstX_form]

theorem vote_form {s kind lv d a wa} (hs : MemoryForm s) : OutForm (vote s kind lv d a wa) := by
  unfold vote
  grind [ResForm, finish_form, resumeBar_form, dstX_form, writeX_form, srcX_form, dstArrive_form, arriveWord_form, putResult_form]

theorem passFence_form {s x pr pw} (hs : MemoryForm s) : MemoryForm (passFence s x pr pw) :=
  stampNext_form hs

theorem setEvents_form {s} (hs : MemoryForm s) : MemoryForm (setEvents s) :=
  hs

/-! ### Csr -/

theorem tileLoad8_form {t bs} (ht : TileForm t) : TileForm (Tile.load8 t bs) := by
  unfold Tile.load8
  grind [tileForm_iff]

theorem tileLoad4_form {t bs} (ht : TileForm t) : TileForm (Tile.load4 t bs) := by
  unfold Tile.load4
  exact ht

theorem readImage_form {s on off n k} (hs : MemoryForm s) (hk : ∀ a b, MemoryForm a → ResForm (k a b)) :
    ResForm (readImage s on off n k) := by
  unfold readImage
  repeat' split
  all_goals grind [onCoreRead_form]

theorem writeDtstat_form {s v k} (hs : MemoryForm s) (hk : ∀ a, MemoryForm a → ResForm (k a)) : ResForm (writeDtstat s v k) := by
  unfold writeDtstat
  grind [memoryForm_iff, tileForm_iff, ResForm, readImage_form, tileLoad8_form, tileLoad4_form]

theorem csrWrite_form {s n v w1c k} (hs : MemoryForm s) (hk : ∀ a, MemoryForm a → ResForm (k a)) : ResForm (csrWrite s n v w1c k) := by
  unfold csrWrite
  repeat' split
  all_goals grind [memoryForm_iff, tileForm_iff, writeMemb_form, writeDtstat_form, dropRecord_form]

theorem csrAccess_form {s i n k} (hs : MemoryForm s) (hk : ResForm k) : ResForm (csrAccess s i n k) := by
  unfold csrAccess
  repeat' split
  all_goals grind [ResForm]

theorem pairRead_form {s s' n d v} (hs' : MemoryForm s') : MemoryForm (pairRead s s' n d v) := by
  unfold pairRead
  repeat' split
  all_goals grind [memoryForm_iff, tileForm_iff]

theorem writeOld_form {s s' d old} (hs' : MemoryForm s') : MemoryForm (writeOld s s' d old) := by
  unfold writeOld
  grind [memoryForm_iff, writeX_form]

theorem csrUpdate_form {s i d a wa n f w1c} (hs : MemoryForm s) : OutForm (csrUpdate s i d a wa n f w1c) := by
  unfold csrUpdate
  grind [ResForm, finish_form, csrAccess_form, srcX_form, commit_form, dstX_form, csrWrite_form, absorbCsr_form, pairRead_form,
    writeOld_form]

theorem tableEvent_form {row vt off n busy load s} (hload : ∀ a b, TileForm a → TileForm (load a b)) (hs : MemoryForm s) :
    OutForm (tableEvent row vt off n busy load s) := by
  unfold tableEvent
  repeat' split
  all_goals grind [tileForm_iff, outForm_next, off_form, stateMapTile_form]

/-! ### Gang -/

theorem grantSwap_form {s v} (hs : MemoryForm s) : MemoryForm (grantSwap s v) :=
  hs

theorem requestYield_form {s k} (hs : MemoryForm s) : MemoryForm (requestYield s k) := by
  unfold requestYield
  grind [memoryForm_iff, gridMapGang_form]

theorem squallHalt_form {s k} (hs : MemoryForm s) : MemoryForm (squallHalt s k) := by
  unfold squallHalt
  grind [memoryForm_iff, tileForm_iff, stateMapAllCtxs_form, stateMapTiles_form, gridMapGang_form]

theorem settleTile_form {s vt} (hs : MemoryForm s) : MemoryForm (settleTile s vt) := by
  unfold settleTile
  grind [foldl_memoryForm, settleHelpers_form, stateFocus_form, settleAll_form]

theorem tileSaved_form {t} (ht : TileForm t) : TileForm (Tile.saved t) :=
  ht

theorem meterSwap_form {s} (hs : MemoryForm s) : MemoryForm (meterSwap s) :=
  stateMapVf_form hs

theorem swapOut_form {s k} (hs : MemoryForm s) : MemoryForm (swapOut s k) := by
  unfold swapOut
  repeat' split
  all_goals grind [memoryForm_iff, gridForm_iff, stateMapAllCtxs_form, stateMapTiles_form, tileSaved_form, meterSwap_form]

theorem transReissue_form {s vt sp k va} (hs : MemoryForm s) : TransForm (transReissue s vt sp k va) := by
  unfold transReissue
  repeat' split
  all_goals grind [TransForm, translate_form]

theorem retranslate_form {s vt c a l ps} (hs : MemoryForm s) : MemoryForm (retranslate s vt c a l ps).1 := by
  induction l generalizing s ps with
  | nil => exact hs
  | cons x r ih =>
    have ht := transReissue_form (vt := vt) (sp := ⟨s.g.vf, c.ptroot, c.asid, a.smode⟩) (k := a.kind.xlate) (va := x.1) hs
    unfold retranslate
    repeat' split
    all_goals grind [TransForm, waitPage_form]

theorem reissueOne_form {s vt c a} (hs : MemoryForm s) : MemoryForm (reissueOne s vt c a).1 := by
  unfold reissueOne
  repeat' split
  all_goals grind [EChkForm, retranslate_form, engRange_form, post_form]

theorem reissueCtx_form {p s vt i} (hs : MemoryForm s) : MemoryForm (reissueCtx p s vt i) := by
  unfold reissueCtx
  repeat' split
  all_goals grind [foldl_fst_memoryForm, reissueOne_form, stateMapCtx_form]

theorem loadDeliver_form {s m} (hs : MemoryForm s) : MemoryForm (loadDeliver s m) := by
  unfold loadDeliver
  repeat' split
  all_goals grind [perform_form, stateMapCtx_form]

theorem engineDeliver_form {s vt q} (hs : MemoryForm s) : MemoryForm (engineDeliver s vt q) := by
  unfold engineDeliver
  split
  · exact hs
  extract_lets s₁ try₁ r
  have h₁ : MemoryForm s₁ := by grind [memoryForm_iff, gridMapGang_form]
  have ht {f : State → Out3} {r : Option State} (hf : OutForm (f s₁)) (hr : ∀ y, r = some y → MemoryForm y) :
      ∀ y, try₁ f r = some y → MemoryForm y := by
    grind [OutForm]
  have hr : ∀ y, r = some y → MemoryForm y :=
    ht (execCopyUnit_form h₁) <| ht (execCopy2d_form h₁) <| ht (execGather_form h₁) <| ht (execScatter_form h₁) <|
      ht (execSignal_form h₁) <| ht (execMcastSt_form h₁) <| ht (r := none) (execRedSt_form h₁) (by simp)
  grind [memoryForm_iff, gridMapGang_form]

/-! ### Gang -/

theorem deliver_form {s k} (hs : MemoryForm s) : ∀ y, deliver s k = some y → MemoryForm y := by
  unfold deliver
  repeat' split
  all_goals grind [takeMsg_form, loadDeliver_form, engineDeliver_form, insertParked_form, portArrive_form, storeArrive_form,
    streamArrive_form]

theorem deliverParked_form {k n i s} (hs : MemoryForm s) : MemoryForm (deliverParked k n i s) := by
  induction n generalizing i s with
  | zero => exact hs
  | succ n ih =>
    unfold deliverParked
    grind [deliver_form]

theorem refillAll_form {vt n s} (hs : MemoryForm s) : MemoryForm (refillAll vt n s) := by
  induction n generalizing s with
  | zero => exact hs
  | succ n ih =>
    unfold refillAll
    grind [refill_form]

theorem helperResumed_form {h} (hh : HelperForm h) : HelperForm (Helper.resumed h) := by
  unfold Helper.resumed
  repeat' split
  all_goals grind [HelperForm]

theorem swapIn_form {s k cl} (hs : MemoryForm s) : MemoryForm (swapIn s k cl) := by
  unfold swapIn
  repeat' split
  all_goals grind [memoryForm_iff, tileForm_iff, gridForm_iff, foldl_memoryForm, gridMapGang_form, reissueCtx_form, deliverParked_form,
    refillAll_form, stateMapTiles_form, helperResumed_form, stateMapAllCtxs_form, meterSwap_form]

/-! ### Helper -/

theorem stateHelper_form {s} (hs : MemoryForm s) : HelperForm (State.helper s) := by
  unfold State.helper
  repeat' split
  all_goals grind [memoryForm_iff, tileForm_iff]

theorem stateSetHelper_form {s h} (hs : MemoryForm s) (hh : HelperForm h) : MemoryForm (State.setHelper s h) := by
  unfold State.setHelper
  repeat' split
  all_goals grind [memoryForm_iff, tileForm_iff]

theorem putR_form {s r v} (hs : MemoryForm s) : MemoryForm (putR s r v) := by
  unfold putR
  repeat' split
  all_goals grind [HelperForm, stateHelper_form, absorb_form, stateSetHelper_form]

theorem absorbH_form {s n v} (hs : MemoryForm s) : MemoryForm (absorbH s n v) :=
  absorb_form hs

theorem hTrap_form {s irq code tval} (hs : MemoryForm s) : MemoryForm (hTrap s irq code tval) := by
  unfold hTrap
  repeat' split
  all_goals grind [HelperForm, stateHelper_form, stateSetHelper_form, absorbH_form]

theorem hFreeze_form {s hit} (hs : MemoryForm s) : MemoryForm (hFreeze s hit) := by
  unfold hFreeze
  grind [HelperForm, stateHelper_form, stateSetHelper_form]

theorem hStep_form {s} (hs : MemoryForm s) : MemoryForm (hStep s) := by
  unfold hStep
  repeat' split
  all_goals grind [hFreeze_form]

theorem hRetire_form {s pc} (hs : MemoryForm s) : MemoryForm (hRetire s pc) := by
  unfold hRetire
  grind [HelperForm, stateHelper_form, stateSetHelper_form, countBundle_form]

theorem hFinish_form {r} (hr : HResForm r) : OutForm (hFinish r) := by
  unfold hFinish
  repeat' split
  all_goals grind [HResForm, HelperForm, outForm_next, hStep_form, hRetire_form, hTrap_form, stateSetHelper_form, stateHelper_form]

theorem hNext_form {s} (hs : MemoryForm s) : HResForm (hNext s) :=
  hs

theorem hPut_form {s rd v} (hs : MemoryForm s) : HResForm (hPut s rd v) :=
  hNext_form (putR_form hs)

theorem hGlob_form {s a n k st} (hs : MemoryForm s) : HChkForm (hGlob s a n k st) := by
  unfold hGlob
  repeat' split
  all_goals grind [memoryForm_iff, HChkForm, HelperForm, TransForm, translate_form, stateHelper_form, placeReq_form, stateSetHelper_form]

theorem hCheck_form {s ea n st} (hs : MemoryForm s) : HChkForm (hCheck s ea n st) := by
  unfold hCheck
  repeat' split
  all_goals grind [EChkForm, HChkForm, hGlob_form, engRange_form]

theorem hSettle_form {s ps} (hs : MemoryForm s) : MemoryForm (hSettle s ps) := by
  unfold hSettle
  repeat' split
  all_goals grind [foldl_memoryForm, HelperForm, performPost_form, stateSetHelper_form, stateHelper_form]

theorem hHard_form {s a} (hs : MemoryForm s) : HResForm (hHard s a) := by
  unfold hHard
  repeat' split
  all_goals grind [HResForm, askRollbackAt_form]

theorem hLoad_form {s ea n k} (hs : MemoryForm s) (hk : ∀ a b, MemoryForm a → HResForm (k a b)) : HResForm (hLoad s ea n k) := by
  unfold hLoad
  repeat' split
  all_goals grind [memoryForm_iff, HChkForm, HResForm, hHard_form, repairMarks_form, hCheck_form, lashInbound_form, engSummon_form,
    hSettle_form, agentRead_form]

theorem asSender_form {s} (hs : MemoryForm s) : MemoryForm (asSender s) :=
  hs

theorem asBefore_form {s c} (hs : MemoryForm s) : MemoryForm (asBefore s c) := by
  unfold asBefore
  grind [memoryForm_iff, HelperForm, stateSetHelper_form, stateHelper_form]

theorem hDirty_form {s ea n ps} (hs : MemoryForm s) : HChkForm (hDirty s ea n ps) := by
  unfold hDirty
  repeat' split
  all_goals grind [HChkForm, hGlob_form]

theorem hStore_form {s ea bs k} (hs : MemoryForm s) (hk : ∀ a, MemoryForm a → HResForm (k a)) : HResForm (hStore s ea bs k) := by
  unfold hStore
  grind [HelperForm, HChkForm, HResForm, ResForm, hCheck_form, stateHelper_form, absorbOut_form, stateMapTile_form, stateSetHelper_form,
    write_wf, tileHeal_form, storeGate_form, asSender_form, hSettle_form, hDirty_form, asBefore_form, storePieces_form]

theorem hRelease_form {s sc k} (hs : MemoryForm s) (hk : ∀ a, MemoryForm a → HResForm (k a)) : HResForm (hRelease s sc k) := by
  unfold hRelease
  grind [memoryForm_iff, tileForm_iff, foldl_memoryForm, HResForm, HelperForm, performPost_form, stateSetHelper_form, stateHelper_form]

theorem hCsrWrite_form {s n v w1c} (hs : MemoryForm s) : MemoryForm (hCsrWrite s n v w1c) := by
  unfold hCsrWrite
  repeat' split
  all_goals grind [HelperForm, stateHelper_form, stateSetHelper_form, dropRecord_form]

theorem hCsrOp_form {s w n rd wr w1c f} (hs : MemoryForm s) : HResForm (hCsrOp s w n rd wr w1c f) := by
  unfold hCsrOp
  repeat' split
  all_goals grind [HResForm, hRetire_form, hCsrWrite_form, absorbH_form, hStep_form, putR_form]

theorem hJump_form {s target k} (hs : MemoryForm s) (hk : ∀ a, MemoryForm a → MemoryForm (k a)) : HResForm (hJump s target k) := by
  unfold hJump
  repeat' split
  all_goals grind [HResForm]

theorem hMret_form {s} (hs : MemoryForm s) : HResForm (hMret s) := by
  unfold hMret
  grind [HResForm, HelperForm, stateHelper_form, stateSetHelper_form, absorbH_form]

theorem hSystem_form {s w f3 rd r1} (hs : MemoryForm s) : HResForm (hSystem s w f3 rd r1) := by
  unfold hSystem
  repeat' split
  all_goals grind [HResForm, hMret_form, hNext_form, hCsrOp_form]

theorem rvExec_form {s w} (hs : MemoryForm s) : HResForm (rvExec s w) := by
  unfold rvExec
  repeat' split
  all_goals grind [HResForm, hPut_form, hJump_form, putR_form, hNext_form, hLoad_form, hStore_form, hRelease_form, hSystem_form]

theorem stopHelper_form {s} (hs : MemoryForm s) : MemoryForm (stopHelper s) := by
  unfold stopHelper
  grind [memoryForm_iff, tileForm_iff, foldl_memoryForm, HelperForm, stateHelper_form, stateTally_form, tileResume_form,
    stateSetHelper_form, performPost_form]

theorem hImage_form {s a n k} (hs : MemoryForm s) (hk : ∀ a b, MemoryForm a → HResForm (k a b)) : HResForm (hImage s a n k) := by
  unfold hImage
  grind [HResForm, hHard_form, repairMarks_form, correctPiece_form, hSettle_form]

theorem focusHelper_form {s vt storer} (hs : MemoryForm s) : MemoryForm (focusHelper s vt storer) := by
  unfold focusHelper
  repeat' split
  all_goals grind [memoryForm_iff, stateFocus_form]

theorem hInterrupt_form {s} (hs : MemoryForm s) : MemoryForm (hInterrupt s) := by
  unfold hInterrupt
  grind [logEvent_form, hStep_form, hTrap_form]

/-! ### Debug -/

theorem stateMapDbg_form {s vt r f} (hs : MemoryForm s) : MemoryForm (State.mapDbg s vt r f) := by
  unfold State.mapDbg
  repeat' split
  all_goals grind [tileForm_iff, HelperForm, stateMapCtx_form, stateMapTile_form]

theorem withFocus_form {s vt r f} (hs : MemoryForm s) (hf : ∀ a, MemoryForm a → MemoryForm (f a)) : MemoryForm (withFocus s vt r f) := by
  unfold withFocus
  grind [stateFocus_form]

theorem haltRole_form {s vt r} (hs : MemoryForm s) : ∀ y, haltRole s vt r = some y → MemoryForm y := by
  unfold haltRole
  repeat' split
  all_goals grind [tileForm_iff, stateMapTile_form, stateMapDbg_form]

theorem passBreak_form {s vt r} (hs : MemoryForm s) : MemoryForm (passBreak s vt r) := by
  unfold passBreak
  repeat' split
  all_goals grind [withFocus_form, retire_form, focusHelper_form, hRetire_form]

theorem resumeRole_form {s vt r step} (hs : MemoryForm s) : ∀ y, resumeRole s vt r step = some y → MemoryForm y := by
  unfold resumeRole
  repeat' split
  all_goals grind [passBreak_form, stateMapDbg_form, stateMapCtx_form]

theorem debugCsr_form {s n x} (hs : MemoryForm s) : ∀ y, debugCsr s n x = some y → MemoryForm y := by
  unfold debugCsr
  repeat' split
  all_goals grind [memoryForm_iff, ResForm, csrWrite_form]

theorem writeRole_form {s vt r w} (hs : MemoryForm s) : ∀ y, writeRole s vt r w = some y → MemoryForm y := by
  unfold writeRole
  repeat' split
  all_goals grind [HelperForm, stateMapCtx_form, stateFocus_form, debugCsr_form, focusHelper_form, stateSetHelper_form, stateHelper_form,
    hCsrWrite_form, Option.map_eq_some_iff]

theorem writeCtl_form {s vt r x} (hs : MemoryForm s) : MemoryForm (writeCtl s vt r x) := by
  unfold writeCtl
  extract_lets s₁
  have h₁ : MemoryForm s₁ := stateMapDbg_form hs
  exact of_getD (by grind [haltRole_form, resumeRole_form]) h₁

/-! ### Guest -/

theorem pullPage_form {m v l} (hm : ModuleForm m) : ModuleForm (pullPage m v l) := by
  unfold pullPage
  grind [writeGlob_wf, moduleMapVf_form]

theorem moduleSettleMig_form {m v} (hm : ModuleForm m) : ModuleForm (Module.settleMig m v) := by
  unfold Module.settleMig
  split
  · exact moduleMapVf_form hm
  · exact hm

theorem pulled_form {m v gpa} (hm : ModuleForm m) : ModuleForm (pulled m v gpa) := by
  unfold pulled
  split
  · split
    · exact hm
    · exact moduleSettleMig_form (pullPage_form hm)
  · exact hm

theorem ifPulled_form {s} (hs : MemoryForm s) : ∀ y, ifPulled s = some y → MemoryForm y := by
  unfold ifPulled
  repeat' split
  all_goals grind

theorem walkPulled_form {sp k va n m} (hm : ModuleForm m) : TlForm (walkPulled sp k va n m) := by
  induction n generalizing m with
  | zero => exact walk1_form hm
  | succ n ih =>
    have hw := walk1_form (sp := sp) (k := k) (va := va) (ls := levels) (table := sp.root.toNat * 2 ^ 11) hm
    unfold walkPulled
    split
    · grind [TlForm, pulled_form]
    · exact hw

theorem gpaRead_form {v l m bs} (hm : ModuleForm m) : ∀ y r, gpaRead v l m bs = some (y, r) → ModuleForm y := by
  induction l generalizing m bs with
  | nil => grind [gpaRead]
  | cons x l ih =>
    have h₁ := pulled_form (v := v) (gpa := x.1) hm
    have h₂ := stage2_form (v := v) (gpa := x.1) (r := true) (w := false) (x := false) (d := false) h₁
    unfold gpaRead
    repeat' split
    all_goals grind [St2Form, moduleCorrectRange_form]

theorem gpaWrite_form {v l m bs} (hm : ModuleForm m) : ModuleForm (gpaWrite v l m bs) := by
  induction l generalizing m bs with
  | nil => exact hm
  | cons x l ih =>
    have h₁ := pulled_form (v := v) (gpa := x.1) hm
    have h₂ := stage2_form (v := v) (gpa := x.1) (r := false) (w := true) (x := false) (d := true) h₁
    refine ih ?_
    grind [St2Form, writeGlob_wf]

theorem tlMod_form {t} (ht : TlForm t) : ModuleForm (Tl.mod t) := by
  unfold Tl.mod
  grind [TlForm]

theorem vaRead_form {sp l m bs} (hm : ModuleForm m) : ∀ y r, vaRead sp l m bs = some (y, r) → ModuleForm y := by
  induction l generalizing m bs with
  | nil => grind [vaRead]
  | cons x l ih =>
    have hw := walkPulled_form (sp := sp) (k := .load) (va := x.1) (n := 8) hm
    unfold vaRead
    dsimp only
    repeat' split
    all_goals grind [TlForm, tlMod_form, moduleCorrectRange_form]

theorem vaWrite_form {sp l m bs} (hm : ModuleForm m) : ModuleForm (vaWrite sp l m bs) := by
  induction l generalizing m bs with
  | nil => exact hm
  | cons x l ih =>
    have hw := walkPulled_form (sp := sp) (k := .dirty) (va := x.1) (n := 8) hm
    refine ih ?_
    grind [TlForm, writeGlob_wf]

end Sys2Proof.Proofs
end

section
/-! Every step keeps the canonical form of every memory (O58): launches, partitions and the module. -/

-- One proof at a time: hundreds of proofs elaborated side by side hold a thread and its stack each.
set_option Elab.async false

namespace Sys2Proof.Proofs

open Sys2Proof Sys2Proof.Machine Sys2Proof.Safety Sys2Proof.Says Sys2Proof.Laws

/-! ### Guest -/

theorem forVf_form {v f s} (hf : ∀ a, MemoryForm a → MemoryForm (f a)) (hs : MemoryForm s) : MemoryForm (forVf v f s) := by
  unfold forVf
  refine stateFocus_form (foldl_memoryForm (by grind) fun s k hs => ?_)
  have hk := swapGrid_form (k := k) hs
  have hm := swapGrid_form (k := k) (mirrored_form hf hk (hf _ hk))
  grind

theorem dropDead_form {s} (hs : MemoryForm s) : MemoryForm (dropDead s) := by
  unfold dropDead
  extract_lets s₁
  have h₁ : MemoryForm s₁ := by grind [memoryForm_iff, BoxesForm]
  split
  · exact h₁
  split
  · grind [memoryForm_iff, tileForm_default, gridForm_default, TilesForm]
  next b r hb =>
  have hb : GridBoxForm b ∧ BoxesForm r := List.forall_mem_cons.1 (hb ▸ h₁.2.2.2.2)
  grind [memoryForm_iff, tileForm_iff, GridBoxForm, tilesForm_cons]

theorem flushTlbs_form {p s} (hs : MemoryForm s) : MemoryForm (flushTlbs p s) := by
  unfold flushTlbs
  grind [memoryForm_iff, tileForm_iff, gridForm_iff, HelperForm, stateMapTiles_form]

theorem retryAccs_form {b s} (hs : MemoryForm s) : MemoryForm (retryAccs b s) := by
  unfold retryAccs
  grind [foldl_memoryForm, reissueCtx_form]

/-! ### Attach -/

theorem freeSlot_form {s n} (hs : MemoryForm s) : MemoryForm (freeSlot s n) :=
  hs

theorem settleSlots_form {s} (hs : MemoryForm s) : MemoryForm (settleSlots s) :=
  hs

theorem stateMapQueue_form {s v q f} (hs : MemoryForm s) : MemoryForm (State.mapQueue s v q f) :=
  stateMapVf_form hs

theorem execNotifyWrite_form {v q s} (hs : MemoryForm s) : OutForm (execNotifyWrite v q s) := by
  unfold execNotifyWrite
  repeat' split
  all_goals grind [outForm_next, stateMapQueue_form, off_form]

theorem execFenceCounterWrite_form {v i x s} (hs : MemoryForm s) : OutForm (execFenceCounterWrite v i x s) := by
  unfold execFenceCounterWrite
  repeat' split
  all_goals grind [outForm_next, stateMapVf_form, off_form]

/-! ### Branch -/

theorem branchIf_form {s t off} (hs : MemoryForm s) : ResForm (branchIf s t off) := by
  unfold branchIf
  repeat' split
  all_goals grind [ResForm]

/-! ### Launch -/

theorem readVa_form {l m a n} (hm : ModuleForm m) : ∀ y r, readVa l m a n = some (y, r) → ModuleForm y := by
  unfold readVa
  repeat' split
  all_goals grind [vaRead_form]

theorem readHelper_form {l m} (hm : ModuleForm m) : ∀ y r, readHelper l m = some (y, r) → ModuleForm y := by
  intro y r h
  unfold readHelper at h
  dsimp only at h
  split at h
  · cases h
    exact hm
  split at h
  · cases h
  next h₁ =>
  split at h
  · cases h
  split at h
  · cases h
  next h₂ =>
  split at h
  · cases h
  next h₃ =>
  split at h
  · cases h
  next h₄ =>
  split at h
  · cases h
  next h₅ =>
  cases h
  exact readVa_form (readVa_form (readVa_form (readVa_form (readVa_form hm _ _ h₁) _ _ h₂) _ _ h₃) _ _ h₄) _ _ h₅

theorem readImages_form {l m} (hm : ModuleForm m) : ∀ y, readImages l m = some y → ImagesForm y := by
  intro y h
  unfold readImages at h
  have hr {p : Prop} [Decidable p] {m a n bs} (hm : ModuleForm m) :
      ∀ m' r, (if p then some (m, bs) else readVa l m a n) = some (m', r) → ModuleForm m' := by
    grind [readVa_form]
  split at h
  · cases h
  next h₁ =>
  split at h
  · cases h
  next h₂ =>
  split at h
  · cases h
  next h₃ =>
  cases h
  exact readHelper_form (hr (hr hm _ _ h₁) _ _ h₂) _ _ h₃

theorem checkLaunch_form {s l} (hs : MemoryForm s) : CheckedForm (checkLaunch s l) := by
  unfold checkLaunch
  repeat' split
  all_goals grind [memoryForm_iff, CheckedForm, readImages_form]

theorem writeCompl_form {m v c} (hm : ModuleForm m) : ModuleForm (writeCompl m v c) := by
  unfold writeCompl
  exact moduleMapVf_form (gpaWrite_form hm)

theorem pushCompl_form {s v c} (hs : MemoryForm s) : MemoryForm (pushCompl s v c) := by
  unfold pushCompl
  dsimp only
  split
  · exact of_getD (ifPulled_form ⟨writeCompl_form hs.1, hs.2⟩) (stateMapVf_form hs)
  · exact stateMapVf_form hs

theorem signalFence_form {s v id inc en} (hs : MemoryForm s) : MemoryForm (signalFence s v id inc en) := by
  unfold signalFence
  repeat' split
  all_goals grind [stateMapVf_form]

theorem endLaunch_form {s l status} (hs : MemoryForm s) : MemoryForm (endLaunch s l status) := by
  unfold endLaunch
  grind [signalFence_form, pushCompl_form, settleSlots_form, stateMapQueue_form]

theorem startHelper_form {entry text data args vt} : HelperForm (startHelper entry text data args vt) := by
  unfold startHelper
  split
  · exact ⟨rfl, rfl⟩
  · exact ⟨write_wf _ _ _ rfl, write_wf _ _ _ rfl⟩

theorem startTile_form {l lash im vt} : TileForm (startTile l lash im vt) := by
  unfold startTile
  extract_lets args text ctx t t'
  have ht : TileForm t := tileForm_default
  have ht' : TileForm t' := tileLoad4_form (tileLoad8_form ht)
  obtain ⟨hsp, hl, hs⟩ := tileForm_iff.1 ht'
  exact tileForm_iff.2 ⟨hsp, startHelper_form, startHelper_form⟩

theorem startGrid_form {s l cl} : GridForm (startGrid s l cl) := by
  unfold startGrid
  repeat' split
  all_goals grind [gridForm_iff, TilesForm]

theorem writeLog_form {sp a l i m} (hm : ModuleForm m) : ModuleForm (writeLog sp a l i m) := by
  induction l generalizing i m with
  | nil => exact hm
  | cons e r ih => exact ih (vaWrite_form hm)

theorem flushLogs_form {s} (hs : MemoryForm s) : MemoryForm (flushLogs s) := by
  unfold flushLogs
  split
  · exact hs
  extract_lets sp part m m' done
  have hm : ModuleForm m := foldl_moduleForm hs.1 fun _ _ h => writeLog_form h
  have hm' : ModuleForm m' := writeLog_form hm
  refine of_getD (ifPulled_form ?_) hs
  grind [memoryForm_iff, tileForm_iff, gridForm_iff, TilesForm]

theorem loadLogs_form {s} (hs : MemoryForm s) : MemoryForm (loadLogs s) := by
  unfold loadLogs
  repeat' split
  all_goals grind [tileForm_iff, stateMapTiles_form]

theorem openBars_form {s} (hs : MemoryForm s) : MemoryForm (openBars s) := by
  unfold openBars
  grind [foldl_memoryForm, openBar_form]

theorem firstCheckpoints_form {s} (hs : MemoryForm s) : MemoryForm (firstCheckpoints s) := by
  unfold firstCheckpoints
  repeat' split
  all_goals grind [memoryForm_iff, tileForm_iff, gridForm_iff, TilesForm, belayPoint_form, wholeTile_form, stateAllTiles_form]

theorem commitLaunch_form {s l im cl} (hs : MemoryForm s) (him : ImagesForm im) : MemoryForm (commitLaunch s l im cl) := by
  unfold commitLaunch
  extract_lets s₁ bg lash g es g' s₂ s₃
  have h₁ : MemoryForm s₁ := ⟨him, hs.2⟩
  have hbg : BoxesForm bg := by
    have := stateAllTiles_form h₁
    grind [memoryForm_iff, TilesForm, BoxesForm, GridBoxForm, wholeTile_form]
  have hg : GridForm g' := by
    have := startGrid_form (s := s₁) (l := l) (cl := cl)
    grind [gridForm_iff]
  have h₂ : MemoryForm s₂ := by
    have ht : TilesForm ((gridTiles l.w l.h).map (startTile l lash im)) := by
      grind [TilesForm, startTile_form]
    grind [memoryForm_iff, tileForm_iff, tilesForm_cons]
  exact settleSlots_form (flushLogs_form (stateMapQueue_form (firstCheckpoints_form (openBars_form (loadLogs_form h₂)))))

theorem readRecord_form {s v x} (hs : MemoryForm s) : ∀ y r, readRecord s v x = some (y, r) → ModuleForm y := by
  unfold readRecord
  repeat' split
  all_goals grind [memoryForm_iff, gpaRead_form]

theorem launchSize_form {l m} (hm : ModuleForm m) : ∀ y r, launchSize l m = some (y, r) → ModuleForm y := by
  unfold launchSize
  repeat' split
  all_goals grind [readVa_form, writeLog_form]

theorem failGroup_form {s gid} (hs : MemoryForm s) : MemoryForm (failGroup s gid) := by
  unfold failGroup
  grind [memoryForm_iff, foldl_memoryForm, endLaunch_form]

theorem joinGroup_form {s l} (hs : MemoryForm s) : MemoryForm (joinGroup s l) := by
  unfold joinGroup
  grind [memoryForm_iff, endLaunch_form, failGroup_form]

theorem waiting_form {s} (hs : MemoryForm s) : MemoryForm (waiting s) :=
  hs

theorem dispatchSized_form {s l} (hs : MemoryForm s) : MemoryForm (dispatchSized s l) := by
  unfold dispatchSized
  repeat' split
  all_goals grind [memoryForm_iff, CheckedForm, endLaunch_form, waiting_form, checkLaunch_form, joinGroup_form, commitLaunch_form]

theorem stopHelpers_form {s} (hs : MemoryForm s) : MemoryForm (stopHelpers s) := by
  unfold stopHelpers
  grind [foldl_memoryForm, focusHelper_form, stopHelper_form]

theorem discardAsm_form {s} (hs : MemoryForm s) : MemoryForm (discardAsm s) := by
  unfold discardAsm
  grind [memoryForm_iff, tileForm_iff, gridForm_iff, stateMapTiles_form]

theorem endGrid_form {status s} (hs : MemoryForm s) : MemoryForm (endGrid status s) := by
  unfold endGrid
  grind [memoryForm_iff, gridForm_iff, discardAsm_form, stopHelpers_form, signalFence_form, pushCompl_form]

theorem performAllHeld_form {s} (hs : MemoryForm s) : MemoryForm (performAllHeld s) := by
  unfold performAllHeld
  grind [foldl_memoryForm, performHeld_form]

/-! ### Meter -/

theorem writeUsage_form {m r} (hm : ModuleForm m) : ModuleForm (writeUsage m r) := by
  unfold writeUsage
  grind [writeGlob_wf]

theorem pushUsage_form {m r} (hm : ModuleForm m) : ModuleForm (pushUsage m r) := by
  unfold pushUsage
  repeat' split
  all_goals grind [writeUsage_form]

theorem meterFree_form {s v} (hs : MemoryForm s) : MemoryForm (meterFree s v) :=
  stateMapVf_form hs

theorem meterOne_form {from_ to_ s v} (hs : MemoryForm s) : MemoryForm (meterOne from_ to_ s v) := by
  unfold meterOne
  repeat' split
  all_goals grind [memoryForm_iff, meterFree_form, pushUsage_form, stateMapVf_form]

theorem execAttestationRequest_form {v nonce buf s} (hs : MemoryForm s) : OutForm (execAttestationRequest v nonce buf s) := by
  unfold execAttestationRequest
  repeat' split
  all_goals grind [outForm_next, stateMapVf_form, off_form]

/-! ### Partition -/

theorem execInval2_form {v s} (hs : MemoryForm s) : OutForm (execInval2 v s) := by
  unfold execInval2
  repeat' split
  all_goals grind [outForm_next, stateMapVf_form, off_form]

theorem execScopectlWrite_form {v x s} (hs : MemoryForm s) : OutForm (execScopectlWrite v x s) := by
  unfold execScopectlWrite
  repeat' split
  all_goals grind [outForm_next, stateMapVf_form, off_form]

theorem moduleMapCluster_form {m p f} (hm : ModuleForm m) : ModuleForm (Module.mapCluster m p f) :=
  hm

theorem programKey_form {v m k} (hm : ModuleForm m) : ModuleForm (programKey v m k) :=
  hm

theorem assignClusters_form {v s} (hs : MemoryForm s) : MemoryForm (assignClusters v s) := by
  unfold assignClusters
  repeat' split
  all_goals grind [memoryForm_iff, stateMapVf_form, moduleMapCluster_form]

theorem execPartitionCreate_form {v s} (hs : MemoryForm s) : OutForm (execPartitionCreate v s) := by
  unfold execPartitionCreate
  repeat' split
  all_goals grind [outForm_next, off_form, stateMapVf_form, assignClusters_form]

/-! ### Partition -/

theorem abortGrids_form {v s} (hs : MemoryForm s) : MemoryForm (abortGrids v s) := by
  unfold abortGrids
  grind [dropDead_form, forVf_form, endGrid_form]

theorem zeroKeys_form {m v} (hm : ModuleForm m) : ModuleForm (zeroKeys m v) :=
  hm

theorem execPartitionTeardown_form {v s} (hs : MemoryForm s) : OutForm (execPartitionTeardown v s) := by
  unfold execPartitionTeardown
  repeat' split
  all_goals grind [memoryForm_iff, outForm_next, off_form, abortGrids_form, zeroKeys_form, moduleMapCluster_form, stateMapVf_form]

theorem zeroPage_form {m pa} (hm : ModuleForm m) : ModuleForm (zeroPage m pa) := cells_filter_wf _ _ hm

theorem scrubStep_form {v s} (hs : MemoryForm s) : MemoryForm (scrubStep v s) := by
  unfold scrubStep
  repeat' split
  all_goals grind [memoryForm_iff, stateMapVf_form, moduleMapCluster_form, zeroPage_form]

/-! ### Bringup -/

theorem moduleMeasure_form {m outlet flow} (hm : ModuleForm m) : ModuleForm (Module.measure m outlet flow) :=
  hm

theorem powerDown_form {s} (hs : MemoryForm s) : MemoryForm (powerDown s) :=
  ⟨cells_filter_wf _ _ hs.1, stateReset_form.2⟩

/-! ### Compare -/

theorem putTruth_form {s d t} (hs : MemoryForm s) : ResForm (putTruth s d t) :=
  putResult_form hs

theorem cmp_form {s sz d a b wa wb p} (hs : MemoryForm s) : OutForm (cmp s sz d a b wa wb p) := by
  unfold Machine.cmp
  grind [finish_form, srcX_form, commit_form, putTruth_form]

theorem fcmpWord_form {s f d a b wa wb op} (hs : MemoryForm s) : OutForm (fcmpWord s f d a b wa wb op) := by
  unfold fcmpWord
  grind [finish_form, srcX_form, commit_form, putFlagged_form]

theorem cmpi_form {s d a wa imm p} (hs : MemoryForm s) : OutForm (cmpi s d a wa imm p) := by
  unfold cmpi
  grind [finish_form, srcX_form, commit_form, putTruth_form]

theorem bitUnary_form {s sz d a wa f} (hs : MemoryForm s) : OutForm (bitUnary s sz d a wa f) :=
  unary_form hs

theorem valUnary_form {s d a wa f} (hs : MemoryForm s) : OutForm (valUnary s d a wa f) := by
  unfold valUnary
  grind [finish_form, examX_form, accept_form, putResult_form]

theorem valBinary_form {s d a b wa wb f} (hs : MemoryForm s) : OutForm (valBinary s d a b wa wb f) := by
  unfold valBinary
  grind [finish_form, examX_form, accept_form, putResult_form]

/-! ### Paging -/

theorem replyHelper_form {tag grant h} (hh : HelperForm h) : HelperForm (replyHelper tag grant h) := by
  unfold replyHelper
  repeat' split
  all_goals grind [HelperForm]

theorem replyRuntime_form {tag grant s x} (hs : MemoryForm s) : MemoryForm (replyRuntime tag grant s x) := by
  unfold replyRuntime
  repeat' split
  all_goals grind [memoryForm_iff, tileForm_iff, withFocus_form, runtimeReply_form, stateMapCtx_form]

theorem replyGrid_form {tag req grant s} (hs : MemoryForm s) : MemoryForm (replyGrid tag req grant s) := by
  unfold replyGrid
  repeat' split
  all_goals grind [tileForm_iff, foldl_memoryForm, stateMapAllCtxs_form, stateMapTiles_form, replyHelper_form, replyRuntime_form,
    retryAccs_form]

theorem execPageRequestReply_form {v grant tag s} (hs : MemoryForm s) : OutForm (execPageRequestReply v grant tag s) := by
  unfold execPageRequestReply
  repeat' split
  all_goals grind [memoryForm_iff, outForm_next, off_form, moduleLogErr_form, stateMapVf_form, forVf_form, replyGrid_form]

theorem execPrqheadWrite_form {v x s} (hs : MemoryForm s) : OutForm (execPrqheadWrite v x s) := by
  unfold execPrqheadWrite
  repeat' split
  all_goals grind [outForm_next, forVf_form, retryAccs_form, stateMapVf_form, off_form]

theorem cxlWrite_form {v l m bs} (hm : ModuleForm m) : ModuleForm (cxlWrite v l m bs) := by
  induction l generalizing m bs with
  | nil => exact hm
  | cons x l ih =>
    have h₁ := pulled_form (v := v) (gpa := x.1) hm
    refine ih ?_
    grind [writeBy_wf]

theorem cxlRead_form {v l m bs} (hm : ModuleForm m) : ModuleForm (cxlRead v l m bs) := by
  induction l generalizing m bs with
  | nil => exact hm
  | cons x l ih =>
    have h₁ := pulled_form (v := v) (gpa := x.1) hm
    unfold cxlRead
    grind [moduleCorrectRange_form]

/-! ### Domain -/

theorem execLinkstatWrite_form {s} (hs : MemoryForm s) : OutForm (execLinkstatWrite s) := by
  unfold execLinkstatWrite
  repeat' split
  all_goals grind [memoryForm_iff, outForm_next, off_form]

theorem settleMig_form {v s} (hs : MemoryForm s) : MemoryForm (settleMig v s) :=
  ⟨moduleSettleMig_form hs.1, hs.2⟩

theorem retryPulls_form {v ls s} (hs : MemoryForm s) : MemoryForm (retryPulls v ls s) := by
  unfold retryPulls
  grind [foldl_memoryForm, forVf_form, retryAccs_form]

theorem failMig_form {v s} (hs : MemoryForm s) : MemoryForm (failMig v s) := by
  unfold failMig
  grind [memoryForm_iff, foldl_moduleForm, writeGlob_wf, stateMapVf_form, retryPulls_form]

theorem checkMigs_form {s} (hs : MemoryForm s) : MemoryForm (checkMigs s) := by
  unfold checkMigs
  grind [foldl_memoryForm, failMig_form]

theorem abortLost_form {gone s} (hs : MemoryForm s) : MemoryForm (abortLost gone s) := by
  unfold abortLost
  grind [foldl_memoryForm, dropDead_form, forVf_form, endGrid_form]

theorem execMigrationStart_form {v s} (hs : MemoryForm s) : OutForm (execMigrationStart v s) := by
  unfold execMigrationStart
  repeat' split
  all_goals grind [outForm_next, off_form, stateMapVf_form, checkMigs_form, settleMig_form, forVf_form, flushTlbs_form]

theorem execPoolpagesWrite_form {v n s} (hs : MemoryForm s) : OutForm (execPoolpagesWrite v n s) := by
  unfold execPoolpagesWrite
  repeat' split
  all_goals grind [outForm_next, stateMapVf_form, off_form]

/-! ### Events -/

theorem clearDest_form {s code} (hs : MemoryForm s) : MemoryForm (clearDest s code) := by
  unfold clearDest
  repeat' split
  all_goals grind [emptyX_form, emptyV_form, emptyH_form]

theorem fillX_form {s a r v ok} (hs : MemoryForm s) : MemoryForm (fillX s a r v ok) := by
  unfold fillX
  repeat' split
  all_goals grind [writeX_form]

theorem fillWith_form {s a bs} (hs : MemoryForm s) : MemoryForm (fillWith s a bs) := by
  unfold fillWith
  repeat' split
  all_goals grind [memoryForm_iff, tileForm_iff, fillX_form, writeV_form, writeH_form]

theorem fillFault_form {s a f} (hs : MemoryForm s) : MemoryForm (fillFault s a f) := by
  unfold fillFault
  repeat' split
  all_goals grind [memoryForm_iff, tileForm_iff, foldl_memoryForm, clearDest_form, raiseDeferred_form]

theorem landHere_form {s k} (hs : MemoryForm s) : ∀ y, landHere s k = some y → MemoryForm y := by
  unfold landHere
  dsimp only
  repeat' split
  all_goals grind [memoryForm_iff, lashInbound_form, performOwn_form, fillFault_form, fillWith_form]

theorem onTurn_form {row vt c s k} (hs : MemoryForm s) (hk : ∀ a, MemoryForm a → ∀ y, k a = some y → MemoryForm y) :
    OutForm (onTurn row vt c s k) := by
  unfold onTurn
  repeat' split
  all_goals grind [event_form, switchTo_form, stateFocus_form]

/-! ### Hyper -/

theorem hv2_form {s d a b f} (hs : MemoryForm s) : OutForm (hv2 s d a b f) := by
  unfold hv2
  grind [ResForm, finish_form, srcH_form, commit_form, dstH_form, writeH_form]

theorem bundleInto_form {s d h w} (hs : MemoryForm s) : MemoryForm (bundleInto s d h w) := by
  unfold bundleInto
  grind [memoryForm_iff, putB_form]

theorem onCoreB_form {s d r} (hs : MemoryForm s) (hr : ResForm r) : ResForm (onCoreB s d r) :=
  onCoreReg_form hs hr

theorem putRecall_form {s e r} (hs : MemoryForm s) : MemoryForm (putRecall s e r) := by
  unfold putRecall
  grind [memoryForm_iff, tileHeal_form, tileMapRecall_form]

theorem recallErr_form {s l k} (hs : MemoryForm s) (hk : ResForm k) : ResForm (recallErr s l k) := by
  unfold recallErr
  repeat' split
  all_goals grind [ResForm, resOnDone_form, repairMarks_form]

theorem search_form {s two d a b} (hs : MemoryForm s) : OutForm (search s two d a b) := by
  unfold search
  repeat' split
  all_goals grind [ResForm, finish_form, srcH_form, srcX_form, commit_form, dstX_form, recallErr_form, writeX_form]

/-! ### Registers -/

theorem orSame_form {s o} (hs : MemoryForm s) (ho : OutForm o) : MemoryForm (orSame s o) := by
  unfold orSame
  grind [outForm_next]

theorem writeVfReg_form {s v off x} (hs : MemoryForm s) : MemoryForm (writeVfReg s v off x) := by
  unfold writeVfReg
  dsimp only
  split
  · exact stateMapVf_form hs
  split
  · exact orSame_form hs (execAttestationRequest_form hs)
  split
  · exact orSame_form hs (execNotifyWrite_form hs)
  split
  · exact settleSlots_form (stateMapQueue_form hs)
  split
  · exact orSame_form hs (execFenceCounterWrite_form hs)
  · exact stateMapVf_form hs

theorem writePartctl_form {s v x} (hs : MemoryForm s) : MemoryForm (writePartctl s v x) := by
  unfold writePartctl
  repeat' split
  all_goals grind [stateMapVf_form, orSame_form, execInval2_form, execPartitionCreate_form, execPartitionTeardown_form]

theorem writeConfig_form {s v off x} (hs : MemoryForm s) : MemoryForm (writeConfig s v off x) := by
  unfold writeConfig
  grind [writePartctl_form, orSame_form, execScopectlWrite_form, execPrqheadWrite_form, execPageRequestReply_form, stateMapVf_form,
    execMigrationStart_form, execPoolpagesWrite_form]

theorem onRole_form {f s} (hf : ∀ a b c, MemoryForm a → MemoryForm (f a b c)) (hs : MemoryForm s) : MemoryForm (onRole f s) := by
  unfold onRole
  repeat' split
  all_goals grind [swapGrid_form]

theorem writeDbgPage_form {s off x} (hs : MemoryForm s) : MemoryForm (writeDbgPage s off x) := by
  unfold writeDbgPage
  split
  · exact hs
  · exact onRole_form (fun _ _ _ => writeCtl_form) hs
  · exact onRole_form (fun _ _ _ => stateMapDbg_form) hs
  · exact onRole_form (fun _ _ _ h => of_getD (writeRole_form h) h) hs
  · exact onRole_form (fun _ _ _ h => h) hs
  · exact onRole_form (fun _ _ _ h => of_getD (writeRole_form h) h) hs
  · exact hs

theorem writeDomcfg_form {m n} (hm : ModuleForm m) : ModuleForm (writeDomcfg m n) := by
  unfold writeDomcfg
  repeat' split
  all_goals grind

theorem writePfReg_form {s off x} (hs : MemoryForm s) : MemoryForm (writePfReg s off x) := by
  unfold writePfReg
  repeat' split
  all_goals grind [memoryForm_iff, writeConfig_form, writeDbgPage_form, writeDomcfg_form, orSame_form, execLinkstatWrite_form]

/-! ### Reliability -/

theorem releaseOut_form {vt s o} (hs : MemoryForm s) : MemoryForm (releaseOut vt s o) := by
  unfold releaseOut
  repeat' split
  all_goals grind [memoryForm_iff, tileForm_iff, gridForm_iff, writeBy_wf, stateMapTile_form, belayCmd_form, landArrival_form]

theorem performActs_form {s vt i} (hs : MemoryForm s) : MemoryForm (performActs s vt i) := by
  unfold performActs
  grind [stateMapCtx_form, stateFocus_form, performOwn_form]

theorem lashCheckpoint_form {s vt} (hs : MemoryForm s) : MemoryForm (lashCheckpoint s vt) := by
  unfold lashCheckpoint
  repeat' split
  all_goals grind [memoryForm_iff, gridForm_iff, TilesForm, stateWhole_form]

theorem lashAgree_form {s vt t} (hs : MemoryForm s) : MemoryForm (lashAgree s vt t) := by
  unfold lashAgree
  grind [tileForm_iff, foldl_memoryForm, releaseOut_form, stateMapTile_form, lashCheckpoint_form, performActs_form]

theorem tileBackTo_form {chk now} (hchk : TileForm chk) : TileForm (Tile.backTo chk now) :=
  hchk

theorem arriveAgain_form {vt s m} (hs : MemoryForm s) : MemoryForm (arriveAgain vt s m) := by
  unfold arriveAgain
  grind [memoryForm_iff, gridForm_iff, storeLand_form]

theorem finishAgain_form {vt l s} (hs : MemoryForm s) : MemoryForm (finishAgain vt l s) := by
  induction l generalizing s with
  | nil => exact hs
  | cons c r ih =>
    unfold finishAgain
    split
    · exact stateMapTile_form (ih hs) fun _ => tileMapQueue_form
    · exact ih (finishCmd_form hs)

theorem endAgain_form {vt s n} (hs : MemoryForm s) : MemoryForm (endAgain vt s n) :=
  stateMapCtxs_form hs

theorem takenAgain_form {vt s x} (hs : MemoryForm s) : MemoryForm (takenAgain vt s x) :=
  stateMapCtx_form hs

theorem redeliver_form {s vt l} (hs : MemoryForm s) : MemoryForm (redeliver s vt l) := by
  unfold redeliver
  grind [memoryForm_iff, gridForm_iff, foldl_memoryForm, gridUncount_form, arriveAgain_form, finishAgain_form, deliverRec_form,
    takenAgain_form, endAgain_form]

theorem lashRestore_form {s vt now} (hs : MemoryForm s) : MemoryForm (lashRestore s vt now) := by
  unfold lashRestore
  repeat' split
  all_goals grind [memoryForm_iff, tileForm_iff, gridForm_iff, TilesForm, redeliver_form, restoreTile_form, tileBackTo_form,
    lashCheckpoint_form, stateMapTile_form]

theorem lashTrap_form {s vt i} (hs : MemoryForm s) : MemoryForm (lashTrap s vt i) := by
  unfold lashTrap
  repeat' split
  all_goals grind [stateFocus_form, trapWord_form]

theorem tileRollBack_form {chk now} (hchk : TileForm chk) : TileForm (Tile.rollBack chk now) :=
  hchk

theorem rollBack_form {p s} (hs : MemoryForm s) : MemoryForm (rollBack p s) := by
  unfold rollBack
  extract_lets mesh gangs s'
  have h' : MemoryForm s' := by
    refine List.foldlRecOn _ _ hs fun u hu chk hc => ?_
    have hc : TileForm chk := by grind [memoryForm_iff, gridForm_iff, TilesForm]
    grind [stateWhole_form, lashCheckpoint_form, restoreTile_form, tileRollBack_form]
  grind [memoryForm_iff, gridForm_iff]

theorem outState_form {o} (ho : OutForm o) : ∀ y, outState o = some y → MemoryForm y := by
  unfold outState
  grind [outForm_next]

theorem firstOf_form {f n k} (hf : ∀ a y, f a = some y → MemoryForm y) : ∀ y, firstOf f n k = some y → MemoryForm y := by
  induction n generalizing k with
  | zero => simp [firstOf]
  | succ n ih =>
    unfold firstOf
    grind

theorem releaseMsg_form {s p} (hs : MemoryForm s) : ∀ y, releaseMsg s p = some y → MemoryForm y := by
  unfold releaseMsg
  grind [firstOf_form, deliver_form]

theorem releaseRecord_form {s vt arg ldk} (hs : MemoryForm s) : ∀ y, releaseRecord s vt arg ldk = some y → MemoryForm y := by
  unfold releaseRecord
  grind [firstOf_form, offer_form, releaseMsg_form, refill_form]

theorem releaseKind_form {s vt t e} (hs : MemoryForm s) : ∀ y, releaseKind s vt t e = some y → MemoryForm y := by
  unfold releaseKind
  repeat' split
  all_goals grind [memoryForm_iff, tileForm_iff, gridForm_iff, stateFocus_form, switchTo_form, releaseMsg_form, releaseRecord_form,
    dispatch_form, outState_form, execEngineCompletion_form, stateMapTile_form, moduleLogErr_form, enterIrq_form, focusHelper_form,
    hInterrupt_form]

/-! ### ScalarFloat -/

theorem putF_form {s d r} (hs : MemoryForm s) : ResForm (putF s d r) :=
  putFlagged_form hs

theorem fpBinary_form {s f d a b wa wb op} (hs : MemoryForm s) : OutForm (fpBinary s f d a b wa wb op) := by
  unfold fpBinary
  grind [finish_form, srcX_form, commit_form, putF_form]

theorem fpUnary_form {s d a wa op} (hs : MemoryForm s) : OutForm (fpUnary s d a wa op) := by
  unfold fpUnary
  grind [finish_form, srcX_form, commit_form, putF_form]

theorem fpTernary_form {s f d a b wa wb op} (hs : MemoryForm s) : OutForm (fpTernary s f d a b wa wb op) := by
  unfold fpTernary
  grind [finish_form, srcX_form, commit_form, putF_form]

/-! ### System -/

theorem countRetired_form {s} (hs : MemoryForm s) : MemoryForm (countRetired s) :=
  countBundle_form hs

theorem breakFreeze_form {s} (hs : MemoryForm s) : MemoryForm (breakFreeze s) :=
  atSwitch_form hs

theorem helperRewalk_form {h} (hh : HelperForm h) : HelperForm (Helper.rewalk h) := by
  unfold Helper.rewalk
  repeat' split
  all_goals grind [HelperForm]

theorem rewalkCluster_form {s vt} (hs : MemoryForm s) : MemoryForm (rewalkCluster s vt) := by
  unfold rewalkCluster
  grind [tileForm_iff, foldl_memoryForm, stateMapAllCtxs_form, stateMapTiles_form, helperRewalk_form, reissueCtx_form]

theorem tlbinv_form {s p} (hs : MemoryForm s) : ResForm (tlbinv s p) := by
  unfold tlbinv
  grind [ResForm, atHome_form, rewalkCluster_form, invalidate_form]

/-! ### VectorMemory -/

theorem vldWord_form {s d b wa nw off} (hs : MemoryForm s) : OutForm (vldWord s d b wa nw off) := by
  unfold vldWord
  grind [ResForm, finish_form, srcX_form, commit_form, dstV_form, chkBind_form, checkAddr_form, onCoreRead_form, writeV_form,
    startAcc_form, leaveFor_form, emptyV_form]

theorem lanesChecked_form {s n base l k} (hs : MemoryForm s) (hk : ∀ a, MemoryForm a → ResForm (k a)) :
    ResForm (lanesChecked s n base l k) := by
  unfold lanesChecked
  repeat' split
  all_goals grind [ResForm, onCoreAccess_form]

/-! ### Vector -/

theorem vint2_form {s e d a b f} (hs : MemoryForm s) : OutForm (vint2 s e d a b f) :=
  vec2_form hs

theorem vint1_form {s e d a f} (hs : MemoryForm s) : OutForm (vint1 s e d a f) :=
  vec1_form hs

theorem vflt2_form {s e d a b f} (hs : MemoryForm s) : OutForm (vflt2 s e d a b f) :=
  vec2_form hs

theorem vflt1_form {s e d a f} (hs : MemoryForm s) : OutForm (vflt1 s e d a f) :=
  vec1_form hs

theorem vfcmpWord_form {s e d a b op} (hs : MemoryForm s) : OutForm (vfcmpWord s e d a b op) :=
  vflt2_form hs

theorem cvtWord_form {s dst src d a sat} (hs : MemoryForm s) : OutForm (cvtWord s dst src d a sat) := by
  unfold cvtWord
  grind [ResForm, finish_form, srcV_form, wholeCommit_form, dstV_form, writeV_form, accrue_form]

theorem perm2_form {s e d a b f} (hs : MemoryForm s) : OutForm (perm2 s e d a b f) := by
  unfold perm2
  grind [finish_form, srcV_form, wholeCommit_form, putWhole_form]

theorem reduceWord_form {s op e d a} (hs : MemoryForm s) : OutForm (reduceWord s op e d a) := by
  unfold reduceWord
  grind [finish_form, srcV_form, commit_form, putResult_form, putFlagged_form]

end Sys2Proof.Proofs
end

section
/-! Every step keeps the canonical form of every memory (O58): the words and the events. -/

-- One proof at a time: hundreds of proofs elaborated side by side hold a thread and its stack each.
set_option Elab.async false

namespace Sys2Proof.Proofs

open Sys2Proof Sys2Proof.Machine Sys2Proof.Safety Sys2Proof.Says Sys2Proof.Laws

/-! ### Alu -/

theorem execLi_form {d imm s} (hs : MemoryForm s) : OutForm (execLi d imm s) := by
  unfold execLi
  grind [finish_form, putResult_form]

theorem execLih_form {d imm s} (hs : MemoryForm s) : OutForm (execLih d imm s) := by
  unfold execLih
  grind [finish_form, srcX_form, commit_form, putResult_form]

/-! ### LoadStore -/

theorem execSt_form {sz d b wa wd off s} (hs : MemoryForm s) : OutForm (execSt sz d b wa wd off s) := by
  unfold execSt
  grind [finish_form, srcX_form, commit_form, storeEffect_form]

theorem execLdAcq_form {sz d a sc wa s} (hs : MemoryForm s) : OutForm (execLdAcq sz d a sc wa s) := by
  unfold execLdAcq
  grind [finish_form, srcX_form, commit_form, dstX_form, scopeTest_form, loadEffect_form]

theorem execStRel_form {sz d a sc wa s} (hs : MemoryForm s) : OutForm (execStRel sz d a sc wa s) := by
  unfold execStRel
  grind [finish_form, srcX_form, commit_form, scopeTest_form, storeEffect_form]

theorem execLdQ_form {d a wa s} (hs : MemoryForm s) : OutForm (execLdQ d a wa s) := by
  unfold execLdQ
  grind [ResForm, finish_form, srcX_form, commit_form, dstX_form, chkBind_form, checkAddr_form, onCoreRead_form, writeX_form,
    startAcc_form, leaveFor_form, emptyX_form]

theorem execStQ_form {d a wa s} (hs : MemoryForm s) : OutForm (execStQ d a wa s) := by
  unfold execStQ
  grind [finish_form, srcX_form, commit_form, chkBind_form, checkAddr_form, storeTo_form]

theorem execTouch_form {a wa s} (hs : MemoryForm s) : OutForm (execTouch a wa s) := by
  unfold execTouch
  grind [ResForm, finish_form, srcX_form, commit_form, chkBind_form, checkAddr_form]

theorem execSbwait_form {a s} (hs : MemoryForm s) : OutForm (execSbwait a s) := by
  unfold execSbwait
  grind [ResForm, finish_form, srcX_form, commit_form]

theorem execMkempty_form {d s} (hs : MemoryForm s) : OutForm (execMkempty d s) := by
  unfold execMkempty
  grind [ResForm, finish_form, dstX_form, emptyX_form]

theorem execCasD_form {d a b o sc s} (hs : MemoryForm s) : OutForm (execCasD d a b o sc s) := by
  unfold execCasD
  grind [finish_form, srcX_form, commit_form, dstX_form, atomicEffect_form]

theorem execCasQ_form {d a b o sc s} (hs : MemoryForm s) : OutForm (execCasQ d a b o sc s) := by
  unfold execCasQ
  grind [finish_form, srcX_form, commit_form, dstX_form, atomicEffect_form]

/-! ### Matrix -/

theorem execMld_form {s32 d a b s} (hs : MemoryForm s) : OutForm (execMld s32 d a b s) := by
  unfold execMld
  repeat' split
  all_goals grind [ResForm, finish_form, srcX_form, commit_form, waitT_form, rowChecks_form, readRows_form, putT_form]

theorem execMst_form {d a b s} (hs : MemoryForm s) : OutForm (execMst d a b s) := by
  unfold execMst
  repeat' split
  all_goals grind [ResForm, finish_form, srcX_form, waitT_form, commit_form, rowChecks_form, onCoreT_form, storeRows_form]

theorem execWbld_form {len sp d a s} (hs : MemoryForm s) : OutForm (execWbld len sp d a s) := by
  unfold execWbld
  repeat' split
  all_goals grind [memoryForm_iff, ResForm, finish_form, srcX_form, commit_form, chkBind_form, checkAddr_form, tileSlotWrite_form,
    onCoreRead_form, startAcc_form]

theorem execWbinv_form {a b s} (hs : MemoryForm s) : OutForm (execWbinv a b s) := by
  refine finish_form hs (srcX_form hs fun lo k => srcX_form hs fun hi k => commit_form hs ?_)
  have ht : TileForm ((maskSlots lo hi).foldl (fun t i => t.slotWrite (s.g.belay != 0) i { clear := true }) s.t) :=
    foldl_tileForm hs.2.1 fun _ _ => tileSlotWrite_form
  exact ⟨hs.1, ht, hs.2.2⟩

theorem execMepi_form {d a b c s} (hs : MemoryForm s) : OutForm (execMepi d a b c s) := by
  unfold execMepi
  grind [finish_form, srcX_form, waitT_form, commit_form, mepiBody_form]

theorem execMz_form {s32 d s} (hs : MemoryForm s) : OutForm (execMz s32 d s) := by
  unfold execMz
  grind [ResForm, finish_form, waitT_form, putT_form]

theorem execMstat_form {d a s} (hs : MemoryForm s) : OutForm (execMstat d a s) := by
  unfold execMstat
  grind [finish_form, putResult_form]

theorem execMcpy_form {d a s} (hs : MemoryForm s) : OutForm (execMcpy d a s) := by
  unfold execMcpy
  grind [ResForm, finish_form, waitT_form, onCoreT_form, putT_form]

theorem execMadd_form {d a s} (hs : MemoryForm s) : OutForm (execMadd d a s) := by
  unfold execMadd
  grind [ResForm, finish_form, waitT_form, onCoreT_form, putT_form]

theorem execMscale_form {d a s} (hs : MemoryForm s) : OutForm (execMscale d a s) := by
  unfold execMscale
  grind [ResForm, finish_form, srcX_form, waitT_form, commit_form, onCoreT_form, putT_form]

theorem execMrow_form {d a b s} (hs : MemoryForm s) : OutForm (execMrow d a b s) := by
  unfold execMrow
  grind [finish_form, waitT_form, srcX_form, commit_form, onCoreT_form, putWhole_form]

theorem execMwait_form {d s} (hs : MemoryForm s) : OutForm (execMwait d s) := by
  unfold execMwait
  grind [ResForm, finish_form, waitT_form]

theorem execMovf_form {clr d a s} (hs : MemoryForm s) : OutForm (execMovf clr d a s) := by
  unfold execMovf
  repeat' split
  all_goals grind [ResForm, finish_form, waitT_form, dstX_form, writeX_form, markT_form]

theorem execArrayPass_form {vt s} (hs : MemoryForm s) : OutForm (execArrayPass vt s) := by
  unfold execArrayPass
  repeat' split
  all_goals grind [memoryForm_iff, tileForm_iff, outForm_next, off_form, stateFocus_form, raiseDeferred_form, repairPass_form, markT_form]

theorem execWbldLanded_form {vt slot s} (hs : MemoryForm s) : OutForm (execWbldLanded vt slot s) := by
  unfold execWbldLanded
  dsimp only
  repeat' split
  all_goals grind [memoryForm_iff, outForm_next, off_form, stateMapTile_form, tileApplySlot_form, stateFocus_form, perform_form,
    raiseDeferred_form, tileMapSlot_form]

/-! ### Engine -/

theorem execEngineCommandEnqueue_form {vt r q s} (hs : MemoryForm s) : OutForm (execEngineCommandEnqueue vt r q s) := by
  unfold execEngineCommandEnqueue
  repeat' split
  all_goals grind [tileForm_iff, outForm_next, off_form, stateMapTile_form, tileMapQueue_form]

theorem execEngineFaultDrop_form {vt r s} (hs : MemoryForm s) : OutForm (execEngineFaultDrop vt r s) := by
  unfold execEngineFaultDrop
  repeat' split
  all_goals grind [outForm_next, dropRecord_form, off_form]

theorem execJoinCmd_form {vt q s} (hs : MemoryForm s) : OutForm (execJoinCmd vt q s) := by
  unfold execJoinCmd
  refine withHead_form hs fun c => ?_
  grind [outForm_next, off_form, setHead_form]

theorem execCollectiveGeneration_form {lv id s} (hs : MemoryForm s) : OutForm (execCollectiveGeneration lv id s) := by
  unfold execCollectiveGeneration
  grind [memoryForm_iff, outForm_next, forGroup_form, off_form, collEnd_form]

theorem execCollectiveTimeout_form {lv id s} (hs : MemoryForm s) : OutForm (execCollectiveTimeout lv id s) := by
  unfold execCollectiveTimeout
  grind [outForm_next, collAbandonAll_form, off_form]

/-! ### Barrier -/

theorem execBarrierCompletion_form {lv id remote s} (hs : MemoryForm s) : OutForm (execBarrierCompletion lv id remote s) := by
  unfold execBarrierCompletion
  repeat' split
  all_goals grind [outForm_next, off_form, forInst_form, releaseAll_form, endIntervals_form, completeBar_form]

theorem execWireBarrierCompletion_form {lv id s} (hs : MemoryForm s) : OutForm (execWireBarrierCompletion lv id s) := by
  unfold execWireBarrierCompletion
  grind [outForm_next, openBar_form, passAll_form, off_form]

theorem execBarrierTimeout_form {lv id s} (hs : MemoryForm s) : OutForm (execBarrierTimeout lv id s) := by
  unfold execBarrierTimeout
  repeat' split
  all_goals grind [foldl_memoryForm, outForm_next, off_form, abandonBar_form]

/-! ### Port -/

theorem execQget_form {q a s} (hs : MemoryForm s) : OutForm (execQget q a s) := by
  unfold execQget
  repeat' split
  all_goals grind [ResForm, finish_form, portIndex_form, dstX_form, takeStream_form, writeX_form, dropStream_form]

theorem execVqget_form {q a s} (hs : MemoryForm s) : OutForm (execVqget q a s) := by
  unfold execVqget
  grind [ResForm, finish_form, portIndex_form, dstV_form, takeStream_form, writeV_form, dropStream_form]

theorem execQput_form {q a wa s} (hs : MemoryForm s) : OutForm (execQput q a wa s) := by
  unfold execQput
  grind [finish_form, portIndex_form, srcX_form, commit_form, pushOut_form]

theorem execVqput_form {q a s} (hs : MemoryForm s) : OutForm (execVqput q a s) := by
  unfold execVqput
  grind [finish_form, portIndex_form, srcV_form, accept_form, pushOut_form]

theorem execEcmd_form {q a b wa wb s} (hs : MemoryForm s) : OutForm (execEcmd q a b wa wb s) := by
  unfold execEcmd
  grind [ResForm, finish_form, portIndex_form, srcX_form, followOn_form, commit_form, pushCmd_form]

theorem execEbusy_form {q a s} (hs : MemoryForm s) : OutForm (execEbusy q a s) := by
  unfold execEbusy
  grind [finish_form, portIndex_form, putResult_form]

theorem execEfence_form {lo hi s} (hs : MemoryForm s) : OutForm (execEfence lo hi s) := by
  unfold execEfence
  grind [ResForm, finish_form]

theorem execQlen_form {q a s} (hs : MemoryForm s) : OutForm (execQlen q a s) := by
  unfold execQlen
  grind [finish_form, portIndex_form, putResult_form]

/-! ### Mesh -/

theorem execPortEntryArrival_form {k s} (hs : MemoryForm s) : OutForm (execPortEntryArrival k s) := by
  refine event_form fun y h => ?_
  repeat' split at h
  all_goals grind [portArrive_form]

theorem execWindowStoreArrival_form {k s} (hs : MemoryForm s) : OutForm (execWindowStoreArrival k s) := by
  refine event_form fun y h => ?_
  repeat' split at h
  all_goals grind [storeArrive_form]

theorem execStreamWindowWrite_form {k s} (hs : MemoryForm s) : OutForm (execStreamWindowWrite k s) :=
  event_form (streamArrive_form hs)

theorem execWindowLoadArrival_form {vt c k s} (hs : MemoryForm s) : OutForm (execWindowLoadArrival vt c k s) :=
  event_form (windowArrive_form hs)

theorem execParkedMessage_form {k s} (hs : MemoryForm s) : OutForm (execParkedMessage k s) := by
  have h₁ (ms : List Msg) : MemoryForm { s with g := { s.g with mesh := ms } } := hs
  refine event_form fun y h => ?_
  split at h
  · split at h
    · cases h
    dsimp only at h
    split at h
    · obtain ⟨z, hz, rfl⟩ := Option.map_eq_some_iff.1 h
      exact parkMsg_form (released_form (h₁ _) _ hz)
    · cases h
      exact parkMsg_form (h₁ _)
  · dsimp only at h
    split at h
    · cases h
    split at h
    · cases h
    split at h
    · cases h
    obtain ⟨z, hz, rfl⟩ := Option.map_eq_some_iff.1 h
    exact parkMsg_form (dropNi_form (released_form hs _ hz))

/-! ### Message -/

theorem execWput_form {d b wb s} (hs : MemoryForm s) : OutForm (execWput d b wb s) := by
  unfold execWput
  grind [ResForm, finish_form, srcX_form, examPayload_form, commit_form, routeChecks_form, niRoom_form, niTake_form]

theorem execLdk_form {sz d a b wa wb s} (hs : MemoryForm s) : OutForm (execLdk sz d a b wa wb s) := by
  unfold execLdk
  grind [ResForm, finish_form, srcX_form, examPayload_form, commit_form, routeChecks_form, chkBind_form, checkAddr_form, niRoom_form,
    startAcc_form, niReserve_form]

theorem execWwait_form {s} (hs : MemoryForm s) : OutForm (execWwait s) := by
  unfold execWwait
  repeat' split
  all_goals grind [ResForm, finish_form, dstAll_form, awaitRecord_form, soundRecord_form, takeRecord_form]

theorem execWdisp_form {s} (hs : MemoryForm s) : OutForm (execWdisp s) := by
  unfold execWdisp
  repeat' split
  all_goals grind [ResForm, finish_form, dstAll_form, awaitRecord_form, soundRecord_form, writeX_form, takeRecord_form]

theorem execWdone_form {s} (hs : MemoryForm s) : OutForm (execWdone s) := by
  unfold execWdone
  repeat' split
  all_goals grind [memoryForm_iff, tileForm_iff, ResForm, finish_form]

theorem execSpliceInsert_form {vt k s} (hs : MemoryForm s) : OutForm (execSpliceInsert vt k s) := by
  unfold execSpliceInsert
  repeat' split
  all_goals grind [event_form, offer_form, insertParked_form]

theorem execRecordRetry_form {vt k s} (hs : MemoryForm s) : OutForm (execRecordRetry vt k s) :=
  event_form (offer_form hs)

theorem execSpliceRefill_form {vt s} (hs : MemoryForm s) : OutForm (execSpliceRefill vt s) := by
  unfold execSpliceRefill
  repeat' split
  all_goals grind [event_form, refill_form]

theorem execSpliceDispatch_form {vt s} (hs : MemoryForm s) : OutForm (execSpliceDispatch vt s) := by
  unfold execSpliceDispatch
  repeat' split
  all_goals grind [event_form, dispatch_form]

/-! ### Sync -/

theorem execSync_form {lv s} (hs : MemoryForm s) : OutForm (execSync lv s) := by
  unfold execSync
  grind [ResForm, finish_form, resumeBar_form, arriveWord_form]

theorem execFence_form {sc pr pw sr sw s} (hs : MemoryForm s) : OutForm (execFence sc pr pw sr sw s) := by
  unfold execFence
  repeat' split
  all_goals grind [ResForm, finish_form, scopeTest_form, allPerformed_form, passFence_form]

theorem execHwbarArrive_form {lv s} (hs : MemoryForm s) : OutForm (execHwbarArrive lv s) := by
  unfold execHwbarArrive
  grind [ResForm, finish_form, barTimeout_form, barChecks_form, recordArrival_form]

theorem execHwbarWait_form {lv s} (hs : MemoryForm s) : OutForm (execHwbarWait lv s) := by
  unfold execHwbarWait
  grind [memoryForm_iff, ResForm, finish_form, barTimeout_form]

theorem execWatch_form {a wa s} (hs : MemoryForm s) : OutForm (execWatch a wa s) := by
  unfold execWatch
  grind [memoryForm_iff, ResForm, finish_form, srcX_form, commit_form]

theorem execWfe_form {s} (hs : MemoryForm s) : OutForm (execWfe s) := by
  unfold execWfe
  repeat' split
  all_goals grind [memoryForm_iff, ResForm, finish_form]

theorem execSev_form {s} (hs : MemoryForm s) : OutForm (execSev s) := by
  unfold execSev
  grind [ResForm, finish_form, setEvents_form]

/-! ### Csr -/

theorem execCsrr_form {d n s} (hs : MemoryForm s) : OutForm (execCsrr d n s) := by
  unfold execCsrr
  grind [finish_form, csrAccess_form, resOnDone_form, pairRead_form, putResult_form]

theorem execRuncapWrite_form {vt c v s} (hs : MemoryForm s) : OutForm (execRuncapWrite vt c v s) := by
  unfold execRuncapWrite
  repeat' split
  all_goals grind [outForm_next, stateMapCtx_form, off_form]

theorem execMembWrite_form {vt c v s} (hs : MemoryForm s) : OutForm (execMembWrite vt c v s) := by
  unfold execMembWrite
  repeat' split
  all_goals grind [outForm_next, stateFocus_form, writeMemb_form, off_form]

theorem execTableLoadT8_form {vt toff s} (hs : MemoryForm s) : OutForm (execTableLoadT8 vt toff s) := by
  unfold execTableLoadT8
  grind [tableEvent_form, tileLoad8_form]

theorem execTableLoadT4_form {vt toff s} (hs : MemoryForm s) : OutForm (execTableLoadT4 vt toff s) := by
  unfold execTableLoadT4
  grind [tableEvent_form, tileLoad4_form]

theorem execLashcfgWrite_form {vt s} (hs : MemoryForm s) : OutForm (execLashcfgWrite vt s) := by
  unfold execLashcfgWrite
  repeat' split
  all_goals grind [tileForm_iff, outForm_next, stateMapTile_form, off_form]

theorem execBelaycfgWrite_form {vt s} (hs : MemoryForm s) : OutForm (execBelaycfgWrite vt s) := by
  unfold execBelaycfgWrite
  repeat' split
  all_goals grind [tileForm_iff, outForm_next, stateMapTile_form, off_form]

/-! ### Gang -/

theorem execQuantumExpiry_form {gr gc s} (hs : MemoryForm s) : OutForm (execQuantumExpiry gr gc s) := by
  refine event_form fun y h => ?_
  repeat' split at h
  all_goals grind [requestYield_form]

theorem execGraceExpiry_form {gr gc s} (hs : MemoryForm s) : OutForm (execGraceExpiry gr gc s) := by
  refine event_form fun y h => ?_
  repeat' split at h
  all_goals grind [squallHalt_form]

theorem execHaltComplete_form {gr gc s} (hs : MemoryForm s) : OutForm (execHaltComplete gr gc s) := by
  refine event_form fun y h => ?_
  repeat' split at h
  all_goals grind [memoryForm_iff, foldl_memoryForm, settleTile_form, collWithdraw_form, stateMapAllCtxs_form, gridMapGang_form]

theorem execSwapOut_form {gr gc s} (hs : MemoryForm s) : OutForm (execSwapOut gr gc s) := by
  refine event_form fun y h => ?_
  repeat' split at h
  all_goals grind [swapOut_form]

theorem execSwapIn_form {gr gc s} (hs : MemoryForm s) : OutForm (execSwapIn gr gc s) := by
  refine event_form fun y h => ?_
  repeat' split at h
  all_goals grind [grantSwap_form, swapIn_form, Option.map_eq_some_iff]

/-! ### Helper -/

theorem execRv64imInstruction_form {w s} (hs : MemoryForm s) : OutForm (execRv64imInstruction w s) :=
  hFinish_form (rvExec_form hs)

theorem execEcall_form {s} (hs : MemoryForm s) : OutForm (execEcall s) := by
  unfold execEcall
  grind [HResForm, hFinish_form, stopHelper_form, hRetire_form]

theorem execEbreak_form {s} (hs : MemoryForm s) : OutForm (execEbreak s) := by
  unfold execEbreak
  repeat' split
  all_goals grind [HResForm, hFinish_form, hFreeze_form]

theorem execDkEcmd_form {q r1 r2 s} (hs : MemoryForm s) : OutForm (execDkEcmd q r1 r2 s) := by
  unfold execDkEcmd
  grind [HResForm, hFinish_form, hNext_form, pushBeat_form, hRelease_form]

theorem execDkQput_form {c p r1 s} (hs : MemoryForm s) : OutForm (execDkQput c p r1 s) := by
  unfold execDkQput
  repeat' split
  all_goals grind [HResForm, hFinish_form, hRelease_form, hNext_form, stateMapCtx_form]

theorem execDkQget_form {c rd s} (hs : MemoryForm s) : OutForm (execDkQget c rd s) := by
  unfold execDkQget
  repeat' split
  all_goals grind [HResForm, hFinish_form, hPut_form, stateMapCtx_form]

theorem execDkWcnt_form {n r1 rd s} (hs : MemoryForm s) : OutForm (execDkWcnt n r1 rd s) := by
  unfold execDkWcnt
  grind [HResForm, hFinish_form, hPut_form]

theorem execDkSev_form {s} (hs : MemoryForm s) : OutForm (execDkSev s) := by
  unfold execDkSev
  grind [hFinish_form, hNext_form, setEvents_form]

theorem execDkWfe_form {s} (hs : MemoryForm s) : OutForm (execDkWfe s) := by
  unfold execDkWfe
  repeat' split
  all_goals grind [HResForm, HelperForm, hFinish_form, hNext_form, stateSetHelper_form, stateHelper_form]

theorem execDkWfeWatch_form {r1 s} (hs : MemoryForm s) : OutForm (execDkWfeWatch r1 s) := by
  unfold execDkWfeWatch
  grind [HResForm, HelperForm, hFinish_form, hNext_form, stateSetHelper_form, stateHelper_form]

theorem execDkRdst_form {n rd s} (hs : MemoryForm s) : OutForm (execDkRdst n rd s) :=
  hFinish_form (hPut_form hs)

theorem execDkWput_form {r1 r2 s} (hs : MemoryForm s) : OutForm (execDkWput r1 r2 s) := by
  unfold execDkWput
  grind [HResForm, hFinish_form, hImage_form, hNext_form, asBefore_form, niTake_form, asSender_form]

theorem execHelperEngineInterrupt_form {vt r s} (hs : MemoryForm s) : OutForm (execHelperEngineInterrupt vt r s) := by
  refine event_form fun y h => ?_
  repeat' split at h
  all_goals grind [hInterrupt_form, focusHelper_form]

/-! ### Debug -/

theorem execDebugHalt_form {vt r s} (hs : MemoryForm s) : OutForm (execDebugHalt vt r s) :=
  event_form (haltRole_form hs)

theorem execDebugResume_form {vt r s} (hs : MemoryForm s) : OutForm (execDebugResume vt r s) :=
  event_form (resumeRole_form hs)

theorem execDebugStep_form {vt r s} (hs : MemoryForm s) : OutForm (execDebugStep vt r s) :=
  event_form (resumeRole_form hs)

theorem execDebugRoleWrite_form {vt r w s} (hs : MemoryForm s) : OutForm (execDebugRoleWrite vt r w s) :=
  event_form (writeRole_form hs)

/-! ### Attach -/

theorem execSlotMapping_form {k s} (hs : MemoryForm s) : OutForm (execSlotMapping k s) := by
  refine event_form fun y h => ?_
  repeat' split at h
  all_goals grind [memoryForm_iff, stateMapVf_form, stateMapQueue_form, settleSlots_form]

theorem execPinExpiry_form {k s} (hs : MemoryForm s) : OutForm (execPinExpiry k s) := by
  refine event_form fun y h => ?_
  repeat' split at h
  all_goals grind [freeSlot_form]

theorem execSlotRotation_form {k s} (hs : MemoryForm s) : OutForm (execSlotRotation k s) := by
  refine event_form fun y h => ?_
  repeat' split at h
  all_goals grind [stateMapQueue_form, freeSlot_form]

/-! ### Branch -/

theorem execBr_form {off s} (hs : MemoryForm s) : OutForm (execBr off s) := by
  unfold execBr
  grind [ResForm, finish_form]

theorem execCall_form {a off s} (hs : MemoryForm s) : OutForm (execCall a off s) := by
  unfold execCall
  grind [ResForm, finish_form, dstX_form, writeX_form]

theorem execBv_form {a off s} (hs : MemoryForm s) : OutForm (execBv a off s) := by
  unfold execBv
  grind [finish_form, examX_form, accept_form, branchIf_form]

theorem execBnv_form {a off s} (hs : MemoryForm s) : OutForm (execBnv a off s) := by
  unfold execBnv
  grind [finish_form, examX_form, accept_form, branchIf_form]

theorem execBnz_form {a off s} (hs : MemoryForm s) : OutForm (execBnz a off s) := by
  unfold execBnz
  grind [finish_form, srcX_form, commit_form, branchIf_form]

theorem execBz_form {a off s} (hs : MemoryForm s) : OutForm (execBz a off s) := by
  unfold execBz
  grind [finish_form, srcX_form, commit_form, branchIf_form]

theorem execJr_form {d a wa imm s} (hs : MemoryForm s) : OutForm (execJr d a wa imm s) := by
  unfold execJr
  grind [ResForm, finish_form, srcX_form, commit_form, dstX_form, writeX_form]

/-! ### Launch -/

theorem execCompletionRecordRelease_form {v s} (hs : MemoryForm s) : OutForm (execCompletionRecordRelease v s) := by
  refine event_form fun y h => ?_
  dsimp only at h
  repeat' split at h
  · exact ifPulled_form (memoryForm_setModule hs (writeCompl_form (moduleMapVf_form hs.1))) _ h
  · cases h
  · cases h

theorem execLaunchDispatch_form {k s} (hs : MemoryForm s) : OutForm (execLaunchDispatch k s) := by
  refine event_form fun y h => ?_
  split at h
  · cases h
  dsimp only at h
  split at h
  · cases h
  split at h
  · cases h
    exact endLaunch_form hs
  next m r hr =>
  have hm : ModuleForm m := readRecord_form hs _ _ hr
  split at h
  · cases h
  split at h
  · cases h
  split at h
  · cases h
    exact endLaunch_form ⟨hm, hs.2⟩
  next m' w h' hl =>
  exact ifPulled_form (dispatchSized_form (memoryForm_setModule hs (launchSize_form hm _ _ hl))) _ h

theorem execLaunchGroupCommit_form {gid remote s} (hs : MemoryForm s) : OutForm (execLaunchGroupCommit gid remote s) := by
  refine event_form fun y h => ?_
  split at h
  · cases h
  next a r _ =>
  split at h
  · cases h
  extract_lets m₁ s₁ s₂ here s₃ at h
  have h₁ : MemoryForm s₁ := hs
  have h₂ : MemoryForm s₂ := by
    refine foldl_memoryForm h₁ fun s x hs => ?_
    have := readImages_form (l := ⟨x.v, x.q, x.dw, x.w, x.h⟩) hs.1
    grind [waiting_form, endLaunch_form, commitLaunch_form]
  have h₃ : MemoryForm s₃ := by
    unfold s₃
    split
    · exact forGroup_form (fun _ h => h) h₂
    · exact h₂
  refine ifPulled_form ?_ _ h
  split
  · exact openBar_form h₃
  · exact h₃

theorem execLaunchGroupTimeout_form {gid s} (hs : MemoryForm s) : OutForm (execLaunchGroupTimeout gid s) := by
  refine event_form fun y h => ?_
  repeat' split at h
  all_goals grind [failGroup_form]

theorem execGridCompletion_form {s} (hs : MemoryForm s) : OutForm (execGridCompletion s) := by
  refine event_form fun y h => ?_
  repeat' split at h
  all_goals grind [dropDead_form, endGrid_form, flushLogs_form, performAllHeld_form]

/-! ### Meter -/

theorem execEnergyWindow_form {v p s} (hs : MemoryForm s) : OutForm (execEnergyWindow v p s) := by
  refine event_form fun y h => ?_
  grind [stateMapVf_form]

theorem execMeterPeriod_form {s} (hs : MemoryForm s) : OutForm (execMeterPeriod s) := by
  refine event_form fun y h => ?_
  repeat' split at h
  all_goals grind [memoryForm_iff, foldl_memoryForm, meterOne_form]

theorem execUsageRecordRelease_form {s} (hs : MemoryForm s) : OutForm (execUsageRecordRelease s) := by
  refine event_form fun y h => ?_
  repeat' split at h
  all_goals grind [memoryForm_iff, writeUsage_form]

theorem execAttestationReport_form {v s} (hs : MemoryForm s) : OutForm (execAttestationReport v s) := by
  refine event_form fun y h => ?_
  grind [memoryForm_iff, gpaWrite_form, ifPulled_form, stateMapVf_form]

/-! ### Partition -/

theorem execInval2Complete_form {v s} (hs : MemoryForm s) : OutForm (execInval2Complete v s) := by
  refine event_form fun y h => ?_
  repeat' split at h
  all_goals grind [memoryForm_iff, forVf_form, flushTlbs_form, stateMapVf_form, moduleSettleMig_form]

theorem execPartitionReady_form {v s} (hs : MemoryForm s) : OutForm (execPartitionReady v s) := by
  refine event_form fun y h => ?_
  repeat' split at h
  all_goals grind [memoryForm_iff, foldl_moduleForm, assignClusters_form, stateMapVf_form, programKey_form]

theorem execPartitionScrubDone_form {v s} (hs : MemoryForm s) : OutForm (execPartitionScrubDone v s) := by
  refine event_form fun y h => ?_
  repeat' split at h
  all_goals grind [scrubStep_form, stateMapVf_form]

/-! ### Bringup -/

theorem execBringup_form {b s} (hs : MemoryForm s) : OutForm (execBringup b s) := by
  unfold execBringup
  repeat' split
  all_goals grind [memoryForm_iff, outForm_next, off_form]

theorem execDirtyClusterScrub_form {k s} (hs : MemoryForm s) : OutForm (execDirtyClusterScrub k s) := by
  refine event_form fun y h => ?_
  repeat' split at h
  all_goals grind [memoryForm_iff, moduleMapCluster_form]

theorem execThermalWarning_form {s} (hs : MemoryForm s) : OutForm (execThermalWarning s) := by
  unfold execThermalWarning
  repeat' split
  all_goals grind [memoryForm_iff, outForm_next, off_form]

theorem execThermalWarningCleared_form {s} (hs : MemoryForm s) : OutForm (execThermalWarningCleared s) := by
  unfold execThermalWarningCleared
  repeat' split
  all_goals grind [memoryForm_iff, outForm_next, off_form]

theorem execThermalCritical_form {s} (hs : MemoryForm s) : OutForm (execThermalCritical s) := by
  unfold execThermalCritical
  repeat' split
  all_goals grind [outForm_next, powerDown_form, off_form]

theorem execPowerLoss_form {s} (hs : MemoryForm s) : OutForm (execPowerLoss s) := by
  unfold execPowerLoss
  grind [outForm_next, powerDown_form]

/-! ### Compare -/

theorem execBfx_form {sz d a b wa wb s} (hs : MemoryForm s) : OutForm (execBfx sz d a b wa wb s) :=
  binary_form hs

theorem execBfi_form {sz d a b wa wb s} (hs : MemoryForm s) : OutForm (execBfi sz d a b wa wb s) := by
  unfold execBfi
  grind [finish_form, srcX_form, commit_form, putResult_form]

theorem execPack_form {sz d a b wa wb s} (hs : MemoryForm s) : OutForm (execPack sz d a b wa wb s) :=
  binary_form hs

/-! ### Paging -/

theorem execCxlMemAccess_form {v gpa n data s} (hs : MemoryForm s) : OutForm (execCxlMemAccess v gpa n data s) := by
  refine event_form fun y h => ?_
  split at h
  · cases h
  split at h
  · cases h
    split
    · exact hs
    · exact hs
  split at h
  · exact ifPulled_form (memoryForm_setModule hs (cxlWrite_form hs.1)) _ h
  · exact ifPulled_form (memoryForm_setModule hs (cxlRead_form hs.1)) _ h

/-! ### Domain -/

theorem execLinkBeat_form {l ok s} (hs : MemoryForm s) : OutForm (execLinkBeat l ok s) := by
  unfold execLinkBeat
  repeat' split
  all_goals grind [memoryForm_iff, outForm_next, off_form]

theorem execLinkDown_form {l s} (hs : MemoryForm s) : OutForm (execLinkDown l s) := by
  unfold execLinkDown
  repeat' split
  all_goals grind [memoryForm_iff, outForm_next, off_form, moduleMarkDown_form, checkMigs_form, abortLost_form]

theorem execPagePull_form {v s} (hs : MemoryForm s) : OutForm (execPagePull v s) := by
  unfold execPagePull
  dsimp only
  repeat' split
  all_goals grind [memoryForm_iff, event_form, retryPulls_form, settleMig_form, stateMapVf_form, pullPage_form]

theorem execBackgroundPull_form {v s} (hs : MemoryForm s) : OutForm (execBackgroundPull v s) := by
  refine event_form fun y h => ?_
  grind [memoryForm_iff, startPull_form, Option.map_eq_some_iff]

/-! ### Events -/

theorem execFillLand_form {vt c k s} (hs : MemoryForm s) : OutForm (execFillLand vt c k s) := by
  refine event_form fun y h => ?_
  repeat' split at h
  all_goals grind [stateFocus_form, landHere_form, Option.map_eq_some_iff]

theorem execInterruptEntry_form {vt c s} (hs : MemoryForm s) : OutForm (execInterruptEntry vt c s) := by
  refine onTurn_form hs fun u hu y h => ?_
  grind [enterIrq_form, Option.map_eq_some_iff]

theorem execDeferredFault_form {vt c s} (hs : MemoryForm s) : OutForm (execDeferredFault vt c s) := by
  refine onTurn_form hs fun u hu y h => ?_
  grind [enterFault_form, Option.map_eq_some_iff]

theorem execRuncapExpiry_form {vt s} (hs : MemoryForm s) : OutForm (execRuncapExpiry vt s) := by
  refine event_form fun y h => ?_
  repeat' split at h
  all_goals grind [tileForm_iff, stateMapTile_form]

theorem execTimerMatch_form {vt c s} (hs : MemoryForm s) : OutForm (execTimerMatch vt c s) := by
  unfold execTimerMatch
  repeat' split
  all_goals grind [outForm_next, off_form]

/-! ### Hyper -/

theorem execHld_form {d b wa nw off s} (hs : MemoryForm s) : OutForm (execHld d b wa nw off s) := by
  unfold execHld
  grind [finish_form, srcX_form, commit_form, dstH_form, chkBind_form, checkAddr_form, startAcc_form, leaveFor_form, emptyH_form]

theorem execHst_form {d b wa wd off s} (hs : MemoryForm s) : OutForm (execHst d b wa wd off s) := by
  unfold execHst
  grind [finish_form, srcX_form, srcH_form, commit_form, chkBind_form, checkAddr_form, storeTo_form]

theorem execHnot_form {d a s} (hs : MemoryForm s) : OutForm (execHnot d a s) := by
  unfold execHnot
  grind [ResForm, finish_form, srcH_form, commit_form, dstH_form, writeH_form]

theorem execHmov_form {d a s} (hs : MemoryForm s) : OutForm (execHmov d a s) := by
  unfold execHmov
  grind [ResForm, finish_form, srcH_form, commit_form, dstH_form, writeH_form]

theorem execHrot_form {d a b s} (hs : MemoryForm s) : OutForm (execHrot d a b s) := by
  unfold execHrot
  grind [ResForm, finish_form, srcH_form, srcX_form, commit_form, dstH_form, writeH_form]

theorem execHbund_form {d a s} (hs : MemoryForm s) : OutForm (execHbund d a s) := by
  unfold execHbund
  grind [ResForm, finish_form, srcH_form, commit_form, onCoreB_form, bundleInto_form]

theorem execHbunw_form {d a b s} (hs : MemoryForm s) : OutForm (execHbunw d a b s) := by
  unfold execHbunw
  grind [ResForm, finish_form, srcH_form, srcX_form, commit_form, onCoreB_form, bundleInto_form]

theorem execHbclr_form {d s} (hs : MemoryForm s) : OutForm (execHbclr d s) := by
  unfold execHbclr
  grind [ResForm, finish_form, putB_form]

theorem execHthr_form {d a b s} (hs : MemoryForm s) : OutForm (execHthr d a b s) := by
  unfold execHthr
  grind [ResForm, finish_form, srcH_form, commit_form, dstH_form, onCoreB_form, writeH_form]

theorem execHpopc_form {d a s} (hs : MemoryForm s) : OutForm (execHpopc d a s) := by
  unfold execHpopc
  grind [finish_form, srcH_form, commit_form, putResult_form]

theorem execHdist_form {d a b s} (hs : MemoryForm s) : OutForm (execHdist d a b s) := by
  unfold execHdist
  grind [finish_form, srcH_form, commit_form, putResult_form]

theorem execHbcast_form {d a s} (hs : MemoryForm s) : OutForm (execHbcast d a s) := by
  unfold execHbcast
  grind [ResForm, finish_form, srcX_form, commit_form, dstH_form, writeH_form]

theorem execHins_form {d a b s} (hs : MemoryForm s) : OutForm (execHins d a b s) := by
  unfold execHins
  grind [ResForm, finish_form, srcX_form, srcH_form, commit_form, dstH_form, writeH_form]

theorem execHext_form {d a b s} (hs : MemoryForm s) : OutForm (execHext d a b s) := by
  unfold execHext
  grind [finish_form, srcH_form, srcX_form, commit_form, putResult_form]

theorem execHmst_form {a b s} (hs : MemoryForm s) : OutForm (execHmst a b s) := by
  unfold execHmst
  grind [ResForm, finish_form, srcH_form, srcX_form, commit_form, putRecall_form]

theorem execHmld_form {d b s} (hs : MemoryForm s) : OutForm (execHmld d b s) := by
  unfold execHmld
  grind [ResForm, finish_form, srcX_form, commit_form, dstH_form, recallErr_form, writeH_form]

theorem execHmclr_form {b s} (hs : MemoryForm s) : OutForm (execHmclr b s) := by
  unfold execHmclr
  grind [ResForm, finish_form, srcX_form, commit_form, putRecall_form]

theorem execHmclrAll_form {s} (hs : MemoryForm s) : OutForm (execHmclrAll s) := by
  unfold execHmclrAll
  grind [foldl_memoryForm, ResForm, finish_form, putRecall_form]

/-! ### Registers -/

theorem execRegisterWrite_form {p off x s} (hs : MemoryForm s) : OutForm (execRegisterWrite p off x s) := by
  unfold execRegisterWrite
  repeat' split
  all_goals grind [outForm_next, off_form, writePfReg_form, writeVfReg_form]

/-! ### Reliability -/

theorem execScrubPass_form {g _raced s} (hs : MemoryForm s) : OutForm (execScrubPass g _raced s) := by
  unfold execScrubPass
  repeat' split
  all_goals grind [memoryForm_iff, tileForm_iff, outForm_next, moduleLogErr_form, off_form, stateMapTile_form]

theorem execLashIntervalEnd_form {vt s} (hs : MemoryForm s) : OutForm (execLashIntervalEnd vt s) := by
  refine event_form fun y h => ?_
  repeat' split at h
  all_goals grind [tileForm_iff, stateMapTile_form]

theorem execLashExchange_form {vt agree s} (hs : MemoryForm s) : OutForm (execLashExchange vt agree s) := by
  refine event_form fun y h => ?_
  repeat' split at h
  all_goals grind [tileForm_iff, foldl_memoryForm, stateWhole_form, lashAgree_form, lashRestore_form, lashCheckpoint_form, lashTrap_form,
    stateMapTile_form]

theorem execBelayRollback_form {s} (hs : MemoryForm s) : OutForm (execBelayRollback s) := by
  refine event_form fun y h => ?_
  repeat' split at h
  all_goals grind [forGroup_form, rollBack_form]

theorem execCpLockstepMismatch_form {s} (hs : MemoryForm s) : OutForm (execCpLockstepMismatch s) := by
  unfold execCpLockstepMismatch
  repeat' split
  all_goals grind [memoryForm_iff, outForm_next, off_form, moduleLogErr_form]

theorem execFirmwareRestartComplete_form {s} (hs : MemoryForm s) : OutForm (execFirmwareRestartComplete s) := by
  unfold execFirmwareRestartComplete
  repeat' split
  all_goals grind [memoryForm_iff, outForm_next, off_form]

theorem execReplayRelease_form {vt s} (hs : MemoryForm s) : OutForm (execReplayRelease vt s) := by
  refine event_form fun y h => ?_
  split at h
  · cases h
  next t ht =>
  have ht := stateTile_form hs _ ht
  split at h
  · cases h
  split at h
  · cases h
  have h₁ : MemoryForm (s.mapTile vt fun t => { t with log := [] }) := stateMapTile_form hs fun _ h => h
  obtain ⟨z, hz, rfl⟩ := Option.map_eq_some_iff.1 h
  exact stateMapTile_form (releaseKind_form h₁ _ hz) fun _ h => h

/-! ### System -/

theorem execSyscall_form {a wa s} (hs : MemoryForm s) : OutForm (execSyscall a wa s) := by
  unfold execSyscall
  grind [ResForm, finish_form, srcX_form, commit_form]

theorem execSret_form {s} (hs : MemoryForm s) : OutForm (execSret s) := by
  unfold execSret
  grind [ResForm, finish_form, privileged_form, trapReturn_form, countRetired_form]

theorem execEndCtx_form {s} (hs : MemoryForm s) : OutForm (execEndCtx s) := by
  unfold execEndCtx
  grind [ResForm, finish_form, endContext_form, lashEarly_form, countRetired_form]

theorem execBrk_form {code s} (hs : MemoryForm s) : OutForm (execBrk code s) := by
  unfold execBrk
  repeat' split
  all_goals grind [ResForm, finish_form, breakFreeze_form]

theorem execIfence_form {s} (hs : MemoryForm s) : OutForm (execIfence s) := by
  unfold execIfence
  grind [memoryForm_iff, tileForm_iff, ResForm, finish_form, atHome_form]

theorem execTlbinvAll_form {s} (hs : MemoryForm s) : OutForm (execTlbinvAll s) := by
  unfold execTlbinvAll
  grind [finish_form, privileged_form, tlbinv_form]

theorem execTlbinvAsid_form {b wb s} (hs : MemoryForm s) : OutForm (execTlbinvAsid b wb s) := by
  unfold execTlbinvAsid
  grind [finish_form, privileged_form, srcX_form, commit_form, tlbinv_form]

theorem execTlbinvVa_form {a b wa wb s} (hs : MemoryForm s) : OutForm (execTlbinvVa a b wa wb s) := by
  unfold execTlbinvVa
  grind [finish_form, privileged_form, srcX_form, commit_form, tlbinv_form]

theorem execTlbinvVaall_form {a wa s} (hs : MemoryForm s) : OutForm (execTlbinvVaall a wa s) := by
  unfold execTlbinvVaall
  grind [finish_form, privileged_form, srcX_form, commit_form, tlbinv_form]

theorem execWfi_form {s} (hs : MemoryForm s) : OutForm (execWfi s) := by
  unfold execWfi
  repeat' split
  all_goals grind [ResForm, finish_form, privileged_form]

theorem execRdfe_form {d s} (hs : MemoryForm s) : OutForm (execRdfe d s) := by
  unfold execRdfe
  grind [finish_form, putResult_form]

theorem execRdvb_form {d s} (hs : MemoryForm s) : OutForm (execRdvb d s) := by
  unfold execRdvb
  grind [finish_form, putResult_form]

theorem execWrfe_form {a wa s} (hs : MemoryForm s) : OutForm (execWrfe a wa s) := by
  unfold execWrfe
  grind [foldl_memoryForm, ResForm, finish_form, srcX_form, commit_form, emptyX_form]

theorem execWrvb_form {a wa s} (hs : MemoryForm s) : OutForm (execWrvb a wa s) := by
  unfold execWrvb
  grind [foldl_memoryForm, ResForm, finish_form, examX_form, accept_form, markX_form]

theorem execYield_form {s} (hs : MemoryForm s) : OutForm (execYield s) := by
  unfold execYield
  grind [ResForm, finish_form]

/-! ### VectorMemory -/

theorem execVst_form {d b wa off s} (hs : MemoryForm s) : OutForm (execVst d b wa off s) := by
  unfold execVst
  grind [ResForm, finish_form, srcX_form, srcV_form, commit_form, chkBind_form, checkAddr_form, storeTo_form]

theorem execVgat_form {sz d a b wa s} (hs : MemoryForm s) : OutForm (execVgat sz d a b wa s) := by
  unfold execVgat
  grind [foldl_memoryForm, ResForm, finish_form, srcX_form, srcV_form, commit_form, dstV_form, lanesChecked_form, correctPiece_form,
    writeWords_form]

theorem execVsca_form {sz d a b wa s} (hs : MemoryForm s) : OutForm (execVsca sz d a b wa s) := by
  unfold execVsca
  grind [foldl_memoryForm, ResForm, finish_form, srcX_form, srcV_form, commit_form, lanesChecked_form, spWrite_form, absorbOut_form]

theorem execVldb_form {sz d a wa s} (hs : MemoryForm s) : OutForm (execVldb sz d a wa s) := by
  unfold execVldb
  grind [ResForm, finish_form, srcX_form, commit_form, dstV_form, chkBind_form, checkAddr_form, onCoreRead_form, writeV_form,
    startAcc_form, leaveFor_form, emptyV_form]

/-! ### Vector -/

theorem execVfdot_form {e d a b s} (hs : MemoryForm s) : OutForm (execVfdot e d a b s) :=
  vec3_form hs

theorem execVenc_form {t4 d a s} (hs : MemoryForm s) : OutForm (execVenc t4 d a s) := by
  unfold execVenc
  repeat' split
  all_goals grind [ResForm, finish_form, srcV_form, wholeCommit_form, dstV_form, writeV_form, accrue_form]

theorem execVdec_form {t4 d a s} (hs : MemoryForm s) : OutForm (execVdec t4 d a s) := by
  unfold execVdec
  repeat' split
  all_goals grind [finish_form, srcV_form, wholeCommit_form, putWhole_form]

theorem execVbcast_form {e d a s} (hs : MemoryForm s) : OutForm (execVbcast e d a s) := by
  unfold execVbcast
  grind [ResForm, finish_form, srcX_form, commit_form, dstV_form, writeV_form]

theorem execVext_form {e d a b s} (hs : MemoryForm s) : OutForm (execVext e d a b s) := by
  unfold execVext
  grind [finish_form, srcV_form, srcX_form, commit_form, putResult_form]

theorem execVins_form {e d a b s} (hs : MemoryForm s) : OutForm (execVins e d a b s) := by
  unfold execVins
  grind [ResForm, finish_form, srcX_form, srcV_form, commit_form, dstV_form, writeV_form]

theorem execVslide_form {e d a b s} (hs : MemoryForm s) : OutForm (execVslide e d a b s) := by
  unfold execVslide
  grind [finish_form, srcV_form, srcX_form, wholeCommit_form, putWhole_form]

theorem execVrot_form {e d a b s} (hs : MemoryForm s) : OutForm (execVrot e d a b s) := by
  unfold execVrot
  grind [finish_form, srcV_form, srcX_form, wholeCommit_form, putWhole_form]

theorem execVpack24_form {e d a b s} (hs : MemoryForm s) : OutForm (execVpack24 e d a b s) := by
  unfold execVpack24
  grind [ResForm, finish_form, srcV_form, wholeCommit_form, dstV_form, writeV_form, dstNext_form, writeX_form]

theorem execVunpack24_form {e d a b s} (hs : MemoryForm s) : OutForm (execVunpack24 e d a b s) := by
  unfold execVunpack24
  grind [finish_form, srcV_form, srcX_form, wholeCommit_form, putWhole_form]

end Sys2Proof.Proofs
end

section
/-! Every step keeps the canonical form of every memory (O58): the dispatch, a turn and a step. -/

-- One proof at a time: hundreds of proofs elaborated side by side hold a thread and its stack each.
set_option Elab.async false

namespace Sys2Proof.Proofs

open Sys2Proof Sys2Proof.Machine Sys2Proof.Safety Sys2Proof.Says Sys2Proof.Laws

/-! ### Dispatch -/

theorem exec_form {i s} (hs : MemoryForm s) : OutForm (exec i s) := by
  cases i with
  | add | sub | and | or | xor | andn | orn | sll | srl | sra | rol | ror | min | max | minn | maxn | mul | mulh | mulhn | mulhsn | div |
    divn | rem | remn | addsat | subsat => unfold exec; exact alu_form hs
  | addi | andi | ori | xori | slli | srli | srai | rori | sextB | sextH | sextW | zextB | zextH | zextW => unfold exec; exact unary_form hs
  | cmpEq | cmpNe | cmpLt | cmpLtn | cmpLe | cmpLen | cmpGt | cmpGtn | cmpGe | cmpGen | tst => unfold exec; exact cmp_form hs
  | fcmpEq | fcmpLt | fcmpLe | fcmpUn => unfold exec; exact fcmpWord_form hs
  | cmpiEq | cmpiNe | cmpiLt | cmpiLtn | cmpiGt | cmpiGtn => unfold exec; exact cmpi_form hs
  | li => exact execLi_form hs
  | lih => exact execLih_form hs
  | clz | ctz | popc | bswap | brev => unfold exec; exact bitUnary_form hs
  | bfx => exact execBfx_form hs
  | bfi => exact execBfi_form hs
  | pack => exact execPack_form hs
  | gate | gaten | selv => unfold exec; exact valBinary_form hs
  | setv | clrv | isv | movv => unfold exec; exact valUnary_form hs
  | fadd | fsub | fmul | fdiv | fmin | fmax | fsgnj => unfold exec; exact fpBinary_form hs
  | fsqrt | fabs | fneg | fclass | fcvtS | fcvtN | scvtF | ncvtF | fcvtF => unfold exec; exact fpUnary_form hs
  | fma | fnma => unfold exec; exact fpTernary_form hs
  | ld | lds => unfold exec; exact loadWord_form hs
  | st => exact execSt_form hs
  | ldAcq => exact execLdAcq_form hs
  | stRel => exact execStRel_form hs
  | ldQ => exact execLdQ_form hs
  | stQ => exact execStQ_form hs
  | touch => exact execTouch_form hs
  | sbwait => exact execSbwait_form hs
  | mkempty => exact execMkempty_form hs
  | amoswap | amoadd | amoand | amoor | amoxor | amomin | amomax | amominn | amomaxn | amofadd => unfold exec; exact amo_form hs
  | casD => exact execCasD_form hs
  | casQ => exact execCasQ_form hs
  | vld | vldNw => unfold exec; exact vldWord_form hs
  | vst => exact execVst_form hs
  | vgat => exact execVgat_form hs
  | vsca => exact execVsca_form hs
  | vldb => exact execVldb_form hs
  | br => exact execBr_form hs
  | call => exact execCall_form hs
  | bv => exact execBv_form hs
  | bnv => exact execBnv_form hs
  | bnz => exact execBnz_form hs
  | bz => exact execBz_form hs
  | jr => exact execJr_form hs
  | ldk => exact execLdk_form hs
  | wput => exact execWput_form hs
  | wwait => exact execWwait_form hs
  | wdisp => exact execWdisp_form hs
  | wdone => exact execWdone_form hs
  | sync => exact execSync_form hs
  | voteAnd | voteOr | voteAdd => unfold exec; exact vote_form hs
  | fence => exact execFence_form hs
  | hwbarArrive => exact execHwbarArrive_form hs
  | hwbarWait => exact execHwbarWait_form hs
  | watch => exact execWatch_form hs
  | wfe => exact execWfe_form hs
  | sev => exact execSev_form hs
  | qget => exact execQget_form hs
  | qput => exact execQput_form hs
  | vqget => exact execVqget_form hs
  | vqput => exact execVqput_form hs
  | ecmd => exact execEcmd_form hs
  | ebusy => exact execEbusy_form hs
  | efence => exact execEfence_form hs
  | qlen => exact execQlen_form hs
  | hld => exact execHld_form hs
  | hst => exact execHst_form hs
  | mld => exact execMld_form hs
  | mst => exact execMst_form hs
  | wbld => exact execWbld_form hs
  | mepi => exact execMepi_form hs
  | wbinv => exact execWbinv_form hs
  | syscall => exact execSyscall_form hs
  | sret => exact execSret_form hs
  | endCtx => exact execEndCtx_form hs
  | brk => exact execBrk_form hs
  | ifence => exact execIfence_form hs
  | tlbinvAll => exact execTlbinvAll_form hs
  | tlbinvAsid => exact execTlbinvAsid_form hs
  | tlbinvVa => exact execTlbinvVa_form hs
  | tlbinvVaall => exact execTlbinvVaall_form hs
  | wfi => exact execWfi_form hs
  | rdfe => exact execRdfe_form hs
  | wrfe => exact execWrfe_form hs
  | rdvb => exact execRdvb_form hs
  | wrvb => exact execWrvb_form hs
  | yield => exact execYield_form hs
  | csrr => exact execCsrr_form hs
  | csrw | csrs | csrc => unfold exec; exact csrUpdate_form hs
  | vadd | vsub | vmul | vmulh | vmin | vmax | vand | vor | vxor | vandn | vsll | vsrl | vsra | vaddsat | vsubsat | vavg | vcmpEq | vcmpLt |
    vcmpLe => unfold exec; exact vint2_form hs
  | vabs | vneg | vpopc | vclz => unfold exec; exact vint1_form hs
  | vbsel | vfma | vfnma => unfold exec; exact vec3_form hs
  | vfadd | vfsub | vfmul | vfdiv | vfmin | vfmax => unfold exec; exact vflt2_form hs
  | vfsqrt | vfabs | vfneg | vrcp | vrsqrt | vexp2 | vlog2 => unfold exec; exact vflt1_form hs
  | vfcmpEq | vfcmpLt | vfcmpLe => unfold exec; exact vfcmpWord_form hs
  | vfdot => exact execVfdot_form hs
  | vcvt | vcvtSat => unfold exec; exact cvtWord_form hs
  | venc => exact execVenc_form hs
  | vdec => exact execVdec_form hs
  | vperm | vzip | vunzip | vcompress | vexpand => unfold exec; exact perm2_form hs
  | vbcast => exact execVbcast_form hs
  | vext => exact execVext_form hs
  | vins => exact execVins_form hs
  | vslide => exact execVslide_form hs
  | vrot => exact execVrot_form hs
  | vredAdd | vredMax | vredMin => unfold exec; exact reduceWord_form hs
  | vpack24 => exact execVpack24_form hs
  | vunpack24 => exact execVunpack24_form hs
  | mma | mmas => unfold exec; exact mma_form hs
  | mz => exact execMz_form hs
  | mstat => exact execMstat_form hs
  | mcpy => exact execMcpy_form hs
  | madd => exact execMadd_form hs
  | mscale => exact execMscale_form hs
  | mrow => exact execMrow_form hs
  | mwait => exact execMwait_form hs
  | movf => exact execMovf_form hs
  | hxor | hand | hor => unfold exec; exact hv2_form hs
  | hnot => exact execHnot_form hs
  | hrot => exact execHrot_form hs
  | hbund => exact execHbund_form hs
  | hbunw => exact execHbunw_form hs
  | hbclr => exact execHbclr_form hs
  | hthr => exact execHthr_form hs
  | hpopc => exact execHpopc_form hs
  | hdist => exact execHdist_form hs
  | hbcast => exact execHbcast_form hs
  | hins => exact execHins_form hs
  | hext => exact execHext_form hs
  | hmov => exact execHmov_form hs
  | hmst => exact execHmst_form hs
  | hmld => exact execHmld_form hs
  | hmclr => exact execHmclr_form hs
  | hmclrAll => exact execHmclrAll_form hs
  | hrecall | hrecall2 => unfold exec; exact search_form hs
  | dkEcmd => exact execDkEcmd_form hs
  | dkQput => exact execDkQput_form hs
  | dkQget => exact execDkQget_form hs
  | dkWcnt => exact execDkWcnt_form hs
  | dkSev => exact execDkSev_form hs
  | dkWfe => exact execDkWfe_form hs
  | dkWfeWatch => exact execDkWfeWatch_form hs
  | dkRdst => exact execDkRdst_form hs
  | dkWput => exact execDkWput_form hs
  | ecall => exact execEcall_form hs
  | ebreak => exact execEbreak_form hs
  | fillLand => exact execFillLand_form hs
  | interruptEntry => exact execInterruptEntry_form hs
  | deferredFault => exact execDeferredFault_form hs
  | runcapExpiry => exact execRuncapExpiry_form hs
  | timerMatch => exact execTimerMatch_form hs
  | runcapWrite => exact execRuncapWrite_form hs
  | membWrite => exact execMembWrite_form hs
  | tableLoadT8 => exact execTableLoadT8_form hs
  | tableLoadT4 => exact execTableLoadT4_form hs
  | engineFaultDrop => exact execEngineFaultDrop_form hs
  | windowStoreArrival => exact execWindowStoreArrival_form hs
  | windowLoadArrival => exact execWindowLoadArrival_form hs
  | portEntryArrival => exact execPortEntryArrival_form hs
  | streamWindowWrite => exact execStreamWindowWrite_form hs
  | parkedMessage => exact execParkedMessage_form hs
  | spliceInsert => exact execSpliceInsert_form hs
  | recordRetry => exact execRecordRetry_form hs
  | spliceRefill => exact execSpliceRefill_form hs
  | spliceDispatch => exact execSpliceDispatch_form hs
  | barrierCompletion => exact execBarrierCompletion_form hs
  | barrierTimeout => exact execBarrierTimeout_form hs
  | wireBarrierCompletion => exact execWireBarrierCompletion_form hs
  | arrayPass => exact execArrayPass_form hs
  | wbldLanded => exact execWbldLanded_form hs
  | engineCommandEnqueue => exact execEngineCommandEnqueue_form hs
  | copyUnit => exact execCopyUnit_form hs
  | copy2d => exact execCopy2d_form hs
  | gather => exact execGather_form hs
  | scatter => exact execScatter_form hs
  | joinCmd => exact execJoinCmd_form hs
  | allred | bcast => unfold exec; exact collArrive_form hs
  | mcastSt => exact execMcastSt_form hs
  | redSt => exact execRedSt_form hs
  | signal => exact execSignal_form hs
  | engineCompletion => exact execEngineCompletion_form hs
  | collectiveGeneration => exact execCollectiveGeneration_form hs
  | collectiveTimeout => exact execCollectiveTimeout_form hs
  | pageRequestReply => exact execPageRequestReply_form hs
  | quantumExpiry => exact execQuantumExpiry_form hs
  | graceExpiry => exact execGraceExpiry_form hs
  | haltComplete => exact execHaltComplete_form hs
  | swapOut => exact execSwapOut_form hs
  | swapIn => exact execSwapIn_form hs
  | debugHalt => exact execDebugHalt_form hs
  | debugResume => exact execDebugResume_form hs
  | debugStep => exact execDebugStep_form hs
  | debugRoleWrite => exact execDebugRoleWrite_form hs
  | scrubPass => unfold exec; exact execScrubPass_form hs
  | lashIntervalEnd => exact execLashIntervalEnd_form hs
  | lashExchange => exact execLashExchange_form hs
  | belayRollback => exact execBelayRollback_form hs
  | lashcfgWrite => exact execLashcfgWrite_form hs
  | belaycfgWrite => exact execBelaycfgWrite_form hs
  | cpLockstepMismatch => exact execCpLockstepMismatch_form hs
  | replayRelease => exact execReplayRelease_form hs
  | notifyWrite => exact execNotifyWrite_form hs
  | slotMapping => exact execSlotMapping_form hs
  | pinExpiry => exact execPinExpiry_form hs
  | slotRotation => exact execSlotRotation_form hs
  | launchDispatch => exact execLaunchDispatch_form hs
  | launchGroupCommit => exact execLaunchGroupCommit_form hs
  | launchGroupTimeout => exact execLaunchGroupTimeout_form hs
  | gridCompletion => exact execGridCompletion_form hs
  | completionRecordRelease => exact execCompletionRecordRelease_form hs
  | fenceCounterWrite => exact execFenceCounterWrite_form hs
  | inval2 => exact execInval2_form hs
  | inval2Complete => exact execInval2Complete_form hs
  | scopectlWrite => exact execScopectlWrite_form hs
  | energyWindow => exact execEnergyWindow_form hs
  | partitionCreate => exact execPartitionCreate_form hs
  | partitionReady => exact execPartitionReady_form hs
  | partitionTeardown => exact execPartitionTeardown_form hs
  | partitionScrubDone => exact execPartitionScrubDone_form hs
  | attestationRequest => exact execAttestationRequest_form hs
  | attestationReport => exact execAttestationReport_form hs
  | meterPeriod => exact execMeterPeriod_form hs
  | usageRecordRelease => exact execUsageRecordRelease_form hs
  | linkstatWrite => exact execLinkstatWrite_form hs
  | registerWrite => exact execRegisterWrite_form hs
  | linkBeat => exact execLinkBeat_form hs
  | linkDown => exact execLinkDown_form hs
  | migrationStart => exact execMigrationStart_form hs
  | pagePull => exact execPagePull_form hs
  | backgroundPull => exact execBackgroundPull_form hs
  | poolpagesWrite => exact execPoolpagesWrite_form hs
  | bringup => exact execBringup_form hs
  | dirtyClusterScrub => exact execDirtyClusterScrub_form hs
  | thermalWarning => exact execThermalWarning_form hs
  | thermalCritical => exact execThermalCritical_form hs
  | rv64imInstruction => exact execRv64imInstruction_form hs
  | helperEngineInterrupt => exact execHelperEngineInterrupt_form hs
  | cxlMemAccess => exact execCxlMemAccess_form hs
  | prqheadWrite => exact execPrqheadWrite_form hs
  | firmwareRestartComplete => exact execFirmwareRestartComplete_form hs
  | thermalWarningCleared => exact execThermalWarningCleared_form hs
  | powerLoss => exact execPowerLoss_form hs

/-! ### Fetch -/

theorem cacheRead_form {s pa key va} (hs : MemoryForm s) : FetchedForm (cacheRead s pa key va) := by
  unfold cacheRead
  repeat' split
  all_goals grind [memoryForm_iff, tileForm_iff, FetchedForm, moduleCorrectRange_form]

theorem fetchWord_form {s va} (hs : MemoryForm s) : FetchedForm (fetchWord s va) := by
  unfold fetchWord
  repeat' split
  all_goals grind [ChkForm, FetchedForm, chkTrans_form, translate_form, cacheRead_form]

theorem encFault_form {s w} (hs : MemoryForm s) : MemoryForm (encFault s w) :=
  trapEntry_form hs

theorem decodeUnit_form {s w inPair} (hs : MemoryForm s) : Unit8Form (decodeUnit s w inPair) := by
  unfold decodeUnit
  repeat' split
  all_goals grind [memoryForm_iff, Unit8Form, encFault_form]

theorem aloneUnit_form {s w} (hs : MemoryForm s) : Unit8Form (aloneUnit s w) := by
  unfold aloneUnit
  repeat' split
  all_goals grind [Unit8Form, encFault_form, decodeUnit_form]

theorem fetchUnit_form {s} (hs : MemoryForm s) : Unit8Form (fetchUnit s) := by
  unfold fetchUnit
  repeat' split
  all_goals grind [memoryForm_iff, FetchedForm, Unit8Form, aloneUnit_form, fetchWord_form, trapWord_form, blockAt_form, trapEntry_form,
    encFault_form, decodeUnit_form]

/-! ### Turn -/

theorem afterAhead_form {s k} (hs : MemoryForm s) (hk : ∀ a, MemoryForm a → OutForm (k a)) : OutForm (afterAhead s k) := by
  unfold afterAhead
  repeat' split
  all_goals grind [outForm_next, performOwn_form, blockAt_form]

theorem runWord_form {s} (hs : MemoryForm s) : OutForm (runWord s) := by
  unfold runWord
  repeat' split
  all_goals grind [memoryForm_iff, outForm_next, Unit8Form, runtimeStep_form, exec_form, afterAhead_form, fetchUnit_form]

theorem unitDone_form {o} (ho : OutForm o) : OutForm (unitDone o) := by
  unfold unitDone
  grind [outForm_next, endStep_form]

theorem contextTurn_form {s} (hs : MemoryForm s) : OutForm (contextTurn s) := by
  unfold contextTurn
  repeat' split
  all_goals grind [outForm_next, atSwitch_form, freezeDbg_form, unitDone_form, enterDenial_form, enterFault_form, runWord_form,
    enterIrq_form]

theorem settle_form {from_ o} (ho : OutForm o) : OutForm (settle from_ o) := by
  unfold settle
  repeat' split
  all_goals grind [outForm_next, endTurn_form, stateMapVf_form]

theorem tileTurn_form {s vt} (hs : MemoryForm s) : ∀ y, tileTurn s vt = some y → OutForm y := by
  unfold tileTurn
  repeat' split
  all_goals grind [expireTurn_form, settle_form, contextTurn_form, switchTo_form, stateFocus_form]

theorem runHelper_form {s} (hs : MemoryForm s) : OutForm (runHelper s) := by
  unfold runHelper
  grind [HResForm, hFinish_form, hHard_form, repairMarks_form, exec_form]

theorem helperTurn_form {s vt storer} (hs : MemoryForm s) : ∀ y, helperTurn s vt storer = some y → OutForm y := by
  unfold helperTurn
  repeat' split
  all_goals grind [HResForm, outForm_next, focusHelper_form, hFreeze_form, hFinish_form, hInterrupt_form, runHelper_form]

theorem anyTurn_form {s ts} (hs : MemoryForm s) : ∀ y, anyTurn s ts = some y → OutForm y := by
  induction ts with
  | nil => simp [anyTurn]
  | cons t r ih =>
    have ht := tileTurn_form (vt := t.vt) hs
    grind [anyTurn]

theorem anyHelper_form {s ts} (hs : MemoryForm s) : ∀ y, anyHelper s ts = some y → OutForm y := by
  induction ts with
  | nil => simp [anyHelper]
  | cons t r ih =>
    have ht (b : Bool) := helperTurn_form (vt := t.vt) (storer := b) hs
    grind [anyHelper]

theorem passOver_form {s o} (hs : MemoryForm s) (ho : OutForm o) : OutForm (passOver s o) := by
  unfold passOver
  grind [outForm_next]

theorem dropLine_form {s base} (hs : MemoryForm s) : MemoryForm (dropLine s base) :=
  hs

theorem defaultTurn_form {s} (hs : MemoryForm s) : OutForm (defaultTurn s) := by
  have h := advance_form (n := 1) hs
  unfold defaultTurn
  dsimp only
  split
  · exact anyTurn_form h _ ‹_›
  · exact of_getD (anyHelper_form h) (outForm_next.2 h)

theorem performStore_form {s vt c k} (hs : MemoryForm s) : MemoryForm (performStore s vt c k) := by
  unfold performStore
  repeat' split
  all_goals grind [foldl_memoryForm, HelperForm, withFocus_form, settlePosts_form, focusHelper_form, performPost_form,
    stateSetHelper_form, stateHelper_form]

theorem mapAgent_form {s vt c f g} (hs : MemoryForm s) (hg : ∀ a, HelperForm a → HelperForm (g a)) : MemoryForm (mapAgent s vt c f g) := by
  unfold mapAgent
  repeat' split
  all_goals grind [tileForm_iff, stateMapCtx_form, stateMapTile_form]

theorem scheduled_form {x s} (hs : MemoryForm s) : OutForm (scheduled x s) := by
  have hn : OutForm (.next s) := outForm_next.2 hs
  cases x with
  | event e =>
    show OutForm (if trapsFirst s e then .next s else passOver s (exec e s))
    split
    · exact hn
    · exact passOver_form hs (exec_form hs)
  | turn vt => exact of_getD (tileTurn_form hs) hn
  | helper vt storer => exact of_getD (helperTurn_form hs) hn
  | grid k => exact outForm_next.2 (swapGrid_form hs)
  | idle n => exact outForm_next.2 (advance_form hs)
  | iflush b => exact outForm_next.2 (dropLine_form hs)
  | slow vt c => exact outForm_next.2 (mapAgent_form hs fun _ h => h)
  | store vt c k => exact outForm_next.2 (performStore_form hs)
  | outside vt c a => exact outForm_next.2 (mapAgent_form hs fun _ h => h)
  | measure o f => exact outForm_next.2 (memoryForm_setModule hs (moduleMeasure_form hs.1))

theorem turn_form {s} (hs : MemoryForm s) : OutForm (turn s) := by
  unfold turn
  repeat' split
  all_goals grind [memoryForm_iff, defaultTurn_form, scheduled_form]

theorem flushed_form {o} (ho : OutForm o) : OutForm (flushed o) := by
  unfold flushed
  grind [outForm_next, flushLogs_form]

/-! ### Step -/

theorem afterTurn_form {s} (hs : MemoryForm s) : MemoryForm (afterTurn s) := by
  unfold afterTurn
  repeat' split
  all_goals grind [outForm_next, turn_form]

theorem paired_form {s o} (hs : MemoryForm s) (ho : OutForm o) : OutForm (paired s o) := by
  unfold paired
  repeat' split
  all_goals grind [outForm_next, mirrored_form, afterTurn_form]

theorem step_form {s} (hs : MemoryForm s) : OutForm (step s) := flushed_form (paired_form hs (turn_form hs))

/-- Settles O58: a memory is made only by its own writes and by leaving cells out, and every function that a step runs passes the form
on, from the operations on tiles and memories up to the dispatch of words and events and the turn. -/
theorem stepKeepsMemoryForm : Obligations.StepKeepsMemoryForm := by
  unfold Obligations.StepKeepsMemoryForm
  intro s t hs ht
  exact step_form hs t ht

end Sys2Proof.Proofs
end

section
/-! Decoding after encoding (O57): the fields of a word, and one lemma for each format of R53 and R342. -/

namespace Sys2Proof.Proofs

open Sys2Proof Sys2Proof.Laws

/-! ## Fields -/

/-- A field below bit 31 does not see the L bit. -/
theorem fld_mod {lo len : Nat} (w : Nat) (h : lo + len ≤ 31) : fld (w % 2 ^ 31) lo len = fld w lo len := by
  simpa [fld] using (fld_part w 0 31 lo len _ rfl h).symm

/-- The operands of an instruction, and the codes of its sizes, types, scopes and levels, fit into fields that are wide enough. -/
theorem operand_fits {n : Nat} : (∀ {m} (x : Fin m), m ≤ n → x.val < n) ∧ (∀ {m} (x : BitVec m), 2 ^ m ≤ n → x.toNat < n) ∧
    (∀ x : Bool, 2 ≤ n → x.toNat < n) ∧ (∀ x : Sz32, 2 ≤ n → x.code < n) ∧ (∀ x : FEt, 4 ≤ n → x.code < n) ∧
    (∀ x : FEt, 12 ≤ n → x.code + 8 < n) ∧ (∀ x : IEt, 8 ≤ n → x.code < n) ∧ (∀ x : LEt, 12 ≤ n → x.code < n) ∧
    (∀ x : MSz, 4 ≤ n → x.code < n) ∧ (∀ x : Scope, 8 ≤ n → x.code < n) ∧ (∀ x : Ord, 4 ≤ n → x.code < n) ∧
    (∀ x : Level, 7 ≤ n → x.code < n) ∧ (∀ x : WLevel, 5 ≤ n → x.code < n) ∧ (∀ x : Pair, 12 ≤ n → x.code < n) ∧
    (∀ x : RdSel, 8 ≤ n → x.code < n) :=
  ⟨fun x => x.isLt.trans_le, fun x => x.isLt.trans_le, fun x => (Bool.toNat_lt x).trans_le, fun x => (Sz32.code_lt x).trans_le,
    fun x => (FEt.code_lt x).trans_le, fun x => (Nat.add_lt_add_right (FEt.code_lt x) 8).trans_le, fun x => (IEt.code_lt x).trans_le,
    fun x => (LEt.code_lt x).trans_le, fun x => (MSz.code_lt x).trans_le, fun x => (Scope.code_lt x).trans_le,
    fun x => (Ord.code_lt x).trans_le, fun x => (Level.code_lt x).trans_le, fun x => (WLevel.code_lt x).trans_le,
    fun x => (Pair.code_lt x).trans_le, fun x => (RdSel.code_lt x).trans_le⟩

/-- A field whose value needs only its `k` low bits, read as two fields. -/
theorem fld_low_high {w lo n k m x : Nat} (h : fld w lo n = x) (hn : k + m ≤ n := by decide)
    (hx : x < 2 ^ k := by simp only [operand_fits, Nat.reduceLT, Nat.reduceLeDiff, Nat.reducePow]) :
    fld w lo k = x ∧ fld w (lo + k) m = 0 := by
  have hlow := fld_part w lo n 0 k x h (by omega)
  have hhigh := fld_part w lo n k m x h hn
  rw [Nat.div_eq_of_lt hx, Nat.zero_mod] at hhigh
  exact ⟨by simpa [Nat.mod_eq_of_lt hx] using hlow, hhigh⟩

/-! ## Words of the tile core -/

/-- The encoder's word has no L bit, and every word that differs from it at most there is read as the instruction. -/
def Decodes (i : Instr) : Prop := ∀ c, encode i = some c → c < 2 ^ 31 ∧ ∀ w, w % 2 ^ 31 = c → decodeMajor w = .ok i

/-- It is enough that the reader answers the instruction on every word with the fields of the encoder's word. -/
theorem decodes_of {i : Instr} {c : Nat} (he : encode i = some c) (hc : c < 2 ^ 31)
    (h : ∀ w, (∀ lo len, lo + len ≤ 31 → fld w lo len = fld c lo len) → decodeMajor w = .ok i) : Decodes i := by
  intro c' hc'
  obtain rfl := Option.some.inj (he.symm.trans hc')
  exact ⟨hc, fun w hw => h w fun lo len hl => by rw [← hw, fld_mod w hl]⟩

variable {i : Instr} {maj d a b c fn wb wa sz imm cc off nw op ord sc width et : Nat}

theorem decodes_R (he : encode i = some (encR maj d a b fn wb wa sz))
    (h : ∀ w, fld w 25 6 = maj ∧ fld w 20 5 = d ∧ fld w 15 5 = a ∧ fld w 10 5 = b ∧ fld w 4 6 = fn ∧ fld w 3 1 = wb ∧
      fld w 2 1 = wa ∧ fld w 0 2 = sz → decodeMajor w = .ok i)
    (hb : maj < 64 ∧ d < 32 ∧ a < 32 ∧ b < 32 ∧ fn < 64 ∧ wb < 2 ∧ wa < 2 ∧ sz < 4 := by
      simp only [operand_fits, Nat.reduceLT, Nat.reduceLeDiff, Nat.reducePow, and_self]) : Decodes i := by
  obtain ⟨h0, h1, h2, h3, h4, h5, h6, h7⟩ := hb
  refine decodes_of he (encR_lt _ _ _ _ _ _ _ _ h0 h1 h2 h3 h4 h5 h6 h7) fun w hw => h w ?_
  simpa (disch := decide) only [hw] using encR_fields maj d a b fn wb wa sz h0 h1 h2 h3 h4 h5 h6 h7

theorem decodes_I (he : encode i = some (encI maj d a wa imm))
    (h : ∀ w, fld w 25 6 = maj ∧ fld w 20 5 = d ∧ fld w 15 5 = a ∧ fld w 14 1 = wa ∧ fld w 0 14 = imm →
      decodeMajor w = .ok i)
    (hb : maj < 64 ∧ d < 32 ∧ a < 32 ∧ wa < 2 ∧ imm < 16384 := by
      simp only [operand_fits, Nat.reduceLT, Nat.reduceLeDiff, Nat.reducePow, and_self]) : Decodes i := by
  obtain ⟨h0, h1, h2, h3, h4⟩ := hb
  refine decodes_of he (encI_lt _ _ _ _ _ h0 h1 h2 h3 h4) fun w hw => h w ?_
  simpa (disch := decide) only [hw] using encI_fields maj d a wa imm h0 h1 h2 h3 h4

theorem decodes_U (he : encode i = some (encU maj d imm))
    (h : ∀ w, fld w 25 6 = maj ∧ fld w 20 5 = d ∧ fld w 0 20 = imm → decodeMajor w = .ok i)
    (hb : maj < 64 ∧ d < 32 ∧ imm < 1048576 := by
      simp only [operand_fits, Nat.reduceLT, Nat.reduceLeDiff, Nat.reducePow, and_self]) : Decodes i := by
  obtain ⟨h0, h1, h2⟩ := hb
  refine decodes_of he (encU_lt _ _ _ h0 h1 h2) fun w hw => h w ?_
  simpa (disch := decide) only [hw] using encU_fields maj d imm h0 h1 h2

theorem decodes_B (he : encode i = some (encB maj a cc off))
    (h : ∀ w, fld w 25 6 = maj ∧ fld w 20 5 = a ∧ fld w 18 2 = cc ∧ fld w 0 18 = off → decodeMajor w = .ok i)
    (hb : maj < 64 ∧ a < 32 ∧ cc < 4 ∧ off < 262144 := by
      simp only [operand_fits, Nat.reduceLT, Nat.reduceLeDiff, Nat.reducePow, and_self]) : Decodes i := by
  obtain ⟨h0, h1, h2, h3⟩ := hb
  refine decodes_of he (encB_lt _ _ _ _ h0 h1 h2 h3) fun w hw => h w ?_
  simpa (disch := decide) only [hw] using encB_fields maj a cc off h0 h1 h2 h3

theorem decodes_M (he : encode i = some (encM maj d a wa nw sz off))
    (h : ∀ w, fld w 25 6 = maj ∧ fld w 20 5 = d ∧ fld w 15 5 = a ∧ fld w 14 1 = wa ∧ fld w 13 1 = nw ∧ fld w 11 2 = sz ∧
      fld w 0 11 = off → decodeMajor w = .ok i)
    (hb : maj < 64 ∧ d < 32 ∧ a < 32 ∧ wa < 2 ∧ nw < 2 ∧ sz < 4 ∧ off < 2048 := by
      simp only [operand_fits, Nat.reduceLT, Nat.reduceLeDiff, Nat.reducePow, and_self]) : Decodes i := by
  obtain ⟨h0, h1, h2, h3, h4, h5, h6⟩ := hb
  refine decodes_of he (encM_lt _ _ _ _ _ _ _ h0 h1 h2 h3 h4 h5 h6) fun w hw => h w ?_
  simpa (disch := decide) only [hw] using encM_fields maj d a wa nw sz off h0 h1 h2 h3 h4 h5 h6

theorem decodes_RA (he : encode i = some (encRA maj d a b op ord sc width))
    (h : ∀ w, fld w 25 6 = maj ∧ fld w 20 5 = d ∧ fld w 15 5 = a ∧ fld w 10 5 = b ∧ fld w 6 4 = op ∧ fld w 4 2 = ord ∧
      fld w 1 3 = sc ∧ fld w 0 1 = width → decodeMajor w = .ok i)
    (hb : maj < 64 ∧ d < 32 ∧ a < 32 ∧ b < 32 ∧ op < 16 ∧ ord < 4 ∧ sc < 8 ∧ width < 2 := by
      simp only [operand_fits, Nat.reduceLT, Nat.reduceLeDiff, Nat.reducePow, and_self]) : Decodes i := by
  obtain ⟨h0, h1, h2, h3, h4, h5, h6, h7⟩ := hb
  refine decodes_of he (encRA_lt _ _ _ _ _ _ _ _ h0 h1 h2 h3 h4 h5 h6 h7) fun w hw => h w ?_
  simpa (disch := decide) only [hw] using encRA_fields maj d a b op ord sc width h0 h1 h2 h3 h4 h5 h6 h7

theorem decodes_V (he : encode i = some (encV maj d a b fn et))
    (h : ∀ w, fld w 25 6 = maj ∧ fld w 20 5 = d ∧ fld w 15 5 = a ∧ fld w 10 5 = b ∧ fld w 4 6 = fn ∧ fld w 0 4 = et →
      decodeMajor w = .ok i)
    (hb : maj < 64 ∧ d < 32 ∧ a < 32 ∧ b < 32 ∧ fn < 64 ∧ et < 16 := by
      simp only [operand_fits, Nat.reduceLT, Nat.reduceLeDiff, Nat.reducePow, and_self]) : Decodes i := by
  obtain ⟨h0, h1, h2, h3, h4, h5⟩ := hb
  refine decodes_of he (encV_lt _ _ _ _ _ _ h0 h1 h2 h3 h4 h5) fun w hw => h w ?_
  simpa (disch := decide) only [hw] using encV_fields maj d a b fn et h0 h1 h2 h3 h4 h5

theorem decodes_X (he : encode i = some (encX maj d a b c fn))
    (h : ∀ w, fld w 25 6 = maj ∧ fld w 20 5 = d ∧ fld w 15 5 = a ∧ fld w 10 5 = b ∧ fld w 5 5 = c ∧ fld w 0 5 = fn →
      decodeMajor w = .ok i)
    (hb : maj < 64 ∧ d < 32 ∧ a < 32 ∧ b < 32 ∧ c < 32 ∧ fn < 32 := by
      simp only [operand_fits, Nat.reduceLT, Nat.reduceLeDiff, Nat.reducePow, and_self]) : Decodes i := by
  obtain ⟨h0, h1, h2, h3, h4, h5⟩ := hb
  refine decodes_of he (encX_lt _ _ _ _ _ _ h0 h1 h2 h3 h4 h5) fun w hw => h w ?_
  simpa (disch := decide) only [hw] using encX_fields maj d a b c fn h0 h1 h2 h3 h4 h5

end Sys2Proof.Proofs
end

section
/-! Decoding after encoding (O57): words with a field in several parts (R64 to R68). -/

namespace Sys2Proof.Proofs

open Sys2Proof Sys2Proof.Laws

/-! ## A number above the operand of an immediate -/

/-- A format I word whose immediate is a number `n` above an operand `x` of `s` bits. -/
theorem decodes_I_parts {i : Instr} {maj d a wa : Nat} (s x n : Nat) (he : encode i = some (encI maj d a wa (x + n * 2 ^ s)))
    (h : ∀ w, fld w 25 6 = maj ∧ fld w 20 5 = d ∧ fld w 15 5 = a ∧ fld w 14 1 = wa ∧ fld w s (14 - s) = n ∧ fld w 0 s = x →
      decodeMajor w = .ok i)
    (hb : maj < 64 ∧ d < 32 ∧ a < 32 ∧ wa < 2 ∧ s ≤ 14 ∧ x < 2 ^ s ∧ n < 2 ^ (14 - s) := by
      simp only [operand_fits, Nat.reduceLT, Nat.reduceLeDiff, Nat.reducePow, Nat.reduceSub, and_self]) : Decodes i := by
  obtain ⟨h0, h1, h2, h3, hs, hx, hn⟩ := hb
  have himm : x + n * 2 ^ s < 2 ^ 14 := by
    calc x + n * 2 ^ s < (n + 1) * 2 ^ s := by linarith
      _ ≤ 2 ^ (14 - s) * 2 ^ s := Nat.mul_le_mul_right _ hn
      _ = 2 ^ 14 := by rw [← Nat.pow_add, Nat.sub_add_cancel hs]
  refine decodes_I he (fun w ⟨hm, hd, ha, hwa, hi⟩ => h w ⟨hm, hd, ha, hwa, ?_, ?_⟩) ⟨h0, h1, h2, h3, himm⟩
  · have hhigh := fld_part w 0 14 s (14 - s) _ hi (by omega)
    rwa [Nat.zero_add, Nat.add_mul_div_right _ _ (Nat.two_pow_pos s), Nat.div_eq_of_lt hx, Nat.zero_add, Nat.mod_eq_of_lt hn] at hhigh
  · have hlow := fld_part w 0 14 0 s _ hi (by omega)
    rwa [Nat.pow_zero, Nat.div_one, Nat.add_mul_mod_self_right, Nat.mod_eq_of_lt hx] at hlow

theorem decodes_shift (d a : Fin 32) (wa : Bool) (k : BitVec 6) :
    ∀ op ∈ [Instr.slli, .srli, .srai, .rori], Decodes (op d a wa k) := by
  simp only [List.forall_mem_cons, List.not_mem_nil, false_imp_iff, implies_true, and_true]
  refine ⟨decodes_I_parts 12 k.toNat 0 rfl ?_, decodes_I_parts 12 k.toNat 1 rfl ?_, decodes_I_parts 12 k.toNat 2 rfl ?_,
    decodes_I_parts 12 k.toNat 3 rfl ?_⟩
  all_goals
    rintro w ⟨hm, _, _, _, (hf : fld w 12 2 = _), hx⟩
    obtain ⟨_, (_ : fld w 6 6 = 0)⟩ := fld_low_high (k := 6) (m := 6) hx
    conv_lhs => rw [decodeMajor, hm]; whnf; rw [hf]
    show fixed w _ _ _ _ = _
    simp (disch := assumption) only [fixed_of, fin32_of, bit_of, bv_of]

theorem decodes_cmpi (d a : Fin 32) (wa : Bool) (imm : BitVec 11) :
    ∀ k ∈ [Instr.cmpiEq, .cmpiNe, .cmpiLt, .cmpiLtn, .cmpiGt, .cmpiGtn], Decodes (k d a wa imm) := by
  simp only [List.forall_mem_cons, List.not_mem_nil, false_imp_iff, implies_true, and_true]
  refine ⟨decodes_I_parts 11 imm.toNat 0 rfl ?_, decodes_I_parts 11 imm.toNat 1 rfl ?_, decodes_I_parts 11 imm.toNat 2 rfl ?_,
    decodes_I_parts 11 imm.toNat 3 rfl ?_, decodes_I_parts 11 imm.toNat 4 rfl ?_, decodes_I_parts 11 imm.toNat 5 rfl ?_⟩
  all_goals
    rintro w ⟨hm, _, _, _, (hf : fld w 11 3 = _), _⟩
    conv_lhs => rw [decodeMajor, hm]; whnf; rw [hf]
    show Except.ok _ = _
    simp (disch := assumption) only [fin32_of, bit_of, bv_of]

theorem decodes_csrr (d : Fin 32) (n : BitVec 12) : Decodes (.csrr d n) := by
  refine decodes_I_parts 12 n.toNat 0 rfl fun w ⟨hm, _, _, _, (hf : fld w 12 2 = _), _⟩ => ?_
  conv_lhs => rw [decodeMajor, hm]; whnf; rw [hf]
  show fixed w _ _ _ _ = _
  simp (disch := assumption) only [fixed_of, fin32_of, bv_of]

theorem decodes_csr (d a : Fin 32) (wa : Bool) (n : BitVec 12) : ∀ k ∈ [Instr.csrw, .csrs, .csrc], Decodes (k d a wa n) := by
  simp only [List.forall_mem_cons, List.not_mem_nil, false_imp_iff, implies_true, and_true]
  refine ⟨decodes_I_parts 12 n.toNat 1 rfl ?_, decodes_I_parts 12 n.toNat 2 rfl ?_, decodes_I_parts 12 n.toNat 3 rfl ?_⟩
  all_goals
    rintro w ⟨hm, _, _, _, (hf : fld w 12 2 = _), _⟩
    conv_lhs => rw [decodeMajor, hm]; whnf; rw [hf]
    show Except.ok _ = _
    simp (disch := assumption) only [fin32_of, bit_of, bv_of]

/-! ## A field of single bits, or of a code and more -/

/-- The source format stands in the low bits of field B. -/
theorem decodes_fcvtF (dst src : FEt) (d a : Fin 32) (wa : Bool) : Decodes (.fcvtF dst src d a wa) := by
  refine decodes_R rfl fun w ⟨hm, _, _, hb, hf, _, _, _⟩ => ?_
  obtain ⟨_, (_ : fld w 12 3 = 0)⟩ := fld_low_high (k := 2) (m := 3) hb
  conv_lhs => rw [decodeMajor, hm]; whnf; rw [hf]
  show fixed w _ _ _ _ = _
  simp (disch := assumption) only [fixed_of, fmt2_of, fin32_of, bit_of]

/-- The four access bits of a fence stand one by one in field D. -/
theorem decodes_fence (sc : Scope) (pr pw sr sw : Bool) : Decodes (.fence sc pr pw sr sw) := by
  have hpr := pr.toNat_lt
  have hpw := pw.toNat_lt
  have hsr := sr.toNat_lt
  have hsw := sw.toNat_lt
  refine decodes_R rfl (fun w ⟨hm, hd, _, hb, hf, _, _, _⟩ => ?_) (by have := Scope.code_lt sc; omega)
  obtain ⟨_, (_ : fld w 13 2 = 0)⟩ := fld_low_high (k := 3) (m := 2) hb
  have h24 : fld w 24 1 = 0 := (fld_part w 20 5 4 1 _ hd (by decide)).trans (by omega)
  have h23 : fld w 23 1 = pr.toNat := (fld_part w 20 5 3 1 _ hd (by decide)).trans (by omega)
  have h22 : fld w 22 1 = pw.toNat := (fld_part w 20 5 2 1 _ hd (by decide)).trans (by omega)
  have h21 : fld w 21 1 = sr.toNat := (fld_part w 20 5 1 1 _ hd (by decide)).trans (by omega)
  have h20 : fld w 20 1 = sw.toNat := (fld_part w 20 5 0 1 _ hd (by decide)).trans (by omega)
  conv_lhs => rw [decodeMajor, hm]; whnf; rw [hf]
  show fixed w _ _ _ _ = _
  simp (disch := assumption) only [fixed_of, scope_of, bit_of]

/-- The table is the low bit of the element type. -/
theorem decodes_venc (t4 : Bool) (d a : Fin 32) : Decodes (.venc t4 d a) := by
  have ht := t4.toNat_lt
  refine decodes_V rfl (fun w ⟨hm, _, _, _, hf, he⟩ => ?_) (by omega)
  have h0 : fld w 0 1 = t4.toNat := (fld_part w 0 4 0 1 _ he (by decide)).trans (by omega)
  have h1 : fld w 1 3 = 6 := (fld_part w 0 4 1 3 _ he (by decide)).trans (by omega)
  conv_lhs => rw [decodeMajor, hm]; whnf; rw [hf]
  show fixed w _ _ _ _ = _
  simp (disch := assumption) only [fixed_of, fin32_of, bit_of]

/-- The table is the low bit of the source type, in field B. -/
theorem decodes_vdec (t4 : Bool) (d a : Fin 32) : Decodes (.vdec t4 d a) := by
  have ht := t4.toNat_lt
  refine decodes_V rfl (fun w ⟨hm, _, _, hb, hf, _⟩ => ?_) (by omega)
  have h10 : fld w 10 1 = t4.toNat := (fld_part w 10 5 0 1 _ hb (by decide)).trans (by omega)
  have h11 : fld w 11 4 = 6 := (fld_part w 10 5 1 4 _ hb (by decide)).trans (by omega)
  conv_lhs => rw [decodeMajor, hm]; whnf; rw [hf]
  show fixed w _ _ _ _ = _
  simp (disch := assumption) only [fixed_of, fin32_of, bit_of]

/-- The length and the scratchpad bit stand in field C. -/
theorem decodes_wbld (len : WLen) (sp : Bool) (d a : Fin 32) : Decodes (.wbld len sp d a) := by
  have hlen := WLen.code_lt len
  have hsp := sp.toNat_lt
  refine decodes_X rfl (fun w ⟨hm, _, _, _, hc, hf⟩ => ?_) (by omega)
  have h5 : fld w 5 2 = len.code := (fld_part w 5 5 0 2 _ hc (by decide)).trans (by omega)
  have h7 : fld w 7 1 = sp.toNat := (fld_part w 5 5 2 1 _ hc (by decide)).trans (by omega)
  have h8 : fld w 8 2 = 0 := (fld_part w 5 5 3 2 _ hc (by decide)).trans (by omega)
  conv_lhs => rw [decodeMajor, hm]; whnf; rw [hf]
  show fixed w _ _ _ _ = _
  simp (disch := assumption) only [fixed_of, wlen_of, fin32_of, bit_of]

end Sys2Proof.Proofs
end

section
/-! Decoding after encoding (O57): every word of the tile core. -/

namespace Sys2Proof.Proofs

open Sys2Proof Sys2Proof.Laws

/-- Every instruction to which `encode` gives a word is read back from it. The cases follow the formats of R53; within a format they
differ in the reader that a row of the decoder's table begins with. In each, the row is looked up (`conv_lhs`, `show`), and its checks
and readers answer by the word's fields (`simp`). -/
theorem decodes (i : Instr) : Decodes i := by
  cases i with
  -- Format R
  | add | sub | and | or | xor | andn | orn | sll | srl | sra | rol | ror | min | max | minn | maxn | mul | mulh | mulhn
  | mulhsn | div | divn | rem | remn | addsat | subsat | cmpEq | cmpNe | cmpLt | cmpLtn | cmpLe | cmpLen | cmpGt | cmpGtn
  | cmpGe | cmpGen | bfx | bfi | pack =>
    refine decodes_R rfl fun w ⟨hm, _, _, _, hf, _, _, _⟩ => ?_
    conv_lhs => rw [decodeMajor, hm]; whnf; rw [hf]
    show sz32 w _ _ = _
    simp (disch := assumption) only [sz32_of, fin32_of, bit_of]
  | fcmpEq | fcmpLt | fcmpLe | fcmpUn | fadd | fsub | fmul | fdiv | fmin | fmax | fma | fnma | fsgnj | ldk =>
    refine decodes_R rfl fun w ⟨hm, _, _, _, hf, _, _, _⟩ => ?_
    conv_lhs => rw [decodeMajor, hm]; whnf; rw [hf]
    show Except.ok _ = _
    simp (disch := assumption) only [fmt2_of, msz_of, fin32_of, bit_of]
  | clz | ctz | popc | bswap | sextB | sextH | sextW | zextB | zextH | zextW | brev | tst | gate | gaten | setv | clrv | isv
  | selv | movv | fsqrt | fabs | fneg | fclass | fcvtS | fcvtN | scvtF | ncvtF | ldQ | stQ | touch | sbwait | mkempty | vgat
  | vsca | vldb | wput | wwait | wdisp | wdone | watch | wfe | sev | qget | qput | vqget | vqput | ecmd | ebusy | efence | qlen
  | syscall | sret | endCtx | brk | ifence | wfi | rdfe | wrfe | rdvb | wrvb | yield =>
    refine decodes_R rfl fun w ⟨hm, _, _, _, hf, _, _, _⟩ => ?_
    conv_lhs => rw [decodeMajor, hm]; whnf; rw [hf]
    show fixed w _ _ _ _ = _
    simp (disch := assumption) only [fixed_of, sz32_of, fmt2_of, msz_of, reg16_of, fin32_of, bit_of, bv_of]
  | ldAcq | stRel | sync | voteAnd | voteOr | voteAdd | hwbarArrive | hwbarWait =>
    refine decodes_R rfl fun w ⟨hm, _, _, hb, hf, _, _, _⟩ => ?_
    obtain ⟨_, (_ : fld w 13 2 = 0)⟩ := fld_low_high (k := 3) (m := 2) hb
    conv_lhs => rw [decodeMajor, hm]; whnf; rw [hf]
    show fixed w _ _ _ _ = _
    simp (disch := assumption) only [fixed_of, msz_of, scope_of, level_of, wlevel_of, fin32_of, bit_of]
  | tlbinvAll | tlbinvAsid | tlbinvVa | tlbinvVaall =>
    refine decodes_R rfl fun w ⟨hm, _, _, _, hf, _, _, hs⟩ => ?_
    conv_lhs => rw [decodeMajor, hm]; whnf; rw [hf, hs]
    show fixed w _ _ _ _ = _
    simp (disch := assumption) only [fixed_of, fin32_of, bit_of]
  | fcvtF dst src d a wa => exact decodes_fcvtF dst src d a wa
  | fence sc pr pw sr sw => exact decodes_fence sc pr pw sr sw
  -- Formats I, U, B and M
  | addi | andi | ori | xori | jr =>
    refine decodes_I rfl fun w ⟨hm, _, _, _, _⟩ => ?_
    conv_lhs => rw [decodeMajor, hm]; whnf
    simp (disch := assumption) only [fin32_of, bit_of, bv_of]
  | slli d a wa k | srli d a wa k | srai d a wa k | rori d a wa k => exact decodes_shift d a wa k _ (by simp)
  | cmpiEq d a wa imm | cmpiNe d a wa imm | cmpiLt d a wa imm | cmpiLtn d a wa imm | cmpiGt d a wa imm | cmpiGtn d a wa imm =>
    exact decodes_cmpi d a wa imm _ (by simp)
  | csrr d n => exact decodes_csrr d n
  | csrw d a wa n | csrs d a wa n | csrc d a wa n => exact decodes_csr d a wa n _ (by simp)
  | li | lih =>
    refine decodes_U rfl fun w ⟨hm, _, _⟩ => ?_
    conv_lhs => rw [decodeMajor, hm]; whnf
    simp (disch := assumption) only [fin32_of, bv_of]
  | br =>
    refine decodes_B rfl fun w ⟨hm, _, hf, _⟩ => ?_
    conv_lhs => rw [decodeMajor, hm]; whnf; rw [hf]
    show fixed w _ _ _ _ = _
    simp (disch := assumption) only [fixed_of, bv_of]
  | call | bv | bnv | bnz | bz =>
    refine decodes_B rfl fun w ⟨hm, _, hf, _⟩ => ?_
    conv_lhs => rw [decodeMajor, hm]; whnf; rw [hf]
    show Except.ok _ = _
    simp (disch := assumption) only [fin32_of, bv_of]
  | ld | lds | st =>
    refine decodes_M rfl fun w ⟨hm, _, _, _, _, _, _⟩ => ?_
    conv_lhs => rw [decodeMajor, hm]; whnf
    simp (disch := assumption) only [msz_of, fin32_of, bit_of, bv_of]
  | vld | vst | vldNw =>
    refine decodes_M rfl fun w ⟨hm, _, _, _, _, hf, _⟩ => ?_
    conv_lhs => rw [decodeMajor, hm]; whnf; rw [hf]
    show fixed w _ _ _ _ = _
    simp (disch := assumption) only [fixed_of, fin32_of, bit_of, bv_of]
  | hld | hst =>
    refine decodes_M rfl fun w ⟨hm, _, _, _, _, hf, _⟩ => ?_
    conv_lhs => rw [decodeMajor, hm]; whnf; rw [hf]
    show reg8 w _ _ = _
    simp (disch := assumption) only [reg8_of, fin32_of, bit_of, bv_of]
  -- Format RA
  | amoswap | amoadd | amoand | amoor | amoxor | amomin | amomax | amominn | amomaxn =>
    refine decodes_RA rfl fun w ⟨hm, _, _, _, hf, _, _, _⟩ => ?_
    conv_lhs => rw [decodeMajor, hm]; whnf; rw [hf]
    show Except.ok _ = _
    simp (disch := assumption) only [ord_of, scope_of, fin32_of, bit_of]
  | amofadd | casD | casQ =>
    refine decodes_RA rfl fun w ⟨hm, _, _, _, hf, _, _, _⟩ => ?_
    conv_lhs => rw [decodeMajor, hm]; whnf; rw [hf]
    show fixed w _ _ _ _ = _
    simp (disch := assumption) only [fixed_of, ord_of, scope_of, fin32_of]
  -- Format V
  | vadd | vsub | vmul | vmulh | vmin | vmax | vand | vor | vxor | vandn | vsll | vsrl | vsra | vaddsat | vsubsat | vavg
  | vcmpEq | vcmpLt | vcmpLe | vbsel =>
    refine decodes_V rfl fun w ⟨hm, _, _, _, hf, _⟩ => ?_
    conv_lhs => rw [decodeMajor, hm]; whnf; rw [hf]
    show iet w _ _ = _
    simp (disch := assumption) only [iet_of, fin32_of]
  | vfadd | vfsub | vfmul | vfma | vfnma | vfdiv | vfmin | vfmax | vfcmpEq | vfcmpLt | vfcmpLe | vfdot | vpack24 | vunpack24 =>
    refine decodes_V rfl fun w ⟨hm, _, _, _, hf, _⟩ => ?_
    conv_lhs => rw [decodeMajor, hm]; whnf; rw [hf]
    show fet w _ _ = _
    simp (disch := assumption) only [fet_of, fin32_of]
  | vperm | vext | vins | vslide | vrot | vzip | vunzip | vcompress | vexpand =>
    refine decodes_V rfl fun w ⟨hm, _, _, _, hf, _⟩ => ?_
    conv_lhs => rw [decodeMajor, hm]; whnf; rw [hf]
    show anyEt w _ _ = _
    simp (disch := assumption) only [anyEt_of, fin32_of]
  | vabs | vneg | vpopc | vclz | vfsqrt | vfabs | vfneg | vbcast | vredAdd | vredMax | vredMin | vrcp | vrsqrt | vexp2 | vlog2 =>
    refine decodes_V rfl fun w ⟨hm, _, _, _, hf, _⟩ => ?_
    conv_lhs => rw [decodeMajor, hm]; whnf; rw [hf]
    show fixed w _ _ _ _ = _
    simp (disch := assumption) only [fixed_of, iet_of, fet_of, anyEt_of, fin32_of]
  | vcvt | vcvtSat =>
    refine decodes_V rfl fun w ⟨hm, _, _, hb, hf, _⟩ => ?_
    obtain ⟨_, (_ : fld w 14 1 = 0)⟩ := fld_low_high (k := 4) (m := 1) hb
    conv_lhs => rw [decodeMajor, hm]; whnf; rw [hf]
    show fixed w _ _ _ _ = _
    simp (disch := assumption) only [fixed_of, anyEt_of, fin32_of]
  | venc t4 d a => exact decodes_venc t4 d a
  | vdec t4 d a => exact decodes_vdec t4 d a
  -- Format X
  | mma | mmas =>
    refine decodes_X rfl fun w ⟨hm, _, _, _, _, _⟩ => ?_
    rw [decodeMajor, hm]
    show pair w _ _ = _
    simp (disch := assumption) only [pair_of, reg8_of, fin32_of]
  | mepi =>
    refine decodes_X rfl fun w ⟨hm, _, _, _, _, hf⟩ => ?_
    conv_lhs => rw [decodeMajor, hm]; whnf; rw [hf]
    show reg8 w _ _ = _
    simp (disch := assumption) only [reg8_of, fin32_of]
  | mst | wbinv | mstat | mcpy | madd | mscale | mrow | mwait | hxor | hand | hor | hnot | hrot | hbund | hbunw | hbclr | hthr
  | hpopc | hdist | hbcast | hins | hext | hmov | hmst | hmld | hrecall | hrecall2 =>
    refine decodes_X rfl fun w ⟨hm, _, _, _, _, hf⟩ => ?_
    conv_lhs => rw [decodeMajor, hm]; whnf; rw [hf]
    show fixed w _ _ _ _ = _
    simp (disch := assumption) only [fixed_of, reg8_of, reg2_of, fin32_of]
  | mld | mz | movf =>
    refine decodes_X rfl fun w ⟨hm, _, _, _, hc, hf⟩ => ?_
    obtain ⟨_, (_ : fld w 6 4 = 0)⟩ := fld_low_high (k := 1) (m := 4) hc
    conv_lhs => rw [decodeMajor, hm]; whnf; rw [hf]
    show fixed w _ _ _ _ = _
    simp (disch := assumption) only [fixed_of, reg8_of, fin32_of, bit_of]
  | wbld len sp d a => exact decodes_wbld len sp d a
  | hmclr | hmclrAll =>
    refine decodes_X rfl fun w ⟨hm, _, _, _, hc, hf⟩ => ?_
    obtain ⟨hl, (_ : fld w 6 4 = 0)⟩ := fld_low_high (k := 1) (m := 4) hc
    conv_lhs => rw [decodeMajor, hm]; whnf; rw [hf, hl]
    show fixed w _ _ _ _ = _
    simp (disch := assumption) only [fixed_of, fin32_of]
  | _ => intro c hc; cases hc

end Sys2Proof.Proofs
end

section
/-! Decoding after encoding (O57): the helper cores; and words written out from the tables (O56). -/

namespace Sys2Proof.Proofs

open Sys2Proof Sys2Proof.Laws Sys2Proof.Says

theorem fin7_of (w lo : Nat) (x : Fin 7) (k : Fin 7 → Dec) (h : fld w lo 7 = x.val) : fin7 w lo k = k x := by
  rw [fin7, dif_pos (by omega)]
  congr 1
  exact Fin.ext h

theorem equeue_of (w lo : Nat) (x : Fin 7) (k : Fin 7 → Dec) (h : fld w lo 7 = x.val + 4) : equeue w lo k = k x := by
  rw [equeue, dif_pos (by omega)]
  congr 1
  exact Fin.ext (by simp only [h, Nat.add_sub_cancel])

/-- The encoder's word fits into 32 bits and is read as the instruction. -/
def DecodesHelper (i : Instr) : Prop := ∀ w, encodeHelper i = some w → w < 2 ^ 32 ∧ decodeHelper w = .ok i

/-- A custom-0 word is read by `decDk`. -/
theorem decodesHelper_dk {i : Instr} {f7 rs2 rs1 f3 rd : Nat} (he : encodeHelper i = some (encDk f7 rs2 rs1 f3 rd))
    (h : ∀ w, fld w 25 7 = f7 ∧ fld w 20 5 = rs2 ∧ fld w 15 5 = rs1 ∧ fld w 12 3 = f3 ∧ fld w 7 5 = rd → decDk w = .ok i)
    (hb : f7 < 128 ∧ rs2 < 32 ∧ rs1 < 32 ∧ f3 < 8 ∧ rd < 32 := by
      simp only [operand_fits, Nat.reduceLT, Nat.reduceLeDiff, Nat.reducePow, and_self]) : DecodesHelper i := by
  intro w hw
  obtain rfl := Option.some.inj (he.symm.trans hw)
  obtain ⟨h0, h1, h2, h3, h4⟩ := hb
  have hop : fld (encDk f7 rs2 rs1 f3 rd) 0 7 = 0x0B := by unfold fld encDk; omega
  refine ⟨encDk_lt _ _ _ _ _ h0 h1 h2 h3 h4, ?_⟩
  rw [decodeHelper, if_pos hop]
  exact h _ (encDk_fields f7 rs2 rs1 f3 rd h0 h1 h2 h3 h4)

/-- A well-formed word of the base instruction set is read as itself: it is no custom-0 word, `ecall` or `ebreak`. -/
theorem decodesHelper_base (v : BitVec 32) (hv : helperOwn v = false) : DecodesHelper (.rv64imInstruction v) := by
  intro w hw
  obtain rfl := Option.some.inj hw
  simp only [helperOwn, Bool.or_eq_false_iff, beq_eq_false_iff_ne, ← BitVec.toNat_inj.not] at hv
  obtain ⟨⟨hdk, hecall⟩, hebreak⟩ := hv
  refine ⟨v.isLt, ?_⟩
  rw [decodeHelper, if_neg (by simpa [fld] using hdk), if_neg (c := v.toNat = 0x73) hecall, if_neg (c := v.toNat = 0x100073) hebreak,
    BitVec.ofNat_toNat, BitVec.setWidth_eq]

theorem decodesHelper (i : Instr) (hi : i.wf = true) : DecodesHelper i := by
  cases i with
  | dkEcmd q rs1 rs2 =>
    refine decodesHelper_dk rfl (fun w ⟨_, _, _, hf, _⟩ => ?_) (by omega)
    rw [decDk, hf]
    show fixed w _ _ _ _ = _
    simp (disch := assumption) only [fixed_of, equeue_of, fin32_of]
  | dkQput c p rs1 =>
    refine decodesHelper_dk rfl (fun w ⟨h7, _, _, hf, _⟩ => ?_) (by omega)
    have h25 : fld w 25 2 = p.val := (fld_part w 25 7 0 2 _ h7 (by decide)).trans (by omega)
    have h27 : fld w 27 2 = c.val := (fld_part w 25 7 2 2 _ h7 (by decide)).trans (by omega)
    have h29 : fld w 29 3 = 0 := (fld_part w 25 7 4 3 _ h7 (by decide)).trans (by omega)
    rw [decDk, hf]
    show fixed w _ _ _ _ = _
    simp (disch := assumption) only [fixed_of, fin4_of, fin32_of]
  | dkQget c rd =>
    refine decodesHelper_dk rfl fun w ⟨h7, _, _, hf, _⟩ => ?_
    obtain ⟨_, (_ : fld w 27 5 = 0)⟩ := fld_low_high (k := 2) (m := 5) h7
    rw [decDk, hf]
    show fixed w _ _ _ _ = _
    simp (disch := assumption) only [fixed_of, fin4_of, fin32_of]
  | dkWcnt | dkSev | dkRdst | dkWput =>
    refine decodesHelper_dk rfl fun w ⟨_, _, _, hf, _⟩ => ?_
    rw [decDk, hf]
    show fixed w _ _ _ _ = _
    simp (disch := assumption) only [fixed_of, fin7_of, rdSel_of, fin32_of]
  | dkWfe | dkWfeWatch =>
    refine decodesHelper_dk rfl fun w ⟨h7, _, _, hf, _⟩ => ?_
    rw [decDk, hf, h7]
    show fixed w _ _ _ _ = _
    simp (disch := assumption) only [fixed_of, fin32_of]
  | ecall | ebreak =>
    intro w hw
    obtain rfl := Option.some.inj hw
    exact ⟨by decide, rfl⟩
  | rv64imInstruction v => exact decodesHelper_base v (by simpa [Instr.wf] using hi)
  | _ => intro w hw; cases hw

/-- Settles O57: a word is laid out in fields (R53, R342), each field reads back as it was put there whatever the L bit is, and the row of
the decoder's table that the major and the function number select reads the operands from the fields where the encoder put them. -/
theorem decodeAfterEncode : Obligations.DecodeAfterEncode := by
  unfold Obligations.DecodeAfterEncode
  refine ⟨fun i w hi he => ?_, fun i w hi => decodesHelper i hi w⟩
  obtain ⟨hw, h⟩ := decodes i w he
  exact ⟨hw, decode_of (h w (Nat.mod_eq_of_lt hw)) hi, decode_of (h (w + 2 ^ 31) (by omega)) hi⟩

/-- The words of the list are those that the encoder gives, with the L bit set. -/
theorem specWords_encode : ∀ p ∈ specWords, p.2.wf = true ∧ encode p.2 = some (p.1 % 2 ^ 31) ∧ p.1 = p.1 % 2 ^ 31 + 2 ^ 31 := by
  decide +kernel

/-- Settles O56: the encoder gives these words for these instructions, so that the decoder reads them (O57). -/
theorem decodeReadsSpecWords : Obligations.DecodeReadsSpecWords := by
  unfold Obligations.DecodeReadsSpecWords
  obtain ⟨htile, hhelper⟩ := decodeAfterEncode
  refine ⟨fun p hp => ?_, (hhelper _ _ rfl rfl).2, (hhelper _ _ rfl rfl).2, (hhelper _ _ rfl rfl).2, (hhelper _ _ rfl rfl).2⟩
  obtain ⟨hwf, he, hl⟩ := specWords_encode p hp
  obtain ⟨-, h, hL⟩ := htile p.2 _ hwf he
  exact ⟨by rwa [← hl] at hL, h⟩

end Sys2Proof.Proofs
end

section
/-! Integer and immediate words (O5). -/

namespace Sys2Proof.Proofs

open Sys2Proof Sys2Proof.Machine Sys2Proof.Safety Sys2Proof.Says Sys2Proof.Laws

/-! ## The model's patterns as bit vectors -/

theorem pat_eq_toNat (w : Nat) (i : Int) : pat w i = (BitVec.ofInt w i).toNat := by
  rw [pat, BitVec.toNat_ofInt]
  norm_cast

theorem sgn_toNat {w : Nat} (x : BitVec w) : sgn w x.toNat = x.toInt := by
  rw [sgn, Nat.mod_eq_of_lt x.isLt, BitVec.toInt_eq_toNat_cond]
  rcases w with _ | w
  · simp [BitVec.of_length_zero]
  · have := Nat.pow_succ (n := 2) (m := w)
    split <;> split <;> (push_cast; simp_all; try omega)

theorem sext64_toNat {w : Nat} (x : BitVec w) : sext64 w x.toNat = x.signExtend 64 := by
  rw [sext64, sgn_toNat, BitVec.signExtend]

/-! ## Operations of ALU at any width -/

theorem rotL_toNat {w : Nat} (hw : 0 < w) (x : BitVec w) (k : Nat) : rotL w x.toNat k = (x.rotateLeft k).toNat := by
  have hr : k % w < w := Nat.mod_lt _ hw
  have hlow : x.toNat >>> (w - k % w) < 2 ^ (k % w) := by
    rw [Nat.shiftRight_eq_div_pow, Nat.div_lt_iff_lt_mul (by positivity), ← pow_add, Nat.add_sub_cancel' hr.le]
    exact x.isLt
  rw [rotL, BitVec.toNat_rotateLeft, ← Nat.shiftLeft_eq, ← Nat.shiftRight_eq_div_pow, Nat.shiftLeft_add_eq_or_of_lt hlow, Nat.or_mod_two_pow,
    Nat.mod_eq_of_lt (hlow.trans (Nat.pow_lt_pow_right (by decide) hr))]

theorem rotateLeft_sub {w : Nat} (hw : 0 < w) (x : BitVec w) (k : Nat) : x.rotateLeft (w - k % w) = x.rotateRight k := by
  rw [BitVec.rotateLeft_def, BitVec.rotateRight_def]
  have hr : k % w < w := Nat.mod_lt _ hw
  rcases Nat.eq_zero_or_pos (k % w) with h | h
  · rw [h, Nat.sub_zero, Nat.mod_self, BitVec.shiftLeft_zero, BitVec.ushiftRight_zero, Nat.sub_zero, BitVec.shiftLeft_eq_zero le_rfl,
      BitVec.ushiftRight_eq_zero le_rfl]
  · rw [Nat.mod_eq_of_lt (by omega), Nat.sub_sub_self hr.le, BitVec.or_comm]

theorem rotR_toNat {w : Nat} (hw : 0 < w) (x : BitVec w) (k : Nat) : rotR w x.toNat k = (x.rotateRight k).toNat := by
  rw [rotR, rotL_toNat hw, rotateLeft_sub hw]

/-- The high half of an integer's pattern. -/
theorem extractLsb'_ofInt (w : Nat) (i : Int) : (BitVec.ofInt (w + w) i).extractLsb' w w = BitVec.ofInt w (i / 2 ^ w) := by
  have hn : (0 : Int) < 2 ^ w := by positivity
  have hdiv : i % (2 ^ w * 2 ^ w) / 2 ^ w = i / 2 ^ w % 2 ^ w := by
    rw [Int.emod_def i, Int.emod_def (i / 2 ^ w), Int.ediv_ediv_of_nonneg hn.le, mul_assoc, Int.sub_mul_ediv_left _ _ hn.ne']
  apply BitVec.eq_of_toNat_eq
  rw [BitVec.extractLsb'_toNat, BitVec.toNat_ofInt, BitVec.toNat_ofInt, Nat.shiftRight_eq_div_pow]
  zify
  rw [Int.toNat_of_nonneg (Int.emod_nonneg _ (by positivity)), Int.toNat_of_nonneg (Int.emod_nonneg _ (by positivity)), pow_add, hdiv, Int.emod_emod]

theorem ofInt_tdiv {w : Nat} (x y : BitVec w) : BitVec.ofInt w (x.toInt.tdiv y.toInt) = x.sdiv y := by
  rw [← BitVec.toInt_inj, BitVec.toInt_ofInt, BitVec.toInt_sdiv]

theorem ofInt_tmod {w : Nat} (x y : BitVec w) : BitVec.ofInt w (x.toInt.tmod y.toInt) = x.srem y := by
  rw [← BitVec.toInt_srem, BitVec.ofInt_toInt]

theorem clampInt_eq {lo hi : Int} (h : lo ≤ hi) (x : Int) : clampInt lo hi x = max lo (min hi x) := by
  unfold clampInt
  split <;> [skip; split] <;> omega

theorem smin_le_smax (w : Nat) : smin w ≤ smax w := by
  have : (0 : Int) < 2 ^ (w - 1) := by positivity
  unfold smin smax
  omega

theorem satS_eq_saturate (w : Nat) (i : Int) : satS w i = (saturate w i).toNat := by
  rw [satS, pat_eq_toNat, clampInt_eq (smin_le_smax w)]
  rfl

theorem toNat_eq_zero_iff {w : Nat} (y : BitVec w) : y.toNat = 0 ↔ y = 0 := by
  rw [← BitVec.toNat_inj]
  rfl

theorem divS_toNat {w : Nat} (x y : BitVec w) : divS w x.toNat y.toNat = (if y = 0 then BitVec.allOnes w else x.sdiv y).toNat := by
  simp only [divS, toNat_eq_zero_iff, sgn_toNat, pat_eq_toNat, ofInt_tdiv]
  split <;> simp

theorem divU_toNat {w : Nat} (x y : BitVec w) : divU w x.toNat y.toNat = (if y = 0 then BitVec.allOnes w else x.udiv y).toNat := by
  simp only [divU, toNat_eq_zero_iff]
  split <;> simp

theorem remS_toNat {w : Nat} (x y : BitVec w) : remS w x.toNat y.toNat = (if y = 0 then x else x.srem y).toNat := by
  simp only [remS, toNat_eq_zero_iff, sgn_toNat, pat_eq_toNat, ofInt_tmod]
  split <;> rfl

theorem remU_toNat {w : Nat} (x y : BitVec w) : remU x.toNat y.toNat = (if y = 0 then x else x.umod y).toNat := by
  simp only [remU, toNat_eq_zero_iff]
  split <;> simp

theorem sshiftRight_toNat {w : Nat} (x : BitVec w) (k : Nat) : pat w (sgn w x.toNat / 2 ^ k) = (x.sshiftRight k).toNat := by
  rw [sgn_toNat, pat_eq_toNat, BitVec.sshiftRight, Int.shiftRight_eq_div_pow]
  norm_cast

theorem mulh_toNat {w : Nat} (x y : BitVec w) :
    pat w (sgn w x.toNat * sgn w y.toNat / 2 ^ w) = ((x.signExtend (w + w) * y.signExtend (w + w)).extractLsb' w w).toNat := by
  rw [sgn_toNat, sgn_toNat, pat_eq_toNat, ← extractLsb'_ofInt, BitVec.ofInt_mul, BitVec.signExtend, BitVec.signExtend]

theorem setWidth_eq_ofInt {w : Nat} (x : BitVec w) (v : Nat) : x.setWidth v = BitVec.ofInt v (x.toNat : Int) := by
  rw [BitVec.ofInt_natCast, BitVec.ofNat_toNat]

theorem mulhsn_toNat {w : Nat} (x y : BitVec w) :
    pat w (sgn w x.toNat * (y.toNat : Int) / 2 ^ w) = ((x.signExtend (w + w) * y.setWidth (w + w)).extractLsb' w w).toNat := by
  rw [sgn_toNat, pat_eq_toNat, ← extractLsb'_ofInt, BitVec.ofInt_mul, setWidth_eq_ofInt, BitVec.signExtend]

theorem mulhn_toNat {w : Nat} (x y : BitVec w) :
    x.toNat * y.toNat / 2 ^ w = ((x.setWidth (w + w) * y.setWidth (w + w)).extractLsb' w w).toNat := by
  have hlt : x.toNat * y.toNat / 2 ^ w < 2 ^ w :=
    Nat.div_lt_of_lt_mul (Nat.mul_lt_mul'' x.isLt y.isLt)
  rw [setWidth_eq_ofInt, setWidth_eq_ofInt, ← BitVec.ofInt_mul, extractLsb'_ofInt, ← Nat.cast_mul]
  norm_cast
  rw [BitVec.ofInt_natCast, BitVec.toNat_ofNat, Nat.mod_eq_of_lt hlt]

theorem sub_toNat {w : Nat} (x y : BitVec w) : (x.toNat + (2 ^ w - y.toNat)) % 2 ^ w = (x - y).toNat := by
  rw [BitVec.toNat_sub, Nat.add_comm]

theorem andn_toNat {w : Nat} (x y : BitVec w) : x.toNat &&& (2 ^ w - 1 - y.toNat) = (x &&& ~~~y).toNat := by
  rw [BitVec.toNat_and, BitVec.toNat_not]

theorem orn_toNat {w : Nat} (x y : BitVec w) : x.toNat ||| (2 ^ w - 1 - y.toNat) = (x ||| ~~~y).toNat := by
  rw [BitVec.toNat_or, BitVec.toNat_not]

theorem shiftLeft_toNat {w : Nat} (x : BitVec w) (k : Nat) : x.toNat * 2 ^ k % 2 ^ w = (x <<< k).toNat := by
  rw [BitVec.toNat_shiftLeft, Nat.shiftLeft_eq]

theorem ushiftRight_toNat {w : Nat} (x : BitVec w) (k : Nat) : x.toNat / 2 ^ k = (x >>> k).toNat := by
  rw [BitVec.toNat_ushiftRight, Nat.shiftRight_eq_div_pow]

theorem rol_toNat {w : Nat} (hw : 0 < w) (x : BitVec w) (k : Nat) : rotL w x.toNat k = (x.rotateLeft (k % w)).toNat := by
  rw [rotL_toNat hw, BitVec.rotateLeft_mod_eq_rotateLeft]

theorem ror_toNat {w : Nat} (hw : 0 < w) (x : BitVec w) (k : Nat) : rotR w x.toNat k = (x.rotateRight (k % w)).toNat := by
  rw [rotR_toNat hw, BitVec.rotateRight_mod_eq_rotateRight]

/-- The model compares by `≤` and the rows by `<`: where the operands are equal either may be taken. -/
theorem min_toNat {w : Nat} (x y : BitVec w) :
    (if sgn w x.toNat ≤ sgn w y.toNat then x.toNat else y.toNat) = (if x.slt y then x else y).toNat := by
  rw [sgn_toNat, sgn_toNat, BitVec.slt]
  rcases lt_trichotomy x.toInt y.toInt with h | h | h
  · simp [h, h.le]
  · rw [BitVec.eq_of_toInt_eq h]
    simp
  · simp [h.not_gt, h.not_ge]

theorem max_toNat {w : Nat} (x y : BitVec w) :
    (if sgn w x.toNat ≤ sgn w y.toNat then y.toNat else x.toNat) = (if x.slt y then y else x).toNat := by
  rw [sgn_toNat, sgn_toNat, BitVec.slt]
  rcases lt_trichotomy x.toInt y.toInt with h | h | h
  · simp [h, h.le]
  · rw [BitVec.eq_of_toInt_eq h]
    simp
  · simp [h.not_gt, h.not_ge]

theorem minn_toNat {w : Nat} (x y : BitVec w) : (if x.toNat ≤ y.toNat then x.toNat else y.toNat) = (if x < y then x else y).toNat := by
  rw [apply_ite BitVec.toNat]
  simp only [BitVec.lt_def]
  split <;> split <;> omega

theorem maxn_toNat {w : Nat} (x y : BitVec w) : (if x.toNat ≤ y.toNat then y.toNat else x.toNat) = (if x < y then y else x).toNat := by
  rw [apply_ite BitVec.toNat]
  simp only [BitVec.lt_def]
  split <;> split <;> omega

theorem addsat_toNat {w : Nat} (x y : BitVec w) :
    satS w (sgn w x.toNat + sgn w y.toNat) = (saturate w (x.toInt + y.toInt)).toNat := by
  rw [sgn_toNat, sgn_toNat, satS_eq_saturate]

theorem subsat_toNat {w : Nat} (x y : BitVec w) :
    satS w (sgn w x.toNat - sgn w y.toNat) = (saturate w (x.toInt - y.toInt)).toNat := by
  rw [sgn_toNat, sgn_toNat, satS_eq_saturate]

/-! ## ALU words -/

/-- On the patterns of `w`-bit operands, `g` gives the pattern of `f`. -/
def OnPatterns (g : Nat → Nat → Nat → Nat) (f : (w : Nat) → BitVec w → BitVec w → BitVec w) : Prop :=
  ∀ (w : Nat), 0 < w → ∀ x y : BitVec w, g w x.toNat y.toNat = (f w x y).toNat

theorem sext64_of_onPatterns {g : Nat → Nat → Nat → Nat} {f : (w : Nat) → BitVec w → BitVec w → BitVec w} (h : OnPatterns g f)
    (sz : Sz32) (x y : W64) :
    sext64 (Machine.Sz32.width sz) (g (Machine.Sz32.width sz) (x.toNat % 2 ^ Machine.Sz32.width sz) (y.toNat % 2 ^ Machine.Sz32.width sz)) =
      sized f sz x y := by
  cases sz with
  | w64 =>
    change sext64 64 (g 64 (x.toNat % 2 ^ 64) (y.toNat % 2 ^ 64)) = f 64 x y
    rw [Nat.mod_eq_of_lt x.isLt, Nat.mod_eq_of_lt y.isLt, h 64 (by decide), sext64_toNat, BitVec.signExtend_eq]
  | w32 =>
    change sext64 32 (g 32 (x.toNat % 2 ^ 32) (y.toNat % 2 ^ 32)) = (f 32 (x.setWidth 32) (y.setWidth 32)).signExtend 64
    rw [← BitVec.toNat_setWidth, ← BitVec.toNat_setWidth, h 32 (by decide), sext64_toNat]

/-- The word runs the frame of ALU with an operation that gives the pattern of `f`. -/
def RunsAlu (p : RWord × ((w : Nat) → BitVec w → BitVec w → BitVec w)) : Prop :=
  ∃ g, (∀ (sz : Sz32) (d a b : Fin 32) (wa wb : Bool) (s : State), exec (p.1 sz d a b wa wb) s = alu s sz d a b wa wb g) ∧ OnPatterns g p.2

theorem RunsAlu.wrote {p : RWord × ((w : Nat) → BitVec w → BitVec w → BitVec w)} (hp : RunsAlu p) {s : State} {d a b : Fin 32} {x y : W64}
    (h : Two s a b x y) (hd : Writable s d) (sz : Sz32) (wa wb : Bool) :
    exec (p.1 sz d a b wa wb) s = Safety.wrote s [a, b] d (sized p.2 sz x y) true := by
  obtain ⟨g, he, hg⟩ := hp
  rw [he, alu_of h hd, sext64_of_onPatterns hg]

theorem aluTable_runsAlu : ∀ p ∈ aluTable, RunsAlu p := by
  simp only [aluTable, List.forall_mem_cons, List.not_mem_nil, false_imp_iff, implies_true, and_true]
  refine ⟨⟨_, exec_add, fun _ _ x y => (BitVec.toNat_add x y).symm⟩,
    ⟨_, exec_sub, fun _ _ x y => sub_toNat x y⟩,
    ⟨_, exec_and, fun _ _ x y => (BitVec.toNat_and x y).symm⟩,
    ⟨_, exec_or, fun _ _ x y => (BitVec.toNat_or x y).symm⟩,
    ⟨_, exec_xor, fun _ _ x y => (BitVec.toNat_xor x y).symm⟩,
    ⟨_, exec_andn, fun _ _ x y => andn_toNat x y⟩,
    ⟨_, exec_orn, fun _ _ x y => orn_toNat x y⟩,
    ⟨_, exec_sll, fun _ _ x y => shiftLeft_toNat x _⟩,
    ⟨_, exec_srl, fun _ _ x y => ushiftRight_toNat x _⟩,
    ⟨_, exec_sra, fun _ _ x y => sshiftRight_toNat x _⟩,
    ⟨_, exec_rol, fun _ hw x y => rol_toNat hw x _⟩,
    ⟨_, exec_ror, fun _ hw x y => ror_toNat hw x _⟩,
    ⟨_, exec_min, fun _ _ x y => min_toNat x y⟩,
    ⟨_, exec_max, fun _ _ x y => max_toNat x y⟩,
    ⟨_, exec_minn, fun _ _ x y => minn_toNat x y⟩,
    ⟨_, exec_maxn, fun _ _ x y => maxn_toNat x y⟩,
    ⟨_, exec_mul, fun _ _ x y => (BitVec.toNat_mul x y).symm⟩,
    ⟨_, exec_mulh, fun _ _ x y => mulh_toNat x y⟩,
    ⟨_, exec_mulhn, fun _ _ x y => mulhn_toNat x y⟩,
    ⟨_, exec_mulhsn, fun _ _ x y => mulhsn_toNat x y⟩,
    ⟨_, exec_div, fun _ _ x y => divS_toNat x y⟩,
    ⟨_, exec_divn, fun _ _ x y => divU_toNat x y⟩,
    ⟨_, exec_rem, fun _ _ x y => remS_toNat x y⟩,
    ⟨_, exec_remn, fun _ _ x y => remU_toNat x y⟩,
    ⟨_, exec_addsat, fun _ _ x y => addsat_toNat x y⟩,
    ⟨_, exec_subsat, fun _ _ x y => subsat_toNat x y⟩⟩

theorem aluWordsWriteTheirResult : AluWordsWriteTheirResult :=
  fun p hp _ sz _ _ _ wa wb _ _ h hd => (aluTable_runsAlu p hp).wrote h hd sz wa wb

/-! ## Immediates -/

section
variable {s : State} {d a : Fin 32} {x : W64} (h : One s a x) (hd : Writable s d) (wa : Bool)
include h hd

theorem immTable_words (imm : BitVec 14) :
    ∀ p ∈ immTable, exec (p.1 d a wa imm) s = wrote s [a] d (p.2 x (imm.signExtend 64)) true := by
  simp only [immTable, List.forall_mem_cons, List.not_mem_nil, false_imp_iff, implies_true, and_true]
  exact ⟨unary_of h hd wa fun x => x + imm.signExtend 64, unary_of h hd wa fun x => x &&& imm.signExtend 64,
    unary_of h hd wa fun x => x ||| imm.signExtend 64, unary_of h hd wa fun x => x ^^^ imm.signExtend 64⟩

theorem shiTable_words (k : BitVec 6) : ∀ p ∈ shiTable, exec (p.1 d a wa k) s = wrote s [a] d (p.2 x k.toNat) true := by
  simp only [shiTable, List.forall_mem_cons, List.not_mem_nil, false_imp_iff, implies_true, and_true]
  exact ⟨unary_of h hd wa fun x => x <<< k.toNat, unary_of h hd wa fun x => x >>> k.toNat,
    unary_of h hd wa fun x => x.sshiftRight k.toNat, unary_of h hd wa fun x => x.rotateRight k.toNat⟩

end

theorem li_wrote {s : State} {d : Fin 32} (hd : Writable s d) (imm : BitVec 20) :
    exec (.li d imm) s = wrote s [] d (imm.signExtend 64) true := by
  rw [exec_li, execLi, putResult_of hd, wrote, Safety.done, popped_nil]
  rfl

/-- `lih` reads its destination as its one source (R122). -/
theorem lih_wrote {s : State} {d : Fin 32} {x : W64} (h : One s d x) (hd : Writable s d) (imm : BitVec 20) :
    exec (.lih d imm) s = wrote s [d] d ((x <<< 20) ||| imm.setWidth 64) true := by
  obtain ⟨hs, hx⟩ := h
  rw [exec_lih, execLih, ← curOf_nil, srcX_of hs hx, commit_curOf, putResult_of hd, finish_pop_done]
  rfl

/-- Settles O5: each word of ALU runs its frame with an operation that gives, on the patterns of its width, the pattern of its row. -/
theorem integerWordsWriteTheirResult : Obligations.IntegerWordsWriteTheirResult :=
  ⟨aluWordsWriteTheirResult, fun p hp _ _ _ wa imm _ h hd => immTable_words h hd wa imm p hp,
    fun p hp _ _ _ wa k _ h hd => shiTable_words h hd wa k p hp, fun _ _ imm hd => li_wrote hd imm,
    fun _ _ imm _ h hd => lih_wrote h hd imm⟩

end Sys2Proof.Proofs
end

section
/-! Scalar floating-point words (O4). -/

namespace Sys2Proof.Proofs

open Sys2Proof Sys2Proof.Machine Sys2Proof.Safety Sys2Proof.Says Sys2Proof.Laws

/-! ## The sign operations -/

theorem fmtOf_signBit (f : FEt) : (fmtOf f).signBit = 2 ^ ((fmtOf f).width - 1) := by
  rw [Fmt.signBit, Fmt.width, show 1 + (fmtOf f).ew + (fmtOf f).fw - 1 = (fmtOf f).ew + (fmtOf f).fw by omega]

theorem fabsBits_eq (f : FEt) (x : Nat) : fabsBits (fmtOf f) x = x % 2 ^ ((fmtOf f).width - 1) := by
  rw [fabsBits, fmtOf_signBit]

theorem fnegBits_fpBits (f : FEt) (x : W64) : fnegBits (fmtOf f) (fpBits f x) = low f x ^^^ 2 ^ ((fmtOf f).width - 1) := by
  rw [fnegBits, fmtOf_signBit, fpBits, Nat.mod_mod]
  rfl

/-- The sign of a source is bit `width - 1` of its register. -/
theorem bits_sign_fpBits (f : FEt) (y : W64) :
    bits (fpBits f y) ((fmtOf f).ew + (fmtOf f).fw) 1 = (y.getLsbD ((fmtOf f).width - 1)).toNat := by
  have hw : (fmtOf f).width - 1 = (fmtOf f).ew + (fmtOf f).fw := by rw [Fmt.width]; omega
  rw [bits, fpBits, hw, BitVec.getLsbD, pow_one, ← Nat.toNat_testBit, Nat.testBit_mod_two_pow, decide_eq_true (by rw [Fmt.width]; omega),
    Bool.true_and]

theorem fsgnjBits_fpBits (f : FEt) (x y : W64) : fsgnjBits (fmtOf f) (fpBits f x) (fpBits f y) =
    low f x % 2 ^ ((fmtOf f).width - 1) + (y.getLsbD ((fmtOf f).width - 1)).toNat * 2 ^ ((fmtOf f).width - 1) := by
  rw [fsgnjBits, bits_sign_fpBits, fmtOf_signBit]
  rfl

/-! ## The words -/

section
variable {s : State} {d a b : Fin 32} {x y : W64} (f : FEt) (wa wb : Bool) (hd : Writable s d)
include hd

theorem fpTable_words (h : Two s a b x y) : ∀ p ∈ fpTable,
    let r := p.2 f s.c.status.rm x y
    exec (p.1 f d a b wa wb) s = wroteFlags s [a, b] d r.2 (.ofNat 64 r.1) true := by
  have hw := fpBinary_of h hd f wa wb
  simp only [fpTable, List.forall_mem_cons, List.not_mem_nil, false_imp_iff, implies_true, and_true]
  refine ⟨hw Machine.fadd, hw Machine.fsub, hw Machine.fmul, hw Machine.fdiv, hw fun f _ => minmaxF f false, hw fun f _ => minmaxF f true, ?_⟩
  rw [← fsgnjBits_fpBits]
  exact hw fun f _ x y => (fsgnjBits f x y, 0)

theorem fpTable1_words (h : One s a x) : ∀ p ∈ fpTable1,
    let r := p.2 f s.c.status.rm x
    exec (p.1 f d a wa) s = wroteFlags s [a] d r.2 (.ofNat 64 r.1) true := by
  have hw := fpUnary_of h hd wa
  simp only [fpTable1, List.forall_mem_cons, List.not_mem_nil, false_imp_iff, implies_true, and_true]
  refine ⟨hw fun m x => Machine.fsqrt (fmtOf f) m (fpBits f x), ?_, ?_, hw fun _ x => (Machine.fclass (fmtOf f) (fpBits f x), 0),
    hw fun m x => fToInt (fmtOf f) m true 64 (fpBits f x), hw fun m x => fToInt (fmtOf f) m false 64 (fpBits f x),
    hw fun m x => fOfInt (fmtOf f) m x.toInt, hw fun m x => fOfInt (fmtOf f) m x.toNat⟩
  · rw [← fabsBits_eq]
    exact hw fun _ x => (fabsBits (fmtOf f) (fpBits f x), 0)
  · rw [← fnegBits_fpBits]
    exact hw fun _ x => (fnegBits (fmtOf f) (fpBits f x), 0)

theorem fcmpTable_words (h : Two s a b x y) : ∀ p ∈ fcmpTable,
    let r := fcmp (fmtOf f) p.2 (low f x) (low f y)
    exec (p.1 f d a b wa wb) s = wroteFlags s [a, b] d r.2 (if r.1 then 1 else 0) r.1 := by
  have hw := fcmpWord_of h hd f wa wb
  simp only [fcmpTable, List.forall_mem_cons, List.not_mem_nil, false_imp_iff, implies_true, and_true]
  exact ⟨hw .eq, hw .lt, hw .le, hw .un⟩

end

/-- Settles O4: each word runs its frame (Laws/Words.lean) with the operation of its row; the sign operations are those of the patterns. -/
theorem floatWordsWriteTheirResult : Obligations.FloatWordsWriteTheirResult :=
  ⟨fun p hp _ f _ _ _ wa wb _ _ h hd => fpTable_words f wa wb hd h p hp,
    fun p hp _ f _ _ wa _ h hd => fpTable1_words f wa hd h p hp,
    fun _ dst src _ _ wa _ h hd => fpUnary_of h hd wa fun m x => fConv (fmtOf dst) (fmtOf src) m (fpBits src x),
    fun _ f _ _ _ wa wb _ _ _ h hd => ⟨fpTernary_of h hd f wa wb ffma, fpTernary_of h hd f wa wb ffnma⟩,
    fun p hp _ f _ _ _ wa wb _ _ h hd => fcmpTable_words f wa wb hd h p hp⟩

end Sys2Proof.Proofs
end

section
/-! Vector registers as lanes, and the frames of the word-wise words (R148 to R153). -/

namespace Sys2Proof.Proofs

open Sys2Proof Sys2Proof.Machine Sys2Proof.Safety Sys2Proof.Says Sys2Proof.Laws

/-! ## Lanes of a number -/

theorem lanes_eq_map (w n x : Nat) : lanes w n x = (List.range n).map fun i => x / 2 ^ (w * i) % 2 ^ w := by
  induction n generalizing x with
  | zero => rfl
  | succ n ih =>
    simp only [lanes, List.range_succ_eq_map, List.map_cons, List.map_map, ih, Nat.mul_zero, pow_zero, Nat.div_one, Function.comp_def,
      Nat.div_div_eq_div_mul, ← pow_add, Nat.succ_eq_add_one, Nat.mul_add, Nat.mul_one, Nat.add_comm w]

theorem testBit_ofLanes {w : Nat} (hw : 0 < w) (l : List Nat) (j : Nat) : (ofLanes w l).testBit j = (l.getD (j / w) 0).testBit (j % w) := by
  induction l generalizing j with
  | nil => simp [ofLanes]
  | cons x l ih =>
    rw [ofLanes, Nat.add_comm, Nat.testBit_two_pow_mul_add _ (Nat.mod_lt _ (by positivity))]
    split
    · next h => rw [Nat.div_eq_of_lt h, Nat.mod_eq_of_lt h, List.getD_cons_zero, Nat.testBit_mod_two_pow, decide_eq_true h, Bool.true_and]
    · next h =>
      have hj : j = j - w + w := by omega
      rw [ih, hj, Nat.add_div_right _ hw, Nat.add_mod_right, ← hj, List.getD_cons_succ]

theorem ofLanes_eq_sum (w n : Nat) (f : Nat → Nat) (hf : ∀ i, f i < 2 ^ w) :
    ofLanes w ((List.range n).map f) = ((List.range n).map fun i => f i * 2 ^ (w * i)).sum := by
  induction n generalizing f with
  | zero => rfl
  | succ n ih =>
    rw [List.range_succ_eq_map, List.map_cons, List.map_map, ofLanes, ih (f ∘ Nat.succ) fun _ => hf _, List.map_cons, List.map_map, List.sum_cons,
      Nat.mod_eq_of_lt (hf 0), ← List.sum_map_mul_left]
    simp only [Nat.mul_zero, pow_zero, Nat.mul_one, Function.comp_def, Nat.succ_eq_add_one, Nat.mul_add, pow_add, Nat.mul_one]
    congr 3
    ext i
    ring

/-! ## Lanes of a register -/

theorem lane_toNat (w : Nat) (x : W512) (i : Nat) : (Says.lane w x i).toNat = x.toNat / 2 ^ (w * i) % 2 ^ w := by
  rw [Says.lane, BitVec.extractLsb'_toNat, Nat.shiftRight_eq_div_pow]

theorem vlanes_eq_map (w : Nat) (x : W512) : vlanes w x = (List.range (512 / w)).map fun i => (Says.lane w x i).toNat := by
  simp only [vlanes, lanes_eq_map, lane_toNat]

theorem ofLane_eq_ofLanes (w : Nat) (g : Nat → BitVec w) :
    ofLane w g = .ofNat 512 (ofLanes w ((List.range (512 / w)).map fun i => (g i).toNat)) := by
  rw [ofLane, ofLanes_eq_sum _ _ _ fun i => (g i).isLt]

/-- Bit `j` of a register made of lanes. -/
theorem getLsbD_ofLanes {w : Nat} (hw : 0 < w) (l : List Nat) (j : Nat) (hj : j < 512) :
    (BitVec.ofNat 512 (ofLanes w l)).getLsbD j = (l.getD (j / w) 0).testBit (j % w) := by
  rw [BitVec.getLsbD_ofNat, decide_eq_true hj, Bool.true_and, testBit_ofLanes hw]

theorem getLsbD_ofLane {w : Nat} (hw : 0 < w) (g : Nat → BitVec w) (j : Nat) (hj : j < w * (512 / w)) :
    (ofLane w g).getLsbD j = (g (j / w)).getLsbD (j % w) := by
  have hi : j / w < 512 / w := by rwa [Nat.div_lt_iff_lt_mul hw, Nat.mul_comm]
  rw [ofLane_eq_ofLanes, getLsbD_ofLanes hw _ _ (hj.trans_le (Nat.mul_div_le _ _)), BitVec.getLsbD]
  simp [hi]

theorem testBit_lane64 (x : W512) (k i : Nat) (hi : i < 64) : (Machine.lane 64 x.toNat k).testBit i = x.getLsbD (64 * k + i) := by
  rw [Machine.lane, bits, Nat.testBit_mod_two_pow, decide_eq_true hi, Bool.true_and, Nat.testBit_div_two_pow, Nat.add_comm]
  rfl

/-- The merge by words selects each bit by the V bit of its word (R150). -/
theorem mergeWords_eq_selected (act : BitVec 8) (old new : W512) : mergeWords act old new = selected act old new := by
  apply BitVec.eq_of_getLsbD_eq
  intro j hj
  have hk : j / 64 < 8 := by omega
  have hsplit : 64 * (j / 64) + j % 64 = j := Nat.div_add_mod j 64
  have hi : j % 64 < 64 := Nat.mod_lt _ (by decide)
  have hm : ∀ c : Bool, (if c then BitVec.allOnes 64 else 0).getLsbD (j % 64) = c := by
    rintro (_ | _)
    · exact BitVec.getLsbD_zero
    · rw [if_pos rfl, BitVec.getLsbD_allOnes, decide_eq_true hi]
  rw [mergeWords, getLsbD_ofLanes (by decide) _ _ hj, selected]
  simp only [BitVec.getLsbD_or, BitVec.getLsbD_and, BitVec.getLsbD_not, getLsbD_ofLane (w := 64) (by decide) _ j hj, hj, hm, decide_true,
    Bool.true_and, List.getD_eq_getElem?_getD, List.getElem?_map, List.getElem?_range hk, Option.map_some, Option.getD_some]
  cases act.getLsbD (j / 64) <;> simp [testBit_lane64 _ _ _ hi, hsplit]

theorem writeWords_eq_wordWise (s : State) (d : Fin 32) (act : BitVec 8) (new : W512) : writeWords s d act new = wordWise s d act new := by
  simp only [writeWords, wordWise, mergeWords_eq_selected]

/-! ## The word-wise frames -/

/-- `f` over the lanes of active words (R89, R150). -/
theorem mapLanes_range (w : Nat) (act : BitVec 8) (f : Nat → Nat → Nat → FRes) (g h k : Nat → Nat) (n i : Nat) :
    mapLanes w act f i ((List.range n).map g) ((List.range n).map h) ((List.range n).map k) =
      (List.range n).map fun j => if laneOn act w (i + j) then f (g j) (h j) (k j) else (0, 0) := by
  induction n generalizing i g h k with
  | zero => rfl
  | succ n ih =>
    simp only [List.range_succ_eq_map, List.map_cons, List.map_map, mapLanes, Function.comp_def, ih, Nat.add_zero, Nat.succ_eq_add_one,
      Nat.add_assoc, Nat.add_comm 1]

theorem mapLanes_vlanes (w : Nat) (act : BitVec 8) (f : Nat → Nat → Nat → FRes) (x y z : W512) :
    mapLanes w act f 0 (vlanes w x) (vlanes w y) (vlanes w z) =
      active w act fun i => f (Says.lane w x i).toNat (Says.lane w y i).toNat (Says.lane w z i).toNat := by
  simp only [vlanes_eq_map, mapLanes_range, Nat.zero_add]
  rfl

section
variable {s : State} {d a b : Fin 32} {x y z : W512} {v u t : BitVec 8} (hs : Sound s)

theorem putLanes_of (hd : WritableV s d) (act : BitVec 8) (w : Nat) (l : List FRes) :
    putLanes s d act w l = .done (floatWise s d act w l) := by
  rw [putLanes, dstV_of hd, writeWords_eq_wordWise]
  rfl

include hs

theorem vec1_of (ha : vector s [] a = some (x, v)) (hd : WritableV s d) (w : Nat) (f : Nat → FRes) :
    vec1 s w d a f = done (floatWise s d v w (active w v fun i => f (Says.lane w x i).toNat)) [a] := by
  rw [vec1, ← curOf_nil, srcV_of hs ha, commit_curOf, putLanes_of hd, finish_pop_done, mapLanes_vlanes]
  rfl

theorem vec2_of (ha : vector s [] a = some (x, v)) (hb : vector s [a] b = some (y, u)) (hd : WritableV s d) (w : Nat)
    (f : Nat → Nat → FRes) : vec2 s w d a b f = done (floatWise s d (v &&& u) w (active w (v &&& u) fun i =>
      f (Says.lane w x i).toNat (Says.lane w y i).toNat)) [a, b] := by
  rw [vec2, ← curOf_nil, srcV_of hs ha, List.nil_append, srcV_of hs hb, commit_curOf, putLanes_of hd, finish_pop_done, mapLanes_vlanes]
  rfl

theorem vec3_of (ha : vector s [] a = some (x, v)) (hb : vector s [a] b = some (y, u)) (hz : vector s [a, b] d = some (z, t))
    (hd : WritableV s d) (w : Nat) (f : Nat → Nat → Nat → FRes) :
    vec3 s w d a b f = done (floatWise s d (v &&& u &&& t) w (active w (v &&& u &&& t) fun i =>
      f (Says.lane w x i).toNat (Says.lane w y i).toNat (Says.lane w z i).toNat)) [a, b, d] := by
  rw [vec3, ← curOf_nil, srcV_of hs ha, List.nil_append, srcV_of hs hb, List.cons_append, List.nil_append, srcV_of hs hz]
  simp only [commit_curOf]
  rw [putLanes_of hd, finish_pop_done, mapLanes_vlanes]
  rfl

end

end Sys2Proof.Proofs
end

section
/-! Floating-point vector words (O28). -/

namespace Sys2Proof.Proofs

open Sys2Proof Sys2Proof.Machine Sys2Proof.Safety Sys2Proof.Says Sys2Proof.Laws

theorem fetWidth_eq_fbits : fetWidth = fbits := by
  funext e
  cases e <;> rfl

theorem fnegBits_lane (e : FEt) (x : W512) (i : Nat) :
    fnegBits (fmtOf e) (Says.lane (fetWidth e) x i).toNat = (Says.lane (fetWidth e) x i).toNat ^^^ 2 ^ ((fmtOf e).width - 1) := by
  rw [fnegBits, fmtOf_signBit, Nat.mod_eq_of_lt (show _ < 2 ^ (fmtOf e).width from (Says.lane (fetWidth e) x i).isLt)]

theorem mod_div_mod_two_pow (a : Nat) {m p q : Nat} (h : p + q ≤ m) : a % 2 ^ m / 2 ^ p % 2 ^ q = a / 2 ^ p % 2 ^ q := by
  apply Nat.eq_of_testBit_eq
  intro i
  simp only [Nat.testBit_mod_two_pow, Nat.testBit_div_two_pow]
  by_cases hi : i < q
  · rw [decide_eq_true (show i + p < m by omega), Bool.true_and]
  · rw [decide_eq_false hi, Bool.false_and, Bool.false_and]

/-- A lane of width `w` inside one of width `2 * w`. -/
theorem lane_half (w : Nat) (x : W512) (i : Nat) {k : Nat} (hk : k < 2) :
    (Says.lane (2 * w) x i).toNat / 2 ^ (w * k) % 2 ^ w = (Says.lane w x (2 * i + k)).toNat := by
  rw [lane_toNat, lane_toNat, mod_div_mod_two_pow _ (by nlinarith), Nat.div_div_eq_div_mul, ← pow_add]
  congr 3
  ring

section
variable {s : State} {d a b : Fin 32} {x y z : W512} {v u t : BitVec 8} (e : FEt) (hs : Sound s)
include hs

theorem vfltTable_words (ha : vector s [] a = some (x, v)) (hb : vector s [a] b = some (y, u)) (hd : WritableV s d) : ∀ p ∈ vfltTable,
    exec (p.1 e d a b) s = done (floatWise s d (v &&& u) (fetWidth e) (active (fetWidth e) (v &&& u) fun i =>
      p.2 (fmtOf e) s.c.status.rm (Says.lane (fetWidth e) x i).toNat (Says.lane (fetWidth e) y i).toNat)) [a, b] := by
  have hw (f : Fmt → Rm → Nat → Nat → FRes) := vec2_of hs ha hb hd (fetWidth e) (f (fmtOf e) s.c.status.rm)
  simp only [vfltTable, List.forall_mem_cons, List.not_mem_nil, false_imp_iff, implies_true, and_true]
  exact ⟨hw Machine.fadd, hw Machine.fsub, hw Machine.fmul, hw Machine.fdiv, hw fun f _ => minmaxF f false, hw fun f _ => minmaxF f true,
    hw fun f _ x y => maskRes f (Machine.fcmp f .eq x y), hw fun f _ x y => maskRes f (Machine.fcmp f .lt x y),
    hw fun f _ x y => maskRes f (Machine.fcmp f .le x y)⟩

theorem vfltTable1_words (ha : vector s [] a = some (x, v)) (hd : WritableV s d) : ∀ p ∈ vfltTable1,
    exec (p.1 e d a) s = done (floatWise s d v (fetWidth e) (active (fetWidth e) v fun i =>
      p.2 (fmtOf e) s.c.status.rm (Says.lane (fetWidth e) x i).toNat)) [a] := by
  have hw (f : Fmt → Rm → Nat → FRes) := vec1_of hs ha hd (fetWidth e) (f (fmtOf e) s.c.status.rm)
  simp only [vfltTable1, List.forall_mem_cons, List.not_mem_nil, false_imp_iff, implies_true, and_true]
  refine ⟨hw Machine.fsqrt, ?_, ?_, hw fun f _ => rcp f, hw fun f _ => rsqrt f, hw fun f _ => Machine.exp2 f, hw fun f _ => Machine.log2 f⟩
  · simp only [← fabsBits_eq]
    exact hw fun f _ x => (fabsBits f x, 0)
  · simp only [← fnegBits_lane]
    exact hw fun f _ x => (fnegBits f x, 0)

variable (ha : vector s [] a = some (x, v)) (hb : vector s [a] b = some (y, u)) (hz : vector s [a, b] d = some (z, t)) (hd : WritableV s d)
include ha hb hz hd

/-- The wide lane of `vfdot` adds the products of its two halves to the addend (R162). -/
theorem vfdot_of (he : e ≠ .f64) :
    exec (.vfdot e d a b) s = done (floatWise s d (v &&& u &&& t) (2 * fetWidth e) (active (2 * fetWidth e) (v &&& u &&& t) fun i =>
      sum3 (if e = .f32 then fmtOf .f64 else f32) s.c.status.rm ((fmtOf e).decode (Says.lane (fetWidth e) x (2 * i)).toNat)
        ((fmtOf e).decode (Says.lane (fetWidth e) y (2 * i)).toNat) ((fmtOf e).decode (Says.lane (fetWidth e) x (2 * i + 1)).toNat)
        ((fmtOf e).decode (Says.lane (fetWidth e) y (2 * i + 1)).toNat)
        ((if e = .f32 then fmtOf .f64 else f32).decode (Says.lane (2 * fetWidth e) z i).toNat))) [a, b, d] := by
  have hq : (if e = .f32 then fmtOf .f64 else f32) = wideFmt e := by
    cases e with
    | f64 => exact absurd rfl he
    | _ => rfl
  have h0 (x : W512) (i : Nat) := lane_half (fetWidth e) x i (k := 0) (by decide)
  have h1 (x : W512) (i : Nat) := lane_half (fetWidth e) x i (k := 1) (by decide)
  simp only [hq, Nat.add_zero] at h0 ⊢
  simp only [← h0, ← h1]
  exact vec3_of hs ha hb hz hd (2 * fetWidth e) fun x y z => sum3 (wideFmt e) s.c.status.rm
    ((fmtOf e).decode (x / 2 ^ (fetWidth e * 0) % 2 ^ fetWidth e)) ((fmtOf e).decode (y / 2 ^ (fetWidth e * 0) % 2 ^ fetWidth e))
    ((fmtOf e).decode (x / 2 ^ (fetWidth e * 1) % 2 ^ fetWidth e)) ((fmtOf e).decode (y / 2 ^ (fetWidth e * 1) % 2 ^ fetWidth e))
    ((wideFmt e).decode z)

end

/-- Settles O28: each word runs its word-wise frame with the operation of its row. -/
theorem vectorFloatWordsActLaneByLane : Obligations.VectorFloatWordsActLaneByLane := by
  unfold Obligations.VectorFloatWordsActLaneByLane
  rw [← fetWidth_eq_fbits]
  exact ⟨fun p hp s e _ _ _ _ _ _ _ hs ha hb hd => vfltTable_words e hs ha hb hd p hp,
    fun p hp s e _ _ _ _ hs ha hd => vfltTable1_words e hs ha hd p hp,
    fun s e _ _ _ _ _ _ _ _ _ hs ha hb hz hd => ⟨vec3_of hs ha hb hz hd (fetWidth e) (ffma (fmtOf e) s.c.status.rm),
      vec3_of hs ha hb hz hd (fetWidth e) (ffnma (fmtOf e) s.c.status.rm),
      vfdot_of e hs ha hb hz hd⟩⟩

end Sys2Proof.Proofs
end

section
/-! Reductions and 2:4 packing (O30). -/

namespace Sys2Proof.Proofs

open Sys2Proof Sys2Proof.Machine Sys2Proof.Safety Sys2Proof.Says Sys2Proof.Laws

/-! ## Patterns stay within their format -/

section
variable {f : Fmt} (rm : Rm)

theorem inf_lt_signBit (f : Fmt) : f.inf < f.signBit := by
  rw [Fmt.inf, Fmt.signBit, pow_add]
  exact Nat.mul_lt_mul_of_pos_right (Nat.sub_lt (by positivity) (by decide)) (by positivity)

theorem two_pow_width (f : Fmt) : 2 ^ f.width = f.signBit + f.signBit := by
  rw [Fmt.width, Fmt.signBit, show 1 + f.ew + f.fw = f.ew + f.fw + 1 by omega, pow_succ, Nat.mul_two]

theorem signIf_le (f : Fmt) (s : Bool) : (if s then f.signBit else 0) ≤ f.signBit := by
  split <;> omega

theorem inf_sign_lt (f : Fmt) (s : Bool) : f.inf + (if s then f.signBit else 0) < 2 ^ f.width := by
  have := inf_lt_signBit f
  have := signIf_le f s
  rw [two_pow_width]
  omega

theorem signIf_lt (f : Fmt) (s : Bool) : (if s then f.signBit else 0) < 2 ^ f.width := by
  have := inf_sign_lt f s
  omega

theorem overflowTo_lt (s : Bool) : overflowTo f rm s < 2 ^ f.width := by
  have h := inf_sign_lt f s
  rw [overflowTo, Fmt.maxFin]
  refine lt_of_le_of_lt (Nat.add_le_add_right ?_ _) h
  split <;> omega

theorem roundTo_lt (s : Bool) (m : Nat) (e : Int) : (roundTo f rm s m e).1 < 2 ^ f.width := by
  unfold roundTo
  dsimp only
  split
  · exact signIf_lt f s
  · split
    · exact overflowTo_lt rm s
    · have := inf_lt_signBit f
      have := signIf_le f s
      rw [two_pow_width]
      dsimp only
      omega

theorem roundInt_lt (v e : Int) (z : Bool) : (roundInt f rm v e z).1 < 2 ^ f.width := by
  unfold roundInt
  split
  · exact signIf_lt f z
  · exact roundTo_lt rm _ _ _

theorem nan_lt : f.nan < 2 ^ f.width := by
  have h1 : f.inf + 2 ^ f.fw ≤ f.signBit := by
    rw [Fmt.inf, Fmt.signBit, pow_add, ← Nat.succ_mul]
    exact Nat.mul_le_mul_right _ (Nat.sub_lt (by positivity) (by decide))
  have h2 : 2 ^ (f.fw - 1) ≤ 2 ^ f.fw := Nat.pow_le_pow_right (by decide) (Nat.sub_le _ _)
  have h3 : 0 < f.signBit := by rw [Fmt.signBit]; positivity
  rw [Fmt.nan, two_pow_width]
  omega

theorem addFl_lt (a b : Fl) : (addFl f rm a b).1 < 2 ^ f.width := by
  unfold addFl
  split
  · exact roundInt_lt rm _ _ _
  · split
    · exact inf_sign_lt f _
    · exact nan_lt
  · exact inf_sign_lt f _
  · exact inf_sign_lt f _
  · exact nan_lt

theorem minmaxF_lt (mx : Bool) (x y : Nat) : (minmaxF f mx x y).1 < 2 ^ f.width := by
  have hx : ∀ x : Nat, x % 2 ^ f.width < 2 ^ f.width := fun x => Nat.mod_lt _ (by positivity)
  unfold minmaxF
  dsimp only
  split
  · dsimp only
    split
    · exact nan_lt
    · exact hx y
  · split
    · exact hx x
    · split <;> dsimp only <;> split <;> exact hx _

end

/-! ## Reductions -/

theorem letWidth_eq_lbits : letWidth = lbits := by
  funext e
  rcases e with e | e <;> cases e <;> rfl

theorem pat_lt (w : Nat) (i : Int) : pat w i < 2 ^ w := by
  rw [pat_eq_toNat]
  exact (BitVec.ofInt w i).isLt

theorem redIdentity_lt (op : RedOp) (e : LEt) : redIdentity op e < 2 ^ letWidth e := by
  cases e with
  | int t =>
    cases op with
    | add => exact Nat.two_pow_pos _
    | max | min => exact pat_lt _ _
  | flt f =>
    cases op with
    | add => exact signIf_lt (fmtOf f) true
    | max => exact inf_sign_lt (fmtOf f) true
    | min => exact inf_sign_lt (fmtOf f) false

theorem redFn_lt (op : RedOp) (rm : Rm) (e : LEt) {x y : Nat} (hx : x < 2 ^ letWidth e) (hy : y < 2 ^ letWidth e) :
    (redFn op rm e x y).1 < 2 ^ letWidth e := by
  cases e with
  | int t =>
    cases op with
    | add => exact Nat.mod_lt _ (Nat.two_pow_pos _)
    | max | min => unfold redFn; dsimp only; split <;> assumption
  | flt f =>
    cases op with
    | add => exact addFl_lt rm _ _
    | max | min => exact minmaxF_lt _ _ _

section
variable {f : Nat → Nat → FRes} {n : Nat} (hf : ∀ x y, x < n → y < n → (f x y).1 < n)
include hf

theorem treeLevel_lt (l : List FRes) (hl : ∀ r ∈ l, r.1 < n) : ∀ r ∈ treeLevel f l, r.1 < n := by
  induction l using treeLevel.induct with
  | case1 x y r ih =>
    simp only [List.forall_mem_cons] at hl
    obtain ⟨hx, hy, hr⟩ := hl
    simp only [treeLevel, List.forall_mem_cons]
    exact ⟨hf _ _ hx hy, ih hr⟩
  | case2 l h =>
    rwa [treeLevel.eq_2 f l h]

/-- Every result of the tree stays in the range of the lanes. -/
theorem tree_lt (h0 : 0 < n) (k : Nat) (l : List FRes) (hl : ∀ r ∈ l, r.1 < n) : (tree f k l).1 < n := by
  induction k generalizing l with
  | zero =>
    cases l with
    | nil => exact h0
    | cons r l => exact hl r (List.mem_cons_self ..)
  | succ k ih => exact ih _ (treeLevel_lt hf l hl)

end

theorem withIdentity_range (w id : Nat) (v : BitVec 8) (g : Nat → Nat) (n i : Nat) :
    withIdentity w id v i ((List.range n).map g) = (List.range n).map fun j => (if laneOn v w (i + j) then g j else id, 0) := by
  induction n generalizing i g with
  | zero => rfl
  | succ n ih =>
    simp only [List.range_succ_eq_map, List.map_cons, List.map_map, withIdentity, Function.comp_def, ih, Nat.add_zero, Nat.succ_eq_add_one,
      Nat.add_assoc, Nat.add_comm 1]

theorem ietWidth_eq_bitsOf : ietWidth = bitsOf := by
  funext t
  cases t <;> rfl

theorem ietSigned_eq_isSigned : ietSigned = isSigned := by
  funext t
  cases t <;> rfl

theorem sext64_ofNat (w x : Nat) : sext64 w x = (BitVec.ofNat w x).signExtend 64 := by
  rw [← sext64_toNat, BitVec.toNat_ofNat, sext64, sext64, sgn, sgn, Nat.mod_mod]

theorem ofNat64_of_lt {w x : Nat} (hx : x < 2 ^ w) : BitVec.ofNat 64 x = (BitVec.ofNat w x).setWidth 64 := by
  apply BitVec.eq_of_toNat_eq
  rw [BitVec.toNat_setWidth, BitVec.toNat_ofNat, BitVec.toNat_ofNat, Nat.mod_eq_of_lt hx]

theorem elemToX_eq_toScalar (e : LEt) {x : Nat} (hx : x < 2 ^ letWidth e) : elemToX e x = toScalar e (.ofNat _ x) := by
  cases e with
  | int t =>
    change x < 2 ^ ietWidth t at hx
    rw [ietWidth_eq_bitsOf] at hx
    change (if ietSigned t then sext64 (ietWidth t) x else .ofNat 64 x) =
      if isSigned t then (BitVec.ofNat (bitsOf t) x).signExtend 64 else (BitVec.ofNat (bitsOf t) x).setWidth 64
    rw [ietWidth_eq_bitsOf, ietSigned_eq_isSigned, sext64_ofNat, ofNat64_of_lt hx]
  | flt f =>
    change x < 2 ^ fetWidth f at hx
    rw [fetWidth_eq_fbits] at hx
    exact ofNat64_of_lt hx

theorem reduceWord_of {s : State} {d a : Fin 32} {x : W512} {v : BitVec 8} (hs : Sound s) (ha : vector s [] a = some (x, v))
    (hd : Writable s d) (op : RedOp) (e : LEt) :
    let r := tree (redFn op s.c.status.rm e) 7 ((List.range (512 / lbits e)).map fun i =>
      (if v.getLsbD (i * lbits e / 64) then (Says.lane (lbits e) x i).toNat else redIdentity op e, 0))
    reduceWord s op e d a =
      if v = 0 then wrote s [a] d (toScalar e (.ofNat _ (redIdentity op e))) false
      else wroteFlags s [a] d r.2 (toScalar e (.ofNat _ r.1)) true := by
  have hid := redIdentity_lt op e
  have hlanes : withIdentity (letWidth e) (redIdentity op e) v 0 (vlanes (letWidth e) x) = (List.range (512 / lbits e)).map fun i =>
      (if v.getLsbD (i * lbits e / 64) then (Says.lane (lbits e) x i).toNat else redIdentity op e, 0) := by
    simp only [vlanes_eq_map, withIdentity_range, Nat.zero_add, laneOn]
    rw [letWidth_eq_lbits]
  intro r
  have hr : r.1 < 2 ^ letWidth e := by
    refine tree_lt (fun _ _ => redFn_lt op _ e) (by positivity) _ _ ?_
    simp only [List.forall_mem_map]
    intro i _
    split
    · rw [letWidth_eq_lbits]
      exact BitVec.isLt _
    · exact hid
  rw [reduceWord]
  dsimp only
  rw [← curOf_nil, srcV_of hs ha, commit_curOf, hlanes, ← elemToX_eq_toScalar e hid, ← elemToX_eq_toScalar e hr, putResult_of hd,
    putFlagged_of hd]
  split <;> exact finish_pop_done ..

theorem redTable_words {s : State} {d a : Fin 32} {x : W512} {v : BitVec 8} (hs : Sound s) (ha : vector s [] a = some (x, v))
    (hd : Writable s d) (e : LEt) : ∀ p ∈ redTable,
    let r := tree (redFn p.2 s.c.status.rm e) 7 ((List.range (512 / lbits e)).map fun i =>
      (if v.getLsbD (i * lbits e / 64) then (Says.lane (lbits e) x i).toNat else redIdentity p.2 e, 0))
    exec (p.1 e d a) s =
      if v = 0 then wrote s [a] d (toScalar e (.ofNat _ (redIdentity p.2 e))) false
      else wroteFlags s [a] d r.2 (toScalar e (.ofNat _ r.1)) true := by
  simp only [redTable, List.forall_mem_cons, List.not_mem_nil, false_imp_iff, implies_true, and_true]
  exact ⟨reduceWord_of hs ha hd .add e, reduceWord_of hs ha hd .max e, reduceWord_of hs ha hd .min e⟩

/-! ## 2:4 packing -/

/-- The positions of a group that are kept, lower first. -/
theorem keptOf_getD_lt (f : Fmt) (g : Nat → Nat) (k : Nat) : (keptOf f g).getD k 0 < 4 := by
  rw [List.getD_eq_getElem?_getD]
  cases h : (keptOf f g)[k]? with
  | none => decide
  | some i => exact List.mem_range.1 (List.mem_filter.1 (List.mem_of_getElem? h)).1

theorem rank24_eq (e : FEt) (he : e = .f16 ∨ e = .bf16) (x : Nat) :
    rank24 (fmtOf e) x = if ((fmtOf e).decode x).isNan then 2 ^ 15 else x % 2 ^ 15 := by
  obtain rfl | rfl := he <;> rfl

theorem kept24_eq (e : FEt) (he : e = .f16 ∨ e = .bf16) (g : Nat → Nat) :
    kept24 (fmtOf e) ((List.range 4).map g) = ((keptOf (fmtOf e) g).getD 0 0, (keptOf (fmtOf e) g).getD 1 0) := by
  simp only [kept24, ← List.countP_eq_length_filter, rank24_eq e he]
  rfl

/-- Lists that are made of equally long pieces. -/
theorem flatMap_range_map {α : Type} (n k : Nat) (hk : 0 < k) (f : Nat → Nat → α) :
    ((List.range n).flatMap fun g => (List.range k).map (f g)) = (List.range (n * k)).map fun i => f (i / k) (i % k) := by
  induction n with
  | zero => simp
  | succ n ih =>
    rw [List.range_succ, List.flatMap_append, ih, Nat.succ_mul, List.range_add, List.map_append, List.map_map]
    congr 1
    rw [List.flatMap_singleton]
    refine List.map_congr_left fun i hi => ?_
    rw [List.mem_range] at hi
    rw [Function.comp_apply, Nat.mul_comm, Nat.mul_add_div hk, Nat.mul_add_mod, Nat.div_eq_of_lt hi, Nat.mod_eq_of_lt hi, Nat.add_zero]

theorem setNth_range_map {α : Type} (n k : Nat) (f : Nat → α) (y : α) :
    setNth ((List.range n).map f) k y = (List.range n).map fun i => if i = k then y else f i := by
  induction n generalizing k f with
  | zero => rfl
  | succ n ih =>
    simp only [List.range_succ_eq_map, List.map_cons, List.map_map]
    cases k with
    | zero => simp [setNth, Function.comp_def]
    | succ k => simp [setNth, ih, Function.comp_def]

/-- A list of lanes, zero beyond its end, as a register. -/
theorem ofNat_ofLanes_map {w : Nat} (hw : 0 < w) (hdvd : w ∣ 512) (n : Nat) (g : Nat → BitVec w) :
    BitVec.ofNat 512 (ofLanes w ((List.range n).map fun i => (g i).toNat)) = ofLane w fun i => if i < n then g i else 0 := by
  apply BitVec.eq_of_getLsbD_eq
  intro j hj
  rw [getLsbD_ofLanes hw _ _ hj, getLsbD_ofLane hw _ _ (by rwa [Nat.mul_div_cancel' hdvd])]
  by_cases h : j / w < n
  · simp [h, List.getD_eq_getElem?_getD, BitVec.testBit_toNat]
  · simp [h, List.getD_eq_getElem?_getD]

theorem vlanes_getD {w : Nat} (x : W512) {i : Nat} (hi : i < 512 / w) : (vlanes w x).getD i 0 = (Says.lane w x i).toNat := by
  rw [vlanes_eq_map, List.getD_eq_getElem?_getD, List.getElem?_map, List.getElem?_range hi]
  rfl

/-- The lanes of group `g`. -/
theorem group4_vlanes (x : W512) {g : Nat} (hg : g < 8) :
    group4 (vlanes 16 x) g = (List.range 4).map fun j => (Says.lane 16 x (4 * g + j)).toNat := by
  have hsplit : List.range 32 = List.range (4 * g) ++ ((List.range 4).map (4 * g + ·) ++ (List.range (28 - 4 * g)).map (4 * g + 4 + ·)) := by
    rw [← List.append_assoc, ← List.range_add, ← List.range_add]
    congr 1
    omega
  rw [group4, vlanes_eq_map, hsplit]
  simp [Function.comp_def]

/-- The kept lanes of a group, in order. -/
def kept (e : FEt) (x : W512) (g : Nat) : List Nat := keptOf (fmtOf e) fun j => (Says.lane 16 x (4 * g + j)).toNat

/-- Lane `i` of the packed register. -/
def packedLane (e : FEt) (x : W512) (i : Nat) : BitVec 16 := Says.lane 16 x (4 * (i / 2) + (kept e x (i / 2)).getD (i % 2) 0)

theorem group4_getD_kept (e : FEt) (x : W512) {g : Nat} (hg : g < 8) (k : Nat) :
    (group4 (vlanes 16 x) g).getD ((kept e x g).getD k 0) 0 = (Says.lane 16 x (4 * g + (kept e x g).getD k 0)).toNat := by
  have hk : (kept e x g).getD k 0 < 4 := keptOf_getD_lt ..
  rw [group4_vlanes x hg, List.getD_eq_getElem?_getD, List.getElem?_map, List.getElem?_range hk]
  rfl

/-- The two positions kept of each group. -/
def keptPairs (e : FEt) (x : W512) : List (Nat × Nat) := (List.range 8).map fun g => ((kept e x g).getD 0 0, (kept e x g).getD 1 0)

theorem map_kept24 {e : FEt} (he : e = .f16 ∨ e = .bf16) (x : W512) :
    ((List.range 8).map fun g => kept24 (fmtOf e) (group4 (vlanes 16 x) g)) = keptPairs e x := by
  refine List.map_congr_left fun g hg => ?_
  rw [group4_vlanes x (List.mem_range.1 hg), kept24_eq e he]
  rfl

theorem packed_lanes (e : FEt) (x : W512) :
    ((List.range 8).flatMap fun g => [(group4 (vlanes 16 x) g).getD ((keptPairs e x).getD g (0, 0)).1 0,
      (group4 (vlanes 16 x) g).getD ((keptPairs e x).getD g (0, 0)).2 0]) = (List.range 16).map fun i => (packedLane e x i).toNat := by
  refine Eq.trans (List.flatMap_congr fun g hg => ?_)
    (flatMap_range_map 8 2 (by decide) fun g k => (Says.lane 16 x (4 * g + (kept e x g).getD k 0)).toNat)
  rw [List.mem_range] at hg
  rw [keptPairs, List.getD_eq_getElem?_getD (l := (List.range 8).map _), List.getElem?_map, List.getElem?_range hg, Option.map_some,
    Option.getD_some, group4_getD_kept e x hg, group4_getD_kept e x hg]
  rfl

theorem packed_metadata (e : FEt) (x : W512) : ofLanes 4 ((keptPairs e x).map fun p => p.1 + 4 * p.2) =
    ((List.range 8).map fun g => ((kept e x g).getD 0 0 + 4 * (kept e x g).getD 1 0) * 2 ^ (4 * g)).sum := by
  rw [keptPairs, List.map_map]
  refine ofLanes_eq_sum 4 8 _ fun g => ?_
  have h0 : (kept e x g).getD 0 0 < 4 := keptOf_getD_lt ..
  have h1 : (kept e x g).getD 1 0 < 4 := keptOf_getD_lt ..
  rw [Function.comp_apply]
  omega

/-- A group with two lanes put at their positions, the second winning (R171). -/
theorem unpacked_group (p q y z : Nat) :
    setNth (setNth [0, 0, 0, 0] p y) q z = (List.range 4).map fun j => if j = q then z else if j = p then y else 0 := by
  change setNth (setNth ((List.range 4).map fun _ => 0) p y) q z = _
  rw [setNth_range_map, setNth_range_map]

theorem bits_extractLsb' (k : W64) (lo w : Nat) : bits k.toNat lo w = (k.extractLsb' lo w).toNat := by
  rw [BitVec.extractLsb'_toNat, Nat.shiftRight_eq_div_pow, bits]

/-- Lane `i` of the unpacked register. -/
def unpackedLane (x : W512) (k : W64) (i : Nat) : BitVec 16 :=
  if i % 4 = (k.extractLsb' (4 * (i / 4) + 2) 2).toNat then Says.lane 16 x (2 * (i / 4) + 1)
  else if i % 4 = (k.extractLsb' (4 * (i / 4)) 2).toNat then Says.lane 16 x (2 * (i / 4)) else 0

theorem unpacked_lanes (x : W512) (k : W64) :
    ((List.range 8).flatMap fun g => setNth (setNth [0, 0, 0, 0] (bits k.toNat (4 * g) 2) ((vlanes 16 x).getD (2 * g) 0))
      (bits k.toNat (4 * g + 2) 2) ((vlanes 16 x).getD (2 * g + 1) 0)) = (List.range 32).map fun i => (unpackedLane x k i).toNat := by
  refine Eq.trans (List.flatMap_congr fun g hg => ?_) ((flatMap_range_map 8 4 (by decide) fun g j =>
    if j = (k.extractLsb' (4 * g + 2) 2).toNat then (Says.lane 16 x (2 * g + 1)).toNat
    else if j = (k.extractLsb' (4 * g) 2).toNat then (Says.lane 16 x (2 * g)).toNat else 0).trans ?_)
  · rw [List.mem_range] at hg
    rw [unpacked_group, bits_extractLsb', bits_extractLsb', vlanes_getD x (by omega), vlanes_getD x (by omega)]
  · refine List.map_congr_left fun i _ => ?_
    rw [unpackedLane]
    split <;> [rfl; split <;> rfl]

/-! ## The packing words -/

section
variable {s : State} {e : FEt} {d a b : Fin 32} {x : W512} {v : BitVec 8}

theorem allV_eq : allV = 0xFF := rfl

theorem wholeCommit_all (k : Cur) (r : Res) : wholeCommit s k 0xFF r = commit s k r := if_pos rfl

theorem wholeCommit_part (h : v ≠ 0xFF) (k : Cur) (r : Res) : wholeCommit s k v r = .null := if_neg h

theorem dstNext_of {t : State} (h : Writable t b) (k : Res) : dstNext s t b anyWord k = k := by
  rw [dstNext, dstX_of h]

variable (hs : Sound s)
include hs

theorem vpack24_part (ha : vector s [] a = some (x, v)) (h : v ≠ 0xFF) : exec (.vpack24 e d a b) s = .next (retire s) := by
  rw [exec_vpack24, execVpack24, ← curOf_nil, srcV_of hs ha, wholeCommit_part h]
  rfl

theorem vunpack24_part (ha : vector s [] a = some (x, v)) (h : v ≠ 0xFF) {k : W64} {y : Bool} (hb : scalar s [a] b = some (k, y)) :
    exec (.vunpack24 e d a b) s = .next (retire s) := by
  rw [exec_vunpack24, execVunpack24, ← curV_nil, srcV_curV hs ha, List.nil_append, srcX_curV hs hb, wholeCommit_part h]
  rfl

variable (he : e = .f16 ∨ e = .bf16) (ha : vector s [] a = some (x, 0xFF)) (hd : WritableV s d)
include he ha hd

theorem vpack24_of (hb : Writable (writeV s d (ofLane 16 fun i => if i < 16 then packedLane e x i else 0) 0xFF) b) :
    exec (.vpack24 e d a b) s = done (writeX (writeV s d (ofLane 16 fun i => if i < 16 then packedLane e x i else 0) 0xFF) b
      (.ofNat 64 ((List.range 8).map fun g => ((kept e x g).getD 0 0 + 4 * (kept e x g).getD 1 0) * 2 ^ (4 * g)).sum) true) [a] := by
  rw [exec_vpack24, execVpack24, ← curOf_nil, srcV_of hs ha, wholeCommit_all, commit_curOf, dstV_of hd]
  dsimp only
  rw [map_kept24 he, packed_lanes, packed_metadata, ofNat_ofLanes_map (by decide) (by decide), allV_eq, dstNext_of hb]
  exact finish_pop_done ..

theorem vunpack24_of {k : W64} (hb : scalar s [a] b = some (k, true)) :
    exec (.vunpack24 e d a b) s = wroteV s [a, b] d (ofLane 16 (unpackedLane x k)) 0xFF := by
  have hw : fetWidth e = 16 := by obtain rfl | rfl := he <;> rfl
  have hall : (ofLane 16 fun i => if i < 32 then unpackedLane x k i else 0) = ofLane 16 (unpackedLane x k) := by
    rw [← ofNat_ofLanes_map (by decide) (by decide), ofLane_eq_ofLanes]
  rw [exec_vunpack24, execVunpack24, ← curOf_nil, srcV_of hs ha, List.nil_append, srcX_of hs hb, wholeCommit_all, commit_curOf, hw, putWhole,
    dstV_of hd]
  dsimp only
  rw [unpacked_lanes, ofNat_ofLanes_map (by decide) (by decide), hall]
  exact finish_pop_done ..

end

/-- Settles O30: the results of the tree are patterns of the lane's width, and packing moves lanes group by group. -/
theorem reductionsAndPacking : Obligations.ReductionsAndPacking :=
  ⟨fun p hp _ e _ _ _ _ hs ha hd => redTable_words hs ha hd e p hp,
    fun _ _ _ _ _ _ he hs ha hd hb => vpack24_of hs he ha hd hb,
    fun _ _ _ _ _ _ _ hs ha h => ⟨vpack24_part hs ha h, fun _ _ hb => vunpack24_part hs ha h hb⟩,
    fun _ _ _ _ _ _ _ he hs ha hb hd => vunpack24_of hs he ha hd hb⟩

end Sys2Proof.Proofs
end

section
/-! Work records (O46). -/

namespace Sys2Proof.Proofs

open Sys2Proof Sys2Proof.Machine Sys2Proof.Safety Sys2Proof.Says Sys2Proof.Laws

/-! ## Acceptance -/

@[simp] theorem countOvf_sq (t : Tile) (o : Bool) : (t.countOvf o).sq = t.sq := by cases o <;> rfl
@[simp] theorem countOvf_spill (t : Tile) (o : Bool) : (t.countOvf o).spill = t.spill := by cases o <;> rfl
@[simp] theorem countOvf_seqNext (t : Tile) (o : Bool) : (t.countOvf o).seqNext = t.seqNext := by cases o <;> rfl

/-- The entry of a class and key, where the class folds (R264). -/
def hitOf (t : Tile) (d : ClassD) (cls : Nat) (key : W64) : Option (Nat × SEntry) :=
  if d.op = 0 then none else findNth (fun e => e.cls == cls && e.key == key) t.sq 0

/-- Entries of the set of a class and key. -/
def waysOf (t : Tile) (cls : Nat) (key : W64) : Nat := (t.sq.filter fun e => e.set == spliceSet cls key).length

/-- The entry that a record makes in a free way. -/
def newEntry (x : Spill) (spilled : Bool) (seq : Nat) : SEntry :=
  { cls := x.cls, key := x.key, lanes := x.lanes, folds := 1, ovf := x.ovf, spilled := spilled, bad := x.bad, seq := seq }

section
variable {t : Tile} {d : ClassD} {x : Spill} {spilled was : Bool}

theorem insert_of_hit {i : Nat} {e : SEntry} (h : hitOf t d x.cls x.key = some (i, e)) : ∃ o, t.insert d x spilled was =
    some ({ t with sq := setNth t.sq i (e.fold d x.lanes x.ovf spilled x.bad).1, folds := satInc32 t.folds }.countOvf o) := by
  rw [hitOf] at h
  rw [Tile.insert, h]
  exact ⟨_, rfl⟩

theorem insert_of_way (h : hitOf t d x.cls x.key = none) (hw : waysOf t x.cls x.key < 4) : ∃ o, t.insert d x spilled was =
    some ({ t with
      sq := t.sq ++ [newEntry x spilled t.seqNext]
      seqNext := t.seqNext + 1 }.countOvf o) := by
  rw [hitOf] at h
  rw [Tile.insert, h]
  exact ⟨_, if_neg (Nat.not_le.2 hw)⟩

theorem insert_of_full (h : hitOf t d x.cls x.key = none) (hw : 4 ≤ waysOf t x.cls x.key) : t.insert d x spilled was = none := by
  rw [hitOf] at h
  rw [Tile.insert, h]
  exact if_pos hw

end

section
variable {t : Tile} {g : Grid} {r : Rec} {bad : Bool}

theorem accept_of_insert {u : Tile} (h : t.insert (g.cls r.cls) (convert (g.cls r.cls) r bad) false false = some u) :
    t.accept g r bad = some u := by
  unfold Tile.accept
  dsimp only
  rw [h]

theorem accept_of_full (h : t.insert (g.cls r.cls) (convert (g.cls r.cls) r bad) false false = none) :
    t.accept g r bad = if t.spill.length < g.spillCap then
      some ({ t with spill := t.spill ++ [convert (g.cls r.cls) r bad] }.countOvf (convert (g.cls r.cls) r bad).ovf) else none := by
  unfold Tile.accept
  dsimp only
  rw [h]

end

theorem recordsAreAccepted : RecordsAreAccepted := by
  intro t g r bad
  refine ⟨fun i e h => ?_, fun h hw => ?_, fun h hw hc => ?_, fun h hw hc => ?_, fun _ _ _ _ => rfl⟩
  · obtain ⟨o, ho⟩ := insert_of_hit (x := convert (g.cls r.cls) r bad) (spilled := false) (was := false) h
    exact ⟨_, accept_of_insert ho, countOvf_sq .., countOvf_spill .., countOvf_seqNext ..⟩
  · obtain ⟨o, ho⟩ := insert_of_way (x := convert (g.cls r.cls) r bad) (spilled := false) (was := false) h hw
    exact ⟨_, accept_of_insert ho, countOvf_seqNext .., countOvf_spill .., countOvf_sq ..⟩
  · have ho := insert_of_full (x := convert (g.cls r.cls) r bad) (spilled := false) (was := false) h hw
    exact ⟨_, (accept_of_full ho).trans (if_pos hc), countOvf_sq .., countOvf_spill .., countOvf_seqNext ..⟩
  · have ho := insert_of_full (x := convert (g.cls r.cls) r bad) (spilled := false) (was := false) h hw
    exact (accept_of_full ho).trans (if_neg (Nat.not_lt.2 hc))

/-! ## The order of dispatch -/

/-- Entry `e` goes no later than `f` (R266). -/
def NoLater (g : Grid) (e f : SEntry) : Prop :=
  ((g.cls f.cls).prio = true → (g.cls e.cls).prio = true) ∧ ((g.cls f.cls).prio = (g.cls e.cls).prio → e.seq ≤ f.seq)

theorem noLater_refl (g : Grid) (e : SEntry) : NoLater g e e := ⟨id, fun _ => le_rfl⟩

theorem noLater_trans {g : Grid} {e f h : SEntry} (h1 : NoLater g e f) (h2 : NoLater g f h) : NoLater g e h := by
  obtain ⟨hp1, hs1⟩ := h1
  obtain ⟨hp2, hs2⟩ := h2
  refine ⟨fun hp => hp1 (hp2 hp), fun hp => ?_⟩
  have hf : (g.cls f.cls).prio = (g.cls e.cls).prio := Bool.eq_iff_iff.2 ⟨hp1, fun he => hp2 (hp.trans he)⟩
  exact (hs1 hf).trans (hs2 (hp.trans hf.symm))

theorem noLater_of_sooner {g : Grid} {e f : SEntry} (h : sooner g e f = true) : NoLater g e f := by
  unfold sooner at h
  dsimp only at h
  split at h
  · next hne => exact ⟨fun _ => h, fun hp => absurd hp.symm (bne_iff_ne.1 hne)⟩
  · next hne =>
    have he : (g.cls e.cls).prio = (g.cls f.cls).prio := by simpa using hne
    exact ⟨fun hp => he.trans hp, fun _ => (of_decide_eq_true h).le⟩

theorem noLater_of_not_sooner {g : Grid} {e f : SEntry} (h : ¬ sooner g e f = true) : NoLater g f e := by
  unfold sooner at h
  dsimp only at h
  split at h
  · next hne => exact ⟨fun hp => absurd hp h, fun hp => absurd hp (bne_iff_ne.1 hne)⟩
  · next hne =>
    have he : (g.cls e.cls).prio = (g.cls f.cls).prio := by simpa using hne
    exact ⟨fun hp => he.symm.trans hp, fun _ => not_lt.1 fun hl => h (decide_eq_true hl)⟩

/-- The entry kept of a list goes no later than any of it, nor than the one that it began with. -/
theorem foldl_sooner (g : Grid) (l : List SEntry) (b : SEntry) :
    let e := l.foldl (fun b x => if sooner g x b then x else b) b
    (e = b ∨ e ∈ l) ∧ NoLater g e b ∧ ∀ f ∈ l, NoLater g e f := by
  induction l generalizing b with
  | nil => exact ⟨.inl rfl, noLater_refl g b, by simp⟩
  | cons x l ih =>
    obtain ⟨hmem, hb, hl⟩ := ih (if sooner g x b then x else b)
    have hstep : NoLater g (if sooner g x b then x else b) b ∧ NoLater g (if sooner g x b then x else b) x := by
      split
      · next h => exact ⟨noLater_of_sooner h, noLater_refl g x⟩
      · next h => exact ⟨noLater_refl g b, noLater_of_not_sooner h⟩
    simp only [List.foldl_cons, List.forall_mem_cons]
    refine ⟨?_, noLater_trans hb hstep.1, noLater_trans hb hstep.2, hl⟩
    rcases hmem with hmem | hmem
    · rw [hmem]
      split
      · exact .inr (List.mem_cons_self ..)
      · exact .inl rfl
    · exact .inr (List.mem_cons_of_mem _ hmem)

theorem dispatchOrder : DispatchOrder := by
  intro g q e h
  cases q with
  | nil => cases h
  | cons b l =>
    obtain rfl : l.foldl (fun b x => if sooner g x b then x else b) b = e := Option.some.inj h
    obtain ⟨hmem, hb, hl⟩ := foldl_sooner g l b
    exact ⟨List.mem_cons.2 hmem, List.forall_mem_cons.2 ⟨hb, hl⟩⟩

/-! ## Folds -/

section
variable {et : Nat} (het : et < 8)
include het

theorem etWidth_of_lt : etWidth et = 8 * 2 ^ (et / 2) := if_pos het

theorem etSigned_of_lt : etSigned et = (et % 2 == 1) := by simp [etSigned, het]

theorem etFloat_of_lt : etFloat et = none := by
  interval_cases et <;> rfl

theorem etVal_toNat (x : BitVec (8 * 2 ^ (et / 2))) : etVal et (x.toNat : Int) = number (et % 2 == 1) x := by
  rw [etVal, etSigned_of_lt het, etWidth_of_lt het, number, Int.toNat_natCast, sgn_toNat]

/-- The bounds of an integer element type. -/
theorem clampInt_etMin_etMax (i : Int) : pat (8 * 2 ^ (et / 2)) (clampInt (etMin et) (etMax et) i) =
    (Says.clamped (et % 2 == 1) (8 * 2 ^ (et / 2)) i).toNat := by
  have hpos : (0 : Int) < 2 ^ (8 * 2 ^ (et / 2)) := by positivity
  rw [etMin, etMax, etSigned_of_lt het, etWidth_of_lt het, Says.clamped, pat_eq_toNat]
  cases (et % 2 == 1)
  · simp only [Bool.false_eq_true, if_false]
    rw [clampInt_eq (by omega)]
  · simp only [if_true]
    rw [clampInt_eq (smin_le_smax _)]
    rfl

end

theorem clampInt_bne {lo hi : Int} (h : lo ≤ hi) (x : Int) : (clampInt lo hi x != x) = decide (x < lo ∨ hi + 1 ≤ x) := by
  rw [Bool.eq_iff_iff, bne_iff_ne, decide_eq_true_iff, clampInt_eq h]
  omega

theorem clampInt_etMin_etMax_bne {et : Nat} (het : et < 8) (i : Int) : (clampInt (etMin et) (etMax et) i != i) =
    if et % 2 = 1 then decide (i < -2 ^ (8 * 2 ^ (et / 2) - 1) ∨ 2 ^ (8 * 2 ^ (et / 2) - 1) ≤ i)
    else decide (i < 0 ∨ 2 ^ (8 * 2 ^ (et / 2)) ≤ i) := by
  have hpos : (0 : Int) < 2 ^ (8 * 2 ^ (et / 2)) := by positivity
  rw [etMin, etMax, etSigned_of_lt het, etWidth_of_lt het]
  by_cases hs : et % 2 = 1
  · rw [if_pos hs, if_pos (by simpa using hs), if_pos (by simpa using hs), clampInt_bne (smin_le_smax _), smin, smax, sub_add_cancel]
  · rw [if_neg hs, if_neg (by simpa using hs), if_neg (by simpa using hs), clampInt_bne (by omega), sub_add_cancel]

theorem number_unsigned_nonneg {w : Nat} (x : BitVec w) : 0 ≤ number false x := Int.natCast_nonneg x.toNat

section
variable {d : ClassD} {et : Nat} (het : et < 8) (hd : d.et = et) (a b : BitVec (8 * 2 ^ (et / 2)))
include het hd

/-- The integer folds of R110 at the element's width. -/
theorem laneFold_int :
    let num (x : BitVec (8 * 2 ^ (et / 2))) : Int := number (et % 2 == 1) x
    let is (x : BitVec (8 * 2 ^ (et / 2))) (o : Bool) : Prop := laneFold d a.toNat b.toNat = ((x.toNat : Int), o)
    (d.op = 1 → is (a + b) false) ∧
    (d.op = 3 → is (if num a ≤ num b then a else b) false) ∧ (d.op = 4 → is (if num a ≤ num b then b else a) false) ∧
    (d.op = 5 → is (a ||| b) false) ∧ (d.op = 6 → is (a &&& b) false) ∧ (d.op = 7 → is (a ^^^ b) false) := by
  have hfl := etFloat_of_lt het
  refine ⟨fun h => ?_, fun h => ?_, fun h => ?_, fun h => ?_, fun h => ?_, fun h => ?_⟩ <;>
    simp only [laneFold, h, hd, hfl, etWidth_of_lt het, etVal_toNat het, Int.toNat_natCast]
  · rw [pat_eq_toNat, ← Nat.cast_add, BitVec.ofInt_natCast, BitVec.toNat_ofNat, BitVec.toNat_add]
  · split <;> rfl
  · split <;> rfl
  · rw [BitVec.toNat_or]
  · rw [BitVec.toNat_and]
  · rw [BitVec.toNat_xor]

/-- `add_sat` takes the nearer bound where the sum leaves the range (R110). -/
theorem laneFold_addSat (h : d.op = 2) :
    let w := 8 * 2 ^ (et / 2)
    let sum := number (et % 2 == 1) a + number (et % 2 == 1) b
    laneFold d a.toNat b.toNat = (((Says.clamped (et % 2 == 1) w sum).toNat : Int),
      if et % 2 = 1 then decide (sum < -2 ^ (w - 1) ∨ 2 ^ (w - 1) ≤ sum) else decide ((2 : Int) ^ w ≤ sum)) := by
  intro w sum
  simp only [laneFold, h, hd, etWidth_of_lt het, etVal_toNat het, clampInt_etMin_etMax het, clampInt_etMin_etMax_bne het]
  refine Prod.ext rfl ?_
  by_cases hs : et % 2 = 1
  · rw [if_pos hs, if_pos hs]
  · have hsum : 0 ≤ sum := by
      simp only [sum, beq_eq_false_iff_ne.2 hs]
      exact add_nonneg (number_unsigned_nonneg a) (number_unsigned_nonneg b)
    rw [if_neg hs, if_neg hs, decide_eq_decide]
    exact or_iff_right (not_lt.2 hsum)

end

theorem laneFold_float {d : ClassD} {f : FEt} (a b : Nat) (h : (d.et, f) ∈ [(8, FEt.f16), (9, .bf16), (10, .f32), (11, .f64)]) :
    (d.op = 3 → laneFold d a b = (((minmaxF (fmtOf f) false a b).1 : Int), false)) ∧
    (d.op = 4 → laneFold d a b = (((minmaxF (fmtOf f) true a b).1 : Int), false)) := by
  have hf : etFloat d.et = some (fmtOf f) := by
    simp only [List.mem_cons, Prod.mk.injEq, List.not_mem_nil, or_false] at h
    obtain ⟨h, rfl⟩ | ⟨h, rfl⟩ | ⟨h, rfl⟩ | ⟨h, rfl⟩ := h <;> rw [h] <;> rfl
  refine ⟨fun h => ?_, fun h => ?_⟩ <;> simp only [laneFold, h, hf, Int.toNat_natCast]

theorem laneFold_faddFixed {d : ClassD} (a b : Int) (h : d.op = 8) :
    laneFold d a b = (max (-2 ^ 71) (min (2 ^ 71 - 1) (a + b)), decide (a + b < -2 ^ 71 ∨ 2 ^ 71 ≤ a + b)) := by
  simp only [laneFold, h]
  rw [clampInt_bne (smin_le_smax 72), clampInt_eq (smin_le_smax 72)]
  rfl

theorem laneIn_faddFixed {d : ClassD} (w : W64) (h : d.op = 8) :
    let x := f32.decode (w.toNat % 2 ^ 32)
    (x.isNan = true → laneIn d w = (0, true)) ∧
    (∀ n, x = .inf n → laneIn d w = (if n then -2 ^ 63 else 2 ^ 63 - 1, true)) ∧
    (∀ n m e, x = .fin n m e →
      let q := (toInt 0 n m (e + d.scale)).1
      laneIn d w = (max (-2 ^ 63) (min (2 ^ 63 - 1) q), decide (q < -2 ^ 63 ∨ 2 ^ 63 ≤ q))) := by
  intro x
  simp only [laneIn, if_pos h]
  refine ⟨fun hx => ?_, fun n hx => ?_, fun n m e hx => ?_⟩
  · cases hv : x with
    | nan => simp only [x] at hv; rw [hv]
    | _ => simp [hv, Fl.isNan] at hx
  · simp only [x] at hx
    rw [hx]
    rfl
  · simp only [x] at hx
    rw [hx]
    dsimp only
    rw [clampInt_bne (smin_le_smax 64), clampInt_eq (smin_le_smax 64)]
    rfl

theorem laneIn_int {d : ClassD} (w : W64) {et : Nat} (h : d.op ≠ 8) (het : et < 8) (hd : d.et = et) :
    laneIn d w = (((w.setWidth (8 * 2 ^ (et / 2))).toNat : Int), false) := by
  rw [laneIn, if_neg h, hd, etWidth_of_lt het, BitVec.toNat_setWidth]

theorem foldsAreRight : FoldsAreRight := by
  refine ⟨fun d et het hd a b => ?_, fun _ _ a b h => laneFold_float a b h, fun _ a b h => laneFold_faddFixed a b h,
    fun _ w h => laneIn_faddFixed w h, fun _ w _ h het hd => laneIn_int w h het hd⟩
  obtain ⟨hadd, hmin, hmax, hor, hand, hxor⟩ := laneFold_int het hd a b
  exact ⟨hadd, laneFold_addSat het hd a b, hmin, hmax, hor, hand, hxor⟩

/-! ## Records on their way -/

theorem vt_of_tile? {s : State} {vt : Nat} {t : Tile} (h : s.tile? vt = some t) : t.vt = vt := by
  unfold State.tile? at h
  split at h
  · next hv => exact Option.some.inj h ▸ hv
  · simpa using List.find?_some h

theorem mapCtx_g (s : State) (vt c : Nat) (f : Ctx → Ctx) : (s.mapCtx vt c f).g = s.g := mapCtxs_g ..

theorem logAt_off {s : State} (h : s.g.rr ≠ 1) (vt kind arg : Nat) : logAt s vt kind arg = s := by
  unfold logAt
  split
  · exact logEvent_off h ..
  · rfl

theorem logInsert_off {s : State} (h : s.g.rr ≠ 1) (vt src cls : Nat) (key : W64) (ldk : Bool) : logInsert s vt src cls key ldk = s := by
  unfold logInsert
  split <;> exact logAt_off h ..

section
variable {s s1 : State} {vt k : Nat} {t u : Tile} {n : NiRec} (ht : s.tile? vt = some t) (hn : t.ni[k]? = some n)

include ht hn in
theorem spliceInsert_ni (hr : n.refused = false) : exec (.spliceInsert vt k) s = event "SPLICE_INSERT" (offer s vt k n.refused) := by
  have hk : k < t.ni.length := (List.getElem?_eq_some_iff.1 hn).1
  rw [exec_spliceInsert, execSpliceInsert, ht, hr]
  exact congrArg _ (if_pos hk)

theorem recordRetry_ni (hr : n.refused = true) : exec (.recordRetry vt k) s = event "RECORD_RETRY" (offer s vt k n.refused) := by
  rw [hr]
  rfl

variable (ho : Offered s s1 vt t u n)
include ht hn ho

/-- A record that its destination accepts leaves the NI for the queue there (R262, R264). -/
theorem offer_accepted {u' : Tile} (ha : u.accept s.g n.r false = some u') : offer s vt k n.refused =
    some (usePort n.dst (logInsert ((dropNi s1 vt n.id).mapTile n.dst fun u =>
      ((u.accept s.g n.r false).getD u).keepMsg (n.msg vt)) n.dst vt n.r.cls n.r.key n.ldk)) := by
  obtain ⟨hloaded, hfirst, hparked, hparks, hheld, hreleased, hu, hport⟩ := ho
  simp only [offer, ht, hn, hloaded, hfirst, hparked, hparks, hheld, hreleased, hu, hport, ha, bne_self_eq_false, Bool.not_true, Bool.or_self,
    Bool.false_eq_true, if_false]

/-- A record that its destination refuses for the first time stays, marked (R264). -/
theorem offer_refused (ha : u.accept s.g n.r false = none) (hr : n.refused = false) : offer s vt k n.refused =
    some (usePort n.dst (s1.mapTile vt fun t =>
      { t with ni := t.ni.map fun x => if x.id = n.id then { x with refused := true } else x })) := by
  obtain ⟨hloaded, hfirst, hparked, hparks, hheld, hreleased, hu, hport⟩ := ho
  rw [hr] at hport ⊢
  simp only [offer, ht, hn, hr, hloaded, hfirst, hparked, hparks, hheld, hreleased, hu, hport, ha, bne_self_eq_false, Bool.not_true,
    Bool.or_self, Bool.false_eq_true, if_false]

end

/-- Record `k` under way, parked before for the tile, goes into its queue (R375). -/
theorem spliceInsert_parked {s s1 : State} {vt k : Nat} {t u u' : Tile} {m : Msg} {r : Rec} (ht : s.tile? vt = some t)
    (hm : takeMsg s k = some (m, s1)) (hb : m.body = .record r) (hdst : m.dst = vt) (hparks : s.g.parks vt = false)
    (hheld : s.heldBack vt = false) (hu : s1.tile? vt = some u) (hrr : s1.g.rr ≠ 1) (hfirst : parkedFirst s m = true)
    (hport : portFree s u true = true) (ha : u.accept s1.g r (!m.sound) = some u') :
    exec (.spliceInsert vt (t.ni.length + k)) s = .next (usePort vt (s1.mapTile vt fun _ => u'.keepMsg m)) := by
  have hk : ¬ t.ni.length + k < t.ni.length := by omega
  rw [exec_spliceInsert, execSpliceInsert, ht]
  simp only [if_neg hk, Nat.add_sub_cancel_left, hheld, insertParked, hm, hb, hdst, hparks, hfirst, hu, hport, ha, Bool.not_true,
    Bool.not_false, Bool.false_eq_true, ne_eq, not_true_eq_false, or_self, if_false, Bool.and_false]
  rw [logInsert_off ((mapTile_g ..).symm ▸ hrr)]
  rfl

theorem spliceRefill_of {s : State} {vt : Nat} {t t' : Tile} {x : Spill} {r : List Spill} (ht : s.tile? vt = some t) (hx : t.spill = x :: r)
    (hroom : t.sq.length < 512) (hstill : s.g.still vt = false) (hheld : s.heldBack vt = false) (hport : portFree s t false = true)
    (hi : { t with spill := r, ringAt := t.ringAt + 1 }.insert (s.g.cls x.cls) x true true = some t') (hrr : s.g.rr ≠ 1) :
    exec (.spliceRefill vt) s = .next (usePort vt (s.mapTile vt fun _ => t')) := by
  simp only [exec_spliceRefill, execSpliceRefill, refill, ht, hx, hi, hstill, hheld, hport, decide_eq_false (Nat.not_le.2 hroom), Bool.not_true,
    Bool.not_false, Bool.or_self, Bool.and_false, Bool.false_eq_true, if_false]
  rw [logInsert_off ((mapTile_g ..).symm ▸ hrr)]
  rfl

theorem spliceDispatch_of {s : State} {vt i : Nat} {t : Tile} {e : SEntry} (ht : s.tile? vt = some t) (hstop : s.g.stopped vt = false)
    (hparks : s.g.parks vt = false) (hheld : s.heldBack vt = false) (hport : t.portUsed s = false) (he : chosen s.g t.sq = some e)
    (hrr : s.g.rr ≠ 1)
    (hi : (t.recWait.find? fun i => match s.ctx? vt i with | some c => c.awaitsRecord | none => false) = some i) :
    exec (.spliceDispatch vt) s = .next (usePort vt
      ((s.mapTile vt fun t => { t with sq := t.sq.filter (fun x => x.seq != e.seq), recWait := t.recWait.filter (· != i) }).mapCtx
        vt i fun c => { c with recv := some (e.cls, e.key, e.lanes.map (laneOut (s.g.cls e.cls)), e.metaWord (s.g.cls e.cls)), recvBad := e.bad })) := by
  have hw : firstWaiting s t = some i := by
    rw [firstWaiting, vt_of_tile? ht]
    exact hi
  simp only [exec_spliceDispatch, execSpliceDispatch, dispatch, ht, hstop, hparks, hheld, hport, he, hw, Bool.or_self, Bool.false_eq_true, if_false]
  rw [logEvent_off (by rwa [mapCtx_g, mapTile_g])]
  rfl

/-- The port serves a ready dispatch first, then an old record (R266). -/
theorem portFree_iff {s : State} (h : s.g.rr ≠ 2) (t : Tile) (old : Bool) : portFree s t old = true ↔
    t.sqCycle ≠ some s.m.cycle ∧ dispatchReady s t = false ∧ (old = true ∨ retryReady s t = false) := by
  rw [portFree, beq_eq_false_iff_ne.2 h]
  simp [and_assoc]

theorem recordsMove : RecordsMove := by
  refine ⟨fun _ _ _ _ _ _ _ _ ht hn ho ha => ?_, fun _ _ _ _ _ _ _ ht hn ho ha hr => ?_,
    fun _ _ _ _ _ _ _ _ _ ht hm hb hdst hparks hheld hu hrr hfirst hport ha =>
      spliceInsert_parked ht hm hb hdst hparks hheld hu hrr hfirst hport ha,
    fun _ _ _ _ _ _ ht hx hroom hstill hheld hport hi hrr => spliceRefill_of ht hx hroom hstill hheld hport hi hrr,
    fun _ _ _ _ _ ht hstop hparks hheld hport he hrr hi => spliceDispatch_of ht hstop hparks hheld hport he hrr hi,
    fun _ t old h => portFree_iff h t old⟩
  · have hoff := offer_accepted ht hn ho ha
    exact ⟨fun hr => (spliceInsert_ni ht hn hr).trans (congrArg _ hoff), fun hr => (recordRetry_ni hr).trans (congrArg _ hoff)⟩
  · exact (spliceInsert_ni ht hn hr).trans (congrArg _ (offer_refused ht hn ho ha hr))

/-- Settles O46: acceptance by the steps of R264, dispatch as the least entry of a total order, the folds by their operation, and the
events by their guards. -/
theorem recordsAreHandled : Obligations.RecordsAreHandled := ⟨recordsAreAccepted, dispatchOrder, foldsAreRight, recordsMove⟩

end Sys2Proof.Proofs
end

section
/-! The matrix array (O38). -/

namespace Sys2Proof.Proofs

open Sys2Proof Sys2Proof.Machine Sys2Proof.Safety Sys2Proof.Says Sys2Proof.Laws

/-- An operation of the array into tile register 0 of context 5. -/
def strayOp : ArrOp :=
  { c := 5, d := 0, p := .bf16bf16, sp := false, aAddr := 0, pitch := 0, rows := some [], slot := 0, need := 0, wb := none, scale := 0,
    unit := true }

/-- A tile without contexts, whose array holds that operation. -/
def strayTile : Tile := { vt := 1, arrq := [strayOp] }

/-- Another tile is in focus; the granule where its tile register 0 of context 5 would begin has a correctable error. -/
def strayPass : State :=
  { State.reset with t := { State.reset.t with soft := [(srcReg, (5 * 0x20000 + 0x10000) / 8)] }, tiles := [strayTile] }

/-- Correctable errors that have been repaired. -/
def repairs : Out3 → W64
  | .next t => t.m.corrErr
  | _ => 0

/-- The pass stays with the tile in focus, as the operation's context is nowhere, and repairs an error there. -/
theorem repairs_strayPass : repairs (exec (.arrayPass 1) strayPass) = 1 := by decide +kernel

/-- Refutes O38: its clause on the array asks for a tile without errors, but where the operation's context is not on that tile the pass
goes to the tile in focus, whose correctable errors it repairs and counts. -/
theorem not_arrayAndSlotsMoveOn : ¬ Obligations.ArrayAndSlotsMoveOn := by
  unfold Obligations.ArrayAndSlotsMoveOn
  rintro ⟨⟨h, -⟩, -⟩
  have he := congrArg repairs (h strayPass 1 strayTile strayOp [] rfl rfl rfl rfl (.inr (Nat.zero_le _)) rfl rfl rfl)
  rw [repairs_strayPass] at he
  exact absurd he (by decide +kernel)

end Sys2Proof.Proofs
end

section
/-! Compares, validity words and branches (O1, O3, O10). -/

namespace Sys2Proof.Proofs

open Sys2Proof Sys2Proof.Machine Sys2Proof.Safety Sys2Proof.Says Sys2Proof.Laws

/-! ## Compares -/

/-- On the patterns of `w`-bit operands, the model's test `p` decides the condition `f`. -/
def TestsPatterns (p : Nat → Nat → Nat → Bool) (f : (w : Nat) → BitVec w → BitVec w → Bool) : Prop :=
  ∀ (w : Nat) (x y : BitVec w), p w x.toNat y.toNat = f w x y

theorem sizedTest_of_testsPatterns {p : Nat → Nat → Nat → Bool} {f : (w : Nat) → BitVec w → BitVec w → Bool} (h : TestsPatterns p f)
    (sz : Sz32) (x y : W64) :
    p (Machine.Sz32.width sz) (x.toNat % 2 ^ Machine.Sz32.width sz) (y.toNat % 2 ^ Machine.Sz32.width sz) = sizedTest f sz x y := by
  cases sz with
  | w64 =>
    change p 64 (x.toNat % 2 ^ 64) (y.toNat % 2 ^ 64) = f 64 x y
    rw [Nat.mod_eq_of_lt x.isLt, Nat.mod_eq_of_lt y.isLt, h]
  | w32 =>
    change p 32 (x.toNat % 2 ^ 32) (y.toNat % 2 ^ 32) = f 32 (x.setWidth 32) (y.setWidth 32)
    rw [← BitVec.toNat_setWidth, ← BitVec.toNat_setWidth, h]

/-- A truth value is written as 1 with V = 1 or as 0 with V = 0 (R22). -/
theorem wrote_truth (s : State) (rs : List (Fin 32)) (d : Fin 32) (t : Bool) :
    wrote s rs d (if t then 1 else 0) t = if t then wrote s rs d 1 true else wrote s rs d 0 false := by
  cases t <;> rfl

/-- The word runs the frame of CMP with a test that decides the condition of its row. -/
def RunsCmp (p : RWord × ((w : Nat) → BitVec w → BitVec w → Bool)) : Prop :=
  ∃ g, (∀ (sz : Sz32) (d a b : Fin 32) (wa wb : Bool) (s : State), exec (p.1 sz d a b wa wb) s = Machine.cmp s sz d a b wa wb g) ∧
    TestsPatterns g p.2

theorem RunsCmp.wrote {p : RWord × ((w : Nat) → BitVec w → BitVec w → Bool)} (hp : RunsCmp p) {s : State} {d a b : Fin 32} {x y : W64}
    (h : Two s a b x y) (hd : Writable s d) (sz : Sz32) (wa wb : Bool) : exec (p.1 sz d a b wa wb) s =
      if sizedTest p.2 sz x y then Safety.wrote s [a, b] d 1 true else Safety.wrote s [a, b] d 0 false := by
  obtain ⟨g, he, hg⟩ := hp
  rw [he, cmp_of h hd, sizedTest_of_testsPatterns hg]
  exact wrote_truth ..

theorem cmpTable_runsCmp : ∀ p ∈ cmpTable, RunsCmp p := by
  have slt {w : Nat} (x y : BitVec w) : decide (sgn w x.toNat < sgn w y.toNat) = x.slt y := by rw [sgn_toNat, sgn_toNat]; rfl
  have sle {w : Nat} (x y : BitVec w) : decide (sgn w x.toNat ≤ sgn w y.toNat) = x.sle y := by rw [sgn_toNat, sgn_toNat]; rfl
  have beq {w : Nat} (x y : BitVec w) : (x.toNat == y.toNat) = (x == y) := by
    rw [Bool.eq_iff_iff, beq_iff_eq, beq_iff_eq, BitVec.toNat_inj]
  simp only [cmpTable, List.forall_mem_cons, List.not_mem_nil, false_imp_iff, implies_true, and_true]
  exact ⟨⟨_, exec_cmpEq, fun _ x y => beq x y⟩,
    ⟨_, exec_cmpNe, fun _ x y => congrArg (!·) (beq x y)⟩,
    ⟨_, exec_cmpLt, fun _ x y => slt x y⟩,
    ⟨_, exec_cmpLtn, fun _ _ _ => rfl⟩,
    ⟨_, exec_cmpLe, fun _ x y => sle x y⟩,
    ⟨_, exec_cmpLen, fun _ _ _ => rfl⟩,
    ⟨_, exec_cmpGt, fun _ x y => slt y x⟩,
    ⟨_, exec_cmpGtn, fun _ _ _ => rfl⟩,
    ⟨_, exec_cmpGe, fun _ x y => sle y x⟩,
    ⟨_, exec_cmpGen, fun _ _ _ => rfl⟩⟩

theorem tst_wrote {s : State} {d a b : Fin 32} {x y : W64} (h : Two s a b x y) (hd : Writable s d) (wa wb : Bool) :
    exec (.tst d a b wa wb) s = if x &&& y ≠ 0 then wrote s [a, b] d 1 true else wrote s [a, b] d 0 false := by
  have hb : (x.toNat &&& y.toNat != 0) = decide (x &&& y ≠ 0) := by
    rw [Bool.eq_iff_iff, bne_iff_ne, decide_eq_true_iff, ← BitVec.toNat_and, ne_eq, toNat_eq_zero_iff]
  have hx : x.toNat % 2 ^ Machine.Sz32.width .w64 = x.toNat := Nat.mod_eq_of_lt x.isLt
  have hy : y.toNat % 2 ^ Machine.Sz32.width .w64 = y.toNat := Nat.mod_eq_of_lt y.isLt
  rw [exec_tst, execTst, cmp_of h hd, hx, hy]
  dsimp only
  rw [wrote_truth, hb]
  simp only [decide_eq_true_eq]

section
variable {s : State} {d a : Fin 32} {x : W64} (h : One s a x) (hd : Writable s d) (wa : Bool)
include h hd

theorem cmpiTable_words (imm : BitVec 11) : ∀ p ∈ cmpiTable, exec (p.1 d a wa imm) s =
    if p.2 x (imm.signExtend 64) then wrote s [a] d 1 true else wrote s [a] d 0 false := by
  have hw (p : W64 → W64 → Bool) := (cmpi_of h hd wa imm p).trans (wrote_truth ..)
  simp only [cmpiTable, List.forall_mem_cons, List.not_mem_nil, false_imp_iff, implies_true, and_true]
  exact ⟨hw fun x c => x == c, hw fun x c => x != c, hw fun x c => x.slt c, hw fun x c => x.ult c, hw fun x c => c.slt x, hw fun x c => c.ult x⟩

end

/-- Settles O1: each compare runs its frame (Laws/Words.lean) with a test that decides, on the patterns of its width, the condition of its row. -/
theorem compareWordsWriteTruth : Obligations.CompareWordsWriteTruth :=
  ⟨fun p hp _ sz _ _ _ wa wb _ _ h hd => (cmpTable_runsCmp p hp).wrote h hd sz wa wb,
    fun _ _ _ _ wa wb _ _ h hd => tst_wrote h hd wa wb,
    fun p hp _ _ _ wa imm _ h hd => cmpiTable_words h hd wa imm p hp⟩

/-! ## Validity -/

/-- Settles O3: each validity word runs its frame with the value and V of its row. -/
theorem validityWordsActOnTags : Obligations.ValidityWordsActOnTags := by
  intro s d a b wa wb x y v u hs ha hd
  have one (f : W64 → Bool → W64 × Bool) := valUnary_of hs ha hd wa f
  refine ⟨⟨one fun x _ => (x, true), one fun x _ => (x, false), one fun _ v => (if v then 1 else 0, true), one fun x v => (x, v)⟩,
    fun hb => ?_⟩
  have two (f : W64 → Bool → W64 → Bool → W64 × Bool) := valBinary_of hs ha hb hd wa wb f
  refine ⟨two fun x v _ u => (x, v && u), two fun x v _ u => (x, v && !u), ?_⟩
  refine (two fun x v y u => if v then (x, true) else (y, u)).trans ?_
  cases v <;> rfl

/-! ## Branches -/

section
variable {s : State} {a d : Fin 32} {x : W64} {v : Bool} {off : BitVec 18}

theorem mul_four (y : W64) : y * (4 : W64) = y <<< 2 := by
  rw [BitVec.shiftLeft_eq_mul_twoPow]
  rfl

theorem branchTarget_eq (s : State) (off : BitVec 18) : branchTarget s off = target s off := by
  rw [branchTarget, target, mul_four]

/-- A transfer that reads no operand. -/
theorem finish_jump (s t : State) (p : W64) : finish s (.jump t p) = jumped t [] p := by
  rw [jumped, popped_nil]
  rfl

/-- A branch that is examined ends as its condition says. -/
theorem finish_branchIf (rs : List (Fin 32)) (t : Bool) (off : BitVec 18) :
    finish s ((branchIf s t off).pop (curOf rs)) = if t then jumped s rs (target s off) else done s rs := by
  cases t with
  | true => exact (finish_pop_jump ..).trans (congrArg _ (branchTarget_eq s off))
  | false => exact finish_pop_done ..

theorem validityBranch_of (hs : Sound s) (ha : scalar s [] a = some (x, v)) :
    exec (.bv a off) s = (if v then jumped s [a] (target s off) else done s [a]) ∧
    exec (.bnv a off) s = if v then done s [a] else jumped s [a] (target s off) := by
  constructor
  · rw [exec_bv, execBv, ← curOf_nil, examX_of hs ha, accept_curOf]
    exact finish_branchIf ..
  · rw [exec_bnv, execBnv, ← curOf_nil, examX_of hs ha, accept_curOf]
    refine (finish_branchIf ..).trans ?_
    cases v <;> rfl

theorem zeroBranch_of (h : One s a x) :
    exec (.bnz a off) s = (if x = 0 then done s [a] else jumped s [a] (target s off)) ∧
    exec (.bz a off) s = if x = 0 then jumped s [a] (target s off) else done s [a] := by
  obtain ⟨hs, ha⟩ := h
  constructor
  · rw [exec_bnz, execBnz, ← curOf_nil, srcX_of hs ha, commit_curOf]
    refine (finish_branchIf ..).trans ?_
    by_cases hx : x = 0 <;> simp [hx]
  · rw [exec_bz, execBz, ← curOf_nil, srcX_of hs ha, commit_curOf]
    refine (finish_branchIf ..).trans ?_
    by_cases hx : x = 0 <;> simp [hx]

theorem call_of (ha : Writable s a) : exec (.call a off) s = jumped (writeX s a (link s) true) [] (target s off) := by
  rw [exec_call, execCall, dstX_of ha, finish_jump, branchTarget_eq]
  rfl

theorem jr_of (h : One s a x) (hd : Writable s d) (wa : Bool) (imm : BitVec 14) :
    let t := x + (imm.signExtend 64 <<< 2)
    exec (.jr d a wa imm) s = if t.toNat % 4 = 0 then jumped (writeX s d (link s) true) [a] t else trapped s .misalign t 0 := by
  obtain ⟨hs, ha⟩ := h
  rw [exec_jr, execJr, ← curOf_nil, srcX_of hs ha, commit_curOf, dstX_of hd, mul_four]
  dsimp only
  by_cases ht : (x + imm.signExtend 64 <<< 2).toNat % 4 = 0
  · rw [if_neg (not_not_intro ht), if_pos ht]
    exact finish_pop_jump ..
  · rw [if_pos ht, if_neg ht]
    exact finish_pop_trap _ _ _ _ _ _ (by decide)

end

/-- Settles O10. -/
theorem branchesGoToTheirTarget : Obligations.BranchesGoToTheirTarget :=
  ⟨fun s off => (finish_jump s s _).trans (congrArg _ (branchTarget_eq s off)), fun _ _ _ ha => call_of ha,
    fun _ _ _ _ _ hs ha => validityBranch_of hs ha, fun _ _ _ _ h => zeroBranch_of h,
    fun _ _ _ wa imm _ h hd => jr_of h hd wa imm⟩

end Sys2Proof.Proofs
end

section
/-! Bit and field words (O2). -/

namespace Sys2Proof.Proofs

open Sys2Proof Sys2Proof.Machine Sys2Proof.Safety Sys2Proof.Says Sys2Proof.Laws

/-! ## Patterns bit by bit -/

/-- The number whose bit `i` below `n` is `f i`. -/
def bitSum (n : Nat) (f : Nat → Bool) : Nat := ((List.range n).map fun i => (f i).toNat * 2 ^ i).sum

theorem bitSum_succ (n : Nat) (f : Nat → Bool) : bitSum (n + 1) f = bitSum n f + (f n).toNat * 2 ^ n := by
  simp [bitSum, List.range_succ]

theorem bitSum_lt (n : Nat) (f : Nat → Bool) : bitSum n f < 2 ^ n := by
  induction n with
  | zero => simp [bitSum]
  | succ n ih =>
    rw [bitSum_succ, pow_succ]
    cases f n <;> simp only [Bool.toNat_true, Bool.toNat_false] <;> omega

theorem testBit_bitSum (n : Nat) (f : Nat → Bool) (j : Nat) : (bitSum n f).testBit j = (decide (j < n) && f j) := by
  induction n with
  | zero => simp [bitSum]
  | succ n ih =>
    rw [bitSum_succ, Nat.add_comm, Nat.mul_comm, Nat.testBit_two_pow_mul_add _ (bitSum_lt n f), ih]
    rcases lt_trichotomy j n with h | rfl | h
    · simp [h, Nat.lt_succ_of_lt h]
    · cases f j <;> simp
    · have hb : (f n).toNat.testBit (j - n) = false := Nat.testBit_lt_two_pow ((Bool.toNat_lt _).trans_le (Nat.le_self_pow (by omega) 2))
      simp [show ¬ j < n by omega, show ¬ j < n + 1 by omega, hb]

/-- A number below `2 ^ w` is the register value that has its bits. -/
theorem eq_ofNat_bitSum {w x : Nat} {f : Nat → Bool} (hx : x < 2 ^ w) (h : ∀ j < w, x.testBit j = f j) :
    x = (BitVec.ofNat w (bitSum w f)).toNat := by
  rw [BitVec.toNat_ofNat, Nat.mod_eq_of_lt (bitSum_lt w f)]
  refine Nat.eq_of_testBit_eq fun j => ?_
  rw [testBit_bitSum]
  by_cases hj : j < w
  · simp [hj, h j hj]
  · simp [hj, Nat.testBit_lt_two_pow (hx.trans_le (Nat.pow_le_pow_right (by decide) (Nat.not_lt.1 hj)))]

/-! ## Counting and moving bits -/

theorem ctzN_eq_takeWhile (w x : Nat) : ctzN w x = (((List.range w).map fun i => !x.testBit i).takeWhile id).length := by
  induction w generalizing x with
  | zero => rfl
  | succ w ih =>
    rw [ctzN, List.range_succ_eq_map, List.map_cons, List.map_map, List.takeWhile_cons, Nat.testBit_zero]
    by_cases h : x % 2 = 1
    · simp [h]
    · simp only [h, if_false, decide_false, Bool.not_false, id_eq, if_true, List.length_cons, ih, Function.comp_def, Nat.succ_eq_add_one,
        Nat.testBit_succ]
      omega

theorem bitlen_double (x b : Nat) (hx : 0 < x) (hb : b < 2) : bitlen (2 * x + b) = bitlen x + 1 := by
  rw [bitlen, bitlen, if_neg (by omega), if_neg (by omega), Nat.log2_def, if_pos (by omega), show (2 * x + b) / 2 = x by omega]

/-- Leading zeros: a pattern of one more bit begins with a 1, or has those of the rest and one more. -/
theorem clz_eq_takeWhile {w x : Nat} (hx : x < 2 ^ w) :
    w - bitlen x = (((List.range w).map fun i => !x.testBit (w - 1 - i)).takeWhile id).length := by
  induction w with
  | zero => simp
  | succ w ih =>
    rw [List.range_succ_eq_map, List.map_cons, List.map_map, List.takeWhile_cons]
    simp only [Nat.add_sub_cancel, Nat.sub_zero, Function.comp_def, Nat.succ_eq_add_one]
    rcases lt_or_ge x (2 ^ w) with h | h
    · have hshift : (fun i => !x.testBit (w - (i + 1))) = fun i => !x.testBit (w - 1 - i) :=
        funext fun i => by rw [show w - (i + 1) = w - 1 - i by omega]
      have hlen : bitlen x ≤ w := by
        unfold bitlen
        split
        · exact Nat.zero_le w
        · next h0 => exact Nat.succ_le_of_lt ((Nat.log2_lt h0).2 h)
      rw [Nat.testBit_lt_two_pow h, hshift, Bool.not_false, id_eq, if_pos rfl, List.length_cons, ← ih h]
      omega
    · have hbit : x.testBit w = true := by
        rw [Nat.testBit_eq_decide_div_mod_eq, decide_eq_true_iff]
        have : x / 2 ^ w = 1 := Nat.div_eq_of_lt_le (by omega) (by rw [pow_succ] at hx; omega)
        omega
      have hlen : bitlen x = w + 1 := by
        have h0 : x ≠ 0 := by have := Nat.two_pow_pos w; omega
        rw [bitlen, if_neg h0]
        have := (Nat.log2_lt h0).2 hx
        have := (Nat.le_log2 h0).2 h
        omega
      rw [hbit, hlen, Bool.not_true, id_eq, if_neg (by decide)]
      simp

theorem popcount_eq_countP (w x : Nat) : popcount w x = (List.range w).countP x.testBit := by
  induction w generalizing x with
  | zero => rfl
  | succ w ih =>
    rw [popcount, ih, List.range_succ_eq_map, List.countP_cons, List.countP_map, Nat.testBit_zero]
    have hshift : x.testBit ∘ Nat.succ = (x / 2).testBit := funext fun i => Nat.testBit_succ ..
    rw [hshift]
    rcases Nat.mod_two_eq_zero_or_one x with h | h <;> simp [h, Nat.add_comm]

theorem revBits_lt (w x : Nat) : revBits w x < 2 ^ w := by
  induction w generalizing x with
  | zero => simp [revBits]
  | succ w ih =>
    have := ih (x / 2)
    have : x % 2 * 2 ^ w ≤ 1 * 2 ^ w := Nat.mul_le_mul_right _ (by omega)
    rw [revBits, pow_succ]
    omega

theorem testBit_revBits {w x j : Nat} (hj : j < w) : (revBits w x).testBit j = x.testBit (w - 1 - j) := by
  induction w generalizing x j with
  | zero => omega
  | succ w ih =>
    rw [revBits, Nat.mul_comm, Nat.testBit_two_pow_mul_add _ (revBits_lt w _)]
    by_cases h : j < w
    · rw [if_pos h, ih h, ← Nat.testBit_succ, show w + 1 - 1 - j = w - 1 - j + 1 by omega]
    · obtain rfl : j = w := by omega
      rw [if_neg h]
      simp only [Nat.sub_self, Nat.add_sub_cancel, Nat.testBit_zero, Nat.mod_mod]

/-! ## Bytes of a number -/

theorem testBit_natOf (l : List Byte) (j : Nat) : (natOf l).testBit j = (l.getD (j / 8) 0).getLsbD (j % 8) := by
  induction l generalizing j with
  | nil => simp [natOf]
  | cons b l ih =>
    rw [natOf, Nat.add_comm, show (256 : Nat) = 2 ^ 8 from rfl, Nat.testBit_two_pow_mul_add _ b.isLt]
    split
    · next h => rw [Nat.div_eq_of_lt h, Nat.mod_eq_of_lt h, List.getD_cons_zero]; rfl
    · next h =>
      obtain ⟨k, rfl⟩ : ∃ k, j = k + 8 := ⟨j - 8, by omega⟩
      rw [ih, Nat.add_sub_cancel, Nat.add_div_right _ (by decide), Nat.add_mod_right, List.getD_cons_succ]

theorem natOf_lt (l : List Byte) : natOf l < 2 ^ (8 * l.length) := by
  induction l with
  | nil => simp [natOf]
  | cons b l ih =>
    have := b.isLt
    rw [natOf, List.length_cons, Nat.mul_add, Nat.mul_one, pow_add]
    omega

theorem bytesOf_getD {n x k : Nat} (hk : k < n) : (bytesOf n x).getD k 0 = BitVec.ofNat 8 (x / 2 ^ (8 * k)) := by
  rw [← bytesLe_eq, bytesLe, List.getD_eq_getElem?_getD, List.getElem?_map, List.getElem?_range hk]
  exact BitVec.eq_of_toNat_eq (by simp)

/-- The bytes in reverse order, bit by bit. -/
theorem testBit_swapBytes {n x j : Nat} (hj : j < 8 * n) : (swapBytes n x).testBit j = x.testBit (8 * n - 8 - j / 8 * 8 + j % 8) := by
  have hk : j / 8 < n := by omega
  have hr : (bytesOf n x).reverse.getD (j / 8) 0 = (bytesOf n x).getD (n - 1 - j / 8) 0 := by
    rw [List.getD_eq_getElem?_getD, List.getD_eq_getElem?_getD, List.getElem?_reverse (by simpa using hk), bytesOf_length]
  rw [swapBytes, testBit_natOf, hr, bytesOf_getD (by omega), BitVec.getLsbD_ofNat, Nat.testBit_div_two_pow,
    decide_eq_true (Nat.mod_lt _ (by decide)), Bool.true_and]
  congr 1
  omega

theorem swapBytes_lt (n x : Nat) : swapBytes n x < 2 ^ (8 * n) := by
  simpa [swapBytes] using natOf_lt (bytesOf n x).reverse

/-! ## Fields -/

theorem testBit_bits (x lo n j : Nat) : (bits x lo n).testBit j = (decide (j < n) && x.testBit (j + lo)) := by
  rw [bits, Nat.testBit_mod_two_pow, Nat.testBit_div_two_pow]

/-- A field of a number replaced, bit by bit. -/
theorem testBit_insert (x v lo n j : Nat) : (x - bits x lo n * 2 ^ lo + v % 2 ^ n * 2 ^ lo).testBit j =
    if lo ≤ j ∧ j < lo + n then v.testBit (j - lo) else x.testBit j := by
  have hsplit : x = 2 ^ lo * (2 ^ n * (x / 2 ^ lo / 2 ^ n) + bits x lo n) + x % 2 ^ lo := by
    rw [bits, Nat.div_add_mod, Nat.div_add_mod]
  have hnew : x - bits x lo n * 2 ^ lo + v % 2 ^ n * 2 ^ lo = 2 ^ lo * (2 ^ n * (x / 2 ^ lo / 2 ^ n) + v % 2 ^ n) + x % 2 ^ lo := by
    rw [Nat.mul_add] at hsplit
    rw [Nat.mul_add, Nat.mul_comm (bits x lo n), Nat.mul_comm (v % 2 ^ n)]
    omega
  rw [hnew, Nat.testBit_two_pow_mul_add _ (Nat.mod_lt _ (Nat.two_pow_pos lo)),
    Nat.testBit_two_pow_mul_add _ (Nat.mod_lt _ (Nat.two_pow_pos n)), Nat.testBit_mod_two_pow, Nat.testBit_mod_two_pow, Nat.testBit_div_two_pow,
    Nat.testBit_div_two_pow]
  by_cases h1 : j < lo
  · simp [h1, show ¬ lo ≤ j by omega]
  · by_cases h2 : j - lo < n
    · simp [h1, h2, show lo ≤ j by omega, show j < lo + n by omega]
    · rw [if_neg h1, if_neg h2, if_neg (by omega)]
      congr 1
      omega

/-- A bit lies in the field between its first bit and its end, which is the width at most (R126). -/
theorem inField_iff (w : Nat) (y : W64) (i : Nat) :
    inField w y i = true ↔ (fieldOf w y.toNat).1 ≤ i ∧ i < (fieldOf w y.toNat).1 + (fieldOf w y.toNat).2 := by
  have hp : (y.extractLsb' 0 6).toNat = bits y.toNat 0 6 := by rw [BitVec.extractLsb'_toNat, Nat.shiftRight_eq_div_pow]; rfl
  have hl : (y.extractLsb' 8 7).toNat = bits y.toNat 8 7 := by rw [BitVec.extractLsb'_toNat, Nat.shiftRight_eq_div_pow]; rfl
  simp only [inField, fieldOf, hp, hl, Bool.and_eq_true, decide_eq_true_eq]
  omega

theorem fieldOf_pos (w : Nat) (y : W64) : (fieldOf w y.toNat).1 = (y.extractLsb' 0 6).toNat := by
  rw [BitVec.extractLsb'_toNat, Nat.shiftRight_eq_div_pow]
  rfl

/-- A field ends within the width, or is empty. -/
theorem fieldOf_end (w b : Nat) : (fieldOf w b).2 = 0 ∨ (fieldOf w b).1 + (fieldOf w b).2 ≤ w := by
  simp only [fieldOf]
  omega

theorem bfx_toNat {w : Nat} (x : BitVec w) (y : W64) :
    bits x.toNat (fieldOf w y.toNat).1 (fieldOf w y.toNat).2 = (bfxOf w x y).toNat := by
  have hn : (fieldOf w y.toNat).2 ≤ w := by have := fieldOf_end w y.toNat; omega
  have hb : bits x.toNat (fieldOf w y.toNat).1 (fieldOf w y.toNat).2 < 2 ^ w :=
    (Nat.mod_lt _ (Nat.two_pow_pos _)).trans_le (Nat.pow_le_pow_right (by decide) hn)
  refine eq_ofNat_bitSum hb fun j _ => ?_
  rw [testBit_bits, ← fieldOf_pos w y]
  have hf : inField w y (j + (fieldOf w y.toNat).1) = decide (j < (fieldOf w y.toNat).2) := by
    rw [Bool.eq_iff_iff, inField_iff, decide_eq_true_iff]
    omega
  rw [hf]
  rfl

theorem bfi_toNat {w : Nat} (x z : BitVec w) (y : W64) (v : Nat) (hv : ∀ i < w, v.testBit i = x.getLsbD i) :
    z.toNat - bits z.toNat (fieldOf w y.toNat).1 (fieldOf w y.toNat).2 * 2 ^ (fieldOf w y.toNat).1 +
      v % 2 ^ (fieldOf w y.toNat).2 * 2 ^ (fieldOf w y.toNat).1 = (bfiOf w x y z).toNat := by
  have hend := fieldOf_end w y.toNat
  refine eq_ofNat_bitSum (Nat.lt_pow_two_of_testBit _ fun i hi => ?_) fun j hj => ?_
  · rw [testBit_insert, if_neg (by omega)]
    exact Nat.testBit_lt_two_pow (z.isLt.trans_le (Nat.pow_le_pow_right (by decide) hi))
  · rw [testBit_insert, ← fieldOf_pos w y]
    by_cases h : inField w y j = true
    · have hin := (inField_iff w y j).1 h
      rw [if_pos hin, if_pos h, hv _ (by omega)]
    · rw [if_neg fun hin => h ((inField_iff w y j).2 hin), if_neg h]
      rfl

/-! ## Bit and field words -/

/-- On the pattern of an operand of whole bytes, `g` gives the pattern of `f`. -/
def OnPattern (g : Nat → Nat → Nat) (f : (w : Nat) → BitVec w → BitVec w) : Prop :=
  ∀ (n : Nat) (x : BitVec (8 * n)), g (8 * n) x.toNat = (f (8 * n) x).toNat

theorem sext64_of_onPattern {g : Nat → Nat → Nat} {f : (w : Nat) → BitVec w → BitVec w} (h : OnPattern g f) (sz : Sz32) (x : W64) :
    sext64 (Machine.Sz32.width sz) (g (Machine.Sz32.width sz) (x.toNat % 2 ^ Machine.Sz32.width sz)) = sized1 f sz x := by
  cases sz with
  | w64 =>
    change sext64 64 (g 64 (x.toNat % 2 ^ 64)) = f 64 x
    rw [Nat.mod_eq_of_lt x.isLt, h 8 x]
    exact (sext64_toNat (w := 64) _).trans (BitVec.signExtend_eq _)
  | w32 =>
    change sext64 32 (g 32 (x.toNat % 2 ^ 32)) = (f 32 (x.setWidth 32)).signExtend 64
    rw [← BitVec.toNat_setWidth, h 4 (x.setWidth 32)]
    exact sext64_toNat (w := 32) _

/-- The word runs the unary frame with an operation that gives the pattern of `f`. -/
def RunsBit (p : UWord × ((w : Nat) → BitVec w → BitVec w)) : Prop :=
  ∃ g, (∀ (sz : Sz32) (d a : Fin 32) (wa : Bool) (s : State), exec (p.1 sz d a wa) s = bitUnary s sz d a wa g) ∧ OnPattern g p.2

theorem RunsBit.wrote {p : UWord × ((w : Nat) → BitVec w → BitVec w)} (hp : RunsBit p) {s : State} {d a : Fin 32} {x : W64}
    (h : One s a x) (hd : Writable s d) (sz : Sz32) (wa : Bool) :
    exec (p.1 sz d a wa) s = Safety.wrote s [a] d (sized1 p.2 sz x) true := by
  obtain ⟨g, he, hg⟩ := hp
  rw [he, bitUnary_of h hd, sext64_of_onPattern hg]

/-- A count of bits fits into the width. -/
theorem toNat_ofNat_count {w n : Nat} (h : n ≤ w) : n = (BitVec.ofNat w n).toNat := by
  rw [BitVec.toNat_ofNat, Nat.mod_eq_of_lt (h.trans_lt Nat.lt_two_pow_self)]

theorem takeWhile_range_le (w : Nat) (f : Nat → Bool) : (((List.range w).map f).takeWhile id).length ≤ w := by
  simpa using (List.takeWhile_prefix (l := (List.range w).map f) id).length_le

theorem bitTable_runsBit : ∀ p ∈ bitTable, RunsBit p := by
  simp only [bitTable, List.forall_mem_cons, List.not_mem_nil, false_imp_iff, implies_true, and_true]
  refine ⟨⟨_, exec_clz, fun n x => ?_⟩, ⟨_, exec_ctz, fun n x => ?_⟩, ⟨_, exec_popc, fun n x => ?_⟩, ⟨_, exec_bswap, fun n x => ?_⟩,
    ⟨_, exec_brev, fun n x => ?_⟩⟩
  · exact (clz_eq_takeWhile x.isLt).trans (toNat_ofNat_count (takeWhile_range_le ..))
  · exact (ctzN_eq_takeWhile ..).trans (toNat_ofNat_count (takeWhile_range_le ..))
  · exact (popcount_eq_countP ..).trans (toNat_ofNat_count (List.countP_le_length.trans_eq List.length_range))
  · rw [Nat.mul_div_cancel_left _ (by decide)]
    exact eq_ofNat_bitSum (swapBytes_lt n _) fun j hj => testBit_swapBytes hj
  · exact eq_ofNat_bitSum (revBits_lt ..) fun j hj => testBit_revBits hj

section
variable {s : State} {d a b : Fin 32} {x y z : W64} (hd : Writable s d) (wa wb : Bool)
include hd

theorem extTable_words (h : One s a x) : ∀ p ∈ extTable, exec (p.1 d a wa) s = wrote s [a] d (p.2 x) true := by
  have mask (k : Nat) (hk : k ≤ 64) : (x.setWidth k).setWidth 64 = x &&& .ofNat 64 (2 ^ k - 1) := by
    apply BitVec.eq_of_toNat_eq
    rw [BitVec.toNat_and, BitVec.toNat_ofNat, Nat.mod_eq_of_lt ((Nat.sub_lt (Nat.two_pow_pos k) Nat.one_pos).trans_le
      (Nat.pow_le_pow_right (by decide) hk)), Nat.and_two_pow_sub_one_eq_mod, BitVec.toNat_setWidth, BitVec.toNat_setWidth]
    exact Nat.mod_eq_of_lt ((Nat.mod_lt _ (Nat.two_pow_pos k)).trans_le (Nat.pow_le_pow_right (by decide) hk))
  have hw := unary_of h hd wa
  simp only [extTable, List.forall_mem_cons, List.not_mem_nil, false_imp_iff, implies_true, and_true]
  exact ⟨hw fun x => (x.setWidth 8).signExtend 64, hw fun x => (x.setWidth 16).signExtend 64, hw fun x => (x.setWidth 32).signExtend 64,
    mask 8 (by decide) ▸ hw fun x => (x.setWidth 8).setWidth 64, mask 16 (by decide) ▸ hw fun x => (x.setWidth 16).setWidth 64,
    mask 32 (by decide) ▸ hw fun x => (x.setWidth 32).setWidth 64⟩

theorem bfx_wrote (h : Two s a b x y) (sz : Sz32) :
    exec (.bfx sz d a b wa wb) s = wrote s [a, b] d (sized1 (fun w x => bfxOf w x y) sz x) true := by
  rw [exec_bfx, execBfx, binary_of h hd]
  exact congrArg (fun r => wrote s [a, b] d r true)
    (sext64_of_onPattern (g := fun w x => bits x (fieldOf w y.toNat).1 (fieldOf w y.toNat).2) (fun _ x => bfx_toNat x y) sz x)

theorem pack_wrote (h : Two s a b x y) (sz : Sz32) : exec (.pack sz d a b wa wb) s = wrote s [a, b] d
    (match sz with
      | .w64 => y.setWidth 32 ++ x.setWidth 32
      | .w32 => (y.setWidth 16 ++ x.setWidth 16).signExtend 64) true := by
  have halves (k : Nat) : y.toNat % 2 ^ k * 2 ^ k + x.toNat % 2 ^ k = (y.setWidth k ++ x.setWidth k).toNat := by
    rw [BitVec.toNat_append, BitVec.toNat_setWidth, BitVec.toNat_setWidth, ← Nat.shiftLeft_eq,
      Nat.shiftLeft_add_eq_or_of_lt (Nat.mod_lt _ (Nat.two_pow_pos k))]
  rw [exec_pack, execPack, binary_of h hd, halves]
  cases sz with
  | w64 => exact congrArg (fun r => wrote s [a, b] d r true) ((sext64_toNat (w := 32 + 32) _).trans (BitVec.signExtend_eq _))
  | w32 => exact congrArg (fun r => wrote s [a, b] d r true) (sext64_toNat (w := 16 + 16) _)

/-- `bfi` reads its destination as the third source, after A and B. -/
theorem bfi_wrote (h : Three s a b d x y z) (sz : Sz32) : exec (.bfi sz d a b wa wb) s = wrote s [a, b, d] d
    (match sz with
      | .w64 => bfiOf 64 x y z
      | .w32 => (bfiOf 32 (x.setWidth 32) y (z.setWidth 32)).signExtend 64) true := by
  obtain ⟨⟨hs, ha, hb⟩, hz⟩ := h
  rw [exec_bfi, execBfi, ← curOf_nil, srcX_of hs ha, List.nil_append, srcX_of hs hb, List.cons_append, List.nil_append, srcX_of hs hz]
  dsimp only
  rw [commit_curOf, putResult_of hd, finish_pop_done]
  refine congrArg (fun r => wrote s [a, b, d] d r true) ?_
  cases sz with
  | w64 =>
    change sext64 64 (z.toNat % 2 ^ 64 - bits (z.toNat % 2 ^ 64) _ _ * _ + _) = bfiOf 64 x y z
    rw [Nat.mod_eq_of_lt z.isLt]
    exact (congrArg _ (bfi_toNat x z y x.toNat fun _ _ => rfl)).trans ((sext64_toNat (w := 64) _).trans (BitVec.signExtend_eq _))
  | w32 =>
    change sext64 32 (z.toNat % 2 ^ 32 - bits (z.toNat % 2 ^ 32) _ _ * _ + _) = _
    rw [← BitVec.toNat_setWidth]
    refine (congrArg _ (bfi_toNat (x.setWidth 32) (z.setWidth 32) y x.toNat fun i hi => ?_)).trans (sext64_toNat (w := 32) _)
    rw [BitVec.getLsbD_setWidth, decide_eq_true hi, Bool.true_and]
    rfl

end

/-- Settles O2: each bit word runs its frame with an operation that gives, on the pattern of its width, the pattern of its row; fields are
compared bit by bit. -/
theorem bitWordsWriteTheirResult : Obligations.BitWordsWriteTheirResult :=
  ⟨fun p hp _ sz _ _ wa _ h hd => (bitTable_runsBit p hp).wrote h hd sz wa, fun p hp _ _ _ wa _ h hd => extTable_words hd wa h p hp,
    fun _ sz _ _ _ wa wb _ _ h hd => ⟨bfx_wrote hd wa wb h sz, pack_wrote hd wa wb h sz⟩,
    fun _ sz _ _ _ wa wb _ _ _ h hd => bfi_wrote hd wa wb h sz⟩

end Sys2Proof.Proofs
end

section
/-! Stores to the own scratchpad (O18). -/

namespace Sys2Proof.Proofs

open Sys2Proof Sys2Proof.Machine Sys2Proof.Safety Sys2Proof.Says Sys2Proof.Laws

/-! ## Accesses to the own scratchpad -/

theorem isOwn_of {ea : W64} {n : Nat} (h : Own ea n) (hn : 0 < n) : isOwn ea = true := by
  obtain ⟨h1, h2⟩ := h
  rw [isOwn, regionOf_own ⟨h1, by omega⟩]
  rfl

theorem checkAddr_own {s : State} {ea : W64} {n align : Nat} {k : AKind} {w : WKind} (h : Own ea n) (hn : 0 < n)
    (ha : ea.toNat % align = 0) : checkAddr s ea n align k w = .ok s [⟨.tile s.t.vt (offset ea), n, 0⟩] := by
  rw [checkAddr_aligned ha, checkRange_own h hn]

theorem own_split {ea : W64} {n : Nat} (h : Own ea n) : ea.toNat = 0xFF00000000000000 + offset ea :=
  (Nat.add_sub_cancel' h.1).symm

theorem offset_of {ea : W64} {o : Nat} (h : ea.toNat = 0xFF00000000000000 + o) : offset ea = o := by
  unfold offset
  omega

theorem sizes_pos {z : MSz × Nat} (h : z ∈ sizes) : 0 < z.2 := by
  revert z
  decide

/-- The number in a range of the scratchpad is what its bytes spell. -/
theorem held_eq (s : State) (ea : W64) (n : Nat) : held s ea n = natOf (s.t.sp.read (offset ea) n) := by
  unfold held
  generalize offset ea = o
  induction n generalizing o with
  | zero => rfl
  | succ n ih =>
    rw [Memory.read, natOf, ← ih (o + 1), List.range_succ_eq_map, List.map_cons, List.map_map, List.sum_cons, ← List.sum_map_mul_left]
    simp only [Nat.mul_zero, pow_zero, Nat.mul_one, Nat.add_zero, Function.comp_def, Nat.succ_eq_add_one]
    congr 3
    funext i
    rw [Nat.add_right_comm, Nat.add_assoc, Nat.mul_add, pow_add]
    ring

theorem held_lt (s : State) (ea : W64) (n : Nat) : held s ea n < 2 ^ (8 * n) := by
  rw [held_eq]
  simpa using natOf_lt (s.t.sp.read (offset ea) n)

theorem read_add (m : Memory) (o n k : Nat) : m.read o (n + k) = m.read o n ++ m.read (o + n) k := by
  induction n generalizing o with
  | zero => simp [Memory.read]
  | succ n ih => rw [Nat.succ_add, Memory.read, Memory.read, ih, List.cons_append, Nat.add_assoc, Nat.add_comm 1 n]

section
variable {s : State} (hq : Quiet s)
include hq

theorem onCoreAccess_quiet (ps : List Piece) (k : State → Res) : onCoreAccess s ps k = k s := by
  obtain ⟨⟨ha, hp, hf, hm, -⟩, -⟩ := hq
  exact onCoreAccess_of ps k ha hm hp hf

theorem onCoreRead_quiet (ea : W64) (n : Nat) (k : State → List Byte → Res) : onCoreRead s ea n k = k s (s.t.sp.read (offset ea) n) := by
  obtain ⟨⟨ha, hp, hf, hm, -⟩, -, hb, hs⟩ := hq
  exact onCoreRead_of ea n k ha hm hp hf hb hs

end

/-! ## Stores to the own scratchpad -/

/-- A store keeps the focused tile, and what the schedule says of the context's next store. -/
theorem spWrite_focus (s : State) (vt o : Nat) (bs : List Byte) :
    (spWrite s vt o bs).t.vt = s.t.vt ∧ (spWrite s vt o bs).c.slow = s.c.slow := by
  have hheal (t : Tile) : (t.heal srcSp o bs.length).vt = t.vt := by unfold Tile.heal; split <;> rfl
  have hwatch : (s.c.watchHit o bs.length).slow = s.c.slow := by
    unfold Ctx.watchHit
    split
    · split <;> rfl
    · rfl
  unfold spWrite State.mapCtxs State.mapTile
  by_cases h : s.t.vt = vt
  · simp [h, Tile.spWrite, hheal, hwatch]
  · simp [h]

theorem absorbOut_focus (s : State) (a : Nat) (bs : List Byte) :
    (absorbOut s a bs).t.vt = s.t.vt ∧ (absorbOut s a bs).c.slow = s.c.slow := by
  obtain ⟨l, f, p, q, n, b, h⟩ := absorbOut_same s a bs
  rw [h]
  exact ⟨rfl, rfl⟩

theorem storeOwn_now {s : State} (h : s.c.slow = false) (off : Nat) (bs : List Byte) : storeOwn s s.t.vt off bs =
    spWrite (absorbOut s (0xFF00000000000000 + off) bs) s.t.vt off bs := by
  obtain ⟨-, hslow⟩ := absorbOut_focus s (0xFF00000000000000 + off) bs
  rw [storeOwn]
  dsimp only
  rw [if_neg (by simp [State.defers, hslow, h])]

/-- Parts of a store that each hold a byte and lie within its `n` bytes. -/
def Within (n : Nat) (sg : Segs) : Prop := ∀ x ∈ sg, 0 < x.2.length ∧ x.1 + x.2.length ≤ n

theorem segsIn_within {n : Nat} {sg : Segs} (h : Within n sg) : segsIn 0 n sg = sg := by
  unfold segsIn
  refine (List.filterMap_congr fun x hx => ?_).trans List.filterMap_some
  obtain ⟨h0, hn⟩ := h x hx
  dsimp only
  rw [Nat.max_zero, Nat.zero_add, Nat.min_eq_left hn, if_pos (by omega), Nat.sub_zero, Nat.sub_self, List.drop_zero, Nat.add_sub_cancel_left,
    List.take_length]

/-- Where a part of a store goes. -/
def placed (ea : W64) (sg : Segs) : List (W64 × List Byte) := sg.map fun x => (ea + .ofNat 64 x.1, x.2)

section
variable {s : State} {ea : W64} {n : Nat} (hown : Own ea n)
include hown

theorem ownAddr_toNat {o : Nat} (ho : o ≤ n) : (ea + .ofNat 64 o).toNat = 0xFF00000000000000 + (offset ea + o) := by
  have hsplit := own_split hown
  obtain ⟨h1, h2⟩ := hown
  have hlt : ea.toNat + o < 2 ^ 64 := by omega
  rw [BitVec.toNat_add, BitVec.toNat_ofNat, Nat.mod_eq_of_lt (show o < 2 ^ 64 by omega), Nat.mod_eq_of_lt hlt, ← Nat.add_assoc, ← hsplit]

theorem foldl_storeOwn_now {sg : Segs} (h : Within n sg) (hs : s.c.slow = false) :
    sg.foldl (fun u x => storeOwn u s.t.vt (offset ea + x.1) x.2) s = ownStores s (placed ea sg) := by
  obtain ⟨vt, hvt⟩ : ∃ vt, s.t.vt = vt := ⟨_, rfl⟩
  rw [hvt]
  induction sg generalizing s with
  | nil => rfl
  | cons x r ih =>
    have ha : (ea + .ofNat 64 x.1).toNat = 0xFF00000000000000 + (offset ea + x.1) := by
      obtain ⟨-, hx⟩ := h x List.mem_cons_self
      exact ownAddr_toNat hown (by omega)
    have ho : offset (ea + .ofNat 64 x.1) = offset ea + x.1 := offset_of ha
    have hstep : storeOwn s vt (offset ea + x.1) x.2 =
        spWrite (absorbOut s (ea + .ofNat 64 x.1).toNat x.2) s.t.vt (offset (ea + .ofNat 64 x.1)) x.2 := by
      rw [← hvt, storeOwn_now hs, ha, ho]
    obtain ⟨hw1, hw2⟩ := spWrite_focus (absorbOut s (ea + .ofNat 64 x.1).toNat x.2) s.t.vt (offset (ea + .ofNat 64 x.1)) x.2
    obtain ⟨ha1, ha2⟩ := absorbOut_focus s (ea + .ofNat 64 x.1).toNat x.2
    rw [List.foldl_cons, hstep, ih (fun y hy => h y (List.mem_cons_of_mem _ hy)) (hw2.trans (ha2.trans hs)) (hw1.trans (ha1.trans hvt))]
    rfl

/-- A store to the own scratchpad with nothing before it writes its parts. -/
theorem storeTo_own {sg : Segs} (hn : 0 < n) (hq : Quiet s) (h : Within n sg) :
    storeTo s ea sg [⟨.tile s.t.vt (offset ea), n, 0⟩] = .done (ownStores s (placed ea sg)) := by
  obtain ⟨⟨ha, hp, hf, hm, -⟩, hslow, -⟩ := hq
  have hhigh : 2 ^ 56 ≤ ea.toNat := Nat.le_trans (by decide) hown.1
  have hgate (k : State → Res) : storeGate s ea true sg [⟨.tile s.t.vt (offset ea), n, 0⟩] k = k s := by
    simp [storeGate, ownPending, hm]
  have hdirty : chkDirty s ea [⟨.tile s.t.vt (offset ea), n, 0⟩] = .ok s [⟨.tile s.t.vt (offset ea), n, 0⟩] :=
    if_pos hhigh
  rw [storeTo, isOwn_of hown hn, afterAcquire_of (by simp [ha]) hf, hgate, afterOwn_of ha hp, hdirty, Chk.bind, storePieces, storePieces, storePiece]
  dsimp only
  rw [if_pos rfl, segsIn_within h, ← foldl_storeOwn_now hown h hslow]

end

theorem bytesLe_length (n x : Nat) : (bytesLe n x).length = n := by simp [bytesLe]

theorem within_one {n : Nat} {bs : List Byte} (h : bs.length = n) (hn : 0 < n) : Within n [(0, bs)] := by
  intro x hx
  obtain rfl := List.mem_singleton.1 hx
  exact ⟨hn.trans_eq h.symm, by simp [h]⟩

theorem placed_one (ea : W64) (bs : List Byte) : placed ea [(0, bs)] = [(ea, bs)] := by
  simp [placed]

theorem within_validWords (y : W512) (v : BitVec 8) : Within 64 (validWords y v) := by
  intro x hx
  simp only [validWords_eq, List.mem_map, List.mem_filter, List.mem_range] at hx
  obtain ⟨k, ⟨hk, -⟩, rfl⟩ := hx
  exact ⟨by simp [bytesLe], by simp only [bytesLe_length]; omega⟩

section
variable {s : State} {d a b : Fin 32} {w wd : Bool} {o : BitVec 11} {x y z ea : W64} {m : MSz} {n : Nat} (hq : Quiet s)
include hq

/-- A store of one part that the address checks let pass. -/
theorem bind_storeTo_own {align : Nat} {bs : List Byte} {masked : Bool} (hown : Own ea n) (ha : ea.toNat % align = 0) (hl : bs.length = n)
    (hn : 0 < n) : ((checkAddr s ea n align .store (.store masked)).bind fun s ps => storeTo s ea [(0, bs)] ps) =
      .done (ownStores s [(ea, bs)]) := by
  rw [checkAddr_own hown hn ha, Chk.bind, storeTo_own hown hn hq (within_one hl hn), placed_one]

theorem st_own (h : Two s b d x y) (hm : MSz.bytes m = n) (hn : 0 < n) (hown : Own (x + o.signExtend 64 * .ofNat 64 n) n)
    (ha : (x + o.signExtend 64 * .ofNat 64 n).toNat % n = 0) : exec (.st m d b w wd o) s =
      done (ownStores s [(x + o.signExtend 64 * .ofNat 64 n, bytesLe n y.toNat)]) [b, d] := by
  obtain ⟨hs, hb, hd⟩ := h
  rw [exec_st, execSt, hm, ← curOf_nil, srcX_of hs hb, List.nil_append, srcX_of hs hd, commit_curOf, storeEffect, ← bytesLe_eq]
  rw [bind_storeTo_own hq hown ha (bytesLe_length ..) hn]
  exact finish_pop_done ..

theorem stRel_own (h : Two s a d ea y) (hm : MSz.bytes m = n) (hn : 0 < n) {sc : Scope} (hsc : InScope s sc) (hown : Own ea n)
    (ha : ea.toNat % n = 0) : exec (.stRel m d a sc w) s = done (ownStores s [(ea, bytesLe n y.toNat)]) [a, d] := by
  obtain ⟨hs, hx, hd⟩ := h
  have hone := bind_storeTo_own (masked := false) hq hown ha (bytesLe_length n y.toNat) hn
  rw [checkAddr_own hown hn ha, Chk.bind] at hone
  rw [exec_stRel, execStRel, hm, ← curOf_nil, srcX_of hs hx, List.nil_append, srcX_of hs hd, commit_curOf, scopeTest_of hsc, storeEffect,
    ← bytesLe_eq, checkAddr_own hown hn ha, Chk.bind]
  dsimp only
  rw [releaseOver_of hq.1, hone]
  exact finish_pop_done ..

theorem stQ_own (h : Two s a d ea y) (hz : scalar s [a, d] (d + 1) = some (z, true)) (hown : Own ea 16) (ha : ea.toNat % 16 = 0) :
    exec (.stQ d a w) s = done (ownStores s [(ea, bytesLe 8 y.toNat ++ bytesLe 8 z.toNat)]) [a, d, d + 1] := by
  obtain ⟨hs, hx, hd⟩ := h
  rw [exec_stQ, execStQ, ← curOf_nil, srcX_of hs hx, List.nil_append, srcX_of hs hd, List.cons_append, List.nil_append, nextReg, srcX_of hs hz,
    commit_curOf, ← bytesLe_eq, ← bytesLe_eq, bind_storeTo_own hq hown ha (by simp [bytesLe_length]) (by decide)]
  exact finish_pop_done ..

theorem vst_own {y : W512} {v : BitVec 8} (hb : One s b x) (hd : vector s [b] d = some (y, v)) (hown : Own (x + o.signExtend 64 * 64) 64)
    (ha : (x + o.signExtend 64 * 64).toNat % 64 = 0) : exec (.vst d b w o) s =
      done (ownStores s (((List.range 8).filter fun k => v.getLsbD k).map fun k =>
        (x + o.signExtend 64 * 64 + .ofNat 64 (8 * k), bytesLe 8 (y.toNat / 2 ^ (64 * k))))) [b, d] := by
  obtain ⟨hs, hb⟩ := hb
  have hparts : (((List.range 8).filter fun k => v.getLsbD k).map fun k =>
      (x + o.signExtend 64 * 64 + .ofNat 64 (8 * k), bytesLe 8 (y.toNat / 2 ^ (64 * k)))) =
        placed (x + o.signExtend 64 * 64) (validWords y v) := by
    rw [validWords_eq, placed, List.map_map]
    rfl
  rw [hparts, exec_vst, execVst, ← curOf_nil, srcX_of hs hb, List.nil_append, srcV_of hs hd, commit_curOf]
  dsimp only
  by_cases hv : v = 0
  · have hnone : validWords y v = [] := by simp [validWords, hv]
    rw [if_pos hv, hnone]
    exact finish_pop_done ..
  · rw [if_neg hv, checkAddr_own (n := 64) hown (by decide) ha, Chk.bind, storeTo_own (n := 64) hown (by decide) hq (within_validWords y v)]
    exact finish_pop_done ..

theorem hst_own {d : Fin 8} {y : W8192} (hb : One s b x) (hd : hyper s d = some y) (hown : Own (x + o.signExtend 64 * 1024) 1024)
    (ha : (x + o.signExtend 64 * 1024).toNat % 64 = 0) : exec (.hst d b w wd o) s =
      done (ownStores s [(x + o.signExtend 64 * 1024, bytesLe 1024 y.toNat)]) [b] := by
  obtain ⟨hs, hb⟩ := hb
  rw [exec_hst, execHst, ← curOf_nil, srcX_of hs hb, srcH_of hs hd, commit_curOf]
  dsimp only
  rw [← bytesLe_eq, bind_storeTo_own hq hown ha (bytesLe_length ..) (by decide)]
  exact finish_pop_done ..

end

/-! ## Lanes of a gather or scatter -/

/-- Address of lane `i` of `n` bytes (R158). -/
def laneAddr (n : Nat) (x : W64) (idx : W512) (i : Nat) : W64 := x + .ofNat 64 (idx.toNat / 2 ^ (8 * n * i) % 2 ^ (8 * n) * n)

theorem laneAddrs_eq (n : Nat) (act : BitVec 8) (x : W64) (idx : W512) : laneAddrs (8 * n) act x idx =
    ((List.range (64 / n)).filter fun i => act.getLsbD (i * n / 8)).map fun i => (i, laneAddr n x idx i) := by
  have hlanes : 512 / (8 * n) = 64 / n := Nat.mul_div_mul_left 64 n (show 0 < 8 by decide)
  have hon (i : Nat) : laneOn act (8 * n) i = act.getLsbD (i * n / 8) := by
    rw [laneOn, show i * (8 * n) = 8 * (i * n) by ring, show 64 = 8 * 8 from rfl, Nat.mul_div_mul_left _ _ (show 0 < 8 by decide)]
  rw [laneAddrs, hlanes, ← List.filterMap_eq_map, ← List.filterMap_eq_filter, List.filterMap_filterMap]
  refine List.filterMap_congr fun i _ => ?_
  rw [hon, Nat.mul_div_cancel_left n (by decide)]
  cases h : act.getLsbD (i * n / 8)
  · simp [Option.guard, h]
  · simp [Option.guard, h, laneAddr, Machine.lane, bits]

/-- Lanes of the own scratchpad with nothing before them pass the checks (R158). -/
theorem lanesChecked_own {s : State} {n : Nat} {x : W64} {l : List (Nat × W64)} (hq : Quiet s) (hn : 0 < n) (hx : x.toNat % n = 0)
    (hl : ∀ p ∈ l, Own p.2 n) (k : State → Res) : lanesChecked s n x l k = k s := by
  unfold lanesChecked
  split
  · rfl
  · have hnone : l.find? (fun p => !isOwn p.2) = none := List.find?_eq_none.2 fun p hp => by simp [isOwn_of (hl p hp) hn]
    rw [if_neg (not_not_intro hx), hnone]
    exact onCoreAccess_quiet hq ..

theorem bytesOf_lane (n : Nat) (y : W512) (i : Nat) : bytesOf n (Machine.lane (8 * n) y.toNat i) = bytesLe n (y.toNat / 2 ^ (8 * n * i)) := by
  rw [← bytesLe_eq]
  refine List.map_congr_left fun k hk => ?_
  rw [List.mem_range] at hk
  have hsplit : 8 * n = 8 * k + (8 * n - 8 * k) := by omega
  congr 1
  rw [Machine.lane, bits]
  generalize y.toNat / 2 ^ (8 * n * i) = v
  rw [hsplit, pow_add, Nat.mod_mul_right_div_self]
  exact Nat.mod_mod_of_dvd _ (by rw [show (256 : Nat) = 2 ^ 8 from rfl]; exact Nat.pow_dvd_pow 2 (by omega))

theorem vsca_own {s : State} {d a b : Fin 32} {w : Bool} {m : MSz} {n : Nat} {x : W64} {idx y : W512} {v u : BitVec 8} (hq : Quiet s)
    (hm : MSz.bytes m = n) (hn : 0 < n) (ha : One s a x) (hb : vector s [a] b = some (idx, v)) (hd : vector s [a, b] d = some (y, u))
    (hx : x.toNat % n = 0) (hl : ∀ i < 64 / n, (v &&& u).getLsbD (i * n / 8) = true → Own (laneAddr n x idx i) n) :
    exec (.vsca m d a b w) s = done (ownStores s (((List.range (64 / n)).filter fun i => (v &&& u).getLsbD (i * n / 8)).map fun i =>
      (laneAddr n x idx i, bytesLe n (y.toNat / 2 ^ (8 * n * i))))) [a, b, d] := by
  obtain ⟨hs, ha⟩ := ha
  have hlanes : ∀ p ∈ laneAddrs (8 * n) (v &&& u) x idx, Own p.2 n := by
    intro p hp
    simp only [laneAddrs_eq, List.mem_map, List.mem_filter, List.mem_range] at hp
    obtain ⟨i, ⟨hi, hact⟩, rfl⟩ := hp
    exact hl i hi hact
  rw [exec_vsca, execVsca, hm, ← curOf_nil, srcX_of hs ha, List.nil_append, srcV_of hs hb, List.cons_append, List.nil_append, srcV_of hs hd,
    commit_curOf]
  dsimp only
  rw [lanesChecked_own hq hn hx hlanes, laneAddrs_eq, List.foldl_map, ownStores, List.foldl_map]
  refine (finish_pop_done ..).trans ?_
  simp only [bytesOf_lane]
  rfl

/-- Settles O18: with nothing before them the checks let the stores pass, and each part is written at its address. -/
theorem ownStoresWriteTheBytes : Obligations.OwnStoresWriteTheBytes :=
  ⟨fun _ hz _ _ _ _ _ _ _ _ h hq hown ha => st_own hq h (sizes_bytes hz) (sizes_pos hz) hown ha,
    fun _ hz _ _ _ _ _ _ _ h hq hsc hown ha => stRel_own hq h (sizes_bytes hz) (sizes_pos hz) hsc hown ha,
    fun _ _ _ _ _ _ _ h hz hq hown ha => stQ_own hq h hz hown ha, fun _ _ _ _ _ _ _ _ hb hd hq hown ha => vst_own hq hb hd hown ha,
    fun _ _ _ _ _ _ _ _ hb hd hq hown ha => hst_own hq hb hd hown ha,
    fun _ hz _ _ _ _ _ _ _ _ _ _ ha hb hd hq hx hl => vsca_own hq (sizes_bytes hz) (sizes_pos hz) ha hb hd hx hl⟩

end Sys2Proof.Proofs
end

section
/-! Loads from the own scratchpad (O23). -/

namespace Sys2Proof.Proofs

open Sys2Proof Sys2Proof.Machine Sys2Proof.Safety Sys2Proof.Says Sys2Proof.Laws

/-! ## Loads from the own scratchpad -/

theorem held_piece (s : State) (ea : W64) (n : Nat) : natOf (s.t.sp.read (offset ea) n) = held s ea n := (held_eq s ea n).symm

theorem extendTo_unsigned (n x : Nat) : extendTo n false x = .ofNat 64 x := rfl

theorem extendTo_signed (n x : Nat) : extendTo n true x = (BitVec.ofNat (8 * n) x).signExtend 64 := sext64_ofNat ..

/-- The two halves of sixteen bytes of the own scratchpad. -/
theorem held_halves {s : State} {ea : W64} (hown : Own ea 16) :
    natOf ((s.t.sp.read (offset ea) 16).take 8) = held s ea 8 ∧ natOf ((s.t.sp.read (offset ea) 16).drop 8) = held s (ea + 8) 8 := by
  have hlen : (s.t.sp.read (offset ea) 8).length = 8 := by simp
  have hnext : offset (ea + 8) = offset ea + 8 := offset_of (ownAddr_toNat hown (by decide : 8 ≤ 16))
  rw [held_eq, held_eq, hnext, read_add _ _ 8 8, List.take_left' hlen, List.drop_left' hlen]
  exact ⟨rfl, rfl⟩

section
variable {s : State} {d a b : Fin 32} {w : Bool} {o : BitVec 11} {x ea : W64} {m : MSz} {n : Nat} (hq : Quiet s)
include hq

/-- The effect of a plain load from the own scratchpad (R132). -/
theorem loadEffect_own (hn : 0 < n) (hown : Own ea n) (ha : ea.toNat % n = 0) (d : Fin 32) (sg acq : Bool) (away : Option Agent) :
    loadEffect s d ea n sg false acq away = .done (writeX s d (extendTo n sg (held s ea n)) true) := by
  rw [loadEffect, checkAddr_own hown hn ha, Chk.bind, isOwn_of hown hn, Bool.not_false, Bool.and_true, if_pos rfl, onCoreRead_quiet hq,
    held_eq]

theorem loadWord_own (h : One s b x) (hd : Writable s d) (hm : MSz.bytes m = n) (hn : 0 < n)
    (hown : Own (x + o.signExtend 64 * .ofNat 64 n) n) (ha : (x + o.signExtend 64 * .ofNat 64 n).toNat % n = 0) (sg : Bool) :
    loadWord s m d b w false sg o = wrote s [b] d (extendTo n sg (held s (x + o.signExtend 64 * .ofNat 64 n) n)) true := by
  obtain ⟨hs, hb⟩ := h
  rw [loadWord, hm, ← curOf_nil, srcX_of hs hb, commit_curOf, dstX_of hd, loadEffect_own hq hn hown ha]
  exact finish_pop_done ..

theorem ldAcq_own (h : One s a ea) (hd : Writable s d) {sc : Scope} (hsc : InScope s sc) (hm : MSz.bytes m = n) (hn : 0 < n)
    (hown : Own ea n) (ha : ea.toNat % n = 0) : exec (.ldAcq m d a sc w) s = wrote s [a] d (.ofNat 64 (held s ea n)) true := by
  obtain ⟨hs, hx⟩ := h
  rw [exec_ldAcq, execLdAcq, hm, ← curOf_nil, srcX_of hs hx, commit_curOf, dstX_of hd, scopeTest_of hsc, loadEffect_own hq hn hown ha,
    extendTo_unsigned]
  exact finish_pop_done ..

theorem vldb_own (h : One s a ea) (hd : WritableV s d) (hm : MSz.bytes m = n) (hn : 0 < n) (hown : Own ea n) (ha : ea.toNat % n = 0) :
    exec (.vldb m d a w) s = wroteV s [a] d (.ofNat 512 (((List.range (64 / n)).map fun i => held s ea n * 2 ^ (8 * n * i)).sum)) 0xFF := by
  obtain ⟨hs, hx⟩ := h
  have hlanes : 512 / (8 * n) = 64 / n := Nat.mul_div_mul_left 64 n (show 0 < 8 by decide)
  have hall : broadcast (8 * n) (held s ea n) = .ofNat 512 (((List.range (64 / n)).map fun i => held s ea n * 2 ^ (8 * n * i)).sum) := by
    rw [broadcast, hlanes, ← ofLanes_eq_sum (8 * n) (64 / n) _ fun _ => held_lt s ea n, List.map_const', List.length_range]
  rw [exec_vldb, execVldb, hm, ← curOf_nil, srcX_of hs hx, commit_curOf, dstV_of hd, checkAddr_own hown hn ha, Chk.bind, isOwn_of hown hn,
    if_pos rfl, onCoreRead_quiet hq, held_piece, hall]
  exact finish_pop_done ..

theorem ldQ_own (h : One s a ea) (hd : Writable s d) (hd' : Writable s (d + 1)) (hown : Own ea 16) (ha : ea.toNat % 16 = 0) :
    exec (.ldQ d a w) s =
      done (writeX (writeX s d (.ofNat 64 (held s ea 8)) true) (d + 1) (.ofNat 64 (held s (ea + 8) 8)) true) [a] := by
  obtain ⟨hs, hx⟩ := h
  obtain ⟨hlow, hhigh⟩ := held_halves (s := s) hown
  rw [exec_ldQ, execLdQ, ← curOf_nil, srcX_of hs hx, commit_curOf, dstX_of hd, nextReg, dstX_of hd',
    checkAddr_own (n := 16) hown (by decide) ha, Chk.bind, isOwn_of (n := 16) hown (by decide), if_pos rfl, onCoreRead_quiet hq, hlow, hhigh]
  exact finish_pop_done ..

theorem vld_own (h : One s b x) (hd : WritableV s d) (hown : Own (x + o.signExtend 64 * 64) 64)
    (ha : (x + o.signExtend 64 * 64).toNat % 64 = 0) :
    exec (.vld d b w o) s = wroteV s [b] d (.ofNat 512 (held s (x + o.signExtend 64 * 64) 64)) 0xFF := by
  obtain ⟨hs, hb⟩ := h
  rw [exec_vld, execVld, vldWord, ← curOf_nil, srcX_of hs hb, commit_curOf, dstV_of hd]
  dsimp only
  rw [checkAddr_own (n := 64) hown (by decide) ha, Chk.bind, isOwn_of (n := 64) hown (by decide), Bool.not_false, Bool.and_true, if_pos rfl, onCoreRead_quiet hq, held_piece]
  exact finish_pop_done ..

end

/-! ## Gathers (R158) -/

/-- Lanes set from 0 up in a register that holds zeros add up. -/
theorem foldl_setLane {w : Nat} (act : Nat → Bool) (f : Nat → Nat) (hf : ∀ i, f i < 2 ^ w) (n : Nat) :
    ((List.range n).filter act).foldl (fun x i => setLane w x i (f i)) 0 =
      ((List.range n).map fun i => if act i then f i * 2 ^ (w * i) else 0).sum ∧
    ((List.range n).map fun i => if act i then f i * 2 ^ (w * i) else 0).sum < 2 ^ (w * n) := by
  induction n with
  | zero => simp
  | succ n ih =>
    obtain ⟨heq, hlt⟩ := ih
    have hpow : 2 ^ (w * (n + 1)) = 2 ^ w * 2 ^ (w * n) := by rw [Nat.mul_succ, pow_add, Nat.mul_comm]
    have hle : (f n + 1) * 2 ^ (w * n) ≤ 2 ^ w * 2 ^ (w * n) := Nat.mul_le_mul_right _ (hf n)
    have hpos : 0 < 2 ^ (w * n) := Nat.two_pow_pos _
    rw [List.range_succ, List.filter_append, List.foldl_append, heq, List.map_append, List.sum_append, List.map_singleton, List.sum_singleton,
      hpow]
    cases hact : act n with
    | false =>
      have hone : 1 ≤ 2 ^ w := Nat.one_le_two_pow
      have := Nat.mul_le_mul_right (2 ^ (w * n)) hone
      simp only [hact, List.filter_cons, List.filter_nil, List.foldl_nil, Bool.false_eq_true, if_false]
      exact ⟨rfl, by omega⟩
    | true =>
      simp only [hact, List.filter_cons, List.filter_nil, List.foldl_cons, List.foldl_nil, if_true]
      rw [setLane, bits, Nat.div_eq_of_lt hlt, Nat.zero_mod, Nat.zero_mul, Nat.sub_zero, Nat.mod_eq_of_lt (hf n)]
      exact ⟨rfl, by rw [Nat.add_mul] at hle; omega⟩

/-- Reading a memory of the own tile in which nothing is to be corrected changes nothing. -/
theorem correctPiece_clean {s : State} (h : s.t.soft = []) (o n : Nat) : correctPiece s ⟨.tile s.t.vt o, n, 0⟩ = s := by
  refine repairMarks_clean _ _ _ fun t ht => ?_
  simp only [State.tile?, if_true, Option.some.injEq] at ht
  exact ht ▸ h

theorem vgat_own {s : State} {d a b : Fin 32} {w : Bool} {m : MSz} {n : Nat} {x : W64} {idx : W512} {v : BitVec 8} (hq : Quiet s)
    (hm : MSz.bytes m = n) (hn : 0 < n) (ha : One s a x) (hb : vector s [a] b = some (idx, v)) (hd : WritableV s d) (hx : x.toNat % n = 0)
    (hl : ∀ i < 64 / n, v.getLsbD (i * n / 8) = true → Own (laneAddr n x idx i) n) :
    exec (.vgat m d a b w) s = done (writeWords s d v (.ofNat 512 (((List.range (64 / n)).map fun i =>
      if v.getLsbD (i * n / 8) then held s (laneAddr n x idx i) n * 2 ^ (8 * n * i) else 0).sum))) [a, b] := by
  obtain ⟨hs, ha⟩ := ha
  obtain ⟨-, -, hbad, hsoft⟩ := id hq
  have hlanes : ∀ p ∈ laneAddrs (8 * n) v x idx, Own p.2 n := by
    intro p hp
    simp only [laneAddrs_eq, List.mem_map, List.mem_filter, List.mem_range] at hp
    obtain ⟨i, ⟨hi, hact⟩, rfl⟩ := hp
    exact hl i hi hact
  have hgood (l : List (Nat × W64)) : (l.find? fun p => s.t.badRange srcSp (p.2.toNat - 0xFF00000000000000) n) = none :=
    List.find?_eq_none.2 fun p _ => by simp [Tile.badRange, hbad]
  have hclean (l : List (Nat × W64)) :
      l.foldl (fun s p => correctPiece s ⟨.tile s.t.vt (p.2.toNat - 0xFF00000000000000), n, 0⟩) s = s := by
    induction l with
    | nil => rfl
    | cons p l ih => rw [List.foldl_cons, correctPiece_clean hsoft, ih]
  have hread (i : Nat) : s.t.sp.readNat ((laneAddr n x idx i).toNat - 0xFF00000000000000) n = held s (laneAddr n x idx i) n :=
    held_piece ..
  have hsum := (foldl_setLane (fun i => v.getLsbD (i * n / 8)) (fun i => held s (laneAddr n x idx i) n) (fun i => held_lt ..) (64 / n)).1
  rw [exec_vgat, execVgat, hm, ← curOf_nil, srcX_of hs ha, List.nil_append, srcV_of hs hb, commit_curOf, dstV_of hd]
  dsimp only
  rw [lanesChecked_own hq hn hx hlanes, hgood]
  dsimp only
  rw [hclean, laneAddrs_eq, List.foldl_map]
  simp only [hread]
  rw [hsum]
  exact finish_pop_done ..

/-! ## `touch`, `sbwait` and `mkempty` (R134) -/

section
variable {s s' : State} {d a : Fin 32} {w : Bool} {x ea : W64} {ps : List Piece}

theorem touch_of (h : One s a ea) (hc : checkAddr s ea 1 1 .load .load = .ok s' ps) : exec (.touch a w) s = done s' [a] := by
  obtain ⟨hs, ha⟩ := h
  rw [exec_touch, execTouch, ← curOf_nil, srcX_of hs ha, commit_curOf, hc]
  exact finish_pop_done ..

theorem sbwait_of (h : One s a x) : exec (.sbwait a) s = done s [a] := by
  obtain ⟨hs, ha⟩ := h
  rw [exec_sbwait, execSbwait, ← curOf_nil, srcX_of hs ha, commit_curOf]
  exact finish_pop_done ..

theorem mkempty_of (hd : Writable s d) : exec (.mkempty d) s = done (emptyX s d .cleared) [] := by
  rw [exec_mkempty, execMkempty, dstX_of hd, done, popped_nil]
  rfl

end

theorem ownLoadsWriteTheBytes : OwnLoadsWriteTheBytes :=
  ⟨fun _ hz _ _ _ _ _ _ h hd hq hown ha =>
      ⟨loadWord_own hq h hd (sizes_bytes hz) (sizes_pos hz) hown ha false,
        (loadWord_own hq h hd (sizes_bytes hz) (sizes_pos hz) hown ha true).trans (by rw [extendTo_signed])⟩,
    fun _ hz _ _ _ _ _ _ h hq hown ha =>
      ⟨fun hd hsc => ldAcq_own hq h hd hsc (sizes_bytes hz) (sizes_pos hz) hown ha,
        fun hd => vldb_own hq h hd (sizes_bytes hz) (sizes_pos hz) hown ha⟩,
    fun _ _ _ _ _ h hq hown ha hd hd' => ldQ_own hq h hd hd' hown ha,
    fun _ _ _ _ _ _ h hd hq hown ha => vld_own hq h hd hown ha⟩

theorem otherMemoryWordsComplete : OtherMemoryWordsComplete :=
  ⟨fun _ _ _ _ _ _ h hc => touch_of h hc, fun _ _ _ h => sbwait_of h, fun _ _ hd => mkempty_of hd,
    fun _ hz _ _ _ _ _ _ _ _ ha hb hd hq hx hl => vgat_own hq (sizes_bytes hz) (sizes_pos hz) ha hb hd hx hl⟩

/-- Settles O23: with nothing before it a load reads the scratchpad at once, and the other words need no memory. -/
theorem onCoreLoadsComplete : Obligations.OnCoreLoadsComplete := ⟨ownLoadsWriteTheBytes, otherMemoryWordsComplete⟩

end Sys2Proof.Proofs
end

section
/-! System calls and the end of a context (O16). -/

namespace Sys2Proof.Proofs

open Sys2Proof Sys2Proof.Machine Sys2Proof.Safety Sys2Proof.Says Sys2Proof.Laws

/-! ## `syscall` and `brk` (R140) -/

theorem syscall_of {s : State} {a : Fin 32} {wa : Bool} {x : W64} (h : One s a x) :
    exec (.syscall a wa) s = Safety.trapped s .syscall x (if s.c.inPair then 1 else 0) := by
  obtain ⟨hs, hx⟩ := h
  rw [exec_syscall, execSyscall, ← curOf_nil, srcX_of hs hx, commit_curOf, finish_pop_trap _ _ _ _ _ _ (by decide)]
  rfl

theorem systemCallsTrap : SystemCallsTrap := by
  refine ⟨fun s a wa x h => syscall_of h, fun s code h => ?_, fun s code h => ⟨breakFreeze s, ?_, rfl, rfl, rfl, rfl, rfl, rfl, rfl⟩⟩
  · rw [exec_brk, execBrk, h, if_neg (by decide), finish_trap _ _ _ (by decide)]
    rfl
  · rw [exec_brk, execBrk, h, if_pos rfl]
    rfl

/-! ## What is done at a late generation changes the bars alone -/

/-- A change of where barriers stand, and of the notes of them. -/
def SameButBars (s u : State) : Prop :=
  ∃ p o l ts q, u = { s with c := { s.c with bars := p }, t := { s.t with others := o, lash := l }, tiles := ts, g := { s.g with bars := q } }

theorem sameButBars_refl (s : State) : SameButBars s s := ⟨s.c.bars, s.t.others, s.t.lash, s.tiles, s.g.bars, rfl⟩

theorem sameButBars_trans {s t u : State} (h : SameButBars s t) (k : SameButBars t u) : SameButBars s u := by
  obtain ⟨p, o, l, ts, q, rfl⟩ := h
  obtain ⟨p', o', l', ts', q', rfl⟩ := k
  exact ⟨p', o', l', ts', q', rfl⟩

theorem groupIdx_sameButBars {s u : State} (h : SameButBars s u) : groupIdx u = groupIdx s := by
  obtain ⟨p, o, l, ts, q, rfl⟩ := h
  rfl

theorem focus_sameButBars {s u : State} (h : SameButBars s u) : u.focus s.t.vt s.c.id = u := by
  obtain ⟨p, o, l, ts, q, rfl⟩ := h
  exact if_pos ⟨rfl, rfl⟩

theorem setBar_bars (c : Ctx) (i : Nat) (p : BarPos) : ∃ b, c.setBar i p = { c with bars := b } := by
  unfold Ctx.setBar
  split
  · exact ⟨_, rfl⟩
  · exact ⟨c.bars, rfl⟩

theorem lateBar_bars (vt lv gen n : Nat) (ms : List (Nat × Nat)) (after : Bool) (c : Ctx) :
    ∃ b, c.lateBar vt lv gen n ms after = { c with bars := b } := by
  unfold Ctx.lateBar
  dsimp only
  split
  · exact ⟨c.bars, rfl⟩
  split
  · exact setBar_bars ..
  split
  · exact ⟨c.bars, rfl⟩
  · exact setBar_bars ..

theorem noteBar_sameButBars (here : Nat → Bool) (n : BarNote) (s : State) : SameButBars s (noteBar here n s) := by
  unfold noteBar State.mapTiles
  dsimp only
  split <;> exact ⟨s.c.bars, s.t.others, _, _, s.g.bars, rfl⟩

theorem abandonHere_sameButBars (lv id n : Nat) (s : State) : SameButBars s (abandonHere lv id n s) := by
  have hlate (f : Nat → Ctx → Ctx) (hf : ∃ b, f s.t.vt s.c = { s.c with bars := b }) : SameButBars s (s.mapAllCtxs f) := by
    obtain ⟨b, hb⟩ := hf
    exact ⟨b, _, s.t.lash, _, s.g.bars, by rw [← hb]; rfl⟩
  have hset (u : State) (b : Bar) : SameButBars u { u with g := u.g.setBar b } := ⟨u.c.bars, u.t.others, u.t.lash, u.tiles, _, rfl⟩
  unfold abandonHere
  dsimp only
  refine sameButBars_trans (hlate _ ?_) (sameButBars_trans (noteBar_sameButBars ..) (hset ..))
  split
  · exact lateBar_bars ..
  · exact ⟨s.c.bars, rfl⟩

section
variable {s : State} (hg : groupIdx s = [])
include hg

/-- In a grid with no other grid of its launch group, what is done in the group is done in it alone. -/
theorem forGroup_alone {f : State → State} (hf : SameButBars s (f s)) : SameButBars s (forGroup f s) := by
  unfold forGroup
  rw [hg, List.foldl_nil, focus_sameButBars hf]
  exact hf

theorem openBar_sameButBars (lv id gen : Nat) : SameButBars s (openBar s lv id gen) := by
  have hopen (held : Bool) : SameButBars s (setBarOpen lv id gen held s) := ⟨_, _, _, _, _, rfl⟩
  unfold openBar
  split
  · exact forGroup_alone hg (hopen _)
  · exact hopen _

theorem abandonAt_sameButBars (vt lv : Nat) : SameButBars s (abandonAt vt s lv) := by
  unfold abandonAt
  split
  · have hhere : SameButBars s (forInst lv (abandonHere lv (instOf s.g lv vt)
        (sumInst lv (arrivedCount lv (instOf s.g lv vt)) s)) s) := by
      unfold forInst
      split
      · exact forGroup_alone hg (abandonHere_sameButBars ..)
      · exact abandonHere_sameButBars ..
    exact sameButBars_trans hhere (openBar_sameButBars ((groupIdx_sameButBars hhere).trans hg) ..)
  · exact sameButBars_refl s

theorem abandonLate_sameButBars : SameButBars s (abandonLate s) := by
  have hfold (vt : Nat) (l : List Nat) (u : State) (hu : SameButBars s u) : SameButBars s (l.foldl (abandonAt vt) u) := by
    induction l generalizing u with
    | nil => exact hu
    | cons lv l ih => exact ih _ (sameButBars_trans hu (abandonAt_sameButBars ((groupIdx_sameButBars hu).trans hg) vt lv))
  exact hfold _ _ s (sameButBars_refl s)

end

/-! ## What is done with the stores of a context that ends -/

/-- A change of memories, and of what a write to them sets. -/
def SameButStores (s u : State) : Prop :=
  u.g = s.g ∧ u.t.vt = s.t.vt ∧ u.t.asm = s.t.asm ∧ ∃ e p, u.c = { s.c with evt := e, posted := p }

theorem sameButStores_trans {s t u : State} (h : SameButStores s t) (k : SameButStores t u) : SameButStores s u := by
  obtain ⟨hg, hv, ha, e, p, hc⟩ := h
  obtain ⟨kg, kv, ka, e', p', kc⟩ := k
  exact ⟨kg.trans hg, kv.trans hv, ka.trans ha, e', p', by rw [kc, hc]⟩

theorem heal_asm (t : Tile) (src o n : Nat) : (t.heal src o n).vt = t.vt ∧ (t.heal src o n).asm = t.asm := by
  unfold Tile.heal
  split <;> exact ⟨rfl, rfl⟩

theorem watchHit_evt (c : Ctx) (o n : Nat) : ∃ e, c.watchHit o n = { c with evt := e } := by
  unfold Ctx.watchHit
  split
  · split
    · exact ⟨true, rfl⟩
    · exact ⟨c.evt, rfl⟩
  · exact ⟨c.evt, rfl⟩

theorem spWrite_sameButStores (s : State) (vt o : Nat) (bs : List Byte) : SameButStores s (spWrite s vt o bs) := by
  obtain ⟨hv, ha⟩ := heal_asm s.t srcSp o bs.length
  obtain ⟨e, he⟩ := watchHit_evt s.c o bs.length
  refine ⟨spWrite_g .., ?_⟩
  unfold spWrite State.mapCtxs State.mapTile
  by_cases h : s.t.vt = vt
  · have hown : (s.t.spWrite (s.g.belay != 0) o bs).vt = vt := hv.trans h
    simp only [h, if_true, hown]
    exact ⟨trivial, ha, e, s.c.posted, by rw [he]⟩
  · simp only [h, if_false]
    exact ⟨trivial, trivial, s.c.evt, s.c.posted, rfl⟩

theorem performPost_sameButStores (who : Nat) (s : State) (p : Post) : SameButStores s (performPost who s p) := by
  unfold performPost
  split
  · exact ⟨rfl, rfl, rfl, s.c.evt, s.c.posted, rfl⟩
  · exact spWrite_sameButStores ..

theorem settleAll_sameButStores (s : State) : SameButStores s (settleAll s) := by
  have hfold (who : Nat) (l : List Post) (u : State) (hu : SameButStores s u) : SameButStores s (l.foldl (performPost who) u) := by
    induction l generalizing u with
    | nil => exact hu
    | cons p l ih => exact ih _ (sameButStores_trans hu (performPost_sameButStores who u p))
  unfold settleAll settlePosts
  split
  · exact ⟨rfl, rfl, rfl, s.c.evt, s.c.posted, rfl⟩
  · exact hfold _ _ _ ⟨rfl, rfl, rfl, s.c.evt, _, rfl⟩

theorem settleAll_nil {s : State} (h : s.c.posted = []) : settleAll s = s := if_pos h

/-! ## What is dropped -/

/-- The context without the follow-on of a command that is dropped. -/
def dropFollow (c : Ctx) (a : Asm) : Ctx := match a.follow with | some o => c.unflight o | none => c

theorem dropFollow_t (c : Ctx) (a : Asm) : ∃ ts, dropFollow c a = { c with t := ts } ∧
    ∀ d : Fin 8, (∀ o, a.follow = some o → o.d ≠ d) → ts[d] = c.t[d] := by
  unfold dropFollow
  cases hf : a.follow with
  | none => exact ⟨c.t, rfl, fun d _ => rfl⟩
  | some o =>
    dsimp only
    unfold Ctx.unflight
    split
    · refine ⟨_, rfl, fun d hd => ?_⟩
      have hne : o.d.val ≠ d.val := fun h => hd o rfl (Fin.ext h)
      simp [hne]
    · exact ⟨c.t, rfl, fun d _ => rfl⟩

/-- The commands that a context drops leave the tile registers that no follow-on of theirs claims. -/
theorem foldl_dropFollow (l : List Asm) (c : Ctx) : ∃ ts, l.foldl dropFollow c = { c with t := ts } ∧
    ∀ d : Fin 8, (∀ a ∈ l, ∀ o, a.follow = some o → o.d ≠ d) → ts[d] = c.t[d] := by
  induction l generalizing c with
  | nil => exact ⟨c.t, rfl, fun d _ => rfl⟩
  | cons a l ih =>
    obtain ⟨ts, hts, hkeep⟩ := dropFollow_t c a
    obtain ⟨us, hus, hrest⟩ := ih { c with t := ts }
    rw [List.foldl_cons, hts]
    exact ⟨us, hus, fun d hd => (hrest d fun b hb => hd b (List.mem_cons_of_mem _ hb)).trans (hkeep d (hd a List.mem_cons_self))⟩

theorem lashEarly_same (s : State) : SameButLog s (lashEarly s) := by
  unfold lashEarly
  split
  · exact sameButLog_refl s
  · exact ⟨_, s.t.log, s.t.fps, s.t.rfp, s.t.rcount, s.g.logFull, rfl⟩

theorem tally_asm (s : State) (n : Tally) : (s.tally s.t.vt n).t.asm = s.t.asm ∧ (s.tally s.t.vt n).c = s.c ∧
    (s.tally s.t.vt n).g = s.g.count n := by
  unfold State.tally
  rw [mapTile_own]
  refine ⟨?_, rfl, rfl⟩
  dsimp only
  split <;> rfl

theorem endContext_c {s s' : State} (h : settleAll (abandonLate s) = s') :
    (endContext s).c = (s'.t.asm.filter fun a => a.agent == s'.c.id).foldl dropFollow { s'.c with
      run := .ended, contBar := none, contEng := none, frecs := [], denial := none, kept := none, frame := none } := by
  obtain ⟨-, hc, -⟩ := tally_asm s' { cmdDrop := (s'.t.asm.filter fun a => a.agent == s'.c.id).length, recDrop := s'.c.frecs.length }
  unfold endContext
  dsimp only [atSwitch]
  rw [h, hc]
  rfl

/-- The end of a context, of which `s'` is what is left once late generations have been abandoned and stores performed. -/
theorem endContext_kept {s s' : State} (h : settleAll (abandonLate s) = s') : (endContext s).c.run = .ended ∧ (endContext s).c.frecs = [] ∧
    (endContext s).t.asm = s'.t.asm.filter (fun a => a.agent != s'.c.id) ∧
    (endContext s).g = s'.g.count { cmdDrop := (s'.t.asm.filter fun a => a.agent == s'.c.id).length, recDrop := s'.c.frecs.length } ∧
    (endContext s).m = s'.m ∧ (endContext s).t.sp = s'.t.sp ∧
    (∀ d : Fin 8, (∀ a ∈ s'.t.asm, a.agent = s'.c.id → ∀ o, a.follow = some o → o.d ≠ d) → (endContext s).c.t[d] = s'.c.t[d]) ∧
    (endContext s).c.instret = s'.c.instret ∧ (endContext s).c.x = s'.c.x ∧ (endContext s).c.v = s'.c.v ∧ (endContext s).c.h = s'.c.h ∧
    (endContext s).c.b = s'.c.b ∧ (endContext s).c.pc = s'.c.pc := by
  obtain ⟨hasm, -, hg⟩ := tally_asm s' { cmdDrop := (s'.t.asm.filter fun a => a.agent == s'.c.id).length, recDrop := s'.c.frecs.length }
  obtain ⟨hm, -, hsp⟩ := tally_own s' { cmdDrop := (s'.t.asm.filter fun a => a.agent == s'.c.id).length, recDrop := s'.c.frecs.length }
  obtain ⟨ts, hts, hkeep⟩ := foldl_dropFollow (s'.t.asm.filter fun a => a.agent == s'.c.id) { s'.c with
    run := .ended, contBar := none, contEng := none, frecs := [], denial := none, kept := none, frame := none }
  rw [endContext_c h, hts]
  refine ⟨rfl, rfl, ?_, ?_, ?_, ?_, fun d hd => hkeep d fun a ha => ?_, rfl, rfl, rfl, rfl, rfl, rfl⟩
  · simp only [endContext, atSwitch, h, hasm, Tile.resume]
    rfl
  · simp only [endContext, atSwitch, h, hg]
  · simp only [endContext, atSwitch, h, hm]
  · simp only [endContext, atSwitch, h, hsp, Tile.resume]
  · obtain ⟨hmem, hagent⟩ := List.mem_filter.1 ha
    exact hd a hmem (by simpa using hagent)

theorem endEndsTheContext : EndEndsTheContext := by
  intro s hg
  have hlog := sameButLog_trans (countRetired_same s) (lashEarly_same (countRetired s))
  refine ⟨endContext (lashEarly (countRetired s)), rfl, ?_⟩
  generalize lashEarly (countRetired s) = u at hlog
  obtain ⟨l, f, p, q, n, b, rfl⟩ := hlog
  generalize hu : ({ s with
    c := { s.c with instret := s.c.instret + 1 }
    t := { s.t with lash := l, log := f, fps := p, rfp := q, rcount := n }, g := { s.g with logFull := b } } : State) = u
  obtain ⟨p', o', l', ts', q', hbars⟩ := abandonLate_sameButBars (s := u) (by rw [← hu]; exact hg)
  obtain ⟨hgrid, -, hasm, e, p'', hctx⟩ := settleAll_sameButStores (abandonLate u)
  obtain ⟨hrun, hfrecs, hasm', hg', hm, hsp, ht, hret, hx, hv, hh, hb, hpc⟩ := endContext_kept (s := u) rfl
  rw [hasm, hctx] at hasm' hg'
  rw [hgrid] at hg'
  rw [hctx] at hret hx hv hh hb hpc ht
  rw [hasm] at ht
  have hmem : s.c.posted = [] → (endContext u).m = s.m ∧ (endContext u).t.sp = s.t.sp := by
    intro hnone
    have hstay : settleAll (abandonLate u) = abandonLate u := settleAll_nil (by rw [hbars, ← hu]; exact hnone)
    rw [hm, hsp, hstay, hbars, ← hu]
    exact ⟨rfl, rfl⟩
  rw [hbars] at hasm' hg' ht hret hx hv hh hb hpc
  rw [hg']
  subst hu
  exact ⟨hrun, hfrecs, hret, hasm', rfl, rfl, ht, hx, hv, hh, hb, hpc, hmem⟩

/-- Settles O16: the words end in a trap, a freeze, or the end of the context, which drops what it leaves. -/
theorem systemCallsTrapAndEndEnds : Obligations.SystemCallsTrapAndEndEnds := ⟨systemCallsTrap, endEndsTheContext⟩

end Sys2Proof.Proofs
end

section
/-! Words of the tag masks (O24). -/

namespace Sys2Proof.Proofs

open Sys2Proof Sys2Proof.Machine Sys2Proof.Safety Sys2Proof.Says Sys2Proof.Laws

/-! ## Masks of F and V (R145) -/

theorem regX_eq (c : Ctx) {i : Nat} (h : i < 32) : c.regX i = c.x[Fin.ofNat 32 i] := by
  simp [Ctx.regX, List.getD, h, Nat.mod_eq_of_lt]

theorem isFull_eq (g : Tag) : g.isFull = (g == .full) := by cases g <;> rfl

/-- A mask over `x1` to `x27` is a sum over their numbers. -/
theorem maskSum_congr (c : Ctx) {p q : XReg → Bool} (h : ∀ r, p r = q r) :
    ((List.range 27).map fun i => (p (c.regX (i + 1))).toNat * 2 ^ (i + 1)).sum =
      ((List.range 27).map fun i => (q c.x[Fin.ofNat 32 (i + 1)]).toNat * 2 ^ (i + 1)).sum := by
  congr 1
  refine List.map_congr_left fun i hi => ?_
  rw [List.mem_range] at hi
  rw [regX_eq c (by omega), h]

section
variable {s : State} {d : Fin 32} (hd : Writable s d)
include hd

theorem rdfe_of : exec (.rdfe d) s = wrote s [] d (.ofNat 64 (1 + ((List.range 27).map fun i =>
    ((s.c.x[Fin.ofNat 32 (i + 1)]).tag == .full).toNat * 2 ^ (i + 1)).sum)) true := by
  rw [exec_rdfe, execRdfe, putResult_of hd, Ctx.fMask, maskSum_congr s.c (p := fun r => r.tag.isFull) fun r => isFull_eq r.tag, wrote, done,
    popped_nil]
  rfl

theorem rdvb_of : exec (.rdvb d) s = wrote s [] d (.ofNat 64 (1 + ((List.range 27).map fun i =>
    ((s.c.x[Fin.ofNat 32 (i + 1)]).tag == .full && (s.c.x[Fin.ofNat 32 (i + 1)]).v).toNat * 2 ^ (i + 1)).sum)) true := by
  rw [exec_rdvb, execRdvb, putResult_of hd, Ctx.vMask,
    maskSum_congr s.c (p := fun r => r.tag.isFull && r.v) fun r => congrArg (· && r.v) (isFull_eq r.tag), wrote, done, popped_nil]
  rfl

end

/-! ## Changes of scalar registers (R146) -/

/-- The scalar registers of the context have become `xs`, beside what the tile notes of that. -/
def ChangesX (s t : State) (xs : Vector XReg 32) : Prop :=
  t.c = { s.c with x := xs } ∧ t.m = s.m ∧ t.tiles = s.tiles ∧ t.t.sp = s.t.sp

theorem markX_changesX (s : State) (d : Fin 32) (r : XReg) : ChangesX s (markX s d r) (s.c.x.set d r) := by
  have same := absorb_same (s.setX d r) s.c.id d.val (bytesOf 8 r.val.toNat) (2 * r.tag.isFull.toNat + r.v.toNat)
  exact ⟨sameButLog_c same, (sameButLog_m same).trans rfl, (sameButLog_tiles same).trans rfl, (sameButLog_sp same).trans rfl⟩

theorem healReg_sp (s : State) (o n : Nat) : (healReg s o n).t.sp = s.t.sp := by
  unfold healReg Tile.heal
  dsimp only
  split <;> rfl

theorem emptyX_changesX (s : State) {d : Fin 32} (g : Tag) (h0 : d.val ≠ 0) (h : d.val < 28) :
    ChangesX s (emptyX s d g) (s.c.x.set d ⟨0, g, false⟩) := by
  rw [emptyX, if_neg (by omega), putX]
  obtain ⟨hc, hm, ht, hsp⟩ := markX_changesX (healReg s (8 * d.val) 8) d ⟨0, g, false⟩
  exact ⟨hc, hm, ht, hsp.trans (healReg_sp ..)⟩

/-- Registers of a list that are changed one after another. -/
theorem foldl_changesX {step : State → Fin 32 → State} {f : Fin 32 → XReg → XReg} {l : List (Fin 32)}
    (hstep : ∀ i ∈ l, ∀ u, ChangesX u (step u i) (u.c.x.set i (f i u.c.x[i]))) (hl : l.Nodup) (s : State) :
    ∃ xs, ChangesX s (l.foldl step s) xs ∧ ∀ j : Fin 32, xs[j] = if j ∈ l then f j s.c.x[j] else s.c.x[j] := by
  induction l generalizing s with
  | nil => exact ⟨s.c.x, ⟨rfl, rfl, rfl, rfl⟩, fun j => by simp⟩
  | cons i l ih =>
    obtain ⟨hnew, hrest⟩ := List.nodup_cons.1 hl
    obtain ⟨hc, hm, ht, hsp⟩ := hstep i List.mem_cons_self s
    obtain ⟨xs, ⟨hc', hm', ht', hsp'⟩, hxs⟩ := ih (fun j hj => hstep j (List.mem_cons_of_mem _ hj)) hrest (step s i)
    refine ⟨xs, ⟨by rw [List.foldl_cons, hc', hc], hm'.trans hm, ht'.trans ht, hsp'.trans hsp⟩, fun j => ?_⟩
    rw [hxs j, hc]
    by_cases hj : j = i
    · subst hj
      simp [hnew]
    · have hne : i.val ≠ j.val := fun h => hj (Fin.ext h.symm)
      simp [hj, hne]

theorem mem_tagRegs (i : Fin 32) : i ∈ tagRegs ↔ i.val ≠ 0 ∧ i.val < 28 := by
  revert i
  decide

/-- Changes of those of `x1` to `x27` that `p` picks. -/
theorem foldl_tagRegs {step : State → Fin 32 → State} {f F : Fin 32 → XReg → XReg} {p : Fin 32 → Bool} {s : State}
    (hstep : ∀ i ∈ tagRegs, ∀ u, ChangesX u (step u i) (u.c.x.set i (f i u.c.x[i])))
    (hF : ∀ i : Fin 32, F i s.c.x[i] = if p i then f i s.c.x[i] else s.c.x[i]) : Regs ((tagRegs.filter p).foldl step s) s F := by
  obtain ⟨xs, ⟨hc, hm, ht, hsp⟩, hxs⟩ := foldl_changesX (fun i hi => hstep i (List.mem_of_mem_filter hi))
    (List.Nodup.filter p (by decide : tagRegs.Nodup)) s
  unfold Regs
  rw [hc]
  refine ⟨fun i => ?_, rfl, rfl, rfl, rfl, rfl, rfl, rfl, rfl, hm, ht, hsp⟩
  rw [hxs i, hF i]
  simp only [List.mem_filter, mem_tagRegs]
  by_cases h : i.val ≠ 0 ∧ i.val < 28
  · simp only [h, ne_eq, not_false_iff, and_self, true_and, if_true]
  · simp only [h, false_and, if_false]

section
variable {s : State} {a : Fin 32} {w : Bool} {m : W64}

/-- Registers that `wrfe` clears. -/
theorem mem_cleared (i : Fin 32) : i ∈ tagRegs.filter (fun i => !m.getLsbD i.val) ↔ (i.val ≠ 0 ∧ i.val < 28) ∧ m.getLsbD i.val = false := by
  rw [List.mem_filter, mem_tagRegs, Bool.not_eq_true']

theorem wrfe_clears (h : One s a m)
    (hx : ∀ i : Fin 32, i.val ≠ 0 → i.val < 28 → m.getLsbD i.val = false → s.c.x[i].tag ≠ .awaiting) :
    ∃ t, exec (.wrfe a w) s = done t [a] ∧ Regs t s fun i r => if m.getLsbD i.val then r else ⟨0, .cleared, false⟩ := by
  obtain ⟨hs, ha⟩ := h
  have hnone : (tagRegs.filter fun i => !m.getLsbD i.val).find? (fun i => (s.c.x[i]).tag == .awaiting) = none := by
    refine List.find?_eq_none.2 fun i hi => ?_
    obtain ⟨⟨h0, h28⟩, hm⟩ := (mem_cleared i).1 hi
    simpa using hx i h0 h28 hm
  refine ⟨(tagRegs.filter fun i => !m.getLsbD i.val).foldl (fun s i => emptyX s i .cleared) s, ?_, ?_⟩
  · rw [exec_wrfe, execWrfe, ← curOf_nil, srcX_of hs ha, commit_curOf]
    dsimp only
    rw [hnone]
    exact finish_pop_done ..
  · refine foldl_tagRegs (f := fun _ _ => ⟨0, .cleared, false⟩) (fun i hi u => ?_) fun i => ?_
    · obtain ⟨h0, h28⟩ := (mem_tagRegs i).1 hi
      exact emptyX_changesX u .cleared h0 h28
    · cases m.getLsbD i.val <;> rfl

theorem wrfe_waits (h : One s a m) {i : Fin 32} (h0 : i.val ≠ 0) (h28 : i.val < 28) (hm : m.getLsbD i.val = false)
    (hx : s.c.x[i].tag = .awaiting) : ∃ j, exec (.wrfe a w) s = blocked s (.xreg j) ∧ m.getLsbD j.val = false ∧ s.c.x[j].tag = .awaiting := by
  obtain ⟨hs, ha⟩ := h
  obtain ⟨j, hj⟩ : ∃ j, (tagRegs.filter fun i => !m.getLsbD i.val).find? (fun i => (s.c.x[i]).tag == .awaiting) = some j :=
    Option.isSome_iff_exists.1 (List.find?_isSome.2 ⟨i, (mem_cleared i).2 ⟨⟨h0, h28⟩, hm⟩, (beq_iff_eq (a := s.c.x[i].tag)).2 hx⟩)
  obtain ⟨-, hclear⟩ := (mem_cleared j).1 (List.mem_of_find?_eq_some hj)
  refine ⟨j, ?_, hclear, by simpa using List.find?_some hj⟩
  rw [exec_wrfe, execWrfe, ← curOf_nil, srcX_of hs ha, commit_curOf]
  dsimp only
  rw [hj]
  exact finish_pop_wait ..

theorem wrvb_of {v : Bool} (hs : Sound s) (ha : scalar s [] a = some (m, v)) :
    ∃ t, exec (.wrvb a w) s = done t [a] ∧ Regs t s fun i r => if r.tag = .full then { r with v := m.getLsbD i.val } else r := by
  refine ⟨(tagRegs.filter fun i => (s.c.x[i]).tag.isFull).foldl (fun s i => markX s i { s.c.x[i] with v := m.getLsbD i.val }) s, ?_, ?_⟩
  · rw [exec_wrvb, execWrvb, ← curOf_nil, examX_of hs ha, accept_curOf]
    exact finish_pop_done ..
  · refine foldl_tagRegs (f := fun i r => { r with v := m.getLsbD i.val }) (fun i _ u => markX_changesX ..) fun i => ?_
    cases s.c.x[i].tag <;> rfl

end

/-- Settles O24: the masks are sums over the registers, and the writes change the registers one after another. -/
theorem tagWordsReadAndWriteMasks : Obligations.TagWordsReadAndWriteMasks :=
  ⟨fun _ _ hd => ⟨rdfe_of hd, rdvb_of hd⟩,
    fun _ _ _ _ h => ⟨wrfe_clears h, fun _ h0 h28 hm hx => wrfe_waits h h0 h28 hm hx⟩,
    fun _ _ _ _ _ hs ha => wrvb_of hs ha⟩

end Sys2Proof.Proofs
end

section
/-! Words that order, wait or signal (O25). -/

namespace Sys2Proof.Proofs

open Sys2Proof Sys2Proof.Machine Sys2Proof.Safety Sys2Proof.Says Sys2Proof.Laws

/-! ## A context with nothing to wait for -/

section
variable {s : State} (h : NothingBefore s)
include h

/-- A wait for earlier reads, writes or both is over at once. -/
theorem settled_any (reads writes : Bool) (qp : Post → Bool) (q : Nat → List Piece → Bool) (k : State → Res) :
    settled s reads writes qp q k = k s := by
  obtain ⟨ha, hp, -, hm, hg⟩ := h
  have hposts : (if writes then settlePosts qp s else s) = s := by rw [settlePosts, if_pos hp, ite_self]
  have hperf (p : Access → Bool) : (if reads || writes then performOwn p s else s) = s := by
    rw [performOwn_nil _ ha, ite_self]
  rw [settled]
  dsimp only
  rw [hposts, hperf, if_neg (by simp [State.storesOf, hm, hg, ha])]

theorem allPerformed_any (reads writes : Bool) (k : State → Res) : allPerformed s reads writes k = k s := by
  obtain ⟨-, -, hpass, -⟩ := id h
  rw [allPerformed, settled_any h]
  split
  · exact congrArg (fun l => k { s with c := { s.c with passed := l } }) hpass.symm
  · rfl

theorem atHome_of (hb : HoldsNone s) (k : State → Res) : atHome s k = k s := by
  obtain ⟨-, -, -, -, hg⟩ := id h
  have hnone : s.t.belay.held.any (fun x => x.agent == s.c.id) = false := List.any_eq_false.2 fun x hx => by simpa using hb x hx
  rw [atHome, allPerformed_any h, hg, hnone]
  exact if_neg (by decide)

end

/-- The end of a word with no operand. -/
theorem finish_done (s t : State) : finish s (.done t) = done t [] := by
  rw [done, popped_nil]
  rfl

/-! ## `fence`, `ifence`, `yield` and `wfi` -/

section
variable {s : State} {sc : Scope} {pr pw sr sw : Bool}

theorem fence_kept (hsc : InScope s sc) (h : NothingBefore s)
    (hkeep : s.awayAt (Machine.Scope.num sc) = none ∨ (pr || pw) = false ∨ (sr || sw) = false) :
    exec (.fence sc pr pw sr sw) s = done s [] := by
  rw [exec_fence, execFence, scopeTest_of hsc, ← finish_done s s]
  congr 1
  split
  · next horders =>
    obtain ⟨hp, hs⟩ := Bool.and_eq_true_iff.1 horders
    have haway : s.awayAt (Machine.Scope.num sc) = none := by simpa [hp, hs] using hkeep
    rw [haway]
    exact allPerformed_any h ..
  · rfl

theorem fence_passed (hsc : InScope s sc) (h : NothingBefore s) {x : Agent} (hx : s.awayAt (Machine.Scope.num sc) = some x)
    (hp : (pr || pw) = true) (hs : (sr || sw) = true) : exec (.fence sc pr pw sr sw) s =
      done { s with c := { s.c with passed := [⟨x, pr, pw, s.g.sendNext, []⟩] }, g := { s.g with sendNext := s.g.sendNext + 1 } } [] := by
  obtain ⟨-, hpost, hpass, -⟩ := h
  rw [exec_fence, execFence, scopeTest_of hsc, hp, hs, hx]
  show finish s (.done (passFence s x pr pw)) = _
  rw [finish_done, passFence, hpost, hpass]
  rfl

theorem ifence_of (h : NothingBefore s) (hb : HoldsNone s) :
    exec .ifence s = done { s with t := { s.t with icache := [] }, c := { s.c with fetched := none } } [] := by
  rw [exec_ifence, execIfence, atHome_of h hb, finish_done]

theorem wfi_of (h : s.c.status.mode = true) : exec .wfi s = if s.c.armed s.time ≠ 0 then done s [] else blocked s .wfi := by
  rw [exec_wfi, execWfi, privileged_of h]
  split
  · exact finish_done ..
  · rfl

end

/-! ## Translation caches (R143, R334) -/

theorem rewalk_accs (c : Ctx) : c.rewalk.accs = c.accs := by
  unfold Ctx.rewalk
  split
  · split <;> rfl
  · split <;> rfl
  · rfl
  · rfl

/-- What holds of every context of the grid holds of the focused one and of the others of each tile. -/
theorem forall_allCtxs (s : State) (P : Ctx → Prop) : (∀ x ∈ s.allCtxs, P x.2) ↔ P s.c ∧ ∀ t ∈ s.allTiles, ∀ c ∈ t.others, P c := by
  simp only [State.allCtxs, List.mem_flatMap, List.mem_map, State.ctxsOf]
  constructor
  · intro h
    refine ⟨h (s.t.vt, s.c) ⟨s.t, List.mem_cons_self, s.c, by simp, rfl⟩, fun t ht c hc => h (t.vt, c) ⟨t, ht, c, ?_, rfl⟩⟩
    split
    · exact List.mem_cons_of_mem _ hc
    · exact hc
  · rintro ⟨hown, hrest⟩ x ⟨t, ht, c, hc, rfl⟩
    split at hc
    · rcases List.mem_cons.1 hc with rfl | hc
      · exact hown
      · exact hrest t ht c hc
    · exact hrest t ht c hc

theorem others_mapTiles {s : State} {f : Tile → Tile} (hf : ∀ t, (f t).others = t.others) {t : Tile} (h : t ∈ (s.mapTiles f).allTiles) :
    ∃ u ∈ s.allTiles, t.others = u.others := by
  rcases List.mem_cons.1 h with rfl | h
  · exact ⟨s.t, List.mem_cons_self, hf s.t⟩
  · obtain ⟨u, hu, rfl⟩ := List.mem_map.1 h
    exact ⟨u, List.mem_cons_of_mem _ hu, hf u⟩

theorem others_mapAllCtxs {s : State} {f : Nat → Ctx → Ctx} {t : Tile} (h : t ∈ (s.mapAllCtxs f).allTiles) {c : Ctx} (hc : c ∈ t.others) :
    ∃ u ∈ s.allTiles, ∃ c' ∈ u.others, f u.vt c' = c := by
  rcases List.mem_cons.1 h with rfl | h
  · obtain ⟨c', hc', hf⟩ := List.mem_map.1 hc
    exact ⟨s.t, List.mem_cons_self, c', hc', hf⟩
  · obtain ⟨u, hu, rfl⟩ := List.mem_map.1 h
    obtain ⟨c', hc', hf⟩ := List.mem_map.1 hc
    exact ⟨u, List.mem_cons_of_mem _ hu, c', hc', hf⟩

/-- Contexts without an access that waits for a page have none issued again. -/
theorem foldl_reissue_none {l : List (Nat × Ctx)} (h : ∀ x ∈ l, ∀ a ∈ x.2.accs, a.page = none) (s : State) :
    l.foldl (fun s x => if x.2.accs.any (·.page.isSome) then reissueCtx (·.page.isSome) s x.1 x.2.id else s) s = s := by
  induction l with
  | nil => rfl
  | cons x l ih =>
    have hx : x.2.accs.any (·.page.isSome) = false := List.any_eq_false.2 fun a ha => by simp [h x List.mem_cons_self a ha]
    rw [List.foldl_cons, hx, if_neg (by decide)]
    exact ih fun y hy => h y (List.mem_cons_of_mem _ hy)

theorem rewalkCluster_c {s : State} (h : ∀ x ∈ s.allCtxs, ∀ a ∈ x.2.accs, a.page = none) : (rewalkCluster s s.t.vt).c = s.c.rewalk := by
  obtain ⟨hown, hrest⟩ := (forall_allCtxs s fun c => ∀ a ∈ c.accs, a.page = none).1 h
  have hnear (u : Nat) {c : Ctx} (hc : ∀ a ∈ c.accs, a.page = none) :
      ∀ a ∈ (if clusterOf u == clusterOf s.t.vt then c.rewalk else c).accs, a.page = none := by
    split
    · rwa [rewalk_accs]
    · exact hc
  unfold rewalkCluster
  dsimp only
  rw [foldl_reissue_none]
  · simp [State.mapTiles, State.mapAllCtxs]
  · intro x hx
    refine (forall_allCtxs _ fun c => ∀ a ∈ c.accs, a.page = none).2 ⟨hnear s.t.vt hown, fun t ht c hc => ?_⟩ x (List.mem_filter.1 hx).1
    obtain ⟨v, hv, hothers⟩ := others_mapTiles (fun t => by split <;> rfl) ht
    obtain ⟨u, hu, c', hc', rfl⟩ := others_mapAllCtxs hv (hothers ▸ hc)
    exact hnear u.vt (hrest u hu c' hc')

theorem invalidate_dtlb (s : State) (p : TlbE → Bool) : (invalidate s s.t.vt p).t.dtlb = s.t.dtlb.filter fun e => !p e := by
  unfold invalidate
  dsimp only
  rw [mapTile_own]

theorem invalidate_drops (s : State) (p : TlbE → Bool) : ∀ e ∈ (invalidate s s.t.vt p).t.dtlb, p e = false := by
  intro e he
  rw [invalidate_dtlb] at he
  simpa using (List.mem_filter.1 he).2

theorem invalidate_keeps (s : State) (p : TlbE → Bool) : ∀ e ∈ s.t.dtlb, p e = false → e ∈ (invalidate s s.t.vt p).t.dtlb := by
  intro e he hp
  rw [invalidate_dtlb]
  exact List.mem_filter.2 ⟨he, by simp [hp]⟩

section
variable {s : State} (hmode : s.c.status.mode = true) (h : NothingBefore s) (hb : HoldsNone s)
include h hb

theorem tlbinv_of (p : TlbE → Bool) :
    tlbinv s p = .done (rewalkCluster (invalidate s s.t.vt fun e => e.vf == s.g.vf && p e) s.t.vt) := by
  rw [tlbinv, atHome_of h hb]

include hmode

theorem tlbinvAll_of :
    exec .tlbinvAll s = done (rewalkCluster (invalidate s s.t.vt fun e => e.vf == s.g.vf && !e.g) s.t.vt) [] := by
  rw [exec_tlbinvAll, execTlbinvAll, privileged_of hmode, tlbinv_of h hb, finish_done]

theorem tlbinvAsid_of {b : Fin 32} {w : Bool} {x : W64} (ho : One s b x) : exec (.tlbinvAsid b w) s =
    done (rewalkCluster (invalidate s s.t.vt fun e => e.vf == s.g.vf && (!e.g && e.asid == x.setWidth 16)) s.t.vt) [b] := by
  obtain ⟨hs, hx⟩ := ho
  rw [exec_tlbinvAsid, execTlbinvAsid, privileged_of hmode, ← curOf_nil, srcX_of hs hx, commit_curOf, tlbinv_of h hb]
  exact finish_pop_done ..

theorem tlbinvVa_of {a b : Fin 32} {wa wb : Bool} {va x : W64} (ho : Two s a b va x) : exec (.tlbinvVa a b wa wb) s =
    done (rewalkCluster (invalidate s s.t.vt fun e => e.vf == s.g.vf && (e.covers va && (e.g || e.asid == x.setWidth 16))) s.t.vt) [a, b] := by
  obtain ⟨hs, hva, hx⟩ := ho
  rw [exec_tlbinvVa, execTlbinvVa, privileged_of hmode, ← curOf_nil, srcX_of hs hva, List.nil_append, srcX_of hs hx, commit_curOf,
    tlbinv_of h hb]
  exact finish_pop_done ..

theorem tlbinvVaall_of {a : Fin 32} {w : Bool} {va : W64} (ho : One s a va) : exec (.tlbinvVaall a w) s =
    done (rewalkCluster (invalidate s s.t.vt fun e => e.vf == s.g.vf && e.covers va) s.t.vt) [a] := by
  obtain ⟨hs, hx⟩ := ho
  rw [exec_tlbinvVaall, execTlbinvVaall, privileged_of hmode, ← curOf_nil, srcX_of hs hx, commit_curOf, tlbinv_of h hb]
  exact finish_pop_done ..

end

theorem orderingWordsComplete : OrderingWordsComplete :=
  ⟨fun _ _ _ _ _ _ hsc h => ⟨fence_kept hsc h, fun _ hx hp hs => fence_passed hsc h hx hp hs⟩,
    fun _ h hb => ifence_of h hb, fun _ => rfl, fun _ h => wfi_of h,
    fun s p h => ⟨(rewalkCluster_c h).trans rfl, invalidate_drops s p, invalidate_keeps s p⟩,
    fun _ hmode h hb => ⟨tlbinvAll_of hmode h hb, fun _ _ _ ho => tlbinvAsid_of hmode h hb ho,
      fun _ _ _ _ _ _ ho => tlbinvVa_of hmode h hb ho, fun _ _ _ ho => tlbinvVaall_of hmode h hb ho⟩⟩

/-! ## Events (R276, R277) -/

section
variable {s : State}

theorem watch_own {a : Fin 32} {w : Bool} {x : W64} (ho : One s a x) (hx : isOwn x = true) :
    exec (.watch a w) s = done { s with c := { s.c with watch := some (offset x / 64) } } [a] := by
  obtain ⟨hs, ha⟩ := ho
  rw [exec_watch, execWatch, ← curOf_nil, srcX_of hs ha, commit_curOf, if_pos hx]
  exact finish_pop_done ..

theorem watch_outside {a : Fin 32} {w : Bool} {x : W64} (ho : One s a x) (hx : isOwn x = false) :
    exec (.watch a w) s = Safety.trapped s .access x 0 := by
  obtain ⟨hs, ha⟩ := ho
  rw [exec_watch, execWatch, ← curOf_nil, srcX_of hs ha, commit_curOf, hx, if_neg (by decide)]
  exact finish_pop_trap _ _ _ _ _ _ (by decide)

theorem wfe_of (s : State) : exec .wfe s = if s.c.evt then done { s with c := { s.c with evt := false } } [] else blocked s .wfe := by
  rw [exec_wfe, execWfe]
  split
  · exact finish_done ..
  · rfl

theorem sev_of (s : State) : exec .sev s = done (setEvents s) [] := by
  rw [exec_sev, execSev, finish_done]

/-- A write to the watched line of a context sets its event flag. -/
theorem watchHit_hit {c : Ctx} {l o n : Nat} (hw : c.watch = some l) (ho : o < (l + 1) * 64) (hn : l * 64 < o + n) :
    (c.watchHit o n).evt = true := by
  have hline : overlapsLine 64 o n l = true := by simp [overlapsLine, ho, hn]
  simp [Ctx.watchHit, hw, hline]

theorem spWrite_evt {l o : Nat} {bs : List Byte} (hw : s.c.watch = some l) (ho : o < (l + 1) * 64) (hn : l * 64 < o + bs.length) :
    (spWrite s s.t.vt o bs).c.evt = true := by
  have hvt : (s.t.spWrite (s.g.belay != 0) o bs).vt = s.t.vt := (heal_asm s.t srcSp o bs.length).1
  have hc : (spWrite s s.t.vt o bs).c = s.c.watchHit o bs.length := by
    unfold spWrite State.mapCtxs State.mapTile
    simp [hvt]
  rw [hc]
  exact watchHit_hit hw ho hn

end

theorem watchAndEventWords : WatchAndEventWords :=
  ⟨fun _ _ _ _ ho => ⟨watch_own ho, watch_outside ho⟩, wfe_of,
    fun s => ⟨setEvents s, sev_of s, rfl, rfl, rfl, rfl, rfl, rfl, rfl, rfl⟩, fun _ _ _ _ hw ho hn => spWrite_evt hw ho hn⟩

/-- Settles O25: a context with nothing to wait for passes every wait, and the events are flags of its tile. -/
theorem orderingAndEventWords : Obligations.OrderingAndEventWords := ⟨orderingWordsComplete, watchAndEventWords⟩

end Sys2Proof.Proofs
end

section
/-! Registers made of a list of lanes, and words whose lanes set no flag (R148, R150). -/

namespace Sys2Proof.Proofs

open Sys2Proof Sys2Proof.Machine Sys2Proof.Safety Sys2Proof.Says Sys2Proof.Laws

theorem getD_range_map {n i : Nat} (f : Nat → Nat) (hi : i < n) : ((List.range n).map f).getD i 0 = f i := by
  simp [hi]

theorem bitsOf_dvd (e : IEt) : bitsOf e ∣ 64 := by cases e <;> decide

theorem fbits_dvd (e : FEt) : fbits e ∣ 64 := by cases e <;> decide

theorem lbits_dvd (e : LEt) : lbits e ∣ 64 := by
  cases e with
  | int t => exact bitsOf_dvd t
  | flt f => exact fbits_dvd f

section
variable {w : Nat} (hw : w ∣ 64)
include hw

theorem laneWidth_pos : 0 < w := Nat.pos_of_dvd_of_pos hw (by decide)

theorem laneWidth_dvd : w ∣ 512 := hw.trans (by decide)

theorem lt_lanes {j : Nat} (hj : j < 512) : j / w < 512 / w :=
  Nat.div_lt_div_of_lt_of_dvd (laneWidth_dvd hw) hj

/-- A bit and its lane lie in the same word. -/
theorem laneWord (j : Nat) : j / w * w / 64 = j / 64 := by
  obtain ⟨m, hm⟩ := hw
  rw [hm, ← Nat.div_div_eq_div_mul, ← Nat.div_div_eq_div_mul, Nat.mul_div_cancel _ (laneWidth_pos ⟨m, hm⟩)]

theorem testBit_lane (x : W512) {j : Nat} : (Says.lane w x (j / w)).getLsbD (j % w) = x.getLsbD j := by
  rw [Says.lane, BitVec.getLsbD_extractLsb', decide_eq_true (Nat.mod_lt _ (laneWidth_pos hw)), Bool.true_and, Nat.div_add_mod]

theorem lane_ofLane (g : Nat → BitVec w) {i : Nat} (hi : i < 512 / w) : Says.lane w (ofLane w g) i = g i := by
  apply BitVec.eq_of_getLsbD_eq
  intro j hj
  have hlt : w * i + j < w * (512 / w) := by nlinarith
  rw [Says.lane, BitVec.getLsbD_extractLsb', decide_eq_true hj, Bool.true_and, getLsbD_ofLane (laneWidth_pos hw) _ _ hlt,
    Nat.mul_add_div (laneWidth_pos hw), Nat.div_eq_of_lt hj, Nat.mul_add_mod, Nat.mod_eq_of_lt hj, Nat.add_zero]

/-- A list of lanes as a register. -/
theorem ofLanes_eq_ofLane {l : List Nat} {g : Nat → BitVec w} (h : ∀ i < 512 / w, BitVec.ofNat w (l.getD i 0) = g i) :
    BitVec.ofNat 512 (ofLanes w l) = ofLane w g := by
  apply BitVec.eq_of_getLsbD_eq
  intro j hj
  rw [getLsbD_ofLanes (laneWidth_pos hw) _ _ hj, getLsbD_ofLane (laneWidth_pos hw) _ _ (by rwa [Nat.mul_div_cancel' (laneWidth_dvd hw)]),
    ← h _ (lt_lanes hw hj), BitVec.getLsbD_ofNat, decide_eq_true (Nat.mod_lt _ (laneWidth_pos hw)), Bool.true_and]

end

theorem accrue_zero (s : State) : accrue s 0 = s := by
  rw [accrue, BitVec.or_zero]

theorem foldl_or_zero (l : List FRes) (h : ∀ r ∈ l, r.2 = 0) : l.foldl (fun m r => m ||| r.2) 0 = 0 := by
  induction l with
  | nil => rfl
  | cons r l ih =>
    rw [List.foldl_cons, h r List.mem_cons_self]
    exact ih fun q hq => h q (List.mem_cons_of_mem _ hq)

/-- A word-wise write depends on the active words of its result alone. -/
theorem wordWise_congr (s : State) (d : Fin 32) {act : BitVec 8} {x y : W512}
    (h : ∀ j < 512, act.getLsbD (j / 64) = true → x.getLsbD j = y.getLsbD j) : wordWise s d act x = wordWise s d act y := by
  have hsel : ∀ old, selected act old x = selected act old y := by
    intro old
    apply BitVec.eq_of_getLsbD_eq
    intro j hj
    simp only [selected, BitVec.getLsbD_or, BitVec.getLsbD_and, getLsbD_ofLane (w := 64) (by decide) _ j hj]
    by_cases ha : act.getLsbD (j / 64) = true
    · rw [h j hj ha]
    · simp only [ha, if_false, Bool.false_eq_true, BitVec.ofNat_eq_ofNat, BitVec.getLsbD_zero, Bool.and_false]
  simp only [wordWise, hsel]

/-- Lanes that set no flag are the lanes of the register that is written. -/
theorem floatWise_noFlags (s : State) (d : Fin 32) (act : BitVec 8) {w : Nat} (hw : w ∣ 64) {f : Nat → FRes} {new : W512}
    (h : ∀ i < 512 / w, f i = ((Says.lane w new i).toNat, 0)) : floatWise s d act w (active w act f) = wordWise s d act new := by
  have hflags : (active w act f).foldl (fun m r => m ||| r.2) 0 = 0 := by
    refine foldl_or_zero _ ?_
    simp only [active, List.forall_mem_map, List.mem_range]
    intro i hi
    split
    · rw [h i hi]
    · rfl
  rw [floatWise, hflags, accrue_zero]
  refine wordWise_congr s d fun j hj hact => ?_
  have hi := lt_lanes hw hj
  rw [getLsbD_ofLanes (laneWidth_pos hw) _ _ hj, active, List.map_map, getD_range_map _ hi, Function.comp_apply, laneWord hw, if_pos hact, h _ hi]
  exact testBit_lane hw new

end Sys2Proof.Proofs
end

section
/-! Integer vector words (O27). -/

namespace Sys2Proof.Proofs

open Sys2Proof Sys2Proof.Machine Sys2Proof.Safety Sys2Proof.Says Sys2Proof.Laws

/-! ## Lanes as numbers of their type (R94, R160) -/

theorem ietWidth_dvd (e : IEt) : ietWidth e ∣ 64 := by
  rw [ietWidth_eq_bitsOf]
  exact bitsOf_dvd e

section
variable {w : Nat} (sg : Bool) (x y : BitVec w)

theorem number_inj {sg : Bool} {x y : BitVec w} (h : number sg x = number sg y) : x = y := by
  cases sg with
  | true => exact BitVec.eq_of_toInt_eq h
  | false => exact BitVec.eq_of_toNat_eq (Int.ofNat.inj h)

theorem ite_min_number : (if number sg x ≤ number sg y then x.toNat else y.toNat) = (if number sg y < number sg x then y else x).toNat := by
  rw [apply_ite BitVec.toNat, ← ite_not]
  simp only [not_le]

/-- The model compares by `≤` and the row by `<`: lanes of one number are equal. -/
theorem ite_max_number : (if number sg x ≤ number sg y then y.toNat else x.toNat) = (if number sg x < number sg y then y else x).toNat := by
  rcases lt_trichotomy (number sg x) (number sg y) with h | h | h
  · rw [if_pos h, if_pos h.le]
  · rw [number_inj h, if_pos le_rfl, if_neg (lt_irrefl _)]
  · rw [if_neg h.not_ge, if_neg h.not_gt]

theorem maskOf_eq_truth (w : Nat) (t : Bool) : maskOf w t = (truth w t).toNat := by
  cases t with
  | true => exact BitVec.toNat_allOnes.symm
  | false => rfl

/-- The magnitude of a lane, wrapping. -/
theorem natAbs_number : pat w (number sg x).natAbs = (if sg && x.msb then -x else x).toNat := by
  rw [pat_eq_toNat]
  congr 1
  cases sg with
  | false =>
    change BitVec.ofInt w (x.toNat : Int) = x
    rw [BitVec.ofInt_natCast, BitVec.ofNat_toNat, BitVec.setWidth_eq]
  | true =>
    change BitVec.ofInt w x.toInt.natAbs = if x.msb then -x else x
    by_cases h : x.toInt < 0
    · rw [BitVec.msb_eq_toInt, decide_eq_true h, if_pos rfl, Int.ofNat_natAbs_of_nonpos h.le, BitVec.ofInt_neg, BitVec.ofInt_toInt]
    · rw [BitVec.msb_eq_toInt, decide_eq_false h, if_neg (by decide), Int.natAbs_of_nonneg (not_lt.1 h), BitVec.ofInt_toInt]

theorem popcount_toNat : popcount w x.toNat = (BitVec.ofNat w ((List.range w).countP x.getLsbD)).toNat := by
  have hle : (List.range w).countP x.getLsbD ≤ w := (List.countP_le_length).trans_eq List.length_range
  rw [popcount_eq_countP, BitVec.toNat_ofNat]
  exact (Nat.mod_eq_of_lt (hle.trans_lt Nat.lt_two_pow_self)).symm

theorem clz_toNat : w - bitlen x.toNat =
    (BitVec.ofNat w (((List.range w).map fun i => !x.getLsbD (w - 1 - i)).takeWhile id).length).toNat := by
  have hclz := clz_eq_takeWhile x.isLt
  have hle : w - bitlen x.toNat ≤ w := Nat.sub_le ..
  rw [BitVec.toNat_ofNat]
  refine hclz.trans (Nat.mod_eq_of_lt ?_).symm
  exact (hclz.symm.trans_le hle).trans_lt Nat.lt_two_pow_self

end

section
variable (e : IEt) (x y : BitVec (ietWidth e))

theorem ietVal_toNat : ietVal e x.toNat = number (ietSigned e) x := by
  rw [ietVal, sgn_toNat]
  rfl

theorem clampInt_toNat (i : Int) : pat (ietWidth e) (clampInt (ietMin e) (ietMax e) i) = (Says.clamped (ietSigned e) (ietWidth e) i).toNat := by
  unfold ietMin ietMax Says.clamped
  cases ietSigned e with
  | true => exact satS_eq_saturate _ i
  | false =>
    have h : (0 : Int) ≤ 2 ^ ietWidth e - 1 := by
      have : (0 : Int) < 2 ^ ietWidth e := by positivity
      omega
    rw [pat_eq_toNat]
    exact congrArg (fun i => (BitVec.ofInt _ i).toNat) (clampInt_eq h i)

end

/-! ## The words -/

/-- On the patterns of the lanes of its type, the word runs the word-wise frame with the operation of its row. -/
def RunsVint (p : VWord IEt × (Bool → (w : Nat) → BitVec w → BitVec w → BitVec w)) : Prop :=
  ∀ e : IEt, ∃ g, (∀ (d a b : Fin 32) (s : State), exec (p.1 e d a b) s = vint2 s e d a b g) ∧
    ∀ x y : BitVec (ietWidth e), g (ietWidth e) x.toNat y.toNat = (p.2 (ietSigned e) (ietWidth e) x y).toNat

theorem vintTable_runsVint : ∀ p ∈ vintTable, RunsVint p := by
  simp only [vintTable, List.forall_mem_cons, List.not_mem_nil, false_imp_iff, implies_true, and_true]
  refine ⟨fun e => ⟨_, exec_vadd e, fun x y => (BitVec.toNat_add x y).symm⟩,
    fun e => ⟨_, exec_vsub e, fun x y => sub_toNat x y⟩,
    fun e => ⟨_, exec_vmul e, fun x y => (BitVec.toNat_mul x y).symm⟩,
    fun e => ⟨_, exec_vmulh e, fun x y => by rw [ietVal_toNat, ietVal_toNat, pat_eq_toNat]⟩,
    fun e => ⟨_, exec_vmin e, fun x y => by rw [ietVal_toNat, ietVal_toNat, ite_min_number]⟩,
    fun e => ⟨_, exec_vmax e, fun x y => by rw [ietVal_toNat, ietVal_toNat, ite_max_number]⟩,
    fun e => ⟨_, exec_vand e, fun x y => (BitVec.toNat_and x y).symm⟩,
    fun e => ⟨_, exec_vor e, fun x y => (BitVec.toNat_or x y).symm⟩,
    fun e => ⟨_, exec_vxor e, fun x y => (BitVec.toNat_xor x y).symm⟩,
    fun e => ⟨_, exec_vandn e, fun x y => andn_toNat x y⟩,
    fun e => ⟨_, exec_vsll e, fun x y => shiftLeft_toNat x _⟩,
    fun e => ⟨_, exec_vsrl e, fun x y => ushiftRight_toNat x _⟩,
    fun e => ⟨_, exec_vsra e, fun x y => sshiftRight_toNat x _⟩,
    fun e => ⟨_, exec_vaddsat e, fun x y => by rw [ietVal_toNat, ietVal_toNat, clampInt_toNat]⟩,
    fun e => ⟨_, exec_vsubsat e, fun x y => by rw [ietVal_toNat, ietVal_toNat, clampInt_toNat]⟩,
    fun e => ⟨_, exec_vavg e, fun x y => by rw [ietVal_toNat, ietVal_toNat, pat_eq_toNat]⟩,
    fun e => ⟨_, exec_vcmpEq e, fun x y => ?_⟩,
    fun e => ⟨_, exec_vcmpLt e, fun x y => by rw [ietVal_toNat, ietVal_toNat, maskOf_eq_truth]⟩,
    fun e => ⟨_, exec_vcmpLe e, fun x y => by rw [ietVal_toNat, ietVal_toNat, maskOf_eq_truth]⟩⟩
  have heq : (x.toNat == y.toNat) = (x == y) := by
    rw [Bool.eq_iff_iff, beq_iff_eq, beq_iff_eq, BitVec.toNat_inj]
  rw [maskOf_eq_truth, heq]

/-- The same of a word with one source. -/
def RunsVint1 (p : VWord1 IEt × (Bool → (w : Nat) → BitVec w → BitVec w)) : Prop :=
  ∀ e : IEt, ∃ g, (∀ (d a : Fin 32) (s : State), exec (p.1 e d a) s = vint1 s e d a g) ∧
    ∀ x : BitVec (ietWidth e), g (ietWidth e) x.toNat = (p.2 (ietSigned e) (ietWidth e) x).toNat

theorem vintTable1_runsVint1 : ∀ p ∈ vintTable1, RunsVint1 p := by
  simp only [vintTable1, List.forall_mem_cons, List.not_mem_nil, false_imp_iff, implies_true, and_true]
  exact ⟨fun e => ⟨_, exec_vabs e, fun x => by rw [ietVal_toNat, natAbs_number]⟩,
    fun e => ⟨_, exec_vneg e, fun x => (BitVec.toNat_neg x).symm⟩,
    fun e => ⟨_, exec_vpopc e, fun x => popcount_toNat x⟩,
    fun e => ⟨_, exec_vclz e, fun x => clz_toNat x⟩⟩

/-- A lane of the bits that a mask selects from two registers. -/
theorem lane_select {w : Nat} (hw : w ∣ 64) (x y z : W512) {i : Nat} (hi : i < 512 / w) : Says.lane w ((x &&& z) ||| (y &&& ~~~z)) i =
    (Says.lane w x i &&& Says.lane w z i) ||| (Says.lane w y i &&& ~~~Says.lane w z i) := by
  apply BitVec.eq_of_getLsbD_eq
  intro j hj
  have hlt : w * i + j < 512 := by
    have := Nat.mul_div_cancel' (laneWidth_dvd hw)
    nlinarith
  simp [Says.lane, hj, hlt]

section
variable {s : State} {d a b : Fin 32} {x y z : W512} {v u t : BitVec 8} (hs : Sound s) (ha : vector s [] a = some (x, v)) (hd : WritableV s d)
include hs ha hd

theorem RunsVint.wordWise {p : VWord IEt × (Bool → (w : Nat) → BitVec w → BitVec w → BitVec w)} (hp : RunsVint p) (e : IEt)
    (hb : vector s [a] b = some (y, u)) : exec (p.1 e d a b) s = done (Says.wordWise s d (v &&& u) (ofLane (ietWidth e) fun i =>
      p.2 (ietSigned e) (ietWidth e) (Says.lane (ietWidth e) x i) (Says.lane (ietWidth e) y i))) [a, b] := by
  obtain ⟨g, he, hg⟩ := hp e
  rw [he, vint2, vec2_of hs ha hb hd, floatWise_noFlags s d _ (ietWidth_dvd e) fun i hi => ?_]
  rw [lane_ofLane (ietWidth_dvd e) _ hi, hg]

theorem RunsVint1.wordWise {p : VWord1 IEt × (Bool → (w : Nat) → BitVec w → BitVec w)} (hp : RunsVint1 p) (e : IEt) :
    exec (p.1 e d a) s = done (Says.wordWise s d v (ofLane (ietWidth e) fun i =>
      p.2 (ietSigned e) (ietWidth e) (Says.lane (ietWidth e) x i))) [a] := by
  obtain ⟨g, he, hg⟩ := hp e
  rw [he, vint1, vec1_of hs ha hd, floatWise_noFlags s d _ (ietWidth_dvd e) fun i hi => ?_]
  rw [lane_ofLane (ietWidth_dvd e) _ hi, hg]

theorem vbsel_of (e : IEt) (hb : vector s [a] b = some (y, u)) (hz : vector s [a, b] d = some (z, t)) :
    exec (.vbsel e d a b) s = done (wordWise s d (v &&& u &&& t) ((x &&& z) ||| (y &&& ~~~z))) [a, b, d] := by
  rw [exec_vbsel, execVbsel, vec3_of hs ha hb hz hd, floatWise_noFlags s d _ (ietWidth_dvd e) fun i hi => ?_]
  rw [lane_select (ietWidth_dvd e) x y z hi, BitVec.toNat_or, BitVec.toNat_and, ← andn_toNat]

end

/-- Settles O27: each word runs its word-wise frame with an operation that gives, on the patterns of the lanes, the pattern of its row. -/
theorem vectorIntegerWordsActLaneByLane : Obligations.VectorIntegerWordsActLaneByLane := by
  unfold Obligations.VectorIntegerWordsActLaneByLane
  rw [← ietWidth_eq_bitsOf, ← ietSigned_eq_isSigned]
  exact ⟨fun p hp _ e _ _ _ _ _ _ _ hs ha hb hd => (vintTable_runsVint p hp).wordWise hs ha hd e hb,
    fun p hp _ e _ _ _ _ hs ha hd => (vintTable1_runsVint1 p hp).wordWise hs ha hd e,
    fun _ e _ _ _ _ _ _ _ _ _ hs ha hb hz hd => vbsel_of hs ha hd e hb hz⟩

end Sys2Proof.Proofs
end

section
/-! Vector conversions (O29). -/

namespace Sys2Proof.Proofs

open Sys2Proof Sys2Proof.Machine Sys2Proof.Safety Sys2Proof.Says Sys2Proof.Laws

theorem lanes_eq_lane (w n : Nat) (x : W512) : lanes w n x.toNat = (List.range n).map fun i => (Says.lane w x i).toNat := by
  simp only [lanes_eq_map, lane_toNat]

/-- The lane results of `venc`, with their flags (R101, R165). -/
def encoded (h : Nat) (tab : List Nat) (nan : Nat) (x : W512) : List FRes :=
  (List.range 16).map fun i =>
    let r := tabEncode h tab nan (Says.lane 32 x i).toNat
    (r.code, (if r.inexact then NX else 0) ||| (if r.sat then OF ||| NX else 0))

theorem encoded_eq (h : Nat) (tab : List Nat) (nan : Nat) (x : W512) :
    encoded h tab nan x = ((vlanes 32 x).map (tabEncode h tab nan)).map fun r => (r.code, r.flags) := by
  rw [vlanes_eq_map, List.map_map, List.map_map]
  rfl

/-- A table that is not monotone traps, and no lane is encoded. -/
theorem finish_encode (s : State) (d a : Fin 32) (h : Nat) (tab : List Nat) (nan w : Nat) (x : W512) (p : W64) :
    finish s (Res.pop (curOf [a]) (if (!monotone h tab) = true then .trap s .encode p 0
      else .done (writeV (accrue s (((vlanes 32 x).map (tabEncode h tab nan)).foldl (fun m r => m ||| r.flags) 0)) d
        (.ofNat 512 (ofLanes w (((vlanes 32 x).map (tabEncode h tab nan)).map (·.code)))) allV))) =
      if monotone h tab = true then wrotePart s [a] d w (encoded h tab nan x) else Safety.trapped s .encode p 0 := by
  cases monotone h tab with
  | true =>
    rw [encoded_eq, wrotePart, List.foldl_map, List.map_map]
    exact finish_pop_done ..
  | false => exact finish_pop_trap _ _ _ _ _ _ (by decide)

section
variable {s : State} {d a : Fin 32} {x : W512} {v : BitVec 8} (hs : Sound s)
include hs

theorem cvtWord_of (ha : vector s [] a = some (x, 0xFF)) (hd : WritableV s d) (dst src : LEt) (sat : Bool) :
    cvtWord s dst src d a sat = wrotePart s [a] d (lbits dst) ((List.range (512 / max (lbits src) (lbits dst))).map fun i =>
      cvtLane dst src s.c.status.rm sat (Says.lane (lbits src) x i).toNat) := by
  rw [cvtWord, ← curOf_nil, srcV_of hs ha, wholeCommit_all, commit_curOf, dstV_of hd, letWidth_eq_lbits, lanes_eq_lane, List.map_map]
  exact finish_pop_done ..

theorem cvtWord_part (ha : vector s [] a = some (x, v)) (h : v ≠ 0xFF) (dst src : LEt) (sat : Bool) :
    cvtWord s dst src d a sat = .next (retire s) := by
  rw [cvtWord, ← curOf_nil, srcV_of hs ha, wholeCommit_part h]
  rfl

theorem venc_of (ha : vector s [] a = some (x, 0xFF)) (hd : WritableV s d) (t4 : Bool) :
    let tab := if t4 then s.t.t4 else s.t.t8
    let h := if t4 then 8 else 128
    let w := if t4 then 4 else 8
    exec (.venc t4 d a) s = if monotone h tab
      then wrotePart s [a] d w (encoded h tab (if t4 then s.t.nan4.toNat else s.t.nan8.toNat) x)
      else Safety.trapped s .encode (.ofNat 64 w) 0 := by
  have hw : (.ofNat 64 (if t4 then 4 else 8) : W64) = if t4 then 4 else 8 := by cases t4 <;> rfl
  dsimp only
  rw [exec_venc, execVenc, ← curOf_nil, srcV_of hs ha, wholeCommit_all, commit_curOf, dstV_of hd, hw]
  exact finish_encode ..

theorem vdec_of (ha : vector s [] a = some (x, 0xFF)) (hd : WritableV s d) (t4 : Bool) :
    exec (.vdec t4 d a) s = wroteV s [a] d (ofLane 32 fun i => .ofNat 32 (tabDecodeF32 (if t4 then s.t.t4 else s.t.t8)
      (Says.lane (if t4 then 4 else 8) x i).toNat)) 0xFF := by
  have hl : BitVec.ofNat 512 (ofLanes 32 ((lanes (if t4 then 4 else 8) 16 x.toNat).map (tabDecodeF32 (if t4 then s.t.t4 else s.t.t8)))) =
      ofLane 32 fun i => .ofNat 32 (tabDecodeF32 (if t4 then s.t.t4 else s.t.t8) (Says.lane (if t4 then 4 else 8) x i).toNat) := by
    refine ofLanes_eq_ofLane (by decide) fun i hi => ?_
    rw [lanes_eq_lane, List.map_map, getD_range_map _ hi, Function.comp_apply]
  rw [exec_vdec, execVdec, ← curOf_nil, srcV_of hs ha, wholeCommit_all, commit_curOf, putWhole, dstV_of hd, hl, allV_eq]
  exact finish_pop_done ..

theorem tableWords_part (ha : vector s [] a = some (x, v)) (h : v ≠ 0xFF) :
    ∀ i ∈ ([true, false].flatMap fun t4 => [Instr.venc t4 d a, .vdec t4 d a]), exec i s = .next (retire s) := by
  have henc (t4 : Bool) : exec (.venc t4 d a) s = .next (retire s) := by
    rw [exec_venc, execVenc, ← curOf_nil, srcV_of hs ha, wholeCommit_part h]
    rfl
  have hdec (t4 : Bool) : exec (.vdec t4 d a) s = .next (retire s) := by
    rw [exec_vdec, execVdec, ← curOf_nil, srcV_of hs ha, wholeCommit_part h]
    rfl
  simp only [List.mem_flatMap, List.mem_cons, List.not_mem_nil, or_false]
  rintro i ⟨t4, -, rfl | rfl⟩
  · exact henc t4
  · exact hdec t4

end

/-- Settles O29: a conversion reads the lanes of its source once every V bit is 1, and comes to nothing before. -/
theorem conversionsActOnWholeRegisters : Obligations.ConversionsActOnWholeRegisters := by
  intro s d a x v hs ha
  refine ⟨?_, tableWords_part hs ha, fun h dst src => ⟨cvtWord_part hs ha h dst src false, cvtWord_part hs ha h dst src true⟩⟩
  rintro rfl hd
  exact ⟨fun dst src => ⟨cvtWord_of hs ha hd dst src false, cvtWord_of hs ha hd dst src true⟩,
    fun t4 => ⟨venc_of hs ha hd t4, vdec_of hs ha hd t4⟩⟩

end Sys2Proof.Proofs
end

section
/-! Lane moves, and moves between lanes and scalars (O31). -/

namespace Sys2Proof.Proofs

open Sys2Proof Sys2Proof.Machine Sys2Proof.Safety Sys2Proof.Says Sys2Proof.Laws

/-! ## The lists of the model, element by element -/

theorem evens_getD (l : List Nat) (i : Nat) : (evens l).getD i 0 = l.getD (2 * i) 0 := by
  induction l using evens.induct generalizing i with
  | case1 x y r ih =>
    cases i with
    | zero => rfl
    | succ i => exact ih i
  | case2 l h =>
    rw [evens.eq_2 l h]
    match l, i with
    | [], _ => rfl
    | [x], 0 => rfl
    | [x], i + 1 => rfl
    | x :: y :: r, _ => exact absurd rfl (h x y r)

theorem interleave_getD (l m : List Nat) (h : l.length = m.length) (i : Nat) :
    (interleave l m).getD i 0 = if i % 2 = 0 then l.getD (i / 2) 0 else m.getD (i / 2) 0 := by
  induction l generalizing m i with
  | nil =>
    obtain rfl := List.length_eq_zero_iff.1 h.symm
    simp [interleave]
  | cons x l ih =>
    cases m with
    | nil => cases h
    | cons y m =>
      match i with
      | 0 => rfl
      | 1 => rfl
      | i + 2 =>
        have hi := ih m (Nat.succ.inj h) i
        rw [Nat.add_mod_right, Nat.add_div_right _ (by decide)]
        exact hi

/-- A lane that the mask selects takes the next lane not yet taken. -/
theorem expandLanes_getD (m : List Nat) (l : List Nat) (i : Nat) : (expandLanes l m).getD i 0 =
    if m.getD i 0 = 0 then 0 else l.getD ((m.take i).countP fun y => y ≠ 0) 0 := by
  induction m generalizing l i with
  | nil => simp [expandLanes]
  | cons y m ih =>
    by_cases hy : y = 0
    · cases i with
      | zero => simp [expandLanes, hy]
      | succ i => simpa [expandLanes, hy] using ih l i
    · cases i with
      | zero => cases l <;> simp [expandLanes, hy]
      | succ i =>
        have hrest := ih l.tail i
        cases l <;> simpa [expandLanes, hy] using hrest

/-! ## Moves of lanes -/

/-- Lane moves whose list function gives the lanes of the row. -/
def MovesLanes (p : VWord LEt × ((w n : Nat) → (Nat → BitVec w) → (Nat → BitVec w) → Nat → BitVec w)) : Prop :=
  ∃ f, (∀ (e : LEt) (d a b : Fin 32) (s : State), exec (p.1 e d a b) s = perm2 s e d a b f) ∧
    ∀ w, w ∣ 64 → ∀ (x y : W512), ∀ i < 512 / w,
      BitVec.ofNat w ((f (vlanes w x) (vlanes w y)).getD i 0) = p.2 w (512 / w) (Says.lane w x) (Says.lane w y) i

section
variable {w : Nat} (x y : W512) {i : Nat}

theorem vlanes_length : (vlanes w x).length = 512 / w := by
  rw [vlanes_eq_map, List.length_map, List.length_range]

theorem ofNat_vlanes_getD (hi : i < 512 / w) : BitVec.ofNat w ((vlanes w x).getD i 0) = Says.lane w x i := by
  rw [vlanes_getD x hi, BitVec.ofNat_toNat, BitVec.setWidth_eq]

theorem even_lanes (hw : w ∣ 64) : 2 ∣ 512 / w := by
  obtain ⟨m, hm⟩ := hw
  refine ⟨4 * m, Nat.div_eq_of_eq_mul_right (laneWidth_pos ⟨m, hm⟩) ?_⟩
  linarith

variable (w)

theorem vperm_lanes (hi : i < 512 / w) :
    BitVec.ofNat w (((vlanes w y).map fun j => (vlanes w x).getD (j % (vlanes w x).length) 0).getD i 0) =
      Says.lane w x ((Says.lane w y i).toNat % (512 / w)) := by
  have hn : 0 < 512 / w := (Nat.zero_le i).trans_lt hi
  rw [vlanes_eq_map w y, List.map_map, getD_range_map _ hi, Function.comp_apply, vlanes_length, ofNat_vlanes_getD x (Nat.mod_lt _ hn)]

theorem vzip_lanes (hw : w ∣ 64) (hi : i < 512 / w) :
    BitVec.ofNat w ((interleave ((vlanes w x).take ((vlanes w x).length / 2)) ((vlanes w y).take ((vlanes w y).length / 2))).getD i 0) =
      if i % 2 = 0 then Says.lane w x (i / 2) else Says.lane w y (i / 2) := by
  have h2 := even_lanes hw
  have hhalf : i / 2 < 512 / w / 2 := Nat.div_lt_div_of_lt_of_dvd h2 hi
  have htake (x : W512) : BitVec.ofNat w (((vlanes w x).take (512 / w / 2)).getD (i / 2) 0) = Says.lane w x (i / 2) := by
    rw [List.getD_eq_getElem?_getD, List.getElem?_take_of_lt hhalf, ← List.getD_eq_getElem?_getD, ofNat_vlanes_getD x (by omega)]
  rw [interleave_getD _ _ (by simp only [List.length_take, vlanes_length]), apply_ite (BitVec.ofNat w), vlanes_length, vlanes_length, htake, htake]

/-- Lane `k` of two registers side by side. -/
theorem append_lanes {k : Nat} (hk : k < 2 * (512 / w)) : BitVec.ofNat w ((vlanes w x ++ vlanes w y).getD k 0) =
    if k < 512 / w then Says.lane w x k else Says.lane w y (k - 512 / w) := by
  split
  · next h => rw [List.getD_append _ _ _ _ (by rwa [vlanes_length]), ofNat_vlanes_getD x h]
  · next h => rw [List.getD_append_right _ _ _ _ (by rw [vlanes_length]; omega), vlanes_length, ofNat_vlanes_getD y (by omega)]

theorem vunzip_lanes (hi : i < 512 / w) : BitVec.ofNat w ((evens (vlanes w x ++ vlanes w y)).getD i 0) =
    if 2 * i < 512 / w then Says.lane w x (2 * i) else Says.lane w y (2 * i - 512 / w) := by
  rw [evens_getD, append_lanes w x y (by omega)]

/-- The lanes from lane `k` on of two registers side by side. -/
theorem window_lanes {k : Nat} (hk : k < 512 / w) (hi : i < 512 / w) :
    BitVec.ofNat w ((((vlanes w x ++ vlanes w y).drop k).take (512 / w)).getD i 0) =
      if i + k < 512 / w then Says.lane w x (i + k) else Says.lane w y (i + k - 512 / w) := by
  rw [List.getD_eq_getElem?_getD, List.getElem?_take_of_lt hi, List.getElem?_drop, ← List.getD_eq_getElem?_getD, Nat.add_comm,
    append_lanes w x y (by omega)]

theorem lane_ne_zero (j : Nat) : (Says.lane w y j).toNat ≠ 0 ↔ Says.lane w y j ≠ 0 := not_congr (toNat_eq_zero_iff _)

theorem vcompress_lanes : (((vlanes w x).zip (vlanes w y)).filter fun p => p.2 != 0).map (·.1) =
    ((List.range (512 / w)).filter fun j => Says.lane w y j ≠ 0).map fun j => (Says.lane w x j).toNat := by
  have hp : ∀ j, ((Says.lane w y j).toNat != 0) = decide (Says.lane w y j ≠ 0) := fun j => by
    rw [Bool.eq_iff_iff, bne_iff_ne, decide_eq_true_iff, lane_ne_zero]
  rw [vlanes_eq_map, vlanes_eq_map, List.zip_map', List.filter_map, List.map_map]
  simp only [Function.comp_def, hp]

theorem vexpand_lanes (hi : i < 512 / w) : BitVec.ofNat w ((expandLanes (vlanes w x) (vlanes w y)).getD i 0) =
    if Says.lane w y i = 0 then 0 else Says.lane w x ((List.range i).countP fun j => Says.lane w y j ≠ 0) := by
  have hcount : ((vlanes w y).take i).countP (fun y => y ≠ 0) = (List.range i).countP fun j => Says.lane w y j ≠ 0 := by
    rw [vlanes_eq_map, ← List.map_take, List.take_range, min_eq_left hi.le, List.countP_map]
    simp only [Function.comp_def, lane_ne_zero]
  have hlt : ((List.range i).countP fun j => Says.lane w y j ≠ 0) < 512 / w :=
    (List.countP_le_length.trans_eq List.length_range).trans_lt hi
  rw [expandLanes_getD, hcount, apply_ite (BitVec.ofNat w), ofNat_vlanes_getD x hlt, vlanes_getD y hi]
  simp only [toNat_eq_zero_iff]
  rfl

end

theorem moveTable_movesLanes : ∀ p ∈ moveTable, MovesLanes p := by
  simp only [moveTable, List.forall_mem_cons, List.not_mem_nil, false_imp_iff, implies_true, and_true]
  refine ⟨⟨_, exec_vperm, fun w _ x y i hi => vperm_lanes w x y hi⟩,
    ⟨_, exec_vzip, fun w hw x y i hi => vzip_lanes w x y hw hi⟩,
    ⟨_, exec_vunzip, fun w _ x y i hi => vunzip_lanes w x y hi⟩,
    ⟨_, exec_vcompress, fun w _ x y i _ => ?_⟩,
    ⟨_, exec_vexpand, fun w _ x y i hi => vexpand_lanes w x y hi⟩⟩
  rw [vcompress_lanes, List.getD_eq_getElem?_getD, List.getElem?_map]
  dsimp only
  cases ((List.range (512 / w)).filter fun j => Says.lane w y j ≠ 0)[i]? with
  | none => rfl
  | some j => exact (BitVec.ofNat_toNat ..).trans (BitVec.setWidth_eq _)

section
variable {s : State} {d a b : Fin 32} {x y z : W512} {v u : BitVec 8} {k : W64} (hs : Sound s)

/-- The write of a whole register, once the word executes. -/
theorem putWhole_of (hd : WritableV s d) {w : Nat} (hw : w ∣ 64) {l : List Nat} {g : Nat → BitVec w}
    (h : ∀ i < 512 / w, BitVec.ofNat w (l.getD i 0) = g i) : putWhole s d w l = .done (writeV s d (ofLane w g) 0xFF) := by
  rw [putWhole, dstV_of hd, ofLanes_eq_ofLane hw h, allV_eq]

include hs

section
variable {p : VWord LEt × ((w n : Nat) → (Nat → BitVec w) → (Nat → BitVec w) → Nat → BitVec w)} (hp : MovesLanes p) (e : LEt)
  (ha : vector s [] a = some (x, v)) (hb : vector s [a] b = some (y, u))
include hp ha hb

theorem MovesLanes.wroteV (hv : v &&& u = 0xFF) (hd : WritableV s d) : exec (p.1 e d a b) s =
    Safety.wroteV s [a, b] d (ofLane (lbits e) (p.2 (lbits e) (512 / lbits e) (Says.lane (lbits e) x) (Says.lane (lbits e) y))) 0xFF := by
  obtain ⟨f, he, hf⟩ := hp
  rw [he, perm2, ← curOf_nil, srcV_of hs ha, List.nil_append, srcV_of hs hb, hv, wholeCommit_all, commit_curOf, letWidth_eq_lbits,
    putWhole_of hd (lbits_dvd e) (hf _ (lbits_dvd e) x y)]
  exact finish_pop_done ..

theorem MovesLanes.part (hv : v &&& u ≠ 0xFF) : exec (p.1 e d a b) s = .next (retire s) := by
  obtain ⟨f, he, -⟩ := hp
  rw [he, perm2, ← curOf_nil, srcV_of hs ha, List.nil_append, srcV_of hs hb, wholeCommit_part hv]
  rfl

end

section
variable (e : LEt) (ha : vector s [] a = some (x, v)) (hb : scalar s [a] b = some (k, true))
include ha hb

/-- The lanes turned by `k` places. -/
theorem vrot_of (hv : v = 0xFF) (hd : WritableV s d) : exec (.vrot e d a b) s =
    wroteV s [a, b] d (ofLane (lbits e) fun i => Says.lane (lbits e) x ((i + k.toNat) % (512 / lbits e))) 0xFF := by
  have hturn : ∀ i < 512 / lbits e,
      BitVec.ofNat (lbits e) ((((vlanes (lbits e) x ++ vlanes (lbits e) x).drop (k.toNat % (512 / lbits e))).take (512 / lbits e)).getD i 0) =
        Says.lane (lbits e) x ((i + k.toNat) % (512 / lbits e)) := by
    intro i hi
    have hk : k.toNat % (512 / lbits e) < 512 / lbits e := Nat.mod_lt _ ((Nat.zero_le i).trans_lt hi)
    rw [window_lanes _ x x hk hi, ← apply_ite (Says.lane (lbits e) x), Nat.add_mod_eq_ite, Nat.mod_eq_of_lt hi, ← ite_not]
    simp only [not_lt]
  rw [exec_vrot, execVrot, ← curOf_nil, srcV_of hs ha, List.nil_append, srcX_of hs hb, hv, wholeCommit_all, commit_curOf, letWidth_eq_lbits,
    putWhole_of hd (lbits_dvd e) hturn]
  exact finish_pop_done ..

theorem vrot_part (hv : v ≠ 0xFF) : exec (.vrot e d a b) s = .next (retire s) := by
  rw [exec_vrot, execVrot, ← curOf_nil, srcV_of hs ha, List.nil_append, srcX_of hs hb, wholeCommit_part hv]
  rfl

variable (hz : vector s [a, b] d = some (z, u))
include hz

theorem vslide_of (hv : v &&& u = 0xFF) (hd : WritableV s d) : exec (.vslide e d a b) s =
    wroteV s [a, b, d] d (ofLane (lbits e) fun i => if i + k.toNat % (512 / lbits e) < 512 / lbits e
      then Says.lane (lbits e) x (i + k.toNat % (512 / lbits e))
      else Says.lane (lbits e) z (i + k.toNat % (512 / lbits e) - 512 / lbits e)) 0xFF := by
  rw [exec_vslide, execVslide, ← curOf_nil, srcV_of hs ha, List.nil_append, srcX_of hs hb, List.cons_append, List.nil_append, srcV_of hs hz,
    hv, wholeCommit_all, commit_curOf, letWidth_eq_lbits,
    putWhole_of hd (lbits_dvd e) fun i hi => window_lanes _ x z (Nat.mod_lt _ ((Nat.zero_le i).trans_lt hi)) hi]
  exact finish_pop_done ..

theorem vslide_part (hv : v &&& u ≠ 0xFF) : exec (.vslide e d a b) s = .next (retire s) := by
  rw [exec_vslide, execVslide, ← curOf_nil, srcV_of hs ha, List.nil_append, srcX_of hs hb, List.cons_append, List.nil_append, srcV_of hs hz,
    wholeCommit_part hv]
  rfl

end

end

/-- A value in every lane. -/
theorem broadcast_eq_ofLane {w : Nat} (hw : w ∣ 64) (x : Nat) : broadcast w x = ofLane w fun _ => BitVec.ofNat w x := by
  refine ofLanes_eq_ofLane hw fun i hi => ?_
  rw [List.getD_eq_getElem?_getD, List.getElem?_replicate_of_lt hi]
  rfl

theorem vbcast_of {s : State} {d a : Fin 32} {x : W64} (h : One s a x) (hd : WritableV s d) (e : LEt) :
    exec (.vbcast e d a) s = wroteV s [a] d (ofLane (lbits e) fun _ => x.setWidth (lbits e)) 0xFF := by
  obtain ⟨hs, ha⟩ := h
  have hlow : BitVec.ofNat (lbits e) (x.toNat % 2 ^ lbits e) = x.setWidth (lbits e) := by
    rw [← BitVec.toNat_setWidth, BitVec.ofNat_toNat, BitVec.setWidth_eq]
  rw [exec_vbcast, execVbcast, ← curOf_nil, srcX_of hs ha, commit_curOf, dstV_of hd, letWidth_eq_lbits, broadcast_eq_ofLane (lbits_dvd e), hlow,
    allV_eq]
  exact finish_pop_done ..

theorem laneMovesActOnWholeRegisters : LaneMovesActOnWholeRegisters :=
  ⟨fun p hp _ e _ _ _ _ _ _ _ hs ha hb =>
      ⟨(moveTable_movesLanes p hp).wroteV hs e ha hb, (moveTable_movesLanes p hp).part hs e ha hb⟩,
    fun _ e _ _ _ _ _ _ hs ha hb => ⟨vrot_of hs e ha hb, vrot_part hs e ha hb, fun _ _ hz => ⟨vslide_of hs e ha hb hz, vslide_part hs e ha hb hz⟩⟩,
    fun _ e _ _ _ h hd => vbcast_of h hd e⟩

/-! ## Lanes and scalars (R168) -/

theorem elemToX_lane (e : LEt) (x : W512) (i : Nat) :
    elemToX e (Machine.lane (lbits e) x.toNat i) = toScalar e (Says.lane (lbits e) x i) := by
  have hl : Machine.lane (lbits e) x.toNat i = (Says.lane (lbits e) x i).toNat := (lane_toNat ..).symm
  rw [hl, elemToX_eq_toScalar e (by rw [letWidth_eq_lbits]; exact BitVec.isLt _), BitVec.ofNat_toNat, BitVec.setWidth_eq]

/-- A register with one lane replaced. -/
theorem setLane_eq_ofLane {w : Nat} (hw : w ∣ 64) (z : W512) (j v : Nat) :
    BitVec.ofNat 512 (setLane w z.toNat j v) = ofLane w fun i => if i = j then BitVec.ofNat w v else Says.lane w z i := by
  apply BitVec.eq_of_getLsbD_eq
  intro n hn
  have hw0 := laneWidth_pos hw
  rw [getLsbD_ofLane hw0 _ _ (by rwa [Nat.mul_div_cancel' (laneWidth_dvd hw)]), BitVec.getLsbD_ofNat, decide_eq_true hn, Bool.true_and, setLane,
    testBit_insert]
  have hmem : (w * j ≤ n ∧ n < w * j + w) ↔ n / w = j := by
    rw [Nat.div_eq_iff hw0, Nat.mul_comm j]
    omega
  by_cases h : n / w = j
  · rw [if_pos (hmem.2 h), if_pos h, BitVec.getLsbD_ofNat, decide_eq_true (Nat.mod_lt _ hw0), Bool.true_and, ← h, Nat.mod_eq_sub]
  · rw [if_neg (mt hmem.1 h), if_neg h, testBit_lane hw]
    rfl

section
variable {s : State} {d a b : Fin 32} {v : BitVec 8} {k : W64}

theorem vext_of {x : W512} (hs : Sound s) (ha : vector s [] a = some (x, v)) (hb : scalar s [a] b = some (k, true)) (hd : Writable s d)
    (e : LEt) : exec (.vext e d a b) s = wrote s [a, b] d (toScalar e (Says.lane (lbits e) x (k.toNat % (512 / lbits e))))
      (v.getLsbD (k.toNat % (512 / lbits e) * lbits e / 64)) := by
  rw [exec_vext, execVext]
  dsimp only
  rw [← curOf_nil, srcV_of hs ha, List.nil_append, srcX_of hs hb, commit_curOf, letWidth_eq_lbits, elemToX_lane, putResult_of hd]
  exact finish_pop_done ..

theorem vins_of {x : W64} {z : W512} (h : Two s a b x k) (hz : vector s [a, b] d = some (z, v)) (hd : WritableV s d) (e : LEt) :
    exec (.vins e d a b) s = wroteV s [a, b, d] d
      (ofLane (lbits e) fun i => if i = k.toNat % (512 / lbits e) then x.setWidth (lbits e) else Says.lane (lbits e) z i)
      (v ||| .ofNat 8 (2 ^ (k.toNat % (512 / lbits e) * lbits e / 64))) := by
  obtain ⟨hs, ha, hb⟩ := h
  rw [exec_vins, execVins]
  dsimp only
  rw [← curOf_nil, srcX_of hs ha, List.nil_append, srcX_of hs hb, List.cons_append, List.nil_append, srcV_of hs hz, commit_curOf, dstV_of hd,
    letWidth_eq_lbits, setLane_eq_ofLane (lbits_dvd e), BitVec.ofNat_toNat]
  exact finish_pop_done ..

end

/-- Settles O31: each list of the model holds the lanes of its row, and a lane is a field of its register. -/
theorem laneMovesAct : Obligations.LaneMovesAct :=
  ⟨laneMovesActOnWholeRegisters, fun _ e _ _ _ _ _ _ hs ha hb hd => vext_of hs ha hb hd e, fun _ e _ _ _ _ _ _ _ h hz hd => vins_of h hz hd e⟩

end Sys2Proof.Proofs
end

section
/-! Tile registers as elements, and rows of the own scratchpad (R174, R175, R183, R189). -/

namespace Sys2Proof.Proofs

open Sys2Proof Sys2Proof.Machine Sys2Proof.Safety Sys2Proof.Says Sys2Proof.Laws

/-! ## Parts of lists -/

theorem take_drop_range_map {α : Type} {n o k : Nat} (f : Nat → α) (h : o + k ≤ n) :
    (((List.range n).map f).drop o).take k = (List.range k).map fun i => f (o + i) := by
  refine List.ext_getElem ?_ fun i _ _ => ?_
  · simp only [List.length_take, List.length_drop, List.length_map, List.length_range]
    omega
  · simp

theorem slice_range_map {n o k : Nat} (f : Nat → Byte) (h : o + k ≤ n) :
    slice ((List.range n).map f) o k = (List.range k).map fun i => f (o + i) := by
  simp [slice, take_drop_range_map f h]

theorem zip_range_map {α : Type} (n : Nat) (f : Nat → α) :
    ((List.range n).map f).zip (List.range n) = (List.range n).map fun i => (f i, i) := by
  conv_lhs => rw [← List.map_id (List.range n), List.map_map, List.zip_map']
  rfl

/-! ## Elements (R174, R175) -/

/-- The number that a tile register holds; 0 when it is not VALID. -/
def contents (t : TReg) : Nat := if t.valid then t.data.toNat else 0

theorem elem_eq_lane (t : TReg) (i : Nat) : elem t i = contents t / 2 ^ (32 * i) % 2 ^ 32 := by
  unfold elem contents
  split
  · rw [BitVec.extractLsb'_toNat, Nat.shiftRight_eq_div_pow]
  · simp

theorem elem_lt (t : TReg) (i : Nat) : elem t i < 2 ^ 32 := by
  rw [elem_eq_lane]
  exact Nat.mod_lt _ (by decide)

/-- The model's list of elements. -/
theorem elems_eq_elem (t : TReg) : t.elems = (List.range 1024).map (elem t) := by
  have hlanes : t.elems = lanes 32 1024 (contents t) := by
    unfold TReg.elems contents
    split
    · rfl
    · simp [lanes_eq_map]
  rw [hlanes, lanes_eq_map]
  exact List.map_congr_left fun i _ => (elem_eq_lane t i).symm

/-- A signed element (R94). -/
theorem sgn_elem (t : TReg) (i : Nat) : sgn 32 (elem t i) = (BitVec.ofNat 32 (elem t i)).toInt := by
  rw [← sgn_toNat, BitVec.toNat_ofNat, Nat.mod_eq_of_lt (elem_lt t i)]

/-- Byte `k` of a tile register lies in element `k / 4` (R174). -/
theorem bytes_eq_elem (t : TReg) :
    t.bytes = (List.range 4096).map fun k => BitVec.ofNat 8 (elem t (k / 4) / 2 ^ (8 * (k % 4)) % 256) := by
  have hbytes : t.bytes = bytesLe 4096 (contents t) := by
    rw [bytesLe_eq]
    unfold TReg.bytes contents
    split
    · rfl
    · simp [← bytesLe_eq, bytesLe]
  rw [hbytes]
  refine List.map_congr_left fun k _ => ?_
  have hpos : 8 * k = 32 * (k / 4) + 8 * (k % 4) := by omega
  have hbyte := fld_part (contents t) (32 * (k / 4)) 32 (8 * (k % 4)) 8 _ rfl (by omega)
  rw [hpos, elem_eq_lane]
  exact congrArg (BitVec.ofNat 8) hbyte

/-- The rows of a tile register as bytes, element by element. -/
theorem rows_eq_elem (t : TReg) :
    t.rows = (List.range 32).map fun r => (List.range 32).flatMap fun j => bytesLe 4 (elem t (32 * r + j)) := by
  refine List.map_congr_left fun r hr => ?_
  rw [List.mem_range] at hr
  rw [bytes_eq_elem, slice_range_map _ (by omega)]
  unfold bytesLe
  rw [flatMap_range_map 32 4 (by decide)]
  refine List.map_congr_left fun k _ => ?_
  have hrow : (128 * r + k) / 4 = 32 * r + k / 4 := by omega
  have hcol : (128 * r + k) % 4 = k % 4 := by omega
  rw [hrow, hcol]

/-- A tile register without an error is read as it stands (R363). -/
theorem onCoreT_of {s : State} (hs : Sound s) (d : Fin 8) (r : Res) : onCoreT s d r = r := by
  rw [onCoreT, onCoreReg, regBad_of hs, regSoft_of hs]
  rfl

/-! ## Kinds (R176) -/

section
variable {v i j : Bool}

/-- Kinds are compared where `v` says that they count. -/
theorem kindsAgree (h : v = false ∨ i = j) : ¬ (v && i != j) = true := by
  rcases h with rfl | rfl <;> simp

theorem kindsDiffer (hv : v = true) (h : i ≠ j) : (v && i != j) = true := by
  rw [hv, Bool.true_and, bne_iff_ne]
  exact h

end

/-! ## Rows -/

theorem rowAddrs_eq_row (ea : W64) (p n : Nat) : rowAddrs ea p n = (List.range n).map (row ea p) := rfl

theorem firstOutside_own {ea : W64} {n : Nat} (h : Own ea n) : firstOutside ea n = none := by
  unfold firstOutside
  split
  · rfl
  · next hn =>
    have hend : ea.toNat + n ≤ spBase + spSize := h.2
    rw [isOwn_of h (Nat.pos_of_ne_zero hn), if_neg (by decide), if_pos hend]

theorem rowOutside_none {n : Nat} {l : List W64} (h : ∀ a ∈ l, Own a n) (i : Nat) : rowOutside n l i = none := by
  induction l generalizing i with
  | nil => rfl
  | cons a r ih =>
    rw [rowOutside, firstOutside_own (h a List.mem_cons_self)]
    exact ih (fun b hb => h b (List.mem_cons_of_mem _ hb)) _

theorem rowOutside_own {ea : W64} {p n m : Nat} (h : RowsOwn ea p n m) : rowOutside m (rowAddrs ea p n) 0 = none := by
  refine rowOutside_none (fun a ha => ?_) 0
  obtain ⟨i, hi, rfl⟩ := List.mem_map.1 ha
  exact h i (List.mem_range.1 hi)

section
variable {s : State} (hq : Quiet s)
include hq

theorem readRows_quiet (ea : W64) (p n m : Nat) (k : State → List Byte → Res) :
    readRows s m (rowAddrs ea p n) k = k s (rowsOf s ea p n m) := by
  obtain ⟨-, -, hbad, hsoft⟩ := id hq
  have hgood : ((rowAddrs ea p n).find? fun a => s.t.badRange srcSp (a.toNat - spBase) m) = none :=
    List.find?_eq_none.2 fun a _ => by simp [Tile.badRange, hbad]
  have hclean (l : List W64) : (ownPieces s m l).foldl correctPiece s = s := by
    induction l with
    | nil => rfl
    | cons a l ih =>
      rw [ownPieces, List.map_cons, List.foldl_cons, correctPiece_clean hsoft]
      exact ih
  have hrows : ((rowAddrs ea p n).flatMap fun a => s.t.sp.read (a.toNat - spBase) m) = rowsOf s ea p n m := by
    rw [rowAddrs_eq_row, List.flatMap_map]
    rfl
  rw [readRows, onCoreAccess_quiet hq]
  dsimp only
  rw [hgood]
  dsimp only
  rw [hclean, hrows]

theorem storeRows_quiet (rows : List (W64 × List Byte)) (k : State → Res) : storeRows s rows k = k (ownStores s rows) := by
  rw [storeRows, onCoreAccess_quiet hq]
  rfl

end

end Sys2Proof.Proofs
end

section
/-! Control words of the matrix unit (O34). -/

namespace Sys2Proof.Proofs

open Sys2Proof Sys2Proof.Machine Sys2Proof.Safety Sys2Proof.Says Sys2Proof.Laws

section
variable {s : State} {d a : Fin 8}

theorem mz_of (h : Settled s d) (i : Bool) :
    exec (.mz i d) s = done (putT s d { valid := true, dirty := true, s32 := i }) [] := by
  rw [exec_mz, execMz, waitT_of h, finish_done]

theorem mwait_of (h : Settled s d) : exec (.mwait d) s = done s [] := by
  rw [exec_mwait, execMwait, waitT_of h, finish_done]

/-- The fields of the status word (R175). -/
theorem status_eq (r : TReg) : r.status = .ofNat 64
    (r.valid.toNat + 2 * r.dirty.toNat + (if r.inflight = 0 then 0 else 4) + 8 * r.s32.toNat + 2 ^ 16 * r.ovf.toNat) := by
  by_cases h : r.inflight = 0 <;> simp [TReg.status, h]

theorem mstat_of {x : Fin 32} (h : Writable s x) : exec (.mstat x a) s = wrote s [] x s.c.t[a].status true := by
  rw [exec_mstat, execMstat, putResult_of h, finish_done]
  rfl

theorem movf_of {x : Fin 32} (h : Writable s x) (ha : Settled s a) :
    exec (.movf false x a) s = wrote s [] x (.ofNat 64 s.c.t[a].ovf.toNat) true ∧
    exec (.movf true x a) s =
      done (markT (writeX s x (.ofNat 64 s.c.t[a].ovf.toNat) true) a { s.c.t[a] with ovf := 0, dirty := true }) [] := by
  constructor <;> rw [exec_movf, execMovf, waitT_of ha, dstX_of h] <;> exact finish_done ..

theorem mcpy_of (hs : Sound s) (hd : Settled s d) (ha : Settled s a) :
    exec (.mcpy d a) s = done (putT s d { s.c.t[a] with dirty := true }) [] := by
  rw [exec_mcpy, execMcpy, waitT_of ha, waitT_of hd, onCoreT_of hs, finish_done]

/-- The element-wise sum in the terms of the elements (R197). -/
theorem maddElems_eq (i : Bool) (x y : TReg) : maddElems i x y = (List.range 1024).map fun k =>
    let r := if i then tileUpdateInt (elem x k) ((BitVec.ofNat 32 (elem y k)).toInt) else tileUpdate (elem x k) (f32.decode (elem y k))
    (r.1, r.2.toNat) := by
  rw [maddElems, elems_eq_elem, elems_eq_elem, List.zip_map', List.map_map]
  refine List.map_congr_left fun k _ => ?_
  simp only [Function.comp_apply, sgn_elem]

theorem claim_s32 (t : TReg) (i : Bool) : (t.claim i).s32 = i := by
  unfold TReg.claim
  split <;> rfl

/-- Operands of one kind, or of which one is not VALID, are added. -/
theorem madd_sum (hs : Sound s) (hd : Settled s d) (ha : Settled s a)
    (hk : (s.c.t[d].valid && s.c.t[a].valid) = false ∨ s.c.t[d].s32 = s.c.t[a].s32) :
    let x := s.c.t[d].claim (if s.c.t[d].valid then s.c.t[d].s32 else s.c.t[a].valid && s.c.t[a].s32)
    exec (.madd d a) s = done (putT s d (x.withElems ((List.range 1024).map fun i =>
      let r := if x.s32 then tileUpdateInt (elem x i) ((BitVec.ofNat 32 (elem s.c.t[a] i)).toInt)
        else tileUpdate (elem x i) (f32.decode (elem s.c.t[a] i))
      (r.1, r.2.toNat)))) [] := by
  rw [exec_madd, execMadd, waitT_of ha, waitT_of hd, if_neg (kindsAgree hk)]
  dsimp only
  rw [onCoreT_of hs, onCoreT_of hs, maddElems_eq, claim_s32]
  exact finish_done ..

theorem madd_kinds (hd : Settled s d) (ha : Settled s a) (hvd : s.c.t[d].valid = true) (hva : s.c.t[a].valid = true)
    (hk : s.c.t[d].s32 ≠ s.c.t[a].s32) : exec (.madd d a) s = trapped s .illegal s.c.t[d].status 0 := by
  have hboth : (s.c.t[d].valid && s.c.t[a].valid) = true := by rw [hvd, hva, Bool.true_and]
  rw [exec_madd, execMadd, waitT_of ha, waitT_of hd, if_pos (kindsDiffer hboth hk)]
  exact finish_trap _ _ _ (by decide) _

theorem mscale_of {x : Fin 32} {k : W64} (h : One s x k) (hd : Settled s d) :
    ((s.c.t[d].valid && s.c.t[d].s32) = false →
      exec (.mscale d x) s = done (putT s d ((s.c.t[d].claim false).withElems ((List.range 1024).map fun i =>
        satStep (Machine.fmul f32 0 (elem (s.c.t[d].claim false) i) (k.toNat % 2 ^ 32))))) [x]) ∧
    ((s.c.t[d].valid && s.c.t[d].s32) = true → exec (.mscale d x) s = trapped s .illegal s.c.t[d].status 0) := by
  obtain ⟨hs, hx⟩ := h
  rw [exec_mscale, execMscale, ← curOf_nil, srcX_of hs hx, waitT_of hd, commit_curOf]
  refine ⟨fun hk => ?_, fun hk => ?_⟩
  · rw [hk, if_neg (by decide)]
    dsimp only
    rw [onCoreT_of hs, elems_eq_elem, List.map_map]
    exact finish_pop_done ..
  · rw [hk, if_pos rfl]
    exact finish_pop_trap _ _ _ _ _ _ (by decide)

theorem mrow_of {x b : Fin 32} {k : W64} (h : One s b k) (ha : Settled s a) (hx : WritableV s x) :
    exec (.mrow x a b) s = wroteV s [b] x (ofLane 32 fun j =>
      .ofNat 32 (elem s.c.t[a] (32 * (k.toNat / 2 % 32) + 16 * (k.toNat % 2) + j))) 0xFF := by
  obtain ⟨hs, hb⟩ := h
  have hrow : bits k.toNat 1 5 = k.toNat / 2 % 32 := rfl
  have hhalf : bits k.toNat 0 1 = k.toNat % 2 := by rw [bits, pow_zero, Nat.div_one, pow_one]
  rw [exec_mrow, execMrow, waitT_of ha, ← curOf_nil, srcX_of hs hb, commit_curOf, onCoreT_of hs, elems_eq_elem, hrow, hhalf,
    take_drop_range_map _ (by omega), putWhole_of hx (by decide) fun i hi => by rw [getD_range_map _ hi]]
  exact finish_pop_done ..

end

/-- Settles O34: a tile register that is not in flight is read and written as the word's row says. -/
theorem matrixControlWords : Obligations.MatrixControlWords :=
  ⟨fun _ _ i hd => ⟨mz_of hd i, mwait_of hd⟩, fun _ _ _ hd => ⟨(mstat_of hd).trans (by rw [status_eq]), movf_of hd⟩,
    fun _ _ _ hs hd ha => ⟨mcpy_of hs hd ha, madd_sum hs hd ha, madd_kinds hd ha⟩, fun _ _ _ _ h hd => mscale_of h hd,
    fun _ _ _ _ _ h ha hd => mrow_of h ha hd⟩

end Sys2Proof.Proofs
end

section
/-! Words that multiply matrices (O35). -/

namespace Sys2Proof.Proofs

open Sys2Proof Sys2Proof.Machine Sys2Proof.Safety Sys2Proof.Says Sys2Proof.Laws

section
variable {s : State} {sp : Bool} {p : Pair} {d : Fin 8} {ea : W64}

/-! ## The checks (R183, R185) -/

theorem mmaChecks_kind (hv : s.c.t[d].valid = true) (hk : s.c.t[d].s32 ≠ p.isInt) (k : List W64 → Res) :
    mmaChecks s p sp d ea k = .trap s .illegal s.c.t[d].status 0 :=
  if_pos (kindsDiffer hv hk)

section
variable (hk : s.c.t[d].valid = false ∨ s.c.t[d].s32 = p.isInt)
include hk

theorem mmaChecks_misaligned (ha : ea.toNat % 16 ≠ 0) (k : List W64 → Res) :
    mmaChecks s p sp d ea k = .trap s .misalign ea 0 :=
  (if_neg (kindsAgree hk)).trans (if_pos ha)

theorem mmaChecks_pass (ha : ea.toNat % 16 = 0) (hr : RowsOwn ea (s.c.pitch.toNat * 16) 32 (rowBytes p sp)) (k : List W64 → Res) :
    mmaChecks s p sp d ea k = k (rowAddrs ea (s.c.pitch.toNat * 16) 32) := by
  rw [mmaChecks, if_neg (kindsAgree hk), if_neg (not_not_intro ha), rowOutside_own hr]

end

/-! ## The commit (R177, R200) -/

/-- The operation that enters the array queue: the rows, the slot's writes so far and the scales as they stand. -/
def queuedOp (s : State) (p : Pair) (sp : Bool) (d : Fin 8) (c : Fin 32) (ea sl sc : W64) (rows : List Byte) : ArrOp :=
  { c := s.c.id, d := d, p := p, sp := sp, aAddr := ea, pitch := s.c.pitch.toNat * 16, rows := some rows, slot := sl.toNat % 128
    need := (s.t.slots.toList.getD (sl.toNat % 128) {}).issued, wb := none, scale := sc, unit := c == 0 }

/-- The tile register is claimed, and the operation is the last of the queue. -/
def enqueued (s : State) (p : Pair) (d : Fin 8) (o : ArrOp) : State :=
  { s.claimT p d with t := { s.t with arrq := s.t.arrq ++ [o] } }

/-- The rest of the word once its checks have passed for the rows at `l`. -/
def mmaCommit (s : State) (p : Pair) (sp : Bool) (d : Fin 8) (c : Fin 32) (ea sl sc : W64) (l : List W64) : Res :=
  if 8 ≤ s.t.arrq.length then .wait s .arrayFull
  else readRows s (rowBytes p sp) l fun s rows =>
    match mmaBad s p sp d (sl.toNat % 128) with
    | some (x, src) => .trap s .uncorr x (.ofNat 64 src)
    | none => .done (enqueued s p d (queuedOp s p sp d c ea sl sc rows))

variable {a b c : Fin 32} {sl sc : W64} (h : Two s a b ea sl) (hc : scalar s [a, b] c = some (sc, true))
include h hc

/-- With its three scalar sources there the word comes to its checks and its commit. -/
theorem mma_sources : mma s p sp d a b c =
    finish s ((mmaChecks s p sp d ea (mmaCommit s p sp d c ea sl sc)).pop (curOf [a, b, c])) := by
  obtain ⟨hs, ha, hb⟩ := h
  rw [mma, ← curOf_nil, srcX_of hs ha, List.nil_append, srcX_of hs hb, List.cons_append, List.nil_append, srcX_of hs hc, commit_curOf]
  rfl

theorem mma_kind (hv : s.c.t[d].valid = true) (hk : s.c.t[d].s32 ≠ p.isInt) :
    mma s p sp d a b c = trapped s .illegal s.c.t[d].status 0 := by
  rw [mma_sources h hc, mmaChecks_kind hv hk]
  exact finish_pop_trap _ _ _ _ _ _ (by decide)

variable (hk : s.c.t[d].valid = false ∨ s.c.t[d].s32 = p.isInt)
include hk

theorem mma_misaligned (ha : ea.toNat % 16 ≠ 0) : mma s p sp d a b c = trapped s .misalign ea 0 := by
  rw [mma_sources h hc, mmaChecks_misaligned hk ha]
  exact finish_pop_trap _ _ _ _ _ _ (by decide)

variable (ha : ea.toNat % 16 = 0) (hr : RowsOwn ea (s.c.pitch.toNat * 16) 32 (rowBytes p sp))
include ha hr

theorem mma_full (hf : 8 ≤ s.t.arrq.length) : mma s p sp d a b c = blocked s .arrayFull := by
  rw [mma_sources h hc, mmaChecks_pass hk ha hr, mmaCommit, if_pos hf]
  rfl

theorem mma_commits (hl : s.t.arrq.length < 8) (hq : Quiet s) : mma s p sp d a b c = done { s with
    c := { s.c with t := s.c.t.set d { s.c.t[d].claim p.isInt with inflight := s.c.t[d].inflight + 1 } }
    t := { s.t with arrq := s.t.arrq ++
      [queuedOp s p sp d c ea sl sc (rowsOf s ea (s.c.pitch.toNat * 16) 32 (rowBytes p sp))] } } [a, b, c] := by
  obtain ⟨-, -, hbad, -⟩ := id hq
  have hgood : mmaBad s p sp d (sl.toNat % 128) = none := if_pos hbad
  have hflight : (s.c.t[d].claim p.isInt).inflight = s.c.t[d].inflight := by
    unfold TReg.claim
    split <;> rfl
  rw [mma_sources h hc, mmaChecks_pass hk ha hr, mmaCommit, if_neg (by omega), readRows_quiet hq, hgood]
  dsimp only
  rw [enqueued, State.claimT, hflight]
  exact finish_pop_done ..

end

/-- Both words are one, of which SP says whether B is sparse. -/
theorem exec_mmaWord (sp : Bool) (p : Pair) (d : Fin 8) (a b c : Fin 32) (s : State) :
    exec (if sp then .mmas p d a b c else .mma p d a b c) s = mma s p sp d a b c := by
  cases sp <;> rfl

/-- Settles O35: kind, alignment and room in the queue decide among the four outcomes. -/
theorem matrixMultiplyWordsCommit : Obligations.MatrixMultiplyWordsCommit := by
  intro sp s p d a b c ea sl sc h hc
  dsimp only
  rw [exec_mmaWord]
  exact ⟨fun hv hk => mma_kind h hc hv hk, fun hk => ⟨fun ha => mma_misaligned h hc hk ha,
    fun ha hr => ⟨fun hf => mma_full h hc hk ha hr hf, fun hl hq => mma_commits h hc hk ha hr hl hq⟩⟩⟩

end Sys2Proof.Proofs
end

section
/-! Words that move tile rows and weight-buffer slots (O36). -/

namespace Sys2Proof.Proofs

open Sys2Proof Sys2Proof.Machine Sys2Proof.Safety Sys2Proof.Says Sys2Proof.Laws

section
variable {s : State} {d : Fin 8} {a b : Fin 32} {ea p : W64}

/-! ## Tile registers (R188, R189) -/

/-- The pitch of the rows: B = 0 asks for 128. -/
theorem toNat_rowPitch (b : Fin 32) (p : W64) : (if b = 0 then 128 else p).toNat = if b = 0 then 128 else p.toNat := by
  split <;> rfl

theorem rowChecks_own {q : W64} {n : Nat} (ha : ea.toNat % 16 = 0) (hp : q.toNat % 16 = 0) (hr : RowsOwn ea q.toNat 32 n)
    (k : List W64 → Res) : rowChecks s ea q n k = k (rowAddrs ea q.toNat 32) := by
  rw [rowChecks, if_neg (not_not_intro ha), if_neg (not_not_intro hp), rowOutside_own hr]

section
variable (h : Two s a b ea p) (hq : Quiet s) (hd : Settled s d) (ha : ea.toNat % 16 = 0)
  (hp : (if b = 0 then 128 else p.toNat) % 16 = 0) (hr : RowsOwn ea (if b = 0 then 128 else p.toNat) 32 128)
include h hq hd ha hp hr

theorem mld_of (i : Bool) : exec (.mld i d a b) s = done (putT s d
    { data := .ofNat 32768 (natOf (rowsOf s ea (if b = 0 then 128 else p.toNat) 32 128)), valid := true, dirty := true, s32 := i }) [a, b] := by
  obtain ⟨hs, hx, hy⟩ := h
  rw [← toNat_rowPitch] at hp hr ⊢
  rw [exec_mld, execMld, ← curOf_nil, srcX_of hs hx, List.nil_append, srcX_of hs hy, commit_curOf, waitT_of hd, rowChecks_own ha hp hr,
    readRows_quiet hq]
  exact finish_pop_done ..

theorem mst_of : exec (.mst d a b) s = done (ownStores s ((List.range 32).map fun r =>
    (row ea (if b = 0 then 128 else p.toNat) r, (List.range 32).flatMap fun j => bytesLe 4 (elem s.c.t[d] (32 * r + j))))) [a, b] := by
  obtain ⟨hs, hx, hy⟩ := h
  rw [← toNat_rowPitch] at hp hr ⊢
  rw [exec_mst, execMst, ← curOf_nil, srcX_of hs hx, List.nil_append, srcX_of hs hy, waitT_of hd, commit_curOf, rowChecks_own ha hp hr,
    onCoreT_of hs, rows_eq_elem, rowAddrs_eq_row, List.zip_map', storeRows_quiet hq]
  exact finish_pop_done ..

end

/-! ## Slots (R190, R191) -/

/-- A slot write of the own tile enters its slot's order. -/
def slotIssued (s : State) (k : Nat) (w : SlotWrite) : State := { s with t := s.t.slotWrite (s.g.belay != 0) k w }

section
variable {dd : Fin 32} {k : W64} {len : WLen} {md : Bool} (h : Two s a dd ea k)
include h

theorem wbld_own (hq : Quiet s) (hown : Own ea (wlenBytes len + if md then 256 else 0)) (ha : ea.toNat % 64 = 0) :
    exec (.wbld len md dd a) s = done (slotIssued s (k.toNat % 128)
      { data := some (s.t.sp.read (offset ea) (wlenBytes len + if md then 256 else 0)), vlen := wlenBytes len, sp := md }) [a, dd] := by
  obtain ⟨hs, hx, hy⟩ := h
  have hn : 0 < wlenBytes len + if md then 256 else 0 := by cases len <;> simp [wlenBytes]
  rw [exec_wbld, execWbld]
  dsimp only
  rw [← curOf_nil, srcX_of hs hx, List.nil_append, srcX_of hs hy, commit_curOf, checkAddr_own hown hn ha, Chk.bind, isOwn_of hown hn,
    if_pos rfl, onCoreRead_quiet hq]
  exact finish_pop_done ..

/-- From elsewhere the access that brings the bytes is committed, and the slot's write waits for it. -/
theorem wbld_starts {s' : State} {ps : List Piece} (hst : Starts s ea (wlenBytes len + if md then 256 else 0) 64 .load .load s' ps)
    (hown : isOwn ea = false) :
    exec (.wbld len md dd a) s = done (slotIssued
      (committed s' { kind := .wbld (k.toNat % 128) ((s'.t.slots.toList.getD (k.toNat % 128) {}).issued), va := ea
                      size := wlenBytes len + if md then 256 else 0, pieces := ps })
      (k.toNat % 128) { data := none, vlen := wlenBytes len, sp := md }) [a, dd] := by
  obtain ⟨hs, hx, hy⟩ := h
  rw [exec_wbld, execWbld]
  dsimp only
  rw [← curOf_nil, srcX_of hs hx, List.nil_append, srcX_of hs hy, commit_curOf, checkAddr_starts hst, hown, if_neg (by decide),
    startAcc_of hst _ rfl rfl]
  exact finish_pop_done ..

end

/-- The slots of a mask of two registers, the second above the first. -/
theorem maskSlots_eq (lo hi : W64) : maskSlots lo hi = (List.range 128).filter fun i => (hi ++ lo).getLsbD i :=
  List.filter_congr fun i _ => by rw [BitVec.getLsbD_append]

theorem wbinv_of {lo hi : W64} (h : Two s a b lo hi) : exec (.wbinv a b) s = done { s with
    t := ((List.range 128).filter fun i => (hi ++ lo).getLsbD i).foldl
      (fun t i => t.slotWrite (s.g.belay != 0) i { clear := true }) s.t } [a, b] := by
  obtain ⟨hs, hx, hy⟩ := h
  rw [exec_wbinv, execWbinv, ← curOf_nil, srcX_of hs hx, List.nil_append, srcX_of hs hy, commit_curOf, maskSlots_eq]
  exact finish_pop_done ..

end

/-- Settles O36: with nothing before them the words read and store their rows at once, and a slot's write enters its order. -/
theorem matrixMemoryWords : Obligations.MatrixMemoryWords :=
  ⟨fun _ i _ _ _ _ _ h hq hd ha hp hr => mld_of h hq hd ha hp hr i, fun _ _ _ _ _ _ h hq hd ha hp hr => mst_of h hq hd ha hp hr,
    fun _ _ _ _ _ _ _ h => ⟨fun hq hown ha => wbld_own h hq hown ha, fun _ _ hst hown => wbld_starts h hst hown⟩,
    fun _ _ _ _ _ h => wbinv_of h⟩

end Sys2Proof.Proofs
end

section
/-! The fused epilogue (O37). -/

namespace Sys2Proof.Proofs

open Sys2Proof Sys2Proof.Machine Sys2Proof.Safety Sys2Proof.Says Sys2Proof.Laws

/-! ## The parameter block (R193) -/

theorem partOutside_own {pb : W64} {ps : List (Nat × Nat)} (h : ∀ q ∈ ps, Own (pb + .ofNat 64 q.1) q.2) : partOutside pb ps = none := by
  induction ps with
  | nil => rfl
  | cons q r ih =>
    rw [partOutside, firstOutside_own (h q List.mem_cons_self)]
    exact ih fun x hx => h x (List.mem_cons_of_mem _ hx)

theorem readParts_quiet {s : State} (hq : Quiet s) (pb : W64) (ps : List (Nat × Nat)) (im : List Byte) (k : State → List Byte → Res) :
    readParts s pb ps im k = k s (ps.foldl (fun im q => overlay im q.1 (s.t.sp.read (offset (pb + .ofNat 64 q.1)) q.2)) im) := by
  induction ps generalizing im with
  | nil => rfl
  | cons q r ih => rw [readParts, onCoreRead_quiet hq, ih, List.foldl_cons]

/-! ## Elements and rows (R194, R195) -/

/-- Element `i` of a tile register after the epilogue, and how often it saturated. -/
def epilogued (s : State) (m : MepiCtl) (pb : W64) (r : TReg) (i : Nat) : Nat × Nat :=
  mepiElem s.t m (r.valid && r.s32) (params s pb m.parts) (i % 32) (elem r i)

theorem epilogue_elems (s : State) (m : MepiCtl) (pb : W64) (r : TReg) :
    ((r.elems.zip (List.range 1024)).map fun (e, i) => mepiElem s.t m (r.valid && r.s32) (params s pb m.parts) (i % 32) e) =
      (List.range 1024).map (epilogued s m pb r) := by
  rw [elems_eq_elem, zip_range_map, List.map_map]
  rfl

/-- The bytes of row `i`. -/
def epiloguedRow (s : State) (m : MepiCtl) (pb : W64) (r : TReg) (i : Nat) : List Byte :=
  bytesOf (m.width * 4) (ofLanes m.width ((List.range 32).map fun j => (epilogued s m pb r (32 * i + j)).1))

theorem epilogue_rows (s : State) (m : MepiCtl) (pb : W64) (r : TReg) (ea : W64) (p : Nat) :
    (((rowAddrs ea p 32).zip (List.range 32)).map fun (a, i) =>
      (a, bytesOf (m.width * 4) (ofLanes m.width ((mepiBody.slice32 ((List.range 1024).map (epilogued s m pb r)) i).map (·.1))))) =
      (List.range 32).map fun i => (row ea p i, epiloguedRow s m pb r i) := by
  rw [rowAddrs_eq_row, zip_range_map, List.map_map]
  refine List.map_congr_left fun i hi => ?_
  rw [List.mem_range] at hi
  dsimp only [Function.comp_apply]
  rw [mepiBody.slice32, take_drop_range_map _ (by omega), List.map_map]
  rfl

/-- The overflow count after the epilogue (R175, R194). -/
def epilogueOvf (s : State) (m : MepiCtl) (pb : W64) (r : TReg) : W16 :=
  ovfAdd r.ovf ((List.range 1024).map fun i => (epilogued s m pb r i).2).sum

/-- What the word stores: its rows, and with OVFW the overflow count after them. -/
def epilogueStores (s : State) (m : MepiCtl) (pb : W64) (r : TReg) (ea : W64) (p : Nat) : List (W64 × List Byte) :=
  ((List.range 32).map fun i => (row ea p i, epiloguedRow s m pb r i)) ++
    if m.ovfw then [(ea + .ofNat 64 (32 * p), bytesOf 4 (epilogueOvf s m pb r).toNat)] else []

/-- The register keeps the count, or 0 with CLRO. -/
def epilogueEnd (s : State) (m : MepiCtl) (pb : W64) (d : Fin 8) (r : TReg) (t : State) : State :=
  if (if m.clro then 0 else epilogueOvf s m pb r) = r.ovf then t
  else markT t d { r with ovf := if m.clro then 0 else epilogueOvf s m pb r }

/-! ## The word -/

/-- Bytes from one row to the next: those of a row where DPITCH is 0. -/
def epiloguePitch (m : MepiCtl) : Nat := if m.dpitch = 0 then m.width * 4 else m.dpitch

/-- With good controls, tables and addresses the rows are stored, from the parameter block as it stands before the first store
(the model's choice, log 42), at the pitch that the control word gives, a multiple of 16 or not (log 26). -/
theorem mepiBody_of {s : State} {d : Fin 8} {ea pb x : W64} {m : MepiCtl} (hs : Sound s) (hq : Quiet s) (hm : mepiCtl x.toNat = some m)
    (ht : encodeFault s.t m.et = none) (ha : ea.toNat % 16 = 0) (hr : RowsOwn ea (epiloguePitch m) 32 (m.width * 4))
    (ho : m.ovfw = true → Own (ea + .ofNat 64 (32 * epiloguePitch m)) 4) (hpb : m.parts ≠ [] → pb.toNat % 64 = 0)
    (hps : ∀ q ∈ m.parts, Own (pb + .ofNat 64 q.1) q.2) (r : TReg) :
    mepiBody s d ea pb x r = .done (epilogueEnd s m pb d r (ownStores s (epilogueStores s m pb r ea (epiloguePitch m)))) := by
  have hblock : ¬ (m.parts ≠ [] ∧ pb.toNat % 64 ≠ 0) := fun h => h.2 (hpb h.1)
  have hcount : (if m.ovfw then firstOutside (ea + .ofNat 64 (32 * epiloguePitch m)) 4 else none) = none := by
    split
    · next h => exact firstOutside_own (ho h)
    · rfl
  rw [mepiBody, hm]
  dsimp only
  rw [ht]
  dsimp only
  rw [if_neg hblock, if_neg (not_not_intro ha), ← epiloguePitch, rowOutside_own hr, hcount, partOutside_own hps]
  dsimp only
  rw [readParts_quiet hq, onCoreT_of hs, ← params, epilogue_elems, epilogue_rows, List.map_map, storeRows_quiet hq]
  rfl

/-- Settles O37: with its sources there the word is `mepiBody`, whose reads and stores go on at once. -/
theorem fusedEpilogueStoresItsRows : Obligations.FusedEpilogueStoresItsRows := by
  intro s d a b c ea pb x m h hc hq hd hm ht ha n pitch oa hr ho hpb hps
  obtain ⟨hs, hx, hy⟩ := h
  rw [exec_mepi, execMepi, ← curOf_nil, srcX_of hs hx, List.nil_append, srcX_of hs hy, List.cons_append, List.nil_append, srcX_of hs hc,
    waitT_of hd, commit_curOf, mepiBody_of hs hq hm ht ha hr ho hpb hps]
  exact finish_pop_done ..

end Sys2Proof.Proofs
end

section
/-! Hypervector register words (O32). -/

namespace Sys2Proof.Proofs

open Sys2Proof Sys2Proof.Machine Sys2Proof.Safety Sys2Proof.Says Sys2Proof.Laws

/-! ## Hypervectors as words and bits (R201) -/

/-- A field of a register made of a list of lanes. -/
theorem extractLsb'_ofLanes {n w : Nat} (hw : 0 < w) (l : List Nat) {i : Nat} (hi : w * i + w ≤ n) :
    (BitVec.ofNat n (ofLanes w l)).extractLsb' (w * i) w = .ofNat w (l.getD i 0) := by
  apply BitVec.eq_of_getLsbD_eq
  intro j hj
  have hlane : (w * i + j) / w = i := by rw [Nat.mul_add_div hw, Nat.div_eq_of_lt hj, Nat.add_zero]
  have hbit : (w * i + j) % w = j := by rw [Nat.mul_add_mod, Nat.mod_eq_of_lt hj]
  have hn : w * i + j < n := by omega
  rw [BitVec.getLsbD_extractLsb', BitVec.getLsbD_ofNat, BitVec.getLsbD_ofNat, testBit_ofLanes hw, hlane, hbit, decide_eq_true hn, Bool.true_and]

/-- A field of a register as a number. -/
theorem extractLsb'_toNat_eq_bits {n : Nat} (x : BitVec n) (lo w : Nat) : (x.extractLsb' lo w).toNat = bits x.toNat lo w := by
  rw [BitVec.extractLsb'_toNat, Nat.shiftRight_eq_div_pow, bits]

theorem ofWords_eq_ofLanes (g : Nat → W64) : ofWords g = .ofNat 8192 (ofLanes 64 ((List.range 128).map fun i => (g i).toNat)) := by
  rw [ofWords, ofLanes_eq_sum _ _ _ fun i => (g i).isLt]

theorem getLsbD_ofWords (g : Nat → W64) {j : Nat} (hj : j < 8192) : (ofWords g).getLsbD j = (g (j / 64)).getLsbD (j % 64) := by
  have hi : j / 64 < 128 := by omega
  rw [ofWords_eq_ofLanes, BitVec.getLsbD_ofNat, decide_eq_true hj, Bool.true_and, testBit_ofLanes (by decide), getD_range_map _ hi, BitVec.getLsbD]

theorem getLsbD_word (x : W8192) (j : Nat) : (word x (j / 64)).getLsbD (j % 64) = x.getLsbD j := by
  rw [word, BitVec.getLsbD_extractLsb', decide_eq_true (Nat.mod_lt j (by decide)), Bool.true_and, Nat.div_add_mod]

theorem ofWords_const (x : W64) : ofWords (fun _ => x) = .ofNat 8192 (ofLanes 64 (List.replicate 128 x.toNat)) := by
  rw [ofWords_eq_ofLanes, List.map_const', List.length_range]

/-- A hypervector with one word replaced. -/
theorem ofWords_replace (y : W8192) (k : Nat) (x : W64) :
    ofWords (fun j => if j = k then x else word y j) = .ofNat 8192 (setLane 64 y.toNat k x.toNat) := by
  apply BitVec.eq_of_getLsbD_eq
  intro n hn
  rw [getLsbD_ofWords _ hn, BitVec.getLsbD_ofNat, decide_eq_true hn, Bool.true_and, setLane, testBit_insert]
  have hmem : (64 * k ≤ n ∧ n < 64 * k + 64) ↔ n / 64 = k := by omega
  by_cases h : n / 64 = k
  · rw [if_pos h, if_pos (hmem.2 h), ← h, ← Nat.mod_eq_sub]
    rfl
  · rw [if_neg h, if_neg (mt hmem.1 h), getLsbD_word]
    rfl

theorem word_eq_lane (x : W8192) (i : Nat) : word x i = .ofNat 64 (Machine.lane 64 x.toNat i) := by
  rw [Machine.lane, ← extractLsb'_toNat_eq_bits, BitVec.ofNat_toNat, BitVec.setWidth_eq, word]

theorem popcount_eq_ones (x : W8192) : popcount 8192 x.toNat = ones x := popcount_eq_countP 8192 x.toNat

theorem distance_eq_ones (x y : W8192) : distance x y = ones (x ^^^ y) := popcount_eq_ones (x ^^^ y)

/-! ## The words (R209) -/

section
variable {s : State} {d a b : Fin 8} {x y : W8192} (hs : Sound s) (ha : hyper s a = some x) (hd : WritableH s d)
include hs ha hd

theorem hv2_of (hb : hyper s b = some y) (f : W8192 → W8192 → W8192) : hv2 s d a b f = done (writeH s d (f x y)) [] := by
  rw [hv2, srcH_of hs ha, srcH_of hs hb, ← curOf_nil, commit_curOf, dstH_of hd, finish_pop_done]

theorem hvTable_words (hb : hyper s b = some y) : ∀ p ∈ hvTable, exec (p.1 d a b) s = done (writeH s d (p.2 x y)) [] := by
  have hw := hv2_of hs ha hd hb
  simp only [hvTable, List.forall_mem_cons, List.not_mem_nil, false_imp_iff, implies_true, and_true]
  exact ⟨hw (· ^^^ ·), hw (· &&& ·), hw (· ||| ·)⟩

theorem hnot_of : exec (.hnot d a) s = done (writeH s d (~~~x)) [] := by
  rw [exec_hnot, execHnot, srcH_of hs ha, ← curOf_nil, commit_curOf, dstH_of hd, finish_pop_done]

theorem hmov_of : exec (.hmov d a) s = done (writeH s d x) [] := by
  rw [exec_hmov, execHmov, srcH_of hs ha, ← curOf_nil, commit_curOf, dstH_of hd, finish_pop_done]

end

section
variable {s : State} {d a : Fin 32} {g : Fin 8} {x : W8192} {k : W64}

theorem hrot_of {e : Fin 8} (hg : hyper s g = some x) (h : One s a k) (hd : WritableH s e) :
    exec (.hrot e g a) s = done (writeH s e (x.rotateLeft (k.toNat % 8192))) [a] := by
  obtain ⟨hs, ha⟩ := h
  rw [exec_hrot, execHrot, srcH_of hs hg, ← curOf_nil, srcX_of hs ha, commit_curOf, dstH_of hd, finish_pop_done, List.nil_append]

theorem hpopc_of (hs : Sound s) (hg : hyper s g = some x) (hd : Writable s d) :
    exec (.hpopc d g) s = wrote s [] d (.ofNat 64 (ones x)) true := by
  rw [exec_hpopc, execHpopc, srcH_of hs hg, ← curOf_nil, commit_curOf, putResult_of hd, finish_pop_done, popcount_eq_ones, wrote]

theorem hdist_of {e : Fin 8} {y : W8192} (hs : Sound s) (hg : hyper s g = some x) (he : hyper s e = some y) (hd : Writable s d) :
    exec (.hdist d g e) s = wrote s [] d (.ofNat 64 (ones (x ^^^ y))) true := by
  rw [exec_hdist, execHdist, srcH_of hs hg, srcH_of hs he, ← curOf_nil, commit_curOf, putResult_of hd, finish_pop_done, distance_eq_ones, wrote]

theorem hext_of (hg : hyper s g = some x) (h : One s a k) (hd : Writable s d) :
    exec (.hext d g a) s = wrote s [a] d (word x (k.toNat % 128)) true := by
  obtain ⟨hs, ha⟩ := h
  rw [exec_hext, execHext, srcH_of hs hg, ← curOf_nil, srcX_of hs ha, commit_curOf, putResult_of hd, finish_pop_done, List.nil_append,
    ← word_eq_lane, wrote]

theorem hbcast_of (h : One s a k) (hd : WritableH s g) : exec (.hbcast g a) s = done (writeH s g (ofWords fun _ => k)) [a] := by
  obtain ⟨hs, ha⟩ := h
  rw [exec_hbcast, execHbcast, ← curOf_nil, srcX_of hs ha, commit_curOf, dstH_of hd, finish_pop_done, List.nil_append, ← ofWords_const]

theorem hins_of {b : Fin 32} {v : W64} (h : Two s a b v k) (hg : hyper s g = some x) (hd : WritableH s g) :
    exec (.hins g a b) s = done (writeH s g (ofWords fun j => if j = k.toNat % 128 then v else word x j)) [a, b] := by
  obtain ⟨hs, ha, hb⟩ := h
  rw [exec_hins, execHins, ← curOf_nil, srcX_of hs ha, List.nil_append, srcX_of hs hb, srcH_of hs hg, commit_curOf, dstH_of hd, finish_pop_done,
    List.cons_append, List.nil_append, ← ofWords_replace]

end

/-- Settles O32: with its sources there each word is done at once, and the model's lanes are the words of the hypervector. -/
theorem hypervectorWordsWriteTheirResult : Obligations.HypervectorWordsWriteTheirResult :=
  ⟨fun p hp _ _ _ _ _ _ hs ha hb hd => hvTable_words hs ha hd hb p hp,
    fun _ _ _ _ hs ha hd => ⟨hnot_of hs ha hd, hmov_of hs ha hd⟩,
    fun _ _ _ _ _ _ hg h hd => hrot_of hg h hd,
    fun _ _ _ _ _ _ hs ha hb hd => ⟨hpopc_of hs ha hd, hdist_of hs ha hb hd⟩,
    fun _ _ _ _ h hd => hbcast_of h hd,
    fun _ _ _ _ _ _ _ h hg hd => hins_of h hg hd,
    fun _ _ _ _ _ _ hg h hd => hext_of hg h hd⟩

end Sys2Proof.Proofs
end

section
/-! Bundle accumulators (R210, R211). -/

namespace Sys2Proof.Proofs

open Sys2Proof Sys2Proof.Machine Sys2Proof.Safety Sys2Proof.Says Sys2Proof.Laws

/-! ## Counters (R202) -/

theorem counter_eq_count (s : State) (d : Fin 2) (i : Nat) : counter s.c.b[d] i = count s d i := by
  rw [counter, ← extractLsb'_toNat_eq_bits, sgn_toNat, count]

/-- A signed byte reads back as the number that it holds. -/
theorem toInt_ofNat_pat {c : Int} (hlo : -128 ≤ c) (hhi : c ≤ 127) : (BitVec.ofNat 8 (pat 8 c)).toInt = c := by
  rw [pat_eq_toNat, BitVec.ofNat_toNat, BitVec.setWidth_eq, BitVec.toInt_ofInt]
  exact Int.bmod_eq_of_le (by omega) (by omega)

/-- Counter `i` once `w` has been added where `x` has a 1 and subtracted where it has a 0. -/
def bundled (s : State) (d : Fin 2) (x : W8192) (w : Int) (i : Nat) : Int := count s d i + if x.getLsbD i then w else -w

theorem bundle_eq_map (s : State) (d : Fin 2) (x : W8192) (w : Int) : bundle s.c.b[d] x w =
    (List.range 8192).map fun i => (clampInt (-127) 127 (bundled s d x w i), clampInt (-127) 127 (bundled s d x w i) != bundled s d x w i) := by
  simp only [bundle, counter_eq_count, bundled]

/-- The accumulator that the bundle words write. -/
def bundledAccumulator (s : State) (d : Fin 2) (x : W8192) (w : Int) : BitVec 65536 :=
  .ofNat 65536 (ofLanes 8 ((bundle s.c.b[d] x w).map fun r => pat 8 r.1))

theorem bundledAccumulator_counter (s : State) (d : Fin 2) (x : W8192) (w : Int) {i : Nat} (hi : i < 8192) :
    ((bundledAccumulator s d x w).extractLsb' (8 * i) 8).toInt = max (-127) (min 127 (bundled s d x w i)) := by
  have hroom : 8 * i + 8 ≤ 65536 := by omega
  rw [bundledAccumulator, extractLsb'_ofLanes (by decide) _ hroom, bundle_eq_map, List.map_map, getD_range_map _ hi, Function.comp_apply,
    clampInt_eq (by decide)]
  exact toInt_ofNat_pat (by omega) (by omega)

theorem any_clamped (s : State) (d : Fin 2) (x : W8192) (w : Int) : (bundle s.c.b[d] x w).any (·.2) =
    (List.range 8192).any fun i => 127 < bundled s d x w i || bundled s d x w i < -127 := by
  rw [bundle_eq_map, List.any_map]
  congr 1
  funext i
  rw [Function.comp_apply, clampInt_bne (by decide), Bool.eq_iff_iff]
  simp only [decide_eq_true_eq, Bool.or_eq_true]
  omega

/-! ## The state after a bundle word -/

theorem heal_focus (t : Tile) (src o n : Nat) : (t.heal src o n).vt = t.vt ∧ (t.heal src o n).sp = t.sp ∧ (t.heal src o n).rmem = t.rmem := by
  unfold Tile.heal
  split <;> exact ⟨rfl, rfl, rfl⟩

theorem putB_frame (s : State) (d : Fin 2) (y : BitVec 65536) :
    (putB s d y).c = { s.c with b := s.c.b.set d y } ∧ (putB s d y).m = s.m ∧ (putB s d y).t.sp = s.t.sp := by
  have same := absorb_same (healReg { s with c := { s.c with b := s.c.b.set d y } } (0x8000 + 8192 * d.val) 8192) s.c.id (4 * 8192 + d.val)
    (bytesOf 8192 y.toNat) 0
  exact ⟨sameButLog_c same, (sameButLog_m same).trans rfl, (sameButLog_sp same).trans (healReg_sp ..)⟩

/-- The saturation bit of accumulator `d` is raised and no other. -/
theorem getLsbD_raised (m : BitVec 2) (d e : Fin 2) (c : Bool) :
    (if c then m ||| .ofNat 2 (2 ^ d.val) else m).getLsbD e.val = (m.getLsbD e.val || (e == d && c)) := by
  have hbit : (BitVec.ofNat 2 (2 ^ d.val)).getLsbD e.val = (e == d) := by
    revert d e
    decide
  cases c with
  | true => rw [if_pos rfl, BitVec.getLsbD_or, hbit, Bool.and_true]
  | false => rw [if_neg (by decide), Bool.and_false, Bool.or_false]

theorem bundleInto_eq (s : State) (d : Fin 2) (x : W8192) (w : Int) :
    bundleInto s d x w = { putB s d (bundledAccumulator s d x w) with c := { s.c with
      b := s.c.b.set d (bundledAccumulator s d x w)
      sat := if (bundle s.c.b[d] x w).any (·.2) then s.c.sat ||| .ofNat 2 (2 ^ d.val) else s.c.sat } } := by
  obtain ⟨hc, -⟩ := putB_frame s d (bundledAccumulator s d x w)
  rw [bundleInto, ← bundledAccumulator]
  dsimp only
  rw [hc]

theorem bundleInto_bundled (s : State) (d : Fin 2) (x : W8192) (w : Int) : Bundled (bundleInto s d x w) s d x w := by
  obtain ⟨-, hm, hsp⟩ := putB_frame s d (bundledAccumulator s d x w)
  have hd : d.val < 2 := d.isLt
  rw [bundleInto_eq, Bundled]
  refine ⟨fun i hi => ?_, fun e he => ?_, fun e => ?_, rfl, rfl, rfl, rfl, rfl, hm, hsp⟩
  · rw [count]
    simp only [Fin.getElem_fin, Vector.getElem_set_self]
    exact bundledAccumulator_counter s d x w hi
  · exact Vector.getElem_set_ne hd e.isLt fun h => he (Fin.ext h.symm)
  · dsimp only
    rw [any_clamped, getLsbD_raised]
    unfold bundled
    congr

/-! ## The words -/

/-- An accumulator without an error is read as it stands (R363). -/
theorem onCoreB_of {s : State} (hs : Sound s) (d : Fin 2) (r : Res) : onCoreB s d r = r := by
  rw [onCoreB, onCoreReg, regBad_of hs, regSoft_of hs]
  rfl

section
variable {s : State} {d : Fin 2} {a : Fin 8} {x : W8192} (ha : hyper s a = some x)
include ha

theorem hbund_of (hs : Sound s) : exec (.hbund d a) s = done (bundleInto s d x 1) [] := by
  rw [exec_hbund, execHbund, srcH_of hs ha, ← curOf_nil, commit_curOf, onCoreB_of hs, finish_pop_done]

variable {b : Fin 32} {w : W64} (h : One s b w)
include h

theorem hbunw_of (hw : w.toNat ≤ 127) : exec (.hbunw d a b) s = done (bundleInto s d x w.toNat) [b] := by
  obtain ⟨hs, hb⟩ := h
  rw [exec_hbunw, execHbunw, srcH_of hs ha, ← curOf_nil, srcX_of hs hb, commit_curOf, if_neg (Nat.not_lt.2 hw), onCoreB_of hs, finish_pop_done,
    List.nil_append]

theorem hbunw_illegal (hw : 127 < w.toNat) : exec (.hbunw d a b) s = trapped s .illegal w 0 := by
  obtain ⟨hs, hb⟩ := h
  rw [exec_hbunw, execHbunw, srcH_of hs ha, ← curOf_nil, srcX_of hs hb, commit_curOf, if_pos hw, finish_pop_trap _ _ _ _ _ _ (by decide)]

end

theorem hbclr_of (s : State) (d : Fin 2) : exec (.hbclr d) s = done (putB s d 0) [] := by
  rw [exec_hbclr, execHbclr, finish_done]

theorem natOfBits_eq_bitSum (f : Nat → Bool) (n : Nat) : natOfBits f n = bitSum n f := by
  induction n with
  | zero => rfl
  | succ n ih => rw [natOfBits, ih, bitSum_succ]

theorem getLsbD_hvOfBits (f : Nat → Bool) {i : Nat} (hi : i < 8192) : (hvOfBits f).getLsbD i = f i := by
  rw [hvOfBits, natOfBits_eq_bitSum, BitVec.getLsbD_ofNat, testBit_bitSum, decide_eq_true hi, Bool.true_and, Bool.true_and]

/-- The hypervector of the signs of an accumulator, with the bits of `y` for counters of 0 (R211). -/
def thresholded (s : State) (a : Fin 2) (y : W8192) : W8192 :=
  hvOfBits fun i => decide (0 < counter s.c.b[a] i) || (decide (counter s.c.b[a] i = 0) && y.getLsbD i)

theorem getLsbD_thresholded (s : State) (a : Fin 2) (y : W8192) {i : Nat} (hi : i < 8192) :
    (thresholded s a y).getLsbD i = (0 < count s a i || (count s a i == 0 && y.getLsbD i)) := by
  rw [thresholded, getLsbD_hvOfBits _ hi, counter_eq_count]
  rfl

theorem hthr_of {s : State} {d b : Fin 8} {a : Fin 2} {y : W8192} (hs : Sound s) (hb : hyper s b = some y) (hd : WritableH s d) :
    exec (.hthr d a b) s = done (writeH s d (thresholded s a y)) [] := by
  rw [exec_hthr, execHthr, srcH_of hs hb, ← curOf_nil, commit_curOf, dstH_of hd, onCoreB_of hs, finish_pop_done, thresholded]

theorem bundleWordsCount : BundleWordsCount :=
  ⟨fun _ _ _ _ hs ha => ⟨_, hbund_of ha hs, bundleInto_bundled ..⟩,
    fun _ _ _ _ _ _ ha h => ⟨fun hw => ⟨_, hbunw_of ha h hw, bundleInto_bundled ..⟩, hbunw_illegal ha h⟩,
    hbclr_of,
    fun _ _ _ _ _ hs hb hd => ⟨_, hthr_of hs hb hd, fun _ hi => getLsbD_thresholded _ _ _ hi⟩⟩

end Sys2Proof.Proofs
end

section
/-! The recall memory (R215 to R217), which completes O33. -/

namespace Sys2Proof.Proofs

open Sys2Proof Sys2Proof.Machine Sys2Proof.Safety Sys2Proof.Says Sys2Proof.Laws

/-! ## Entries (R213) -/

theorem recallOf_eq_entry (s : State) (e : Nat) : recallOf s e = entry s e := rfl

theorem noteRecall_focus (t : Tile) (belay : Bool) (e : Nat) : (t.noteRecall belay e).rmem = t.rmem ∧ (t.noteRecall belay e).sp = t.sp := by
  unfold Tile.noteRecall
  split <;> exact ⟨rfl, rfl⟩

/-- One entry of the recall memory becomes `r`; the registers, the scratchpad and everything outside the tile stay. -/
theorem putRecall_frame (s : State) {e : Nat} (r : Recall) (he : e < 256) :
    (putRecall s e r).t.rmem = s.t.rmem.set e r ∧ (putRecall s e r).t.sp = s.t.sp ∧ (putRecall s e r).c = s.c ∧ (putRecall s e r).m = s.m := by
  obtain ⟨hmem, hsp⟩ := noteRecall_focus s.t (s.g.belay != 0) e
  obtain ⟨-, hsp', hmem'⟩ := heal_focus (s.t.mapRecall (s.g.belay != 0) e fun _ => r) srcRecall (e * 1024) 1024
  refine ⟨hmem'.trans ?_, hsp'.trans ?_, rfl, rfl⟩
  · rw [Tile.mapRecall, dif_pos he]
    dsimp only
    rw [hmem]
  · rw [Tile.mapRecall, dif_pos he]
    exact hsp

theorem entry_putRecall (s : State) {e f : Nat} (r : Recall) (he : e < 256) (hf : f < 256) :
    entry (putRecall s e r) f = if f = e then r else entry s f := by
  obtain ⟨hmem, -⟩ := putRecall_frame s r he
  simp only [entry, hmem, List.getD_eq_getElem?_getD, Vector.getElem?_toList, Vector.getElem?_set, eq_comm (a := e)]
  split <;> simp [hf]

/-- Entries of a list that are cleared one after another. -/
theorem foldl_clear_frame {l : List Nat} (hl : ∀ e ∈ l, e < 256) (s : State) :
    let t := l.foldl (fun s e => putRecall s e {}) s
    (∀ f < 256, entry t f = if f ∈ l then {} else entry s f) ∧ t.c = s.c ∧ t.m = s.m ∧ t.t.sp = s.t.sp := by
  induction l generalizing s with
  | nil => exact ⟨fun f _ => by simp, rfl, rfl, rfl⟩
  | cons e l ih =>
    have he := hl e List.mem_cons_self
    obtain ⟨-, hsp, hc, hm⟩ := putRecall_frame s {} he
    obtain ⟨hentry, hc', hm', hsp'⟩ := ih (fun f hf => hl f (List.mem_cons_of_mem _ hf)) (putRecall s e {})
    refine ⟨fun f hf => ?_, hc'.trans hc, hm'.trans hm, hsp'.trans hsp⟩
    rw [List.foldl_cons, hentry f hf, entry_putRecall s {} he hf]
    by_cases h : f = e
    · rw [if_pos h, ite_self, if_pos (h ▸ List.mem_cons_self)]
    · rw [if_neg h]
      simp only [List.mem_cons, h, false_or]

/-! ## Reads of entries without errors (R218, R381) -/

/-- The same tile is in focus, with the same marks of correctable errors. -/
def KeepsMarks (s t : State) : Prop := t.t.vt = s.t.vt ∧ t.t.soft = s.t.soft

theorem keepsMarks_refl (s : State) : KeepsMarks s s := ⟨rfl, rfl⟩

theorem KeepsMarks.trans {s t u : State} (h : KeepsMarks s t) (k : KeepsMarks t u) : KeepsMarks s u := ⟨k.1.trans h.1, k.2.trans h.2⟩

theorem keepsMarks_of_sameButLog {s t : State} (h : SameButLog s t) : KeepsMarks s t := by
  obtain ⟨l, f, p, q, n, b, rfl⟩ := h
  exact keepsMarks_refl s

theorem heal_clean {t : Tile} (hb : t.bad = []) (hs : t.soft = []) (src o n : Nat) : t.heal src o n = t := if_pos ⟨hb, hs⟩

theorem send_keepsMarks (s : State) (vt : Nat) (b : Body) : KeepsMarks s (send s vt b) := by
  unfold send
  split <;> exact ⟨rfl, rfl⟩

theorem sendPort_keepsMarks (s : State) (dir : Fin 4) (e : Entry) : KeepsMarks s (sendPort s dir e) := by
  unfold sendPort
  split
  · exact keepsMarks_refl s
  · exact (send_keepsMarks ..).trans (keepsMarks_of_sameButLog (absorbOut_same ..))

section
variable {s : State} (hb : s.t.bad = []) (hs : s.t.soft = [])
include hb hs

theorem writeX_keepsMarks (d : Fin 32) (x : W64) (v : Bool) : KeepsMarks s (writeX s d x v) := by
  by_cases h0 : d.val = 0
  · rw [writeX_zero s x v h0]
    exact keepsMarks_refl s
  · by_cases h : d.val < 28
    · have same : KeepsMarks s (s.setX d ⟨x, .full, v⟩) := ⟨rfl, rfl⟩
      rw [writeX_register s x v h0 h, healReg, heal_clean hb hs]
      exact same.trans (keepsMarks_of_sameButLog (absorb_same ..))
    · rw [writeX_direction s x v (Nat.not_lt.1 h)]
      exact sendPort_keepsMarks ..

theorem writeH_keepsMarks (d : Fin 8) (x : W8192) : KeepsMarks s (writeH s d x) := by
  have same : KeepsMarks s { s with c := s.c.setH d ⟨x, .full⟩ } := ⟨rfl, rfl⟩
  rw [writeH, putH, healReg, heal_clean hb hs]
  exact same.trans (keepsMarks_of_sameButLog (absorb_same ..))

theorem sound_of_clean : Sound s := by
  unfold Sound
  rw [hb, hs]
  simp

/-- A read of entries without errors goes on as it stands. -/
theorem recallErr_clean {u : State} (hu : KeepsMarks s u) (l : List Nat) : recallErr s l (.done u) = .done u := by
  obtain ⟨hvt, hsoft⟩ := hu
  have hfind : l.find? (fun e => s.t.badRange srcRecall (e * 1024) 1024) = none := by
    simp [Tile.badRange, hb]
  rw [recallErr, hfind]
  refine congrArg Res.done (repairMarks_clean _ _ _ fun t ht => ?_)
  rw [State.tile?, if_pos hvt, Option.some.injEq] at ht
  rw [← ht, hsoft, hs]

end

/-! ## The entry words (R215) -/

section
variable {s : State} {b : Fin 32} {i : W64} (h : One s b i)
include h

theorem hmst_of {a : Fin 8} {x : W8192} (ha : hyper s a = some x) :
    exec (.hmst a b) s = done (putRecall s (i.toNat % 256) ⟨true, x⟩) [b] := by
  obtain ⟨hs, hx⟩ := h
  rw [exec_hmst, execHmst, srcH_of hs ha, ← curOf_nil, srcX_of hs hx, commit_curOf, finish_pop_done, List.nil_append, entryOf]

theorem hmclr_of : exec (.hmclr b) s = done (putRecall s (i.toNat % 256) {}) [b] := by
  obtain ⟨hs, hx⟩ := h
  rw [exec_hmclr, execHmclr, ← curOf_nil, srcX_of hs hx, commit_curOf, finish_pop_done, List.nil_append, entryOf]

theorem hmld_of {d : Fin 8} (hd : WritableH s d) (hb : s.t.bad = []) (hsoft : s.t.soft = []) : exec (.hmld d b) s =
    done (writeH s d (if (entry s (i.toNat % 256)).valid then (entry s (i.toNat % 256)).data else 0)) [b] := by
  obtain ⟨hs, hx⟩ := h
  rw [exec_hmld, execHmld, ← curOf_nil, srcX_of hs hx, commit_curOf, dstH_of hd]
  dsimp only
  rw [recallErr_clean hb hsoft (writeH_keepsMarks hb hsoft ..), finish_pop_done, List.nil_append, entryOf]
  rfl

end

theorem hmclrAll_clears (s : State) :
    ∃ t, exec .hmclrAll s = done t [] ∧ (∀ e < 256, entry t e = {}) ∧ t.c = s.c ∧ t.m = s.m ∧ t.t.sp = s.t.sp := by
  obtain ⟨hentry, hframe⟩ := foldl_clear_frame (fun _ => List.mem_range.1) s
  refine ⟨_, ?_, fun e he => ?_, hframe⟩
  · rw [exec_hmclrAll, execHmclrAll, finish_done]
  · rw [hentry e he, if_pos (List.mem_range.2 he)]

/-! ## The two nearest of a list (R216) -/

/-- `o` is the first of the candidates `P` by distance and then by index; none where there are none. -/
def First (P : Nat × Nat → Prop) : Option (Nat × Nat) → Prop
  | none => ∀ q, ¬ P q
  | some p => P p ∧ ∀ q, P q → p.1 < q.1 ∨ (p.1 = q.1 ∧ p.2 ≤ q.2)

theorem First.unique {P : Nat × Nat → Prop} {o o' : Option (Nat × Nat)} (h : First P o) (h' : First P o') : o = o' := by
  match o, o' with
  | none, none => rfl
  | none, some p => exact absurd h'.1 (h p)
  | some p, none => exact absurd h.1 (h' p)
  | some p, some q =>
    have hpq := h.2 q h'.1
    have hqp := h'.2 p h.1
    refine congrArg some (Prod.ext ?_ ?_) <;> omega

theorem First.congr {P Q : Nat × Nat → Prop} {o : Option (Nat × Nat)} (h : First P o) (hPQ : ∀ q, Q q ↔ P q) : First Q o :=
  (funext fun q => propext (hPQ q) : Q = P) ▸ h

section
variable {P : Nat × Nat → Prop} {p x : Nat × Nat}

/-! One more candidate `x`. -/

theorem First.alone (h : First P none) : First (fun q => P q ∨ q = x) (some x) :=
  ⟨.inr rfl, fun q hq => by
    obtain rfl := hq.resolve_left (h q)
    exact .inr ⟨rfl, le_rfl⟩⟩

theorem First.before (h : First P (some p)) (hx : x.1 < p.1) : First (fun q => P q ∨ q = x) (some x) := by
  refine ⟨.inr rfl, fun q hq => ?_⟩
  rcases hq with hq | rfl
  · have hpq := h.2 q hq
    omega
  · exact .inr ⟨rfl, le_rfl⟩

theorem First.behind (h : First P (some p)) (hx : ¬ x.1 < p.1) (hi : p.2 < x.2) : First (fun q => P q ∨ q = x) (some p) := by
  refine ⟨.inl h.1, fun q hq => ?_⟩
  rcases hq with hq | rfl
  · exact h.2 q hq
  · omega

end

/-- The first of a list, and the first of the others. -/
def FirstTwo (l : List (Nat × Nat)) (r : Option (Nat × Nat) × Option (Nat × Nat)) : Prop :=
  First (· ∈ l) r.1 ∧ First (fun q => q ∈ l ∧ some q ≠ r.1) r.2

/-- In a list by rising index the model finds the first two: an element at an equal distance comes behind. -/
theorem nearest2_firstTwo {l : List (Nat × Nat)} (hl : l.Pairwise fun p q => p.2 < q.2) : FirstTwo l (nearest2 l) := by
  induction l using List.reverseRecOn with
  | nil => exact ⟨fun _ => List.not_mem_nil, fun _ h => List.not_mem_nil h.1⟩
  | append_singleton l x ih =>
    obtain ⟨hl, -, hlast⟩ := List.pairwise_append.1 hl
    have hlast (q) (hq : q ∈ l) : q.2 < x.2 := hlast q hq x List.mem_cons_self
    have hne (q) (hq : q ∈ l) : q ≠ x := fun h => (hlast q hq).ne (congrArg Prod.snd h)
    have hmem (q) : q ∈ l ++ [x] ↔ q ∈ l ∨ q = x := by rw [List.mem_append, List.mem_singleton]
    have hothers (q) : (q ∈ l ++ [x] ∧ some q ≠ some x) ↔ q ∈ l := by
      rw [hmem, ne_eq, Option.some_inj]
      exact ⟨fun h => h.1.resolve_right h.2, fun h => ⟨.inl h, hne q h⟩⟩
    have ih := ih hl
    unfold nearest2 at ih ⊢
    rw [List.foldl_append, List.foldl_cons, List.foldl_nil]
    generalize l.foldl _ _ = r at ih ⊢
    obtain ⟨h1, h2⟩ := ih
    rcases r with ⟨_ | p, b⟩
    · exact ⟨h1.alone.congr hmem, fun q hq => h1 q ((hothers q).1 hq)⟩
    · have hp : p ∈ l := h1.1
      have hothers' (q) : (q ∈ l ++ [x] ∧ some q ≠ some p) ↔ (q ∈ l ∧ some q ≠ some p) ∨ q = x := by
        rw [hmem, or_and_right]
        refine or_congr_right ⟨And.left, fun h => ⟨h, fun he => hne p hp ?_⟩⟩
        exact (Option.some_inj.1 he).symm.trans h
      by_cases hx : x.1 < p.1
      · have hfirst : FirstTwo (l ++ [x]) (some x, some p) := ⟨(h1.before hx).congr hmem, h1.congr hothers⟩
        rcases b with _ | q
        · simpa only [if_pos hx] using hfirst
        · simpa only [if_pos hx] using hfirst
      · have hfirst := (h1.behind hx (hlast p hp)).congr hmem
        rcases b with _ | q
        · simp only [if_neg hx]
          exact ⟨hfirst, h2.alone.congr hothers'⟩
        · by_cases hq : x.1 < q.1
          · simp only [if_neg hx, if_pos hq]
            exact ⟨hfirst, (h2.before hq).congr hothers'⟩
          · simp only [if_neg hx, if_neg hq]
            exact ⟨hfirst, (h2.behind hq (hlast q h2.1.1)).congr hothers'⟩

/-! ## The search (R216) -/

/-- What the search knows of entry `e`: its distance from `q`, and its index. -/
def candidate (s : State) (q : W8192) (e : Nat) : Nat × Nat := (ones (q ^^^ (entry s e).data), e)

/-- The valid entries, by rising index. -/
def candidates (s : State) (q : W8192) : List (Nat × Nat) := (validEntries s).map (candidate s q)

theorem candidates_firstTwo (s : State) (q : W8192) : FirstTwo (candidates s q) (nearest2 (candidates s q)) := by
  refine nearest2_firstTwo ?_
  rw [candidates, List.pairwise_map, validEntries]
  exact List.pairwise_lt_range.filter _

/-- `P` holds of the valid entries of `l`, as candidates. -/
def Describes (s : State) (q : W8192) (l : List Nat) (P : Nat × Nat → Prop) : Prop :=
  ∀ p, P p ↔ ∃ e ∈ l, (entry s e).valid = true ∧ candidate s q e = p

theorem describes_candidates (s : State) (q : W8192) : Describes s q (List.range 256) (· ∈ candidates s q) := by
  intro p
  simp only [candidates, validEntries, List.mem_map, List.mem_filter, recallOf_eq_entry, and_assoc]

section
variable {s : State} {q : W8192} {l : List Nat} {e : Nat} {P : Nat × Nat → Prop} (hP : Describes s q l P)
include hP

theorem Describes.others (e : Nat) : Describes s q (l.filter (· ≠ e)) fun p => P p ∧ some p ≠ some (candidate s q e) := by
  intro p
  simp only [hP p, List.mem_filter, decide_eq_true_eq, ne_eq, Option.some_inj]
  constructor
  · rintro ⟨⟨f, hf, hv, rfl⟩, hne⟩
    exact ⟨f, ⟨hf, fun h => hne (congrArg (candidate s q) h)⟩, hv, rfl⟩
  · rintro ⟨f, ⟨hf, hne⟩, hv, rfl⟩
    exact ⟨⟨f, hf, hv, rfl⟩, fun h => hne (congrArg Prod.snd h)⟩

theorem Describes.first_of_nearest (h : Nearest s q l e) : First P (some (candidate s q e)) := by
  obtain ⟨he, hv, hmin⟩ := h
  refine ⟨(hP _).2 ⟨e, he, hv, rfl⟩, fun p hp => ?_⟩
  obtain ⟨f, hf, hfv, rfl⟩ := (hP p).1 hp
  simp only [candidate]
  exact hmin f hf hfv

theorem Describes.first_none (h : ∀ e ∈ l, (entry s e).valid = false) : First P none := by
  intro p hp
  obtain ⟨e, he, hv, -⟩ := (hP p).1 hp
  exact Bool.false_ne_true ((h e he).symm.trans hv)

end

section
variable {s : State} {q : W8192} {m0 m1 : Option (Nat × Nat)}

theorem nearest2_fst (h : First (· ∈ candidates s q) m0) : nearest2 (candidates s q) = (m0, (nearest2 (candidates s q)).2) := by
  rw [← (candidates_firstTwo s q).1.unique h]

theorem nearest2_eq (h : First (· ∈ candidates s q) m0) (h' : First (fun p => p ∈ candidates s q ∧ some p ≠ m0) m1) :
    nearest2 (candidates s q) = (m0, m1) := by
  have hsnd := (candidates_firstTwo s q).2
  rw [nearest2_fst h] at hsnd ⊢
  rw [hsnd.unique h']

theorem recallKey_candidate (s : State) (q : W8192) (e : Nat) : recallKey (some (candidate s q e)) = hitWord s q e := by
  rw [recallKey, candidate, hitWord, show 65536 = 2 ^ 16 from rfl]

end

section
variable {s : State} {d b : Fin 32} {a : Fin 8} {q : W8192} {th : W64} (ha : hyper s a = some q) (h : One s b th) (hd : Writable s d)
  (hb : s.t.bad = []) (hsoft : s.t.soft = [])
include ha h hd hb hsoft

/-- With its sources there the word writes the keys of the entries found, and V by the distance of the first. -/
theorem search_of {m0 m1 : Option (Nat × Nat)} (hm : nearest2 (candidates s q) = (m0, m1)) (two : Bool) : search s two d a b =
    wrote s [b] d (.ofNat 64 (recallKey m0 + if two then 2 ^ 32 * recallKey m1 else 0)) (m0.any fun p => p.1 ≤ th.toNat) := by
  obtain ⟨hs, hx⟩ := h
  have hcand : (validEntries s).map (fun e => (distance q (recallOf s e).data, e)) = candidates s q := by
    simp only [candidates, distance_eq_ones, recallOf_eq_entry]
    exact List.map_congr_left fun _ _ => rfl
  rw [search, srcH_of hs ha, ← curOf_nil, srcX_of hs hx, commit_curOf, dstX_of hd, hcand, hm]
  dsimp only
  rw [recallErr_clean hb hsoft (writeX_keepsMarks hb hsoft ..), finish_pop_done, List.nil_append, wrote]
  cases m0 <;> rfl

theorem hrecall_of {m0 : Option (Nat × Nat)} (h0 : First (· ∈ candidates s q) m0) :
    exec (.hrecall d a b) s = wrote s [b] d (.ofNat 64 (recallKey m0)) (m0.any fun p => p.1 ≤ th.toNat) := by
  rw [exec_hrecall, execHrecall, search_of ha h hd hb hsoft (nearest2_fst h0), if_neg Bool.false_ne_true, Nat.add_zero]

theorem hrecall2_of {m0 m1 : Option (Nat × Nat)} (h0 : First (· ∈ candidates s q) m0)
    (h1 : First (fun p => p ∈ candidates s q ∧ some p ≠ m0) m1) : exec (.hrecall2 d a b) s =
      wrote s [b] d (.ofNat 64 (recallKey m0 + recallKey m1 * 2 ^ 32)) (m0.any fun p => p.1 ≤ th.toNat) := by
  rw [exec_hrecall2, execHrecall2, search_of ha h hd hb hsoft (nearest2_eq h0 h1), if_pos rfl, Nat.mul_comm]

theorem recall_empty (hnone : ∀ e ∈ List.range 256, (entry s e).valid = false) :
    exec (.hrecall d a b) s = wrote s [b] d 0xFFFF0000 false ∧ exec (.hrecall2 d a b) s = wrote s [b] d 0xFFFF0000FFFF0000 false := by
  have h0 := (describes_candidates s q).first_none hnone
  have h1 : First (fun p => p ∈ candidates s q ∧ some p ≠ none) none := fun p hp => h0 p hp.1
  rw [hrecall_of ha h hd hb hsoft h0, hrecall2_of ha h hd hb hsoft h0 h1]
  exact ⟨rfl, rfl⟩

section
variable {e : Nat} (he : Nearest s q (List.range 256) e)
include he

theorem hrecall_nearest : exec (.hrecall d a b) s =
    wrote s [b] d (.ofNat 64 (hitWord s q e)) (ones (q ^^^ (entry s e).data) ≤ th.toNat) := by
  rw [hrecall_of ha h hd hb hsoft ((describes_candidates s q).first_of_nearest he), recallKey_candidate, Option.any_some, candidate]

theorem hrecall2_nearest {m1 : Option (Nat × Nat)}
    (h1 : First (fun p => p ∈ candidates s q ∧ some p ≠ some (candidate s q e)) m1) : exec (.hrecall2 d a b) s =
      wrote s [b] d (.ofNat 64 (hitWord s q e + recallKey m1 * 2 ^ 32)) (ones (q ^^^ (entry s e).data) ≤ th.toNat) := by
  rw [hrecall2_of ha h hd hb hsoft ((describes_candidates s q).first_of_nearest he) h1, recallKey_candidate, Option.any_some, candidate]

theorem hrecall2_alone (hnone : ∀ f ∈ (List.range 256).filter (· ≠ e), (entry s f).valid = false) : exec (.hrecall2 d a b) s =
    wrote s [b] d (.ofNat 64 (hitWord s q e + 0xFFFF0000 * 2 ^ 32)) (ones (q ^^^ (entry s e).data) ≤ th.toNat) := by
  have h1 := ((describes_candidates s q).others e).first_none hnone
  rw [hrecall2_nearest ha h hd hb hsoft he h1, recallKey]

theorem hrecall2_second {f : Nat} (hf : Nearest s q ((List.range 256).filter (· ≠ e)) f) : exec (.hrecall2 d a b) s =
    wrote s [b] d (.ofNat 64 (hitWord s q e + hitWord s q f * 2 ^ 32)) (ones (q ^^^ (entry s e).data) ≤ th.toNat) := by
  have h1 := ((describes_candidates s q).others e).first_of_nearest hf
  rw [hrecall2_nearest ha h hd hb hsoft he h1, recallKey_candidate]

end

end

theorem recallWordsActOnEntries : RecallWordsActOnEntries :=
  ⟨fun _ _ _ _ _ ha h => hmst_of h ha,
    fun _ _ _ _ h hd hb hsoft => hmld_of h hd hb hsoft,
    fun _ _ _ h => hmclr_of h,
    hmclrAll_clears,
    fun s _ r he _ hf => entry_putRecall s r he hf,
    fun _ _ _ _ _ _ ha h hd hb hsoft => ⟨recall_empty ha h hd hb hsoft, fun _ he => ⟨hrecall_nearest ha h hd hb hsoft he,
      hrecall2_alone ha h hd hb hsoft he, fun _ => hrecall2_second ha h hd hb hsoft he⟩⟩⟩

/-- Settles O33: the model's fold over the valid entries keeps the first two by distance and index. -/
theorem bundleAndRecallWords : Obligations.BundleAndRecallWords := ⟨bundleWordsCount, recallWordsActOnEntries⟩

end Sys2Proof.Proofs
end

section
/-! The words that arrive at barriers and pass them (O26), and how generations end (O47). -/

namespace Sys2Proof.Proofs

open Sys2Proof Sys2Proof.Machine Sys2Proof.Safety Sys2Proof.Says Sys2Proof.Laws

/-! ## Positions and open generations -/

theorem levelIdx_eq (lv : Level) : levelIdx lv = lvIndex lv := by cases lv <;> rfl
theorem wlevelIdx_eq (lv : WLevel) : wlevelIdx lv = wireIndex lv := by cases lv <;> rfl
theorem levelIdx_dom (lv : Level) : levelIdx lv = 3 ↔ lv = .dom := by cases lv <;> decide

theorem bar_setBar (c : Ctx) {i : Nat} (p : BarPos) (h : i < 7) : (c.setBar i p).bar i = p := by
  simp [Ctx.setBar, Ctx.bar, h]

theorem setBar_x (c : Ctx) (i : Nat) (p : BarPos) : (c.setBar i p).x = c.x := by
  obtain ⟨b, hb⟩ := setBar_bars c i p
  rw [hb]

/-- The open generation that a grid finds at a level and number carries them. -/
theorem gridBar_named (g : Grid) (lv id : Nat) : (g.bar lv id).lv = lv ∧ (g.bar lv id).id = id := by
  unfold Grid.bar
  cases h : g.bars.find? fun b => b.lv == lv && b.id == id with
  | none => exact ⟨rfl, rfl⟩
  | some b => simpa using List.find?_some h

/-- A generation put under a level and number is the one found there. -/
theorem gridBar_setBar (g : Grid) {b : Bar} {lv id : Nat} (hlv : b.lv = lv) (hid : b.id = id) : (g.setBar b).bar lv id = b := by
  subst hlv hid
  have hb : (b.lv == b.lv && b.id == b.id) = true := by simp
  unfold Grid.setBar Grid.bar
  dsimp only
  split
  · next hany =>
    have hput : (fun x : Bar => x.lv == b.lv && x.id == b.id) ∘ (fun x => if x.lv == b.lv && x.id == b.id then b else x) =
        fun x => x.lv == b.lv && x.id == b.id := by
      funext x
      rw [Function.comp_apply]
      split
      · next hx => rw [hb, hx]
      · rfl
    obtain ⟨y, hy⟩ := Option.isSome_iff_exists.1 (List.find?_isSome.2 (List.any_eq_true.1 hany))
    rw [List.find?_map, hput, hy]
    exact if_pos (List.find?_some hy)
  · next hany =>
    have hnone : g.bars.find? (fun x => x.lv == b.lv && x.id == b.id) = none :=
      List.find?_eq_none.2 fun x hx hp => hany (List.any_eq_true.2 ⟨x, hx, hp⟩)
    rw [List.find?_append, hnone, List.find?_singleton, if_pos hb]
    rfl

/-! ## Arrivals -/

section
variable {s : State} {i : Nat} {kind : BarKind}

/-- What a context may do passes the checks of R272. -/
theorem barChecks_of (h : MayArrive s i kind) (code : Nat) (k : State → Bar → Res) : barChecks s i code kind k = k s (openGen s i) := by
  obtain ⟨hlate, hgone, hheld, hmem, hkind⟩ := h
  have habandon : abandonAt s.t.vt s i = s := by
    rw [abandonAt, hlate]
    rfl
  have hfind : (openGen s i).abandoned.find? (·.1 == (s.c.bar i).gen) = none :=
    List.find?_eq_none.2 fun p hp => by simpa using hgone p hp
  have hmem' : (openGen s i).members.contains (s.t.vt, s.c.id) = true := List.contains_iff_mem.2 hmem
  rw [openGen, (gridBar_named ..).2] at hkind
  rw [openGen] at hfind hheld hmem'
  simp only [barChecks, habandon, hfind, hheld, hmem', Bool.not_true, Bool.false_or]
  rcases hkind with hkind | hkind <;> rw [hkind]
  · rfl
  · simp [openGen]

theorem recordArrival_c (x : W64) (b : Bar) : (recordArrival s i kind x b).c = s.c.setBar i { s.c.bar i with arr := .waiting } := by
  unfold recordArrival
  dsimp only
  split
  · rfl
  · exact (sameButLog_c (lashEarly_same _)).trans rfl

theorem recordArrival_m (x : W64) (b : Bar) : (recordArrival s i kind x b).m = s.m := by
  unfold recordArrival
  dsimp only
  split
  · rfl
  · exact (sameButLog_m (lashEarly_same _)).trans rfl

theorem recordArrival_waits (x : W64) (b : Bar) (h : i < 7) :
    let t := recordArrival s i kind x b
    (t.c.bar i).arr = .waiting ∧ (t.c.bar i).gen = (s.c.bar i).gen ∧ t.c.x = s.c.x ∧ t.m = s.m := by
  dsimp only
  rw [recordArrival_c, recordArrival_m, bar_setBar _ _ h]
  exact ⟨rfl, rfl, setBar_x .., rfl⟩

end

/-! ## `sync` and the votes -/

section
variable {s : State} {lv : Level}

theorem resumeBar_none (h : (s.c.bar (lvIndex lv)).arr = .none) (fin : W64 → State → Res) (fresh : Res) :
    resumeBar s lv fin fresh = fresh := by
  simp only [resumeBar, levelIdx_eq, h]

theorem resumeBar_done {v : W64} (h : (s.c.bar (lvIndex lv)).arr = .done v)
    (hown : lv = .ctx → ownDelivered s s.t s.c.id (s.c.bar 6).seq = true) (fin : W64 → State → Res) (fresh : Res) :
    resumeBar s lv fin fresh = fin v (cleared s (lvIndex lv)) := by
  simp only [resumeBar, levelIdx_eq, h]
  refine if_neg ?_
  rintro ⟨rfl, hn⟩
  rw [show lvIndex .ctx = 6 from rfl, hown rfl] at hn
  cases hn

/-- At the context's own level, with everything delivered, there is nothing to wait for. -/
theorem arriveWord_ctx (h : ownDelivered s s.t s.c.id s.g.sendNext = true) (rs : List (Fin 32)) (kind : BarKind) (x : W64) (fin : State → Res) :
    arriveWord s (curOf rs) .ctx kind x fin = (fin s).pop (curOf rs) := by
  simp only [arriveWord, h, if_true, commit_curOf]

theorem finish_arriveWord (hlv : lv ≠ .ctx) {kind : BarKind} (h : MayArrive s (lvIndex lv) kind) (rs : List (Fin 32)) (x : W64)
    (fin : State → Res) : finish s (arriveWord s (curOf rs) lv kind x fin) =
      .next (blockAt (popped (recordArrival s (lvIndex lv) kind x (openGen s (lvIndex lv))) rs) (.bar lv)) := by
  rw [arriveWord, if_neg hlv, levelIdx_eq, barChecks_of h, popAll_curOf, commit_curOf]
  rfl

theorem dstArrive_of {d : Fin 32} (h : Writable s d) (k : Res) : dstArrive s d k = k := by
  unfold dstArrive
  split
  · exact dstX_of h k
  · next hd =>
    rw [Writable, if_neg (by omega), if_neg hd] at h
    obtain ⟨vt, hn, -⟩ := h
    rw [hn]

theorem exec_voteWord {p : (Level → Fin 32 → Fin 32 → Bool → Instr) × BarKind} (hp : p ∈ voteWords) (s : State) (lv : Level)
    (d a : Fin 32) (w : Bool) : exec (p.1 lv d a w) s = vote s p.2 lv d a w := by
  fin_cases hp <;> rfl

/-- A first arrival of a vote goes on with its source. -/
theorem vote_none (h : (s.c.bar (lvIndex lv)).arr = .none) {a d : Fin 32} {x : W64} (ha : One s a x) (hd : Writable s d) (kind : BarKind)
    (w : Bool) : vote s kind lv d a w = finish s (arriveWord s (curOf [a]) lv kind x fun s => putResult s d x true) := by
  obtain ⟨hs, ha⟩ := ha
  rw [vote, resumeBar_none h, ← curOf_nil, srcX_of hs ha, List.nil_append, curOf_valid, if_pos rfl, dstArrive_of hd]

theorem completedBarriersLetWordsPass : CompletedBarriersLetWordsPass := by
  refine ⟨fun s lv v h hown => ⟨?_, fun p hp d a w hd => ?_⟩, fun s h hown => ⟨?_, fun p hp d a w x ha hd => ?_⟩⟩
  · rw [exec_sync, execSync, resumeBar_done h hown, finish_done]
  · rw [exec_voteWord hp, vote, resumeBar_done h hown, dstX_of hd, finish_done]
    rfl
  · rw [exec_sync, execSync, resumeBar_none h, ← curOf_nil, arriveWord_ctx hown, finish_pop_done]
  · rw [exec_voteWord hp, vote_none h ha hd, arriveWord_ctx hown, putResult_of hd, finish_pop_done]
    rfl

end

/-! ## Wire barriers -/

section
variable {s : State} {lv : WLevel}

theorem hwbar_free (h : (s.c.bar (wireIndex lv)).arr = .none ∨ ∃ v, (s.c.bar (wireIndex lv)).arr = .done v) :
    exec (.hwbarWait lv) s = done (cleared s (wireIndex lv)) [] ∧
    (MayArrive s (wireIndex lv) .sync → exec (.hwbarArrive lv) s =
      done (recordArrival s (wireIndex lv) .sync 0 (openGen s (wireIndex lv))) []) := by
  rw [exec_hwbarWait, exec_hwbarArrive, execHwbarWait, execHwbarArrive, wlevelIdx_eq]
  rcases h with h | ⟨v, h⟩ <;> rw [h] <;>
    exact ⟨finish_done .., fun hmay => (congrArg (finish s) (barChecks_of hmay ..)).trans (finish_done ..)⟩

theorem hwbar_waits (h : (s.c.bar (wireIndex lv)).arr = .waiting) :
    exec (.hwbarWait lv) s = blocked s (.wire lv) ∧ exec (.hwbarArrive lv) s = blocked s (.wire lv) := by
  rw [exec_hwbarWait, exec_hwbarArrive, execHwbarWait, execHwbarArrive, wlevelIdx_eq, h]
  exact ⟨rfl, rfl⟩

end

theorem arrivalsAreRecorded : ArrivalsAreRecorded := by
  refine ⟨fun s lv hlv h => ⟨fun hmay => ?_, fun p hp d a w x ha hd hmay => ?_⟩, fun s lv => ⟨hwbar_free, hwbar_waits⟩,
    fun s i k x b hi => recordArrival_waits x b hi⟩
  · rw [exec_sync, execSync, resumeBar_none h, ← curOf_nil, finish_arriveWord hlv hmay, popped_nil]
  · rw [exec_voteWord hp, vote_none h ha hd, finish_arriveWord hlv hmay]

/-- Settles O26: a word resumes its arrival or makes one, and what may arrive passes the checks of R272. -/
theorem barrierWordsArriveAndPass : Obligations.BarrierWordsArriveAndPass := ⟨completedBarriersLetWordsPass, arrivalsAreRecorded⟩

/-! ## Generations -/

theorem combineVotes_eq (k : Option BarKind) (l : List W64) : combineVotes (k.getD .sync) l = match k with
    | some .voteAnd => l.foldl (· &&& ·) (BitVec.allOnes 64)
    | some .voteOr => l.foldl (· ||| ·) 0
    | some .voteAdd => l.foldl (· + ·) 0
    | _ => 0 := by
  cases k with
  | none => rfl
  | some k => cases k <;> rfl

section
variable {s : State} {lv : Level} {id : Nat}

/-- A generation that is full and not late completes, or ends the intervals of its lashed tiles first. -/
theorem barrierCompletion_full (hlv : lv ≠ .ctx)
    (hfull : allInst (levelIdx lv) (barFull true (levelIdx lv) id) (forInst (levelIdx lv) (releaseAll (levelIdx lv) id) s) = true)
    (hlate : anyLate (levelIdx lv) id (forInst (levelIdx lv) (releaseAll (levelIdx lv) id) s) = false) (remote : W64) :
    let i := levelIdx lv
    let s1 := forInst i (releaseAll i id) s
    exec (.barrierCompletion lv id remote) s =
      if allInst i (fun s => (lashOpen i id s).isEmpty) s1 = false then .next (forInst i (endIntervals i id) s1)
      else .next (completeBar i id (combineVotes ((kindOf s1 i id).getD .sync)
        (instVotes i id s1 ++ if lv = .dom ∧ groupHere s1 = false then [remote] else [])) s1) := by
  simp only [exec_barrierCompletion, execBarrierCompletion, if_neg hlv, hfull, hlate, levelIdx_dom, Bool.not_true, Bool.or_self,
    Bool.false_eq_true, if_false, Bool.not_eq_true']

end

theorem passBar_moves {c : Ctx} {i gen : Nat} (v : W64) (halting : Bool) (hi : i < 7) (h : (c.bar i).gen = gen) :
    (c.passBar i gen v halting).bar i =
      { gen := gen + 1, arr := if (c.bar i).arr = .waiting then .done v else (c.bar i).arr, after := halting } := by
  rw [Ctx.passBar, if_neg (not_not_intro h), bar_setBar _ _ hi]

/-- An abandoned generation is kept with the count of those who had arrived, and the next one opens without arrivals (R242). -/
theorem abandonBar_opens (s : State) {i : Nat} (id : Nat) (hi : i ≠ 3) :
    let b := s.g.bar i id
    let b' := (abandonBar i id s).g.bar i id
    b'.gen = b.gen + 1 ∧ b'.abandoned = b.abandoned ++ [(b.gen, arrivedCount i id s)] ∧ b'.arrivals = [] := by
  obtain ⟨hlv, hid⟩ := gridBar_named s.g i id
  have hkept (n : Nat) : (abandonHere i id n s).g.bar i id =
      { s.g.bar i id with abandoned := (s.g.bar i id).abandoned ++ [((s.g.bar i id).gen, n)] } := gridBar_setBar s.g hlv hid
  have hopen (u : State) (gen : Nat) (held : Bool) : (setBarOpen i id gen held u).g.bar i id = { u.g.bar i id with
      gen := gen, held := held, members := if held then [] else membersAt u i id, kind := none, arrivals := [] } :=
    gridBar_setBar u.g (gridBar_named u.g i id).1 (gridBar_named u.g i id).2
  simp only [abandonBar, sumInst, forInst, openBar, if_neg hi, hopen, hkept, and_self]

/-- Settles O47: the events complete or abandon the generation by their guards, and each context moves on with it. -/
theorem generationsCompleteAndTimeOut : Obligations.GenerationsCompleteAndTimeOut := by
  unfold Obligations.GenerationsCompleteAndTimeOut
  refine ⟨fun s lv id remote hlv hfull hlate => ⟨fun hopen => ?_, fun hopen => ?_⟩, fun s lv id hfull hlate => ?_,
    fun c i gen v halting hi h => ?_, fun s lv id h => ?_, fun s i id => abandonBar_opens s id⟩
  · rw [barrierCompletion_full hlv hfull hlate, if_pos hopen]
  · rw [barrierCompletion_full hlv hfull hlate, hopen, if_neg (show ¬ true = false by decide), combineVotes_eq] <;> rfl
  · rw [exec_wireBarrierCompletion, execWireBarrierCompletion, hfull, hlate]
    rfl
  · dsimp only
    rw [passBar_moves v halting hi h]
    exact ⟨rfl, rfl, fun hw => if_pos hw⟩
  · obtain ⟨i, l, hl⟩ := List.exists_cons_of_ne_nil h
    rw [exec_barrierTimeout, execBarrierTimeout, hl]

end Sys2Proof.Proofs
end

section
/-! The words of work records (O40). -/

namespace Sys2Proof.Proofs

open Sys2Proof Sys2Proof.Machine Sys2Proof.Safety Sys2Proof.Says Sys2Proof.Laws

/-! ## Sending -/

section
variable {s : State}

/-- The payload registers are read one after the other. -/
theorem examPayload_of (hs : Sound s) {field r n : Nat} {l : List W64} (h : Payload s r n l) (rs : List (Fin 32)) (acc : List W64)
    (k : List W64 → Cur → Res) : examPayload s field n r (curOf rs) acc k = k (acc ++ l) (curOf rs) := by
  induction n generalizing r l acc with
  | zero => rw [List.length_eq_zero_iff.1 h.1, List.append_nil, examPayload]
  | succ n ih =>
    obtain ⟨hlen, hr, hval⟩ := h
    obtain ⟨x, l, rfl⟩ := List.exists_cons_of_length_eq_add_one hlen
    have hlow : (Fin.ofNat 32 r).val < 28 := by
      rw [Fin.val_ofNat, Nat.mod_eq_of_lt] <;> omega
    have hrest : Payload s (r + 1) n l :=
      ⟨by simpa using hlen, by omega, fun i hi => by simpa [Nat.add_assoc, Nat.add_comm 1] using hval (i + 1) (by omega)⟩
    rw [examPayload, srcX_low hs hlow (hval 0 (by omega))]
    exact (ih hrest (acc ++ [x])).trans (by rw [List.append_assoc]; rfl)

theorem routeCls_eq (rt : W64) : routeCls rt = rt.toNat / 2 ^ 24 % 16 := rfl
theorem routeDst_eq (rt : W64) : routeDst rt = rt.toNat % 2 ^ 24 := by simp [routeDst, bits]

theorem routeChecks_of {rt : W64} {cls dst : Nat} (h : Routed s rt cls dst) {words : Bool} (hw : words = true → (s.g.cls cls).words ≠ 0)
    (k : Res) : routeChecks s rt words k = k := by
  obtain ⟨rfl, rfl, hdecl, hhas⟩ := h
  have hw' : (words && (s.g.cls (rt.toNat / 2 ^ 24 % 16)).words == 0) = false := by
    cases words with
    | false => rfl
    | true => simpa using hw rfl
  simp only [routeChecks, routeCls_eq, routeDst_eq, hdecl, hhas, hw', Bool.not_true, Bool.or_self, Bool.false_eq_true, if_false]

/-- An NI with room takes the record, where the parked queue of an absent gang has room too (R248, R262). -/
theorem niRoom_free (h : niCount s.t < 8) (dst : Nat) (r : Rec) (k : Res) : niRoom s dst r k =
    if parkRoom s.g dst (.record r) then k else .wait s (.parkFull (s.g.gangOf dst).1 (s.g.gangOf dst).2) := by
  rw [niRoom, if_neg (Nat.not_le.2 h)]
  cases parkRoom s.g dst (.record r) <;> rfl

theorem niRoom_full (h : 8 ≤ niCount s.t) (dst : Nat) (r : Rec) (k : Res) : niRoom s dst r k = .wait s .ni := if_pos h

section
variable {b d : Fin 32} {key rt : W64} {l : List W64} (h : Two s b d key rt) (hp : Payload s 8 (s.g.cls (rt.toNat / 2 ^ 24 % 16)).words l)
include h hp

/-- With its sources there `wput` checks its route. -/
theorem wput_sources (w : Bool) : exec (.wput d b w) s = finish s ((routeChecks s rt false
    (niRoom s (routeDst rt) ⟨routeCls rt, key, l⟩ (.done (niTake s (routeDst rt) ⟨routeCls rt, key, l⟩)))).pop (curOf [b, d])) := by
  obtain ⟨hs, hb, hd⟩ := h
  rw [exec_wput, execWput, ← curOf_nil, srcX_of hs hb, List.nil_append, srcX_of hs hd, List.cons_append, List.nil_append, routeCls_eq,
    examPayload_of hs hp, commit_curOf]
  rfl

theorem wput_undeclared (w : Bool) (hdecl : (s.g.cls (rt.toNat / 2 ^ 24 % 16)).decl = false) :
    exec (.wput d b w) s = trapped s .access rt 2 := by
  rw [wput_sources h hp, routeChecks, routeCls_eq, hdecl]
  exact finish_pop_trap _ _ _ _ _ _ (by decide)

theorem wput_outside (w : Bool) (hdecl : (s.g.cls (rt.toNat / 2 ^ 24 % 16)).decl = true) (hhas : s.g.has (rt.toNat % 2 ^ 24) = false) :
    exec (.wput d b w) s = trapped s .access rt 1 := by
  rw [wput_sources h hp, routeChecks, routeCls_eq, routeDst_eq, hdecl, hhas]
  exact finish_pop_trap _ _ _ _ _ _ (by decide)

end

section
variable {d a b : Fin 32} {ea key rt : W64} {cls dst n : Nat} {l : List W64} {s' : State} {ps : List Piece} {z : MSz}

theorem wput_full (h : Two s b d key rt) (hr : Routed s rt cls dst) (hp : Payload s 8 (s.g.cls cls).words l) (w : Bool)
    (hn : 8 ≤ niCount s.t) : exec (.wput d b w) s = blocked s .ni := by
  rw [wput_sources h (hr.1 ▸ hp), routeChecks_of hr (by simp), niRoom_full hn, finish_pop_wait]

theorem wput_free (h : Two s b d key rt) (hr : Routed s rt cls dst) (hp : Payload s 8 (s.g.cls cls).words l) (w : Bool)
    (hn : niCount s.t < 8) : exec (.wput d b w) s =
      if parkRoom s.g dst (.record ⟨cls, key, l⟩) then done (niTake s dst ⟨cls, key, l⟩) [b, d]
      else blocked s (.parkFull (s.g.gangOf dst).1 (s.g.gangOf dst).2) := by
  rw [wput_sources h (hr.1 ▸ hp), routeChecks_of hr (by simp), niRoom_free hn, routeCls_eq, routeDst_eq, ← hr.1, ← hr.2.1]
  split
  · exact finish_pop_done ..
  · exact finish_pop_wait ..

variable (h : Two s a b ea key) (hd : scalar s [a, b] d = some (rt, true)) (hr : Routed s rt cls dst) (hw : (s.g.cls cls).words ≠ 0)
  (hp : Payload s 9 ((s.g.cls cls).words - 1) l) (hz : MSz.bytes z = n) (hst : Starts s ea n n .load .load s' ps)
include h hd hr hw hp hz hst

/-- With its sources there and its address checked, `ldk` reserves the record's place and commits its load. -/
theorem ldk_sources (wa wb : Bool) : exec (.ldk z d a b wa wb) s = finish s ((niRoom s' dst ⟨cls, key, 0 :: l⟩ <| .done (niReserve
    (committed s' { kind := .ldk s'.t.niNext, va := ea, size := n, pieces := ps }) ea dst ⟨cls, key, 0 :: l⟩)).pop (curOf [a, b, d])) := by
  obtain ⟨hs, ha, hb⟩ := h
  have hp' : Payload s 9 ((s.g.cls (routeCls rt)).words - 1) l := by rwa [routeCls_eq, ← hr.1]
  rw [exec_ldk, execLdk, ← curOf_nil, srcX_of hs ha, List.nil_append, srcX_of hs hb, List.cons_append, List.nil_append, srcX_of hs hd,
    List.cons_append, List.cons_append, List.nil_append, examPayload_of hs hp', commit_curOf, routeChecks_of hr fun _ => hw, hz, checkAddr_starts hst,
    startAcc_of hst _ rfl rfl, routeCls_eq, routeDst_eq, ← hr.1, ← hr.2.1]
  rfl

theorem ldk_full (wa wb : Bool) (hn : 8 ≤ niCount s'.t) : exec (.ldk z d a b wa wb) s = blocked s' .ni := by
  rw [ldk_sources h hd hr hw hp hz hst, niRoom_full hn, finish_pop_wait]

theorem ldk_free (wa wb : Bool) (hn : niCount s'.t < 8) (hroom : parkRoom s'.g dst (.record ⟨cls, key, 0 :: l⟩) = true) :
    exec (.ldk z d a b wa wb) s = done (niReserve
      (committed s' { kind := .ldk s'.t.niNext, va := ea, size := n, pieces := ps }) ea dst ⟨cls, key, 0 :: l⟩) [a, b, d] := by
  rw [ldk_sources h hd hr hw hp hz hst, niRoom_free hn, if_pos hroom, finish_pop_done]

end

end

/-! ## Taking -/

section
variable {s : State}

theorem writable_register {d : Fin 32} (hd : d.val < 28) (h : s.c.x[d].tag ≠ .awaiting) : Writable s d := by
  unfold Writable
  split
  · trivial
  · exact h

theorem dstAll_of {l : List Nat} (h : ∀ r ∈ l, Writable s (Fin.ofNat 32 r)) (k : Res) : dstAll s l k = k := by
  induction l with
  | nil => rfl
  | cons r l ih =>
    rw [dstAll, dstX_of (h r List.mem_cons_self)]
    exact ih fun q hq => h q (List.mem_cons_of_mem _ hq)

/-- The registers of a record, and `x1`, can be written. -/
theorem recordReady_writable (h : RecordReady s) {r : Nat} (hr : (6 ≤ r ∧ r < 24) ∨ r = 1) : Writable s (Fin.ofNat 32 r) := by
  have hv : (Fin.ofNat 32 r).val = r := by
    rw [Fin.val_ofNat, Nat.mod_eq_of_lt]
    omega
  exact writable_register (by omega) (h _ (by rwa [hv]))

theorem recordRegs_range {r : Nat} (hr : r ∈ [6, 7] ++ (List.range 16).map (· + 8)) : 6 ≤ r ∧ r < 24 := by
  simp only [List.mem_append, List.mem_cons, List.not_mem_nil, or_false, List.mem_map, List.mem_range] at hr
  rcases hr with (rfl | rfl) | ⟨i, hi, rfl⟩ <;> omega

theorem exec_wwait_of (h : RecordReady s) : exec .wwait s = finish s (match s.c.recv with
    | none => awaitRecord s
    | some (_, key, l, m) => soundRecord s (.done (takeRecord s key m l))) := by
  rw [exec_wwait, execWwait, dstAll_of fun r hr => recordReady_writable h (.inl (recordRegs_range hr))] <;> rfl

theorem exec_wdisp_of (h : RecordReady s) : exec .wdisp s = finish s (match s.c.recv with
    | none => awaitRecord s
    | some (cls, key, l, m) => soundRecord s (.jump (writeX (takeRecord s key m l) 1 (link s) true) (s.g.cls cls).handler)) := by
  rw [exec_wdisp, execWdisp, dstAll_of fun r hr => recordReady_writable h ?_]
  · rfl
  · rcases List.mem_append.1 hr with hr | hr
    · exact .inl (recordRegs_range hr)
    · exact .inr (List.mem_singleton.1 hr)

theorem soundRecord_of (h : s.c.recvBad = false) (k : Res) : soundRecord s k = k := if_neg (by simp [h])

/-- A record that an error has spoilt traps, where the superstep is not repeated (R384, log 42). -/
theorem finish_soundRecord (h : s.c.recvBad = true) (hr : s.repeatable = false) (k : Res) : finish s (soundRecord s k) =
    trapped s .uncorr (.ofNat 64 (0xFF20000000C10000 + s.t.vt * 2 ^ 24)) 5 := by
  have htval : 0xFF20000000000000 + s.t.vt * 2 ^ 24 + 0xC10000 = 0xFF20000000C10000 + s.t.vt * 2 ^ 24 := by omega
  simp only [soundRecord, h, if_true, htval, finish, trapWord, hr, Bool.false_eq_true, and_false, if_false]
  rfl

theorem recordWords_none (h : RecordReady s) (hn : s.c.recv = none) :
    let await := .next (blockAt { s with t := { s.t with
      recWait := if s.t.recWait.contains s.c.id then s.t.recWait else s.t.recWait ++ [s.c.id] } } .record)
    exec .wwait s = await ∧ exec .wdisp s = await := by
  rw [exec_wwait_of h, exec_wdisp_of h, hn]
  exact ⟨rfl, rfl⟩

theorem recordWords_spoilt (h : RecordReady s) (hn : s.c.recv ≠ none) (hb : s.c.recvBad = true) (hr : s.repeatable = false) :
    ∀ i ∈ [Instr.wwait, .wdisp], exec i s = trapped s .uncorr (.ofNat 64 (0xFF20000000C10000 + s.t.vt * 2 ^ 24)) 5 := by
  obtain ⟨⟨cls, key, l, m⟩, hrec⟩ := Option.ne_none_iff_exists'.1 hn
  simp only [List.forall_mem_cons, List.not_mem_nil, false_imp_iff, implies_true, and_true]
  rw [exec_wwait_of h, exec_wdisp_of h, hrec]
  exact ⟨finish_soundRecord hb hr _, finish_soundRecord hb hr _⟩

theorem recordWords_take (h : RecordReady s) {cls : Nat} {key m : W64} {l : List W64} (hrec : s.c.recv = some (cls, key, l, m))
    (hb : s.c.recvBad = false) : exec .wwait s = done (takeRecord s key m l) [] ∧
      exec .wdisp s = jumped (writeX (takeRecord s key m l) 1 (link s) true) [] (s.g.cls cls).handler := by
  rw [exec_wwait_of h, exec_wdisp_of h, hrec]
  dsimp only
  rw [soundRecord_of hb, soundRecord_of hb]
  exact ⟨finish_done .., finish_jump ..⟩

end

/-! ## The registers of a record -/

/-- The scalar registers of the context have become `xs`, and what counts for its records stays. -/
def PutsX (s t : State) (xs : Vector XReg 32) : Prop := t.c = { s.c with x := xs } ∧ t.m = s.m ∧ t.t.inhand = s.t.inhand

theorem putsX_trans {s t u : State} {xs ys : Vector XReg 32} (h : PutsX s t xs) (k : PutsX t u ys) : PutsX s u ys := by
  obtain ⟨hc, hm, hi⟩ := h
  obtain ⟨kc, km, ki⟩ := k
  exact ⟨by rw [kc, hc], km.trans hm, ki.trans hi⟩

theorem sameButLog_inhand {s t : State} (h : SameButLog s t) : t.t.inhand = s.t.inhand := by
  obtain ⟨l, f, p, q, n, b, rfl⟩ := h
  rfl

theorem heal_inhand (t : Tile) (src o n : Nat) : (t.heal src o n).inhand = t.inhand := by
  unfold Tile.heal
  split <;> rfl

theorem writeX_puts (s : State) {d : Fin 32} (x : W64) (v : Bool) (h0 : d.val ≠ 0) (h : d.val < 28) :
    PutsX s (writeX s d x v) (s.c.x.set d ⟨x, .full, v⟩) := by
  rw [writeX_register s x v h0 h]
  have same := absorb_same ((healReg s (8 * d.val) 8).setX d ⟨x, .full, v⟩) s.c.id d.val (bytesOf 8 x.toNat)
    (2 * (Tag.full).isFull.toNat + v.toNat)
  exact ⟨sameButLog_c same, (sameButLog_m same).trans rfl, (sameButLog_inhand same).trans (heal_inhand ..)⟩

theorem getElem_set_fin {α : Type} (xs : Vector α 32) (d j : Fin 32) (x : α) : (xs.set d x)[j] = if d = j then x else xs[j] := by
  simp only [Fin.getElem_fin, Vector.getElem_set, Fin.ext_iff]

/-- Lanes go into registers that follow one another. -/
theorem writeLanes_puts (l : List W64) {r : Nat} (h0 : 0 < r) (h : r + l.length ≤ 28) (s : State) :
    ∃ xs, PutsX s (writeLanes s r l) xs ∧ (∀ i < l.length, ∀ j : Fin 32, j.val = r + i → xs[j] = ⟨l.getD i 0, .full, true⟩) ∧
      ∀ j : Fin 32, j.val < r ∨ r + l.length ≤ j.val → xs[j] = s.c.x[j] := by
  induction l generalizing r s with
  | nil => exact ⟨s.c.x, ⟨rfl, rfl, rfl⟩, fun i hi => absurd hi (Nat.not_lt_zero i), fun _ _ => rfl⟩
  | cons x l ih =>
    rw [List.length_cons] at h
    have hr : (Fin.ofNat 32 r).val = r := by
      rw [Fin.val_ofNat, Nat.mod_eq_of_lt]
      omega
    have hfirst := writeX_puts s x true (d := Fin.ofNat 32 r) (by omega) (by omega)
    obtain ⟨xs, hrest, hin, hout⟩ := ih (Nat.succ_pos r) (by omega) (writeX s (Fin.ofNat 32 r) x true)
    rw [hfirst.1] at hout
    refine ⟨xs, putsX_trans hfirst hrest, fun i hi j hj => ?_, fun j hj => ?_⟩
    · cases i with
      | zero => rw [hout j (.inl (by omega)), getElem_set_fin, if_pos (Fin.ext (by omega)), List.getD_cons_zero]
      | succ i => rw [List.getD_cons_succ, hin i (by simpa using hi) j (by omega)]
    · rw [List.length_cons] at hj
      have hne : Fin.ofNat 32 r ≠ j := fun hc => by rw [← hc, hr] at hj; omega
      rw [hout j (by omega), getElem_set_fin, if_neg hne]

/-- The context has the record in hand, before its registers are written. -/
def inHand (s : State) : State :=
  { s with c := { s.c with recv := none, recvBad := false }
           t := { s.t with inhand := if s.t.inhand = 0xFFFF then 0xFFFF else s.t.inhand + 1 } }

theorem takeRecord_eq (s : State) (key m : W64) (l : List W64) :
    takeRecord s key m l = writeLanes (writeX (writeX (inHand s) 6 m true) 7 key true) 8 l := rfl

theorem takeRecord_puts (s : State) (key m : W64) (l : List W64) (h : l.length ≤ 16) :
    let t := takeRecord s key m l
    t.c.recv = none ∧ t.c.recvBad = false ∧ t.t.inhand = (if s.t.inhand = 0xFFFF then 0xFFFF else s.t.inhand + 1) ∧
    t.c.x[(6 : Fin 32)] = ⟨m, .full, true⟩ ∧ t.c.x[(7 : Fin 32)] = ⟨key, .full, true⟩ ∧
    (∀ i < l.length, t.c.x[Fin.ofNat 32 (8 + i)] = ⟨l.getD i 0, .full, true⟩) ∧
    (∀ r : Fin 32, r.val < 6 ∨ 8 + l.length ≤ r.val → t.c.x[r] = s.c.x[r]) ∧ t.m = s.m := by
  have h6 := writeX_puts (inHand s) m true (d := 6) (by decide) (by decide)
  have h7 := writeX_puts (writeX (inHand s) 6 m true) key true (d := 7) (by decide) (by decide)
  obtain ⟨xs, h8, hin, hout⟩ := writeLanes_puts l (r := 8) (by decide) (by omega) (writeX (writeX (inHand s) 6 m true) 7 key true)
  obtain ⟨hc, hm, hi⟩ := putsX_trans h6 (putsX_trans h7 h8)
  have hkeep (j : Fin 32) (hj : j.val < 8 ∨ 8 + l.length ≤ j.val) : xs[j] =
      if 7 = j then ⟨key, .full, true⟩ else if 6 = j then ⟨m, .full, true⟩ else s.c.x[j] := by
    rw [hout j hj, h7.1, getElem_set_fin, h6.1, getElem_set_fin]
    rfl
  dsimp only
  rw [takeRecord_eq, hc, hm, hi]
  refine ⟨rfl, rfl, rfl, hkeep 6 (.inl (by decide)), hkeep 7 (.inl (by decide)), fun i hi => hin i hi _ (Nat.mod_eq_of_lt (by omega)),
    fun r hr => ?_, rfl⟩
  have h7r : (7 : Fin 32) ≠ r := Fin.ne_of_val_ne (by omega)
  have h6r : (6 : Fin 32) ≠ r := Fin.ne_of_val_ne (by omega)
  show xs[r] = _
  rw [hkeep r (by omega), if_neg h7r, if_neg h6r]

theorem wdone_of (s : State) : exec .wdone s =
    done { s with t := { s.t with inhand := if s.t.inhand = 0 then 0 else s.t.inhand - 1 } } [] := by
  rw [exec_wdone, execWdone, finish_done]

/-- Settles O40: with their sources there the sending words check route, address and room in turn, and the taking words go by what the
dispatch event has delivered. -/
theorem recordWordsSendAndTake : Obligations.RecordWordsSendAndTake :=
  ⟨fun _ _ _ w _ _ _ _ _ h hr hp => ⟨wput_full h hr hp w, wput_free h hr hp w⟩,
    fun _ _ _ w _ _ _ h hp => ⟨wput_undeclared h hp w, wput_outside h hp w⟩,
    fun _ hz _ _ _ _ _ wa wb _ _ _ _ _ _ _ h hd hr hw hp hst =>
      ⟨ldk_full h hd hr hw hp (sizes_bytes hz) hst wa wb, ldk_free h hd hr hw hp (sizes_bytes hz) hst wa wb⟩,
    fun _ h => ⟨recordWords_none h, recordWords_spoilt h, fun _ _ _ _ => recordWords_take h⟩, wdone_of, takeRecord_puts⟩

end Sys2Proof.Proofs
end

section
/-! The Xdk words of a helper core, and its `ecall` (O41). -/

namespace Sys2Proof.Proofs

open Sys2Proof Sys2Proof.Machine Sys2Proof.Safety Sys2Proof.Says Sys2Proof.Laws

section
variable {s : State}

/-! ## The core in focus -/

theorem setHelper_helper (s : State) (h : Helper) : (s.setHelper h).helper = h := by
  unfold State.setHelper
  split
  · next hs => exact if_pos hs
  · next hs => exact if_neg hs

theorem setHelper_self (s : State) : s.setHelper s.helper = s := by
  unfold State.setHelper State.helper
  split <;> rfl

/-- A change of the core in focus leaves everything outside it. -/
theorem setHelper_rest (s : State) (h : Helper) : (s.setHelper h).hrole = s.hrole ∧ (s.setHelper h).t.asm = s.t.asm ∧
    (s.setHelper h).g = s.g ∧ (s.setHelper h).c = s.c ∧ (s.setHelper h).m = s.m ∧ (s.setHelper h).tiles = s.tiles := by
  unfold State.setHelper
  split <;> exact ⟨rfl, rfl, rfl, rfl, rfl, rfl⟩

theorem setHelper_posted_nil (h : s.helper.posted = []) : s.setHelper { s.helper with posted := [] } = s := by
  have heq : { s.helper with posted := [] } = s.helper := by rw [← h]
  rw [heq, setHelper_self]

theorem hFinish_hNext (s : State) : hFinish (hNext s) = hDone s (s.helper.pc + 4) := rfl
theorem hFinish_hPut (s : State) (rd : Fin 32) (v : W64) : hFinish (hPut s rd v) = hWrote s rd v := rfl
theorem hFinish_wait (s : State) : hFinish (.wait s) = hWaits s := rfl
theorem hFinish_trap (s : State) (code : Nat) (tval : W64) : hFinish (.trap s code tval) = hTrapped s code tval := rfl

/-! ## Releases -/

/-- With nothing posted, a release goes on where each store under way is dropped for the agent that the schedule names, and the tile
gates nothing of the core or an agent is named (R288, R289). -/
theorem hRelease_of (h : s.helper.posted = []) (sc : Nat) (k : State → HRes) : hRelease s sc k =
    if (s.storesOf s.t.vt s.hrole).all (fun m => s.drops (hAway s sc) (m.body.writes.map fun w => ⟨.tile m.dst w.1, w.2.length, 0⟩))
        && (s.g.belay != 0 || (hAway s sc).isSome || !s.t.gatesGlob s.hrole) then k s
    else .wait (if s.t.lash.gated = [] then s else { s with t := { s.t with lash := { s.t.lash with due := true } } }) := by
  unfold hRelease
  rw [h]
  simp only [splitPosts, List.foldl_nil, setHelper_posted_nil h]

theorem hRelease_quiet (h : HQuiet s) (sc : Nat) (k : State → HRes) : hRelease s sc k = k s := by
  obtain ⟨hp, hst, hg⟩ := h
  rw [hRelease_of hp, hst, hg]
  simp

theorem hRelease_free {sc : Nat} (h : HFree s sc) (k : State → HRes) : hRelease s sc k = k s := by
  obtain ⟨hp, x, hx, hall⟩ := h
  have hdrops : (s.storesOf s.t.vt s.hrole).all
      (fun m => s.drops (hAway s sc) (m.body.writes.map fun w => ⟨.tile m.dst w.1, w.2.length, 0⟩)) = true :=
    List.all_eq_true.2 fun m hm => by
      rw [hx]
      exact hall m hm
  rw [hRelease_of hp, hdrops, hx]
  simp

theorem hRelease_held {sc : Nat} (h : HHeld s sc) (k : State → HRes) : hRelease s sc k = .wait s := by
  obtain ⟨haway, hp, hst, hg⟩ := h
  obtain ⟨m, l, hl⟩ := List.exists_cons_of_ne_nil hst
  rw [hRelease_of hp, hl, haway, hg]
  rfl

/-! ## Stream units and events -/

theorem stream_fin (x : Ctx) (p : Fin 4) : x.stream p.val = x.qin[p] := by simp [Ctx.stream, List.getD]

theorem setStream_fin (x : Ctx) (p : Fin 4) (l : List W64) : x.setStream p.val l = { x with qin := x.qin.set p l } := dif_pos p.isLt

section
variable {c : Fin 4} {x : Ctx} (hx : s.ctx? s.t.vt c.val = some x)
include hx

theorem dkQput_room (p : Fin 4) (r : Fin 32) (h : (x.qin[p]).length < streamCap) : exec (.dkQput c p r) s =
    hFinish (hRelease s 1 fun s' => hNext (s'.mapCtx s'.t.vt c.val fun x => x.setStream p.val (x.stream p.val ++ [s.helper.get r]))) := by
  rw [exec_dkQput, execDkQput, hx]
  dsimp only
  rw [stream_fin, if_neg (Nat.not_le.2 h)]

theorem dkQput_full (p : Fin 4) (r : Fin 32) (h : streamCap ≤ (x.qin[p]).length) : exec (.dkQput c p r) s = hWaits s := by
  rw [exec_dkQput, execDkQput, hx]
  dsimp only
  rw [stream_fin, if_pos h, hFinish_wait]

theorem dkQput_of (p : Fin 4) (r : Fin 32) :
    ((x.qin[p]).length < streamCap → HQuiet s ∨ HFree s 1 →
      let t := s.mapCtx s.t.vt c.val fun x => { x with qin := x.qin.set p (x.qin[p] ++ [s.helper.get r]) }
      exec (.dkQput c p r) s = hDone t (t.helper.pc + 4)) ∧
    (streamCap ≤ (x.qin[p]).length ∨ HHeld s 1 → exec (.dkQput c p r) s = hWaits s) := by
  refine ⟨fun hroom hfree => ?_, fun h => ?_⟩
  · rw [dkQput_room hx p r hroom]
    have hgo (k : State → HRes) : hRelease s 1 k = k s := hfree.elim (hRelease_quiet · 1 k) (hRelease_free · k)
    rw [hgo, hFinish_hNext]
    simp only [stream_fin, setStream_fin]
  · rcases Nat.lt_or_ge (x.qin[p]).length streamCap with hroom | hfull
    · rw [dkQput_room hx p r hroom, hRelease_held (h.resolve_left (Nat.not_le.2 hroom)), hFinish_wait]
    · exact dkQput_full hx p r hfull

theorem dkQget_take (rd : Fin 32) {v : W64} {l : List W64} (h : x.qout = v :: l) : exec (.dkQget c rd) s =
    hWrote (s.mapCtx s.t.vt c.val fun x => { x with qout := x.qout.drop 1 }) rd v := by
  simp only [exec_dkQget, execDkQget, hx, h]
  rfl

theorem dkQget_empty (rd : Fin 32) (h : x.qout = []) : exec (.dkQget c rd) s = hWaits s := by
  simp only [exec_dkQget, execDkQget, hx, h]
  rfl

end

theorem helperStreamWords : HelperStreamWords := fun _ _ _ hx =>
  ⟨fun p r => dkQput_of hx p r, fun rd _ _ h => dkQget_take hx rd h, fun rd h => dkQget_empty hx rd h⟩

theorem helperEventWords : HelperEventWords := by
  refine ⟨fun s n r rd => ?_, fun s => ⟨rfl, ?_⟩, fun s r => ?_, fun s n rd => rfl⟩
  · rw [exec_dkWcnt, execDkWcnt]
    dsimp only
    rcases Nat.lt_or_ge (s.helper.cnt[n]).toNat (s.helper.get r).toNat with h | h
    · rw [if_pos h, if_neg (Nat.not_le.2 h), hFinish_wait]
    · rw [if_neg (Nat.not_lt.2 h), if_pos h, hFinish_hPut]
  · rw [exec_dkWfe, execDkWfe]
    split
    · rw [hFinish_hNext, setHelper_helper]
    · rfl
  · rw [exec_dkWfeWatch, execDkWfeWatch]
    dsimp only
    split
    · rw [hFinish_hNext, setHelper_helper]
      rfl
    · rfl

/-! ## Commands -/

theorem helperCommandsArePushed : HelperCommandsArePushed := by
  intro s q r1 r2
  dsimp only
  have hrel : bits (s.t.hdrOf s.hrole q.val (s.helper.get r1)) 48 1 = s.t.hdrOf s.hrole q.val (s.helper.get r1) / 2 ^ 48 % 2 := rfl
  rw [exec_dkEcmd, execDkEcmd]
  dsimp only
  refine ⟨fun hn => ?_, fun n hn => ⟨fun hfull => ?_, fun hroom hfree => ?_, fun hroom hr hheld => ?_⟩⟩ <;> rw [hn]
  · rfl
  · dsimp only
    rw [if_pos hfull, hFinish_wait]
  · dsimp only
    rw [if_neg (Nat.not_lt.2 hroom), hrel]
    split
    · next hr =>
      rcases hfree with hnr | hq | hf
      · exact absurd hr hnr
      · rw [hRelease_quiet hq, hFinish_hNext]
      · rw [hRelease_free hf, hFinish_hNext]
    · rfl
  · dsimp only
    rw [if_neg (Nat.not_lt.2 hroom), hrel, if_pos hr, hRelease_held hheld, hFinish_wait]

/-! ## Records -/

section
variable {a : W64} {n : Nat} {k : State → List W64 → HRes}

theorem hImage_bad (h : a.toNat % 8 ≠ 0 ∨ (¬ Own a (8 * n) ∧ ¬ (0xFFF1000000000000 ≤ a.toNat ∧ a.toNat + 8 * n ≤ 0xFFF1000000004000))) :
    hImage s a n k = .trap s 5 a := by
  unfold hImage
  by_cases ha : a.toNat % 8 ≠ 0
  · exact if_pos ha
  · obtain ⟨hown, hd⟩ := h.resolve_left ha
    dsimp only
    rw [if_neg ha, if_neg (show ¬ (dBase ≤ a.toNat ∧ a.toNat + 8 * n ≤ dBase + 0x4000) from hd),
      if_neg (show ¬ (spBase ≤ a.toNat ∧ a.toNat + 8 * n ≤ spBase + spSize) from hown)]
    rfl

theorem hImage_of (hb : s.t.bad = []) (hs : s.t.soft = []) (ha : a.toNat % 8 = 0) {bs : List Byte} (h : ImageAt s a (8 * n) bs) :
    hImage s a n k = k s (bytesUnits bs) := by
  have hbad (src o m : Nat) : s.t.badRange src o m = false := by simp [Tile.badRange, hb]
  have hclean (t : Tile) (ht : s.tile? s.t.vt = some t) : t.soft = [] := by
    simp only [State.tile?, if_true, Option.some.injEq] at ht
    exact ht ▸ hs
  unfold hImage
  dsimp only
  rw [if_neg (by omega)]
  rcases h with ⟨h1, h2, rfl⟩ | ⟨hown, hq, hm, rfl⟩
  · rw [if_pos (show dBase ≤ a.toNat ∧ a.toNat + 8 * n ≤ dBase + 0x4000 from ⟨h1, h2⟩), hbad, repairMarks_clean _ _ _ hclean]
    rfl
  · have hd : ¬ (dBase ≤ a.toNat ∧ a.toNat + 8 * n ≤ dBase + 0x4000) := by
      have := hown.2
      unfold dBase
      omega
    have hsettle (ps : List Piece) : hSettle s ps = s := by
      rw [hSettle, hq.1]
      rfl
    rw [if_neg hd, if_pos (show spBase ≤ a.toNat ∧ a.toNat + 8 * n ≤ spBase + spSize from hown), hm, hbad, hsettle, correctPiece_clean hs]
    rfl

end

theorem dkWput_bad (r1 r2 : Fin 32)
    (h : (s.g.cls ((s.helper.get r1).toNat / 2 ^ 24 % 16)).decl = false ∨ s.g.has ((s.helper.get r1).toNat % 2 ^ 24) = false) :
    exec (.dkWput r1 r2) s = hTrapped s 7 (s.helper.get r1) := by
  rw [exec_dkWput, execDkWput]
  dsimp only
  rw [routeCls_eq, routeDst_eq, if_pos (by simpa using h), hFinish_trap]
  rfl

/-- With a good route `dk.wput` reads its image. -/
theorem dkWput_routed {r1 r2 : Fin 32} {cls dst : Nat} (h : Routed s (s.helper.get r1) cls dst) : exec (.dkWput r1 r2) s =
    hFinish (hImage s (s.helper.get r2) ((s.g.cls cls).words + 1) fun s l =>
      if 8 ≤ niCount s.t || !parkRoom s.g dst (.record ⟨cls, l.headD 0, l.drop 1⟩) then .wait s
      else hNext (asBefore (niTake (asSender s) dst ⟨cls, l.headD 0, l.drop 1⟩) s.c)) := by
  obtain ⟨hcls, hdst, hdecl, hhas⟩ := h
  rw [exec_dkWput, execDkWput]
  dsimp only
  rw [routeCls_eq, routeDst_eq, ← hcls, ← hdst, hdecl, hhas]
  rfl

theorem helperRecordsAreSent : HelperRecordsAreSent := by
  intro s r1 r2 hb hs
  dsimp only
  refine ⟨dkWput_bad r1 r2, fun cls dst hr => ⟨fun h => ?_, fun bs ha h => ?_⟩⟩
  · rw [dkWput_routed hr, hImage_bad h, hFinish_trap]
  · rw [dkWput_routed hr, hImage_of hb hs ha h]
    by_cases hroom : niCount s.t < 8 ∧ parkRoom s.g dst (.record ⟨cls, (bytesUnits bs).headD 0, (bytesUnits bs).drop 1⟩) = true
    · rw [if_pos hroom, if_neg (by simpa using hroom), hFinish_hNext]
    · rw [if_neg hroom, if_pos (by simpa [← not_and_or, Nat.not_lt] using not_and_or.1 hroom), hFinish_wait]

/-! ## The end of a core -/

/-- The core in focus after an instruction (R337). -/
def retiredHelper (h : Helper) (pc : W64) : Helper :=
  { h with pc := pc, retired := h.retired + 1, waiting := false, stall := none, denial := none, slow := false, outside := none
           csr := { h.csr with minstret := h.csr.minstret + 1 } }

theorem hRetire_same (s : State) (pc : W64) : SameButLog (s.setHelper (retiredHelper s.helper pc)) (hRetire s pc) := countBundle_same ..

theorem sameButLog_helper {s t : State} (h : SameButLog s t) : t.helper = s.helper ∧ t.hrole = s.hrole ∧ t.t.asm = s.t.asm ∧
    t.g.cmdDrop = s.g.cmdDrop ∧ t.g.recDrop = s.g.recDrop := by
  obtain ⟨l, f, p, q, n, b, rfl⟩ := h
  exact ⟨rfl, rfl, rfl, rfl, rfl⟩

/-- What retiring leaves to the end of the core. -/
theorem hRetire_keeps (s : State) (pc : W64) :
    let u := hRetire s pc
    (u.helper = retiredHelper s.helper pc ∧ u.hrole = s.hrole ∧ u.t.asm = s.t.asm) ∧
    (u.g.cmdDrop = s.g.cmdDrop ∧ u.g.recDrop = s.g.recDrop) ∧ u.c = s.c ∧ u.m = s.m ∧ u.tiles = s.tiles := by
  have same := hRetire_same s pc
  obtain ⟨hh, hr, ha, hcmd, hrec⟩ := sameButLog_helper same
  obtain ⟨kr, ka, kg, kc, km, kt⟩ := setHelper_rest s (retiredHelper s.helper pc)
  rw [kg] at hcmd hrec
  exact ⟨⟨hh.trans (setHelper_helper ..), hr.trans kr, ha.trans ka⟩, ⟨hcmd, hrec⟩, (sameButLog_c same).trans kc, (sameButLog_m same).trans km,
    (sameButLog_tiles same).trans kt⟩

/-- What the core leaves, as the completion record counts it (R339, R356). -/
def leftTally (s : State) : Tally :=
  { cmdDrop := (s.t.asm.filter fun a => a.agent == s.hrole).length, recDrop := s.helper.frecs.length }

/-- The tile without it. -/
def leftDropped (s : State) : State :=
  { s with t := { s.t.resume s.helper.frecs with asm := s.t.asm.filter fun a => a.agent != s.hrole } }

theorem tally_helper (s : State) (n : Tally) : (s.tally s.t.vt n).helper = s.helper := by
  have hlash (t : Tile) (l : Lash) (b : Bool) : (if b then (if t.lash.role = 0 then t else { t with lash := l }).str
      else (if t.lash.role = 0 then t else { t with lash := l }).ldr) = if b then t.str else t.ldr := by
    by_cases hr : t.lash.role = 0
    · rw [if_pos hr]
    · rw [if_neg hr]
  unfold State.tally
  rw [mapTile_own]
  exact hlash ..

/-- A core with nothing posted stops: what it leaves is dropped and counted. -/
theorem stopHelper_of (h : s.helper.posted = []) :
    let t := stopHelper s
    t.helper = { s.helper with stopped := true, waiting := false, frecs := [], posted := [] } ∧
    t.t.asm = s.t.asm.filter (fun a => a.agent != s.hrole) ∧
    t.g = s.g.count { cmdDrop := (s.t.asm.filter fun a => a.agent == s.hrole).length, recDrop := s.helper.frecs.length } ∧
    t.c = s.c ∧ t.m = s.m ∧ t.tiles = s.tiles := by
  have hdrop : ((leftDropped s).tally s.t.vt (leftTally s)).helper = s.helper := tally_helper (leftDropped s) (leftTally s)
  have hstop : stopHelper s = ((leftDropped s).tally s.t.vt (leftTally s)).setHelper
      { ((leftDropped s).tally s.t.vt (leftTally s)).helper with stopped := true, waiting := false, frecs := [], posted := [] } := by
    unfold stopHelper
    dsimp only
    rw [h]
    rfl
  rw [hdrop] at hstop
  obtain ⟨hasm, hc, hg⟩ := tally_asm (leftDropped s) (leftTally s)
  obtain ⟨hm, ht, -⟩ := tally_own (leftDropped s) (leftTally s)
  obtain ⟨-, ka, kg, kc, km, kt⟩ := setHelper_rest ((leftDropped s).tally s.t.vt (leftTally s))
    { s.helper with stopped := true, waiting := false, frecs := [], posted := [] }
  dsimp only
  rw [hstop, setHelper_helper, ka, kg, kc, km, kt]
  exact ⟨rfl, hasm, hg, hc, hm, ht⟩

theorem ecallStopsTheCore : EcallStopsTheCore := by
  intro s
  rw [exec_ecall, execEcall]
  dsimp only
  refine ⟨fun hm => ?_, fun hm hx => ?_, fun hm hx hp => ?_⟩
  · rw [hm, if_neg (by simp), if_pos rfl, hFinish_trap]
  · rw [hm, if_neg fun h => hx h.2, if_neg (by decide), hFinish_trap]
  · obtain ⟨⟨hh, hrole, hasm⟩, ⟨hcmd, hrec⟩, hc, hmod, htiles⟩ := hRetire_keeps s (s.helper.pc + 4)
    obtain ⟨kh, ka, kg, kc, km, kt⟩ := stopHelper_of (s := hRetire s (s.helper.pc + 4)) (by rw [hh]; exact hp)
    rw [hm, if_pos ⟨rfl, hx⟩]
    refine ⟨stopHelper (hRetire s (s.helper.pc + 4)), rfl, ?_⟩
    rw [kh, ka, kg, kc, km, kt, hc, hmod, htiles, hasm, hrole, hh]
    exact ⟨rfl, rfl, rfl, rfl, rfl, rfl, rfl, congrArg (· + _) hcmd, congrArg (· + _) hrec, rfl, rfl, rfl⟩

end

/-- Settles O41. -/
theorem helperWordsActOnTheTile : Obligations.HelperWordsActOnTheTile :=
  ⟨helperStreamWords, helperEventWords, helperCommandsArePushed, helperRecordsAreSent, ecallStopsTheCore⟩

end Sys2Proof.Proofs
end

section
/-! The arrival of messages (O45). -/

namespace Sys2Proof.Proofs

open Sys2Proof Sys2Proof.Machine Sys2Proof.Safety Sys2Proof.Says Sys2Proof.Laws

/-- One unit for stream port 0 of context 0, without its carry code. -/
def spoiltUnit : Msg := { src := 0, c := 0, dst := 0, body := .stream 0 0 [7] }

/-- The unit has left the mesh. The tile holds two contexts of number 0: stream port 0 of the one in focus is empty, that of the other
holds a unit. -/
def twinStreams : State := { State.reset with t := { State.reset.t with others := [({} : Ctx).setStream 0 [5]] } }

/-- The unit is under way. -/
def twinArrival : State := { twinStreams with g := { twinStreams.g with mesh := [spoiltUnit] } }

/-- The units that the contexts out of focus hold as failed. -/
def failedUnits : Out3 → List (List (Nat × Nat))
  | .next t => t.t.others.map (·.qbad)
  | _ => []

/-- Each context marks the unit at the place that it takes in its own port. -/
theorem failedUnits_twinArrival : failedUnits (exec (.streamWindowWrite 0) twinArrival) = [[(0, 1)]] := by decide +kernel

/-- Refutes O45: its clause on stream units marks those that failed at the places of the first context of the number, but nothing in the
statement rules out a second one, whose port holds more. -/
theorem not_messagesArrive : ¬ Obligations.MessagesArrive := by
  unfold Obligations.MessagesArrive
  rintro ⟨h, -⟩
  obtain ⟨-, -, hstream⟩ := h twinArrival twinStreams 0 spoiltUnit rfl ⟨rfl, rfl, by decide⟩
  have he := hstream 0 0 [7] twinStreams.c rfl rfl rfl (by decide)
  have hf := failedUnits_twinArrival
  rw [he] at hf
  revert hf
  decide +kernel

end Sys2Proof.Proofs
end
